-- ==== Sys2Proof/Word.lean ====
section
/-! DEFINITION. The words of the machine and the sparse maps in which State keeps memories and tables. -/

namespace Sys2Proof

/-- A register word. -/
abbrev Word := BitVec 32
/-- One byte. -/
abbrev Byte := BitVec 8

/-- A sparse map from numbers: the listed keys rise strictly; an unlisted key reads as the map's default. -/
abbrev SMap (α : Type) := List (Nat × α)

namespace SMap

/-- The value at k, or the default d when k is not listed. -/
def get {α : Type} (d : α) : SMap α → Nat → α
  | [], _ => d
  | (i, v) :: m, k => if i = k then v else get d m k

/-- The value at k, if k is listed. -/
def look {α : Type} : SMap α → Nat → Option α
  | [], _ => none
  | (i, v) :: m, k => if i = k then some v else look m k

/-- Drops k. -/
def erase {α : Type} : SMap α → Nat → SMap α
  | [], _ => []
  | (i, v) :: m, k => if i = k then erase m k else (i, v) :: erase m k

/-- Lists k with v, in its place in the rising order. -/
def insert {α : Type} : SMap α → Nat → α → SMap α
  | [], k, v => [(k, v)]
  | (i, u) :: m, k, v =>
    if k < i then (k, v) :: (i, u) :: m
    else if k = i then (k, v) :: m
    else (i, u) :: insert m k v

/-- Stores v at k and keeps the canonical form: a key that reads as the default is not listed. -/
def put {α : Type} [DecidableEq α] (d : α) (m : SMap α) (k : Nat) (v : α) : SMap α :=
  if v = d then erase m k else insert m k v

/-- The canonical form: keys rise strictly and no entry equals the default. -/
def wf {α : Type} [DecidableEq α] (d : α) : SMap α → Bool
  | [] => true
  | [(_, v)] => v != d
  | (i, v) :: (j, u) :: m => v != d && decide (i < j) && wf d ((j, u) :: m)

end SMap

end Sys2Proof
end

