-- ==== Sys2Proof/Machine/Flags.lean ====
section
/-! DEFINITION. The sticky flags (R72, R76): each operation yields the set that it raises, and a step joins it to the
lane's flags. Which operations raise which flag is computed where the exact result is rounded (Float.lean). -/

namespace Sys2Proof.Machine

/-- The sticky flags in the bit order of R72. -/
abbrev FlagSet := BitVec 5

def FlagSet.invalid : FlagSet := 16
def FlagSet.divZero : FlagSet := 8
def FlagSet.overflow : FlagSet := 4
def FlagSet.underflow : FlagSet := 2
def FlagSet.inexact : FlagSet := 1

/-- A flag under a condition. -/
def FlagSet.when (c : Bool) (f : FlagSet) : FlagSet := if c then f else 0

/-- The flags after a step that raises a set: flags are only ever set (R76). -/
def FlagSet.join (old raised : FlagSet) : FlagSet := old ||| raised

end Sys2Proof.Machine
end

