-- ==== Sys2Proof/Operand.lean ====
section
/-! DEFINITION. Operand codes, lane-permutation patterns and the operand fields of the word layouts (R164, R167, R170). -/

namespace Sys2Proof

/-- An operand code (R74, R167): v0 to v239 (or s0 to s31 in class 5), the special codes 0xF0 to 0xF7, a latch. -/
inductive Opd where
  /-- v n; in class 5, s n. -/
  | reg (n : Fin 240)
  /-- the code 0xF0 + k of R74: z, lane index, group index, team index, cluster rank, clock, m1, reserved. -/
  | special (k : Fin 8)
  /-- latch Lk. -/
  | latch (k : Fin 8)
  deriving DecidableEq, Repr

/-- z, the operand that reads 0 and is the idle value of an operand byte (R74, R166). -/
abbrev Opd.z : Opd := .special 0

/-- The lane-permutation patterns of R170. -/
inductive PatKind where
  | own | broadcast | rotate | exclusiveOr
  deriving DecidableEq, Repr

/-- A pattern with its argument (R170). -/
structure Pat where
  kind : PatKind
  arg : BitVec 6
  deriving DecidableEq, Repr

/-- The pattern of an own-lane source: code 00, argument 0. -/
abbrev Pat.idle : Pat := ⟨.own, 0⟩

/-- The operand fields of word 0 (R164). -/
structure F1 where
  d : Opd
  a : Opd
  b : Opd
  deriving DecidableEq, Repr

/-- The operand fields of a two-word instruction (R164). -/
structure F2 where
  d : Opd
  a : Opd
  b : Opd
  c : Opd
  pa : Pat
  pb : Pat
  m : BitVec 8
  deriving DecidableEq, Repr

/-- How the host link trains at a cold reset: GT/s for each lane, and lanes (R104). -/
structure LinkUp where
  rate : Nat
  width : Nat
  deriving DecidableEq, Repr

/-- A doubleword of a PCIe function's configuration space: the function and the doubleword's byte offset (R105). -/
structure ConfigAt where
  fn : Nat
  off : Nat
  deriving DecidableEq, Repr

/-- A world's SPDM connection and the version byte of a request on it (R54). -/
structure SpdmFrom where
  world : Nat
  version : BitVec 8
  deriving DecidableEq, Repr

/-- A UALink request outstanding: the world that asks and its tag (R115, R116). -/
structure PeerTag where
  world : Nat
  tag : BitVec 16
  deriving DecidableEq, Repr

end Sys2Proof
end

