-- ==== Sys2Proof/Syntax.lean ====
section
/-! DEFINITION. The instruction syntax: operand codes, word fields and the one inductive Instr, one constructor for each
row of the opcode table. Rows with an encoding carry the fields of R164 or R172; rows without one (operations and
events) carry what names the occurrence. -/

namespace Sys2Proof

/-- One constructor per row of spec/opcode_table.json. -/
inductive Instr where
  /-- CREATE (R34). Slice command that checks the node, draws and installs the slice key, marks pages fresh, sets L2 ways, Palette slots and segment tables, and starts the template copy. Carries: the SLC_CMD word written with GO = 1. -/
  | create (cmd : BitVec 32)
  /-- SLICE_READY (R32). The last step of CREATE completes once the template copy has ended: the slice becomes READY and SLICE_READY is posted to world 0. Carries: c: control core. -/
  | sliceReady (c : Nat)
  /-- TEMPLATE_TIMEOUT (R34). The template is still not loaded 49 ms into CREATE: status TEMPLATE, keys discarded, slice EMPTY. Carries: c: control core. -/
  | templateTimeout (c : Nat)
  /-- DESTROY (R499). Slice command that ends all work, takes final metering cuts, detaches every world, discards keys and frees calendar slots. Carries: the SLC_CMD word. -/
  | destroy (cmd : BitVec 32)
  /-- DESTROYING_DONE (R32). A DESTROY completes: the slice becomes EMPTY and its Palette slots belong to nobody. Carries: c: control core. -/
  | destroyingDone (c : Nat)
  /-- MERGE (R38). Slice command that joins two READY child slices into their parent, moving control programs, events, queues and world regions. Carries: the SLC_CMD word. -/
  | merge (cmd : BitVec 32)
  /-- SPLIT (R39). Slice command that stops placement, pre-empts moved teams, writes back L2 lines, divides the calendars and starts the second child's control core. Carries: the SLC_CMD word. -/
  | split (cmd : BitVec 32)
  /-- SPLIT_TIMEOUT (R39). A team to be moved is still unsaved 40 ms after SPLIT began: status TIMEOUT, the slice stays whole and saved teams become placeable. Carries: c: control core. -/
  | splitTimeout (c : Nat)
  /-- ATTACH (R31). Slice command that gives a FREE world a position, a region, masks and a new key, marks its region fresh or adopts the template area. Carries: the SLC_CMD word. -/
  | attach (cmd : BitVec 32)
  /-- DETACH (R33). Slice command that discards the world key, invalidates the world's L2 lines and returns the world to FREE. Carries: the SLC_CMD word. -/
  | detach (cmd : BitVec 32)
  /-- QUIESCE (R33). Slice command that stops a RUNNING world's teams at safe points, saves them and stops its control program. Carries: the SLC_CMD word. -/
  | quiesce (cmd : BitVec 32)
  /-- RESUME (R511). Slice command that returns a QUIESCED world to RUNNING or ATTACHED according to WLD_CTL.EN. Carries: the SLC_CMD word. -/
  | resume (cmd : BitVec 32)
  /-- RESET (R44). Slice command with WORLD = 0 that ends all work, empties queues, draws new keys, marks every page fresh and reloads the template. Carries: the SLC_CMD word, WORLD = 0. -/
  | reset (cmd : BitVec 32)
  /-- WORLD_RESET (R33). RESET with WORLD = w: all the world's work ends and the world enters RESETTING. Carries: the SLC_CMD word, WORLD from 1. -/
  | worldReset (cmd : BitVec 32)
  /-- RESETTING_DONE (R33). A world reset completes: new world key, region fresh, WLD_CTL.EN = 0, world ATTACHED. Carries: w: world. -/
  | resettingDone (w : Nat)
  /-- COMMAND_DONE (R49). A running slice command ends: SLC_CMDSTAT records status and elapsed time, GO clears and vector 0 of world 0 is signalled. -/
  | commandDone
  /-- FATAL_SLICE_ERROR (R43). An uncorrectable error in hub slice state or a slice firmware failure takes the slice to FAILED and ends its teams. Carries: cause as SLC_STATE.CAUSE. -/
  | fatalSliceError (c : Nat) (cause : BitVec 4)
  /-- FUNCTION_LEVEL_RESET (R33). A function level reset of a world starts a world reset, held while a slice command or activation runs. Carries: w: world. -/
  | functionLevelReset (w : Nat)
  /-- WLD_CTL_EN_SET (R33). A write setting WLD_CTL.EN moves the world to RUNNING, reads its translation context and starts its control program. Carries: a write of WLD_CTL with EN = 1. -/
  | wldCtlEnSet (w : Nat)
  /-- WLD_CTL_EN_CLEAR (R126). A write clearing WLD_CTL.EN moves the world to ATTACHED and stops its control program between instructions. Carries: a write of WLD_CTL with EN = 0. -/
  | wldCtlEnClear (w : Nat)
  /-- COLD_RESET (R65). Cold reset runs the boot sequence: ROM key derivation, image checks, HBM training and link training within 900 ms. Carries: link: how the host link trains. -/
  | coldReset (link : LinkUp)
  /-- CONFIGURATION_REQUEST (R65). A host configuration request, answered with Retry Status until bring-up completes. Carries: reg: a PCIe function and a doubleword of its configuration space. -/
  | configurationRequest (reg : ConfigAt)
  /-- STAGE (R61). FWA_CMD operation that copies a firmware image into the inactive flash bank and checks it. Carries: the FWA_CMD word. -/
  | stage (cmd : BitVec 32)
  /-- ACTIVATE (R61). FWA_CMD operation that live-activates a staged SEC, REL or SLICE image while work keeps running. Carries: the FWA_CMD word. -/
  | activate (cmd : BitVec 32)
  /-- DISCARD (R64). FWA_CMD operation that discards the staged image. Carries: the FWA_CMD word. -/
  | discard (cmd : BitVec 32)
  /-- ACTIVATION_DONE (R58). A live activation completes: the activation counter advances, the Alias key is rederived and held commands run in arrival order. -/
  | activationDone
  /-- GET_VERSION (R55). SPDM request for supported versions on a world's DOE mailbox. Carries: w: world whose DOE mailbox is used. -/
  | getVersion (w : Nat)
  /-- GET_CAPABILITIES (R55). SPDM request for responder capabilities. Carries: w: the world, with the SPDM version of the request. -/
  | getCapabilities (w : SpdmFrom)
  /-- NEGOTIATE_ALGORITHMS (R56). SPDM request that fixes the hash, DHE, AEAD and ExtAsym signature algorithms. Carries: ext: the requester selects the ExtAsym algorithm. -/
  | negotiateAlgorithms (w : Nat) (ext : Bool)
  /-- GET_DIGESTS (R55). SPDM request for the slot 0 certificate chain digest. Carries: w: world. -/
  | getDigests (w : Nat)
  /-- GET_CERTIFICATE (R55). SPDM request for the slot 0 certificate chain. Carries: slot, offset and length asked for. -/
  | getCertificate (w slot off len : Nat)
  /-- CHALLENGE (R55). SPDM challenge answered under the Alias key. Carries: slot asked for. -/
  | challenge (w slot : Nat)
  /-- GET_MEASUREMENTS (R57). SPDM request for measurement indices 1 to 8, signed or unsigned. Carries: idx: measurement index; sign: signature asked for. -/
  | getMeasurements (w idx : Nat) (sign : Bool)
  /-- KEY_EXCHANGE (R55). SPDM request opening a session, at most 2 per world. Carries: slot asked for. -/
  | keyExchange (w slot : Nat)
  /-- FINISH (R55). SPDM request completing session establishment. Carries: sess: session number. -/
  | finish (w sess : Nat)
  /-- END_SESSION (R55). SPDM request ending a session; ending the locking session sends the TDI to ERROR. Carries: sess: session number. -/
  | endSession (w sess : Nat)
  /-- KEY_UPDATE (R55). SPDM request updating session keys. Carries: sess: session number. -/
  | keyUpdate (w sess : Nat)
  /-- RESPOND_IF_READY (R62). SPDM request that retrieves a deferred response, or receives ResponseNotReady again during activation. Carries: code: the deferred request. -/
  | respondIfReady (w token : Nat) (code : BitVec 8)
  /-- LOCK_INTERFACE_REQUEST (R59). TDISP message moving the TDI to CONFIG_LOCKED and freezing measurements 7 and 8. Carries: sess: session that carries the message. -/
  | lockInterfaceRequest (w sess : Nat)
  /-- START_INTERFACE_REQUEST (R59). TDISP message moving the TDI to RUN. Carries: sess: session. -/
  | startInterfaceRequest (w sess : Nat)
  /-- STOP_INTERFACE_REQUEST (R59). TDISP message ending the world's work, marking its region fresh, drawing a new key and unlocking the TDI. Carries: sess: session. -/
  | stopInterfaceRequest (w sess : Nat)
  /-- CHKEY (R359). Vendor-defined request that keys a bounce channel from the session, zeroes its counters and makes it LIVE. Carries: ch: byte 1 of the payload. -/
  | chkey (w sess ch : Nat)
  /-- CHSTATUS (R359). Vendor-defined request returning a bounce channel's state and counters. Carries: ch: byte 1 of the payload. -/
  | chstatus (w sess ch : Nat)
  /-- FREEZE_READOUT (R470). Management port read of the signed dump image of a frozen package. -/
  | freezeReadout
  /-- LIFETIME_COUNTER_READ (R468). Management port read of a lifetime counter by index. Carries: idx: counter index. -/
  | lifetimeCounterRead (idx : Nat)
  /-- POWER_TELEMETRY (R66). Management port read of power telemetry. -/
  | powerTelemetry
  /-- FIRMWARE_STAGING (R66). Management port firmware staging, equivalent to STAGE. Carries: as STAGE. -/
  | firmwareStaging (image : BitVec 4) (addr : BitVec 64) (size : BitVec 32)
  /-- FREEZE (R469). A write of 0x0000_A501 to FRZ_CMD stops every clock except the management port and the secure clock. Carries: the value written to FRZ_CMD. -/
  | freeze (v : BitVec 32)
  /-- FREEZE_N (R469). Assertion of the FREEZE_N pin, when fused enabled, freezes the package. -/
  | freezeN
  /-- COUNTER_COMMIT (R468). Every 600 s the security processor commits lifetime counters and the secure clock to non-volatile store. -/
  | counterCommit
  /-- POWER_DOWN (R494). An orderly power-down commits the lifetime counters and the secure clock. -/
  | powerDown
  /-- ATS_INVALIDATION (R109). An ATS invalidation request discards cached host translations and completes within 1 ms. Carries: 4 KiB host pages page to page + count - 1. -/
  | atsInvalidation (w page count : Nat)
  /-- PRG_RESPONSE (R110). A PRI Page Request Group response: Success starts the replay of parked faults, other codes make them unserviceable. Carries: vpage: 64 KiB VA page; ok: response code Success. -/
  | prgResponse (w vpage : Nat) (ok : Bool)
  /-- HDM_READ (R107). A host CXL.mem read through an HDM decoder acting with the region's world tag. Carries: host physical address. -/
  | hdmRead (addr len : Nat)
  /-- HDM_WRITE (R107). A host CXL.mem write through an HDM decoder; dropped while the world's TDI is locked. Carries: host physical address. -/
  | hdmWrite (addr : Nat) (bytes : List (BitVec 8))
  /-- HDM_DECODER_COMMIT (R107). World 0 commits an HDM decoder; a range leaving the world's region is refused. Carries: decoder k maps host base, size, onto offset roff of world w's region. -/
  | hdmDecoderCommit (k base size w roff : Nat)
  /-- HOST_SNOOP (R106). A CXL.cache snoop from the host, answered without waiting on any lane. Carries: the host writes the line's bytes (none: it only reads). -/
  | hostSnoop (addr : Nat) (bytes : List (BitVec 8))
  /-- UALINK_INBOUND_READ (R114). An inbound UALink read, accepted only for a matching valid routing entry. Carries: requester, target, address. -/
  | ualinkInboundRead (station snode sworld node world wpa len : Nat)
  /-- UALINK_INBOUND_WRITE (R114). An inbound UALink write, accepted only for a matching valid routing entry. Carries: requester, target, address, data. -/
  | ualinkInboundWrite (station snode sworld node world wpa : Nat) (bytes : List (BitVec 8))
  /-- UALINK_INBOUND_ATOMIC (R116). An inbound UALink atomic, deduplicated against the requester's last 4,096 tags. Carries: op 0 to 15 as R319; 16, 17: CAS of 32, 64 bits. -/
  | ualinkInboundAtomic (station snode sworld node world wpa : Nat) (tag : BitVec 16) (op : Nat) (b cnew : BitVec 64)
  /-- UALINK_RESPONSE (R115). The response to an outstanding remote request completes it. Carries: the requesting world, and the tag of its outstanding request. -/
  | ualinkResponse (tag : PeerTag) (mismatch : Bool) (bytes : List (BitVec 8))
  /-- REQUEST_TIMEOUT (R115). A remote request receives no response within 2 ms and completes INDETERMINATE. Carries: the requesting world, and the tag of its outstanding request. -/
  | requestTimeout (tag : PeerTag)
  /-- UAL_STATION_WRITE (R113). Write of the UALink station number, ignored while any slice is not EMPTY. Carries: PF BAR0 0x0040. -/
  | ualStationWrite (v : BitVec 32)
  /-- ROUTING_ENTRY_WRITE (R112). Write of a UALink routing entry; an illegal PORTS stores VALID as 0. Carries: table of control core c, entry n. -/
  | routingEntryWrite (c n : Nat) (v : BitVec 64)
  /-- SEGMENT_WRITE (R310). Write of a world segment; an illegal kind or reach leaves VALID at 0, ignored while the TDI is locked. Carries: segment i of world w. -/
  | segmentWrite (w i : Nat) (v : BitVec 128)
  /-- WLD_TCTX_WRITE (R311). Write of the world's translation context address, ignored while EN = 1. Carries: w: world. -/
  | wldTctxWrite (w : Nat) (v : BitVec 64)
  /-- WLD_RBASE_WRITE (R120). Write of a ring's base and size, resetting head and tail; ignored while EN = 1. Carries: ring r. -/
  | wldRbaseWrite (w r : Nat) (v : BitVec 64)
  /-- WLD_CPROG_WRITE (R120). Write of the control program selection, ignored while EN = 1. Carries: w: world. -/
  | wldCprogWrite (w : Nat) (v : BitVec 64)
  /-- WLD_NOTIFY_WRITE (R121). A notify write proposing a new ring tail, accepted or ignored with BADNOTIFY; acts as a host release. Carries: ring r. -/
  | wldNotifyWrite (w r : Nat) (v : BitVec 32)
  /-- SLC_AGE_LIMIT_WRITE (R145). Write of the back-fill limit, creating a decision point. Carries: c: control core. -/
  | slcAgeLimitWrite (c : Nat) (v : BitVec 32)
  /-- SLC_LEND_WRITE (R152). Write of the lending bits, each set only for a READY or BUSY slice of the same owner group. Carries: c: control core. -/
  | slcLendWrite (c : Nat) (v : BitVec 32)
  /-- SLC_QUANTUM_WRITE (R457). Write of the world-switch quantum, clamped to 1,000 ms. Carries: c: control core. -/
  | slcQuantumWrite (c : Nat) (v : BitVec 32)
  /-- KEY_ROT_START (R362). Writing START of KEY_ROT has the slice firmware issue KEYOP 0x03 with B = 0. Carries: KEY_ROT written with START = 1. -/
  | keyRotStart (w : Nat)
  /-- KEY_TAGBASE_WRITE (R362). Write of the sealed-tag region base and VALID; ignored while locked, BUSY while tracking. Carries: w: world. -/
  | keyTagbaseWrite (w : Nat) (v : BitVec 64)
  /-- REL_STAT_WRITE (R466). Writing 1 to REL_STAT.OVF clears OVF and LOST. Carries: PF BAR0 0x7_C010. -/
  | relStatWrite (v : BitVec 32)
  /-- MET_PERIOD_WRITE (R493). Write of the metering period, ignored out of range, effective at the next boundary. Carries: PF BAR0 0x6_8014. -/
  | metPeriodWrite (v : BitVec 32)
  /-- REGISTER_WRITE (R9). A write to any register that has no row of its own, storing RW fields and ignoring RSV fields. Carries: fn: 0 for PF BAR0, w for VF w BAR0; width in bits. -/
  | registerWrite (fn off width : Nat) (v : BitVec 64)
  /-- TRACK (R472). Migration command that sets dirty bits for every non-fresh page and turns tracking on. Carries: w: world. -/
  | track (w : Nat)
  /-- HARVEST (R473). Migration command that writes and clears the dirty bitmap at one cut. Carries: w: world. -/
  | harvest (w : Nat)
  /-- EXPORT (R474). Migration command that quiesces the world, drops inbound writes and writes the export image. Carries: w: world. -/
  | exportWorld (w : Nat)
  /-- EXPORT_TIMEOUT (R474). A save is unfinished 40 ms after EXPORT began: status TIMEOUT, no image written. Carries: w: world. -/
  | exportTimeout (w : Nat)
  /-- IMPORT (R476). Migration command that restores an export image into an ATTACHED world and posts MIGRATE_DONE. Carries: w: world. -/
  | importWorld (w : Nat)
  /-- UNTRACK (R472). Migration command that clears every dirty bit and turns tracking off. Carries: w: world. -/
  | untrack (w : Nat)
  /-- DECISION_STEP (R144). At each decision point the dispatcher places a returning head, the blocked head or a back-fill cluster. Carries: c: control core of the slice. -/
  | decisionStep (c : Nat)
  /-- LAUNCH_COMPLETE (R134). A launch whose teams retired and stores released completes when its event enters the event queue. Carries: l: launch. -/
  | launchComplete (l : Nat)
  /-- TURN_END (R127). A control program's turn ends after 4,096 retired instructions and the next program is loaded. Carries: c: control core. -/
  | turnEnd (c : Nat)
  /-- CLAUSE_FETCH (R156). A core fetches and checks a whole clause before it issues, raising fetch faults at the header. Carries: core, team and header address. -/
  | clauseFetch (core t : Nat) (hdr : Nat)
  /-- STALL_END (R158). The header's STALL cycles elapse and the gang's first instruction may issue. Carries: gang g of the core. -/
  | stallEnd (core g : Nat)
  /-- GROUP_SWAP (R203). A swappable active group is exchanged with the oldest pending group that has a READY lane. Carries: active slot. -/
  | groupSwap (core slot : Nat)
  /-- PROGRESS_OVERRIDE (R210). Counter C reaches 1,024 and the picker issues only the progress lane's gang. Carries: core. -/
  | progressOverride (core : Nat)
  /-- JOIN_TIMEOUT (R213). A lane in JOIN becomes READY 64 cycles after its arrival. Carries: lane-in-team of team t. -/
  | joinTimeout (t lit : Nat)
  /-- MWAIT_TIMEOUT (R279). An MWAIT lane's timeout elapses: D := 1 and the lane leaves MWAIT. Carries: lane-in-team of team t. -/
  | mwaitTimeout (t lit : Nat)
  /-- QUANTUM_EXPIRY (R456). A world's quantum ends: it becomes ineligible, its clusters are saved and the next world becomes eligible. Carries: c: control core. -/
  | quantumExpiry (c : Nat)
  /-- CONTEXT_SAVE (R441). Once every lane and sequencer of a team has stopped and copies have drained, the context is written and the team leaves its cores. Carries: team t. -/
  | contextSave (t : Nat)
  /-- ROLLBACK (R463). Fault 0x0A or 0x0B in a guarded team restores the undo log and the snapshot, or ends the team. Carries: team t. -/
  | rollback (t : Nat)
  /-- VARNISH_RELEASE (R427). A retired team of an ordered launch whose predecessor is released has its staged entries written out in order. Carries: launch l. -/
  | varnishRelease (l : Nat)
  /-- REPLY_RETRY (R316). The device observes RETRY in a record's REPLY byte and replays the parked accesses. Carries: record of world w. -/
  | replyRetry (w : Nat) (seq : BitVec 32)
  /-- REPLY_FAIL (R316). The device observes FAIL in a record's REPLY byte and the parked fault becomes fatal. Carries: record of world w. -/
  | replyFail (w : Nat) (seq : BitVec 32)
  /-- COPY_PIECE_COMPLETE (R341). A piece of a copy command ends; when all issued pieces have ended the token becomes DONE or FAULTED. Carries: piece p of command k. -/
  | copyPieceComplete (k p : Nat)
  /-- PASS_GRANT (R374). The arbiter grants the head of one team's reservation queue to the matrix engine. Carries: q: quad. -/
  | passGrant (q : Nat)
  /-- PASS_COMPLETE (R375). A pass completes, frees its entry and lets held sequencer arrivals count. Carries: q: quad. -/
  | passComplete (q : Nat)
  /-- ENTRY_AGE (R374). A reservation entry that has waited 65,536 cycles counts as PRIO 0. Carries: entry e of quad q. -/
  | entryAge (q e : Nat)
  /-- ROTATION_STEP (R358). The key rotation engine re-encrypts unit P under the new key and advances the boundary. Carries: w: world. -/
  | rotationStep (w : Nat)
  /-- CORRECTED_ERROR (R458). ECC corrects an error; a CORRECTED record is merged over 1 ms. Carries: unit, location, address, syndrome. -/
  | correctedError (unit loc : Nat) (addr : BitVec 64) (syn : BitVec 32)
  /-- UNCORRECTABLE_ERROR (R458). ECC detects an uncorrectable error and marks the granule poisoned or invalidates a clean copy. Carries: kind: row of R458's table; location; address; syndrome. -/
  | uncorrectableError (kind loc : Nat) (addr : BitVec 64) (syn : BitVec 32)
  /-- PERIOD_BOUNDARY (R495). At each multiple of PERIOD a cut is taken and a signed Decfitik record is emitted or held per world. -/
  | periodBoundary
  /-- CALENDAR_SWITCH (R148). At the first frame boundary after a staged rewrite, every changed Palette calendar switches owners. -/
  | calendarSwitch
  /-- HALT_GROUP (R481). Debug command halting every lane of the selected group. Carries: debug block of world w. -/
  | haltGroup (w : Nat)
  /-- RESUME_GROUP (R482). Debug command resuming the halted lanes of the selected group. Carries: debug block of world w. -/
  | resumeGroup (w : Nat)
  /-- STEP_GROUP (R484). Debug command executing one step in each halted lane of the group. Carries: debug block of world w. -/
  | stepGroup (w : Nat)
  /-- HALT_TEAM (R481). Debug command halting every lane and the sequencer of the target team. Carries: debug block of world w. -/
  | haltTeam (w : Nat)
  /-- RESUME_TEAM (R482). Debug command resuming the halted lanes and sequencer of the team. Carries: debug block of world w. -/
  | resumeTeam (w : Nat)
  /-- DBG_REPORT (R481). A HALT or STEP completes or a caught fault halts lanes, and a report is written to the mailbox. Carries: debug block of world w. -/
  | dbgReport (w : Nat)
  /-- DBG_STAT_WRITE (R481). Clearing NEW or ERR in DBG_STAT releases a held report. Carries: debug block of world w. -/
  | dbgStatWrite (w : Nat) (v : BitVec 64)
  /-- DBG_RDATA_READ (R486). SREAD of DBG_RDATA returns the selected register or latch of a halted lane. Carries: debug block of world w. -/
  | dbgRdataRead (w : Nat)
  /-- DBG_RDATA_WRITE (R486). SWRITE of DBG_RDATA stores into the selected register or latch of a halted lane. Carries: debug block of world w. -/
  | dbgRdataWrite (w : Nat) (v : BitVec 64)
  /-- DBG_WP_WRITE (R485). Write of a watchpoint register; KIND 3 sets ERR and clears EN. Carries: watchpoint n. -/
  | dbgWpWrite (w n : Nat) (v : BitVec 64)
  /-- STAGE_DONE (R61). A firmware STAGE finishes copying and checking the image into the inactive bank, and FWA_STAT records DONE, SIGNATURE or VERSION. Carries: whether the staging is one of the management port. -/
  | stageDone (port : Bool)
  /-- MIGRATION_COMMAND_DONE (R471). A running migration command ends: WLD_MIGSTAT records status and elapsed time, GO clears and vector 0 of world 0 is signalled. Carries: w: world. -/
  | migrationCommandDone (w : Nat)
  /-- BADCMD (R48). A write with GO = 1 to SLC_CMD, FWA_CMD or WLD_MIGCMD whose OP names no command ends with status BADCMD. Carries: reg: 0 SLC_CMD, 1 FWA_CMD, 2 WLD_MIGCMD of world w. -/
  | badcmd (reg w : Nat) (v : BitVec 32)
  /-- UNASSIGNED_OPCODE (R178). An instruction word whose opcode is unassigned in its class raises fault 0x06 at that instruction. Carries: the opcode met. -/
  | unassignedOpcode (op : BitVec 8)
  /-- SPDM_UNSUPPORTED_REQUEST (R55). An SPDM request code that the device does not support, or a vendor-defined payload it does not know, is answered with an ERROR. Carries: code 0xFE: a vendor-defined payload that is not known. -/
  | spdmUnsupportedRequest (w : Nat) (code : BitVec 8)
  /-- GET_DEVICE_INTERFACE_REPORT (R59). The TDISP request for the device interface report returns the world's BAR0 block, world number and slice node. Carries: sess: session. -/
  | getDeviceInterfaceReport (w sess : Nat)
  /-- IDE_KM (R111). IDE_KM messages in world 0's SPDM session key the link and selective IDE streams. Carries: stream 0 the link stream, 1 to 16 selective, bound to world. -/
  | ideKm (stream world : Nat) (go : Bool)
  /-- FQ_HEAD_WRITE (R315). The guest driver advances FQ_HEAD in a full fault queue, and a replayable fault parked for want of space writes its record. Carries: the guest driver's FQ_HEAD. -/
  | fqHeadWrite (w : Nat) (v : BitVec 32)
  /-- LINE_EVICTION (R302). A cache line is evicted at a moment the device chooses, which removes L1 data, writes back dirty L2 data and may wake an MWAIT spuriously. Carries: core below 128: L1 line; 128: L2 line; line address div 128. -/
  | lineEviction (core : Nat) (line : Nat)
  /-- POWER_LOSS (R468). Power is lost without an orderly power-down, so the uncommitted lifetime counts and clock progress are lost and every usage chain ends. -/
  | powerLoss
  /-- CORRECTED_MERGE_END (R467). The 1 ms merge window of CORRECTED errors of one unit and location ends, and one record with COUNT is written. Carries: unit and location. -/
  | correctedMergeEnd (unit loc : Nat)
  /-- SENSOR_HOUR (R468). Each hour of operation adds one to the temperature and core-supply bin counters that the sensors select. Carries: temperature and core-supply bins. -/
  | sensorHour (tbin vbin : Nat)
  /-- NOP (R228). Does nothing but occupy an issue slot. -/
  | nop (f : F1)
  /-- NOP_W2 (R228). Two-word no operation. -/
  | nopW2 (f : F2)
  /-- REP (R229). Repeats the next instruction of the clause COUNT times with stepped operands. -/
  | rep (count : BitVec 6) (sd sa sb sc : Bool) (stride : BitVec 2)
  /-- MOV (R230). Copies a 32-bit operand. -/
  | mov (f : F1)
  /-- MOV_W2 (R230). Copies 32, 64 or 128 bits, with a pattern on A. -/
  | movW2 (f : F2)
  /-- MOVI (R231). Writes a sign-extended 16-bit literal. -/
  | movi (d : Opd) (imm : BitVec 16)
  /-- MOVI_W2 (R231). Writes the 32-bit literal of word 1. -/
  | moviW2 (d : Opd) (imm : BitVec 32)
  /-- RGET (R232). Reads the register whose index A gives. -/
  | rget (f : F1)
  /-- RGET_W2 (R232). Two-word form of RGET. -/
  | rgetW2 (f : F2)
  /-- RPUT (R232). Writes B to the register whose index A gives. -/
  | rput (f : F1)
  /-- RPUT_W2 (R232). Two-word form of RPUT. -/
  | rputW2 (f : F2)
  /-- IADD (R233). 32-bit integer add. -/
  | iadd (f : F1)
  /-- IADD_W2 (R233). Integer add with U and SAT. -/
  | iaddW2 (f : F2)
  /-- ISUB (R233). 32-bit integer subtract. -/
  | isub (f : F1)
  /-- ISUB_W2 (R233). Integer subtract with U and SAT. -/
  | isubW2 (f : F2)
  /-- IADD3 (R233). Three-operand integer add. -/
  | iadd3 (f : F2)
  /-- IADDCO (R234). Add with carry into a 64-bit pair. -/
  | iaddco (f : F2)
  /-- IMUL (R233). 32-bit integer multiply. -/
  | imul (f : F1)
  /-- IMUL_W2 (R233). Integer multiply with U and SAT. -/
  | imulW2 (f : F2)
  /-- IMULHI (R233). High word of a 32-bit product. -/
  | imulhi (f : F1)
  /-- IMULHI_W2 (R233). High product word with U. -/
  | imulhiW2 (f : F2)
  /-- IMAD (R233). Integer multiply-add. -/
  | imad (f : F2)
  /-- IMADWIDE (R235). Multiply-add into a 64-bit pair. -/
  | imadwide (f : F2)
  /-- IMIN (R233). Integer minimum. -/
  | imin (f : F1)
  /-- IMIN_W2 (R233). Integer minimum with U. -/
  | iminW2 (f : F2)
  /-- IMAX (R233). Integer maximum. -/
  | imax (f : F1)
  /-- IMAX_W2 (R233). Integer maximum with U. -/
  | imaxW2 (f : F2)
  /-- IABS (R233). Integer absolute value. -/
  | iabs (f : F1)
  /-- IABS_W2 (R233). Integer absolute value with SAT. -/
  | iabsW2 (f : F2)
  /-- ICMP (R236). Integer compare for equality, writing a mask. -/
  | icmp (f : F1)
  /-- ICMP_W2 (R236). Integer compare under COND and U. -/
  | icmpW2 (f : F2)
  /-- SEL (R233). Selects A or B by C. -/
  | sel (f : F2)
  /-- AND (R237). Bitwise and. -/
  | and (f : F1)
  /-- AND_W2 (R237). Two-word bitwise and. -/
  | andW2 (f : F2)
  /-- OR (R237). Bitwise or. -/
  | or (f : F1)
  /-- OR_W2 (R237). Two-word bitwise or. -/
  | orW2 (f : F2)
  /-- XOR (R237). Bitwise exclusive or. -/
  | xor (f : F1)
  /-- XOR_W2 (R237). Two-word bitwise exclusive or. -/
  | xorW2 (f : F2)
  /-- ANDN (R237). A and not B. -/
  | andn (f : F1)
  /-- ANDN_W2 (R237). Two-word and-not. -/
  | andnW2 (f : F2)
  /-- NOT (R237). Bitwise not. -/
  | not (f : F1)
  /-- NOT_W2 (R237). Two-word bitwise not. -/
  | notW2 (f : F2)
  /-- LOP3 (R237). Three-input logic by lookup table. -/
  | lop3 (f : F2)
  /-- SHL (R238). Shift left. -/
  | shl (f : F1)
  /-- SHL_W2 (R238). Shift left with WRAP. -/
  | shlW2 (f : F2)
  /-- SHR (R238). Logical shift right. -/
  | shr (f : F1)
  /-- SHR_W2 (R238). Logical shift right with WRAP. -/
  | shrW2 (f : F2)
  /-- SAR (R238). Arithmetic shift right. -/
  | sar (f : F1)
  /-- SAR_W2 (R238). Arithmetic shift right with WRAP. -/
  | sarW2 (f : F2)
  /-- ROTL (R238). Rotate left. -/
  | rotl (f : F1)
  /-- ROTL_W2 (R238). Two-word rotate left. -/
  | rotlW2 (f : F2)
  /-- FUNNEL (R239). Funnel shift of a 64-bit pair of words. -/
  | funnel (f : F2)
  /-- BFX (R240). Bit-field extract. -/
  | bfx (f : F1)
  /-- BFX_W2 (R240). Bit-field extract with U. -/
  | bfxW2 (f : F2)
  /-- BFI (R240). Bit-field insert. -/
  | bfi (f : F2)
  /-- POPC (R241). Population count. -/
  | popc (f : F1)
  /-- POPC_W2 (R241). Two-word population count. -/
  | popcW2 (f : F2)
  /-- CLZ (R241). Count leading zeros. -/
  | clz (f : F1)
  /-- CLZ_W2 (R241). Two-word count leading zeros. -/
  | clzW2 (f : F2)
  /-- CTZ (R241). Count trailing zeros. -/
  | ctz (f : F1)
  /-- CTZ_W2 (R241). Two-word count trailing zeros. -/
  | ctzW2 (f : F2)
  /-- BREV (R241). Bit reversal. -/
  | brev (f : F1)
  /-- BREV_W2 (R241). Two-word bit reversal. -/
  | brevW2 (f : F2)
  /-- BZIP2 (R242). Interleaves two coordinates. -/
  | bzip2 (f : F1)
  /-- BZIP2_W2 (R242). Two-word BZIP2. -/
  | bzip2W2 (f : F2)
  /-- BZIP3 (R242). Interleaves three coordinates, C = z. -/
  | bzip3 (f : F1)
  /-- BZIP3_W2 (R242). Interleaves three coordinates with C. -/
  | bzip3W2 (f : F2)
  /-- BUNZIP2 (R242). De-interleaves one of two coordinates. -/
  | bunzip2 (f : F1)
  /-- BUNZIP2_W2 (R242). BUNZIP2 with K. -/
  | bunzip2W2 (f : F2)
  /-- BUNZIP3 (R242). De-interleaves one of three coordinates. -/
  | bunzip3 (f : F1)
  /-- BUNZIP3_W2 (R242). BUNZIP3 with K. -/
  | bunzip3W2 (f : F2)
  /-- BYTEPERM (R243). Byte selection, C = z. -/
  | byteperm (f : F1)
  /-- BYTEPERM_W2 (R243). Byte selection from A and C. -/
  | bytepermW2 (f : F2)
  /-- IADD64 (R244). 64-bit integer add. -/
  | iadd64 (f : F1)
  /-- IADD64_W2 (R244). 64-bit add with U and SAT. -/
  | iadd64W2 (f : F2)
  /-- SHL64 (R244). 64-bit shift left. -/
  | shl64 (f : F1)
  /-- SHL64_W2 (R244). 64-bit shift left with WRAP. -/
  | shl64W2 (f : F2)
  /-- SHR64 (R244). 64-bit logical shift right. -/
  | shr64 (f : F1)
  /-- SHR64_W2 (R244). 64-bit shift right with ARITH and WRAP. -/
  | shr64W2 (f : F2)
  /-- LEA (R245). 64-bit base plus signed index. -/
  | lea (f : F1)
  /-- LEA_W2 (R245). LEA with SCALE and U. -/
  | leaW2 (f : F2)
  /-- FADD (R252). f32 add, round to nearest. -/
  | fadd (f : F1)
  /-- FADD_W2 (R252). f32 add with MODE and SAT. -/
  | faddW2 (f : F2)
  /-- FSUB (R252). f32 subtract. -/
  | fsub (f : F1)
  /-- FSUB_W2 (R252). f32 subtract with MODE and SAT. -/
  | fsubW2 (f : F2)
  /-- FMUL (R252). f32 multiply. -/
  | fmul (f : F1)
  /-- FMUL_W2 (R252). f32 multiply with MODE and SAT. -/
  | fmulW2 (f : F2)
  /-- FFMA (R252). f32 fused multiply-add. -/
  | ffma (f : F2)
  /-- FMIN (R253). f32 minimum. -/
  | fmin (f : F1)
  /-- FMIN_W2 (R253). Two-word f32 minimum. -/
  | fminW2 (f : F2)
  /-- FMAX (R253). f32 maximum. -/
  | fmax (f : F1)
  /-- FMAX_W2 (R253). Two-word f32 maximum. -/
  | fmaxW2 (f : F2)
  /-- FCMP (R254). f32 compare for equality. -/
  | fcmp (f : F1)
  /-- FCMP_W2 (R254). f32 compare under COND. -/
  | fcmpW2 (f : F2)
  /-- FCLASS (R255). Classifies an f32 code. -/
  | fclass (f : F1)
  /-- FCLASS_W2 (R255). Two-word FCLASS. -/
  | fclassW2 (f : F2)
  /-- FRND (R256). Rounds f32 to an integral value. -/
  | frnd (f : F1)
  /-- FRND_W2 (R256). FRND with MODE. -/
  | frndW2 (f : F2)
  /-- FFRACT (R256). Fractional part of f32. -/
  | ffract (f : F1)
  /-- FFRACT_W2 (R256). Two-word FFRACT. -/
  | ffractW2 (f : F2)
  /-- FSCALE (R257). Scales f32 by a power of two. -/
  | fscale (f : F1)
  /-- FSCALE_W2 (R257). FSCALE with MODE and SAT. -/
  | fscaleW2 (f : F2)
  /-- FGETEXP (R257). Binary exponent of f32. -/
  | fgetexp (f : F1)
  /-- FGETEXP_W2 (R257). Two-word FGETEXP. -/
  | fgetexpW2 (f : F2)
  /-- FGETMAN (R257). Mantissa of f32. -/
  | fgetman (f : F1)
  /-- FGETMAN_W2 (R257). Two-word FGETMAN. -/
  | fgetmanW2 (f : F2)
  /-- HADD2 (R258). Packed f16 pair add. -/
  | hadd2 (f : F1)
  /-- HADD2_W2 (R258). Packed pair add with TYPE, MODE and SAT. -/
  | hadd2W2 (f : F2)
  /-- HMUL2 (R258). Packed f16 pair multiply. -/
  | hmul2 (f : F1)
  /-- HMUL2_W2 (R258). Packed pair multiply with modifiers. -/
  | hmul2W2 (f : F2)
  /-- HFMA2 (R258). Packed pair fused multiply-add. -/
  | hfma2 (f : F2)
  /-- HMIN2 (R258). Packed f16 pair minimum. -/
  | hmin2 (f : F1)
  /-- HMIN2_W2 (R258). Packed pair minimum with TYPE. -/
  | hmin2W2 (f : F2)
  /-- HMAX2 (R258). Packed f16 pair maximum. -/
  | hmax2 (f : F1)
  /-- HMAX2_W2 (R258). Packed pair maximum with TYPE. -/
  | hmax2W2 (f : F2)
  /-- DOT2 (R259). Pair dot product into f32. -/
  | dot2 (f : F2)
  /-- DOT4 (R260). Four-element 8-bit dot product. -/
  | dot4 (f : F2)
  /-- DADD (R261). f64 add. -/
  | dadd (f : F1)
  /-- DADD_W2 (R261). f64 add with MODE and SAT. -/
  | daddW2 (f : F2)
  /-- DMUL (R261). f64 multiply. -/
  | dmul (f : F1)
  /-- DMUL_W2 (R261). f64 multiply with MODE and SAT. -/
  | dmulW2 (f : F2)
  /-- DFMA (R261). f64 fused multiply-add. -/
  | dfma (f : F2)
  /-- DCMP (R254). f64 compare for equality. -/
  | dcmp (f : F1)
  /-- DCMP_W2 (R254). f64 compare under COND. -/
  | dcmpW2 (f : F2)
  /-- CVT (R264). Converts one value between formats under a rounding control word. -/
  | cvt (f : F2)
  /-- CVTPK (R265). Converts two f32 values and packs them. -/
  | cvtpk (f : F2)
  /-- CVTUNPK (R266). Widens two packed elements to f32, optionally scaled. -/
  | cvtunpk (f : F2)
  /-- DRAW (R288). Draws one Mill block into four registers. -/
  | draw (f : F1)
  /-- DRAW_W2 (R288). Two-word DRAW with pattern on A. -/
  | drawW2 (f : F2)
  /-- DRAWF (R288). Draws four uniform f32 values. -/
  | drawf (f : F1)
  /-- DRAWF_W2 (R288). Two-word DRAWF. -/
  | drawfW2 (f : F2)
  /-- DRAWN (R288). Draws two normal f32 values. -/
  | drawn (f : F1)
  /-- DRAWN_W2 (R288). Two-word DRAWN. -/
  | drawnW2 (f : F2)
  /-- SAMPLE (R289). Draws an index from a cumulative scratchpad table. -/
  | sample (f : F1)
  /-- SAMPLE_W2 (R289). Two-word SAMPLE. -/
  | sampleW2 (f : F2)
  /-- SPLITKEY (R290). Derives a key from the launch key and an index. -/
  | splitkey (f : F1)
  /-- SPLITKEY_W2 (R290). Two-word SPLITKEY. -/
  | splitkeyW2 (f : F2)
  /-- BRK (R179). Breakpoint in any class, raising fault 0x0E with CODE. -/
  | brk (code : BitVec 16) (skip : Bool)
  /-- FRCP (R267). Correctly rounded reciprocal. -/
  | frcp (f : F1)
  /-- FRCP_W2 (R267). Reciprocal with MODE and SAT. -/
  | frcpW2 (f : F2)
  /-- FRSQ (R267). Reciprocal square root. -/
  | frsq (f : F1)
  /-- FRSQ_W2 (R267). Reciprocal square root with modifiers. -/
  | frsqW2 (f : F2)
  /-- FSQRT (R267). Square root. -/
  | fsqrt (f : F1)
  /-- FSQRT_W2 (R267). Square root with modifiers. -/
  | fsqrtW2 (f : F2)
  /-- FEXP2 (R267). Power of two. -/
  | fexp2 (f : F1)
  /-- FEXP2_W2 (R267). Power of two with modifiers. -/
  | fexp2W2 (f : F2)
  /-- FLOG2 (R267). Base-2 logarithm. -/
  | flog2 (f : F1)
  /-- FLOG2_W2 (R267). Base-2 logarithm with modifiers. -/
  | flog2W2 (f : F2)
  /-- FSIN (R267). Sine. -/
  | fsin (f : F1)
  /-- FSIN_W2 (R267). Sine with modifiers. -/
  | fsinW2 (f : F2)
  /-- FCOS (R267). Cosine. -/
  | fcos (f : F1)
  /-- FCOS_W2 (R267). Cosine with modifiers. -/
  | fcosW2 (f : F2)
  /-- FTANH (R267). Hyperbolic tangent. -/
  | ftanh (f : F1)
  /-- FTANH_W2 (R267). Hyperbolic tangent with modifiers. -/
  | ftanhW2 (f : F2)
  /-- REDUCE (R271). Group reduction through the Sieve, .add.i32. -/
  | reduce (f : F1)
  /-- REDUCE_W2 (R271). Group reduction with TYPE and OP. -/
  | reduceW2 (f : F2)
  /-- SCAN (R271). Inclusive group scan, .add.i32. -/
  | scan (f : F1)
  /-- SCAN_W2 (R271). Group scan with EXCL, TYPE and OP. -/
  | scanW2 (f : F2)
  /-- VOTE (R272). Group vote, .every. -/
  | vote (f : F1)
  /-- VOTE_W2 (R272). Group vote with MODE. -/
  | voteW2 (f : F2)
  /-- BALLOT (R272). Mask of members with A nonzero. -/
  | ballot (f : F1)
  /-- BALLOT_W2 (R272). Two-word BALLOT. -/
  | ballotW2 (f : F2)
  /-- MATCH (R272). Mask of members with equal A. -/
  | matchGroup (f : F1)
  /-- MATCH_W2 (R272). MATCH with W64. -/
  | matchW2 (f : F2)
  /-- LANEGET (R273). Reads A of the lane that B indexes. -/
  | laneget (f : F1)
  /-- LANEGET_W2 (R273). LANEGET with W64. -/
  | lanegetW2 (f : F2)
  /-- LD (R324). Global load of a word. -/
  | ld (f : F1)
  /-- LD_W2 (R324). Global load with size, hint or acquire. -/
  | ldW2 (f : F2)
  /-- ST (R324). Global store of a word at offset 0. -/
  | st (f : F1)
  /-- ST_W2 (R324). Global store with offset, size, hint or release. -/
  | stW2 (f : F2)
  /-- LDL (R325). Lane-private load. -/
  | ldl (f : F1)
  /-- LDL_W2 (R325). Lane-private load with size. -/
  | ldlW2 (f : F2)
  /-- STL (R325). Lane-private store. -/
  | stl (f : F1)
  /-- STL_W2 (R325). Lane-private store with offset and size. -/
  | stlW2 (f : F2)
  /-- LDS (R325). Scratchpad load. -/
  | lds (f : F1)
  /-- LDS_W2 (R325). Scratchpad load with size or acquire. -/
  | ldsW2 (f : F2)
  /-- STS (R325). Scratchpad store. -/
  | sts (f : F1)
  /-- STS_W2 (R325). Scratchpad store with offset, size or release. -/
  | stsW2 (f : F2)
  /-- LDC (R325). Cluster scratchpad load. -/
  | ldc (f : F1)
  /-- LDC_W2 (R325). Cluster scratchpad load with modifiers. -/
  | ldcW2 (f : F2)
  /-- STC (R325). Cluster scratchpad store. -/
  | stc (f : F1)
  /-- STC_W2 (R325). Cluster scratchpad store with modifiers. -/
  | stcW2 (f : F2)
  /-- LDA (R326). Accumulator store load. -/
  | lda (f : F1)
  /-- LDA_W2 (R326). Accumulator load with size. -/
  | ldaW2 (f : F2)
  /-- ATOM (R327). Global atomic .add.n32. -/
  | atom (f : F1)
  /-- ATOM_W2 (R327). Global atomic with OP, semantics and optional tag. -/
  | atomW2 (f : F2)
  /-- CAS (R329). Global compare-and-swap. -/
  | cas (f : F2)
  /-- ATOMS (R327). Scratchpad atomic .add.n32. -/
  | atoms (f : F1)
  /-- ATOMS_W2 (R327). Scratchpad atomic with OP and semantics. -/
  | atomsW2 (f : F2)
  /-- BANKOP (R333). 16-byte operation at a bank-window Mortar unit. -/
  | bankop (f : F2)
  /-- REDSLOT (R334). Adds a contribution to the team's staging slot. -/
  | redslot (f : F2)
  /-- PREFETCH (R337). Brings a line to its home bank. -/
  | prefetch (f : F1)
  /-- PREFETCH_W2 (R337). Prefetch with .l1. -/
  | prefetchW2 (f : F2)
  /-- FENCE (R335). Acquire and release fence at team scope. -/
  | fence (f : F1)
  /-- FENCE_W2 (R335). Fence with KIND and SCOPE. -/
  | fenceW2 (f : F2)
  /-- TFENCE (R336). Orders table stores before walks at team scope. -/
  | tfence (f : F1)
  /-- TFENCE_W2 (R336). TFENCE with SCOPE. -/
  | tfenceW2 (f : F2)
  /-- MONITOR (R338). Arms a global line for MWAIT. -/
  | monitor (f : F1)
  /-- MONITOR_W2 (R338). MONITOR with TIER. -/
  | monitorW2 (f : F2)
  /-- TDSET (R348). Writes a descriptor-set register of the group. -/
  | tdset (f : F1)
  /-- TDSET_W2 (R348). Two-word TDSET. -/
  | tdsetW2 (f : F2)
  /-- COPY (R349). Issues a tile copy on token t0, global to global. -/
  | copy (f : F1)
  /-- COPY_W2 (R349). Tile copy with RO, kinds and token. -/
  | copyW2 (f : F2)
  /-- COPYW (R349). Copies from the accumulator store. -/
  | copyw (f : F1)
  /-- COPYW_W2 (R349). COPYW with DK and token. -/
  | copywW2 (f : F2)
  /-- GATHER (R349). Copies rows chosen by an index table. -/
  | gather (f : F1)
  /-- GATHER_W2 (R349). GATHER with index table C and kinds. -/
  | gatherW2 (f : F2)
  /-- SCATTER (R349). Copies rows to places chosen by an index table. -/
  | scatter (f : F1)
  /-- SCATTER_W2 (R349). SCATTER with index table C and kinds. -/
  | scatterW2 (f : F2)
  /-- COMBINE (R350). Folds staging slots of completed launches into memory. -/
  | combine (f : F1)
  /-- COMBINE_W2 (R350). COMBINE with token. -/
  | combineW2 (f : F2)
  /-- REPLAY (R351). Reissues the missing pieces of FAULTED token t0. -/
  | replay (f : F1)
  /-- REPLAY_W2 (R351). REPLAY or abandon on a named token. -/
  | replayW2 (f : F2)
  /-- CHSEND (R360). Encrypts data to a host bounce channel message. -/
  | chsend (f : F1)
  /-- CHSEND_W2 (R360). CHSEND with control word and token. -/
  | chsendW2 (f : F2)
  /-- CHRECV (R360). Decrypts a host bounce channel message. -/
  | chrecv (f : F1)
  /-- CHRECV_W2 (R360). CHRECV with control word and token. -/
  | chrecvW2 (f : F2)
  /-- BEQ (R275). Branch when A equals B. -/
  | beq (a b : Opd) (off : BitVec 32)
  /-- BNE (R275). Branch when A differs from B. -/
  | bne (a b : Opd) (off : BitVec 32)
  /-- BLT (R275). Branch when signed A is below B. -/
  | blt (a b : Opd) (off : BitVec 32)
  /-- BGE (R275). Branch when signed A is at least B. -/
  | bge (a b : Opd) (off : BitVec 32)
  /-- BLTN (R275). Branch when unsigned A is below B. -/
  | bltn (a b : Opd) (off : BitVec 32)
  /-- BGEN (R275). Branch when unsigned A is at least B. -/
  | bgen (a b : Opd) (off : BitVec 32)
  /-- BRA (R275). Branch by a 24-bit word offset. -/
  | bra (off : BitVec 24)
  /-- BRA_W2 (R275). Branch by a 32-bit byte offset. -/
  | braW2 (off : BitVec 32)
  /-- BRX (R275). Branch to the address in A. -/
  | brx (f : F1)
  /-- CALL (R276). Call by a 24-bit word offset. -/
  | call (off : BitVec 24)
  /-- CALL_W2 (R276). Call by a 32-bit byte offset. -/
  | callW2 (off : BitVec 32)
  /-- CALLX (R276). Call the address in A. -/
  | callx (f : F1)
  /-- RET (R276). Returns to the popped address. -/
  | ret (f : F1)
  /-- EXIT (R277). Ends the lane once no token is PENDING. -/
  | exit (f : F1)
  /-- YIELD (R278). Gives the gang the effect of Y = 1. -/
  | yield (f : F1)
  /-- MWAIT (R279). Waits for a write to the armed range. -/
  | mwait (f : F1)
  /-- MWAIT_W2 (R279). MWAIT with acquire SCOPE. -/
  | mwaitW2 (f : F2)
  /-- TRAP (R280). Raises fault 0x0C with code 0. -/
  | trap (f : F1)
  /-- TRAP_W2 (R280). Raises fault 0x0C with CODE. -/
  | trapW2 (f : F2)
  /-- TRAPFENCE (R281). Reads sticky flags and traps on enabled ones. -/
  | trapfence (f : F1)
  /-- TBAR (R284). Arrives and waits at the team barrier. -/
  | tbar (f : F1)
  /-- CBAR (R284). Arrives and waits at the cluster barrier. -/
  | cbar (f : F1)
  /-- ARRIVE (R284). Arrives at numbered barrier NBk without waiting. -/
  | arrive (f : F1)
  /-- AWAIT (R284). Arrives and waits at numbered barrier NBk. -/
  | await (f : F1)
  /-- MLOAD (R389). Gives the shadow plane a new record. -/
  | mload (f : F1)
  /-- MLOAD_W2 (R389). MLOAD with scales and format. -/
  | mloadW2 (f : F2)
  /-- MSWAP (R389). Exchanges the plane records. -/
  | mswap (f : F1)
  /-- MSWAP_W2 (R389). Two-word MSWAP. -/
  | mswapW2 (f : F2)
  /-- MSTREAM (R390). Streams activation rows past the active plane. -/
  | mstream (f : F1)
  /-- MSTREAM_W2 (R390). MSTREAM with rows, scales and format. -/
  | mstreamW2 (f : F2)
  /-- MVSTREAM (R391). Streams global weight columns past resident vectors. -/
  | mvstream (f : F1)
  /-- MVSTREAM_W2 (R391). MVSTREAM with columns, scales and format. -/
  | mvstreamW2 (f : F2)
  /-- MDIST (R390). Squared-distance pass against the active plane. -/
  | mdist (f : F1)
  /-- MDIST_W2 (R390). MDIST with rows, scales and format. -/
  | mdistW2 (f : F2)
  /-- MTOPK (R392). Selects the k best products per row. -/
  | mtopk (f : F1)
  /-- MTOPK_W2 (R392). MTOPK with control word and modifiers. -/
  | mtopkW2 (f : F2)
  /-- MEPI (R393). Sets the epilogue word. -/
  | mepi (f : F1)
  /-- MEPI_W2 (R393). Sets the epilogue word with a bias offset. -/
  | mepiW2 (f : F2)
  /-- MDRAIN (R394). Drains a 1 by 1 tile through the epilogue to the scratchpad. -/
  | mdrain (f : F1)
  /-- MDRAIN_W2 (R394). Drains a tile to scratchpad or global memory. -/
  | mdrainW2 (f : F2)
  /-- MCLEAR (R395). Clears accumulator cells. -/
  | mclear (f : F1)
  /-- MCLEAR_W2 (R395). Two-word MCLEAR. -/
  | mclearW2 (f : F2)
  /-- WALK (R396). Opens a tile walk over index tuples. -/
  | walk (f : F1)
  /-- WALK_W2 (R396). WALK with ORDER. -/
  | walkW2 (f : F2)
  /-- ENDWALK (R396). Marks a tuple visited and continues or closes the walk. -/
  | endwalk (f : F1)
  /-- ENDWALK_W2 (R396). Two-word ENDWALK. -/
  | endwalkW2 (f : F2)
  /-- SEQ_ARRIVE (R398). Sequencer arrival at NBk, counted once prior passes complete. -/
  | seqArrive (f : F1)
  /-- SEQ_AWAIT (R398). Sequencer arrival and wait at NBk. -/
  | seqAwait (f : F1)
  /-- SWAIT (R398). Waits until every posted pass has completed. -/
  | swait (f : F1)
  /-- SQEXIT (R398). Waits for passes, lets held arrivals count and exits the sequencer. -/
  | sqexit (f : F1)
  /-- SEQ_IADD (R399). Sequencer integer add. -/
  | seqIadd (f : F1)
  /-- SEQ_IADD_W2 (R399). Sequencer add with SAT and U. -/
  | seqIaddW2 (f : F2)
  /-- SEQ_ISUB (R399). Sequencer integer subtract. -/
  | seqIsub (f : F1)
  /-- SEQ_ISUB_W2 (R399). Sequencer subtract with SAT and U. -/
  | seqIsubW2 (f : F2)
  /-- SEQ_IMUL (R399). Sequencer integer multiply. -/
  | seqImul (f : F1)
  /-- SEQ_IMUL_W2 (R399). Sequencer multiply with SAT and U. -/
  | seqImulW2 (f : F2)
  /-- SEQ_IMIN (R399). Sequencer integer minimum. -/
  | seqImin (f : F1)
  /-- SEQ_IMIN_W2 (R399). Sequencer minimum with U. -/
  | seqIminW2 (f : F2)
  /-- SEQ_IMAX (R399). Sequencer integer maximum. -/
  | seqImax (f : F1)
  /-- SEQ_IMAX_W2 (R399). Sequencer maximum with U. -/
  | seqImaxW2 (f : F2)
  /-- SEQ_AND (R399). Sequencer bitwise and. -/
  | seqAnd (f : F1)
  /-- SEQ_AND_W2 (R399). Two-word sequencer and. -/
  | seqAndW2 (f : F2)
  /-- SEQ_OR (R399). Sequencer bitwise or. -/
  | seqOr (f : F1)
  /-- SEQ_OR_W2 (R399). Two-word sequencer or. -/
  | seqOrW2 (f : F2)
  /-- SEQ_XOR (R399). Sequencer bitwise exclusive or. -/
  | seqXor (f : F1)
  /-- SEQ_XOR_W2 (R399). Two-word sequencer exclusive or. -/
  | seqXorW2 (f : F2)
  /-- SEQ_SHL (R399). Sequencer shift left. -/
  | seqShl (f : F1)
  /-- SEQ_SHL_W2 (R399). Sequencer shift left with WRAP. -/
  | seqShlW2 (f : F2)
  /-- SEQ_SHR (R399). Sequencer shift right. -/
  | seqShr (f : F1)
  /-- SEQ_SHR_W2 (R399). Sequencer shift right with WRAP. -/
  | seqShrW2 (f : F2)
  /-- SEQ_MOV (R399). Sequencer 32-bit move. -/
  | seqMov (f : F1)
  /-- SEQ_MOV_W2 (R399). Two-word sequencer move. -/
  | seqMovW2 (f : F2)
  /-- SEQ_MOVI (R399). Sequencer 16-bit literal move. -/
  | seqMovi (d : Opd) (imm : BitVec 16)
  /-- SEQ_MOVI_W2 (R399). Sequencer 32-bit literal move. -/
  | seqMoviW2 (d : Opd) (imm : BitVec 32)
  /-- SEQ_BEQ (R400). Sequencer branch on equal. -/
  | seqBeq (a b : Opd) (off : BitVec 32)
  /-- SEQ_BNE (R400). Sequencer branch on not equal. -/
  | seqBne (a b : Opd) (off : BitVec 32)
  /-- SEQ_BLT (R400). Sequencer branch on signed less. -/
  | seqBlt (a b : Opd) (off : BitVec 32)
  /-- SEQ_BGE (R400). Sequencer branch on signed not less. -/
  | seqBge (a b : Opd) (off : BitVec 32)
  /-- SEQ_BRA (R400). Sequencer branch by a word offset. -/
  | seqBra (off : BitVec 24)
  /-- SEQ_BRA_W2 (R400). Sequencer branch by a byte offset. -/
  | seqBraW2 (off : BitVec 32)
  /-- SREAD (R292). Reads the state a selector names. -/
  | sread (f : F1)
  /-- SREAD_W2 (R292). Two-word SREAD. -/
  | sreadW2 (f : F2)
  /-- SWRITE (R292). Writes the state a selector names. -/
  | swrite (f : F1)
  /-- SWRITE_W2 (R292). Two-word SWRITE. -/
  | swriteW2 (f : F2)
  /-- LAUNCH (R293). Reads a launch record and enqueues it after a release. -/
  | launch (f : F1)
  /-- LAUNCH_W2 (R293). LAUNCH with SYS scope. -/
  | launchW2 (f : F2)
  /-- QREAD (R294). Takes the head record of a work ring. -/
  | qread (f : F1)
  /-- QREAD_W2 (R294). Two-word QREAD. -/
  | qreadW2 (f : F2)
  /-- EVREAD (R295). Takes the world's oldest unread event. -/
  | evread (f : F1)
  /-- EVREAD_W2 (R295). Two-word EVREAD. -/
  | evreadW2 (f : F2)
  /-- EVWAIT (R295). Waits for and takes the oldest unread event. -/
  | evwait (f : F1)
  /-- SIGNAL (R296). Releases at system scope and sends an MSI-X vector. -/
  | signal (f : F1)
  /-- SIGNAL_W2 (R296). Two-word SIGNAL. -/
  | signalW2 (f : F2)
  /-- TLBINV (R297). Discards cached device translations of a page. -/
  | tlbinv (f : F1)
  /-- TLBINV_W2 (R297). TLBINV with ALL. -/
  | tlbinvW2 (f : F2)
  /-- KEYOP (R298). Passes a key request to the key rotation engine. -/
  | keyop (f : F1)
  /-- KEYOP_W2 (R298). Two-word KEYOP. -/
  | keyopW2 (f : F2)
  deriving DecidableEq, Repr

end Sys2Proof
end

