-- ==== Sys2Proof/Machine/Encoding.lean ====
section
/-! DEFINITION. The encoding tables of the instruction chapters: class, opcode, operand widths and legal modifiers of
every encoded row. The well-formedness check, the decoder and the encoder all read them here. -/

namespace Sys2Proof

/-- One line of an encoding table: class and opcode (R180 to R186), the width of each operand in registers (0: the
field must be idle, R166), whether the modifier is one the entry defines (R165), whether patterns may stand (R170). -/
structure Entry where
  cls : Nat
  op : Nat
  dw : Nat := 0
  aw : Nat := 0
  bw : Nat := 0
  cw : Nat := 0
  modOk : Bool := true
  pats : Bool := false
  /-- no pattern on source B, though source A may carry one (R250) -/
  ownB : Bool := false
  deriving DecidableEq, Repr

/-- Bits hi to lo of a modifier, as a number (R2). -/
def mbits (m : BitVec 8) (hi lo : Nat) : Nat := m.toNat / 2 ^ lo % 2 ^ (hi + 1 - lo)

/-- A one-word form behaves as the two-word form with C = z, patterns 00 and modifier 0 (R165). -/
def F1.widen (f : F1) : F2 := ⟨f.d, f.a, f.b, .z, .idle, .idle, 0⟩

/-- Every bit outside the mask is zero. -/
def modBits (mask m : BitVec 8) : Bool := m &&& ~~~mask == 0
/-- Every value is defined (LOP3, TRAP). -/
def modAny (_ : BitVec 8) : Bool := true
/-- MOV (R230): W is 0, 1 or 2. -/
def modMov (m : BitVec 8) : Bool := m.toNat ≤ 2
def movWidth (m : BitVec 8) : Nat := if m.toNat = 0 then 1 else if m.toNat = 1 then 2 else 4
/-- ICMP (R236): COND 0 to 5 in [3:1], U in [0]. -/
def modIcmp (m : BitVec 8) : Bool := m.toNat < 16 && mbits m 3 1 ≤ 5
/-- BUNZIP3 (R242): K is 0 to 2. -/
def modBunzip3 (m : BitVec 8) : Bool := m.toNat ≤ 2
/-- SAT in [3], MODE 0 to 3 in [2:0] (R247). -/
def modFloat (m : BitVec 8) : Bool := m.toNat < 16 && mbits m 2 0 ≤ 3
/-- TYPE in [4], SAT in [3], MODE 0 to 3 in [2:0] (R250). -/
def modHalf (m : BitVec 8) : Bool := m.toNat < 32 && mbits m 2 0 ≤ 3
/-- DOT4 (R260): float types with float types, integer types with integer types, and then MODE = 0. -/
def modDot4 (m : BitVec 8) : Bool :=
  m.toNat < 128 &&
    ((mbits m 3 2 < 2 && mbits m 1 0 < 2) || (2 ≤ mbits m 3 2 && 2 ≤ mbits m 1 0 && mbits m 5 4 == 0))

/-- The format codes of R262 read to one name. -/
inductive Fmt where
  | f64 | f32 | f16 | bf16 | e5m2 | e4m3 | e2m1 | e8m0
  | i8 | i16 | i32 | i64 | n8 | n16 | n32 | n64
  deriving DecidableEq, Repr

/-- The target field of R262. -/
def Fmt.ofTarget (k : Nat) : Fmt :=
  match k with
  | 0 => .f16 | 1 => .f32 | 2 => .bf16 | 3 => .f64 | 4 => .e4m3 | 5 => .e5m2 | 6 => .e2m1 | 7 => .e8m0
  | 8 => .i8 | 9 => .i16 | 10 => .i32 | 11 => .i64 | 12 => .n8 | 13 => .n16 | 14 => .n32 | _ => .n64
/-- The source field of R262: only .f16 and .f32 exchange codes. -/
def Fmt.ofSource (k : Nat) : Fmt :=
  match k with
  | 0 => .f32 | 1 => .f16 | k => Fmt.ofTarget k
/-- The floating-point formats of R86. -/
def Fmt.isFloat : Fmt → Bool
  | .f64 | .f32 | .f16 | .bf16 | .e5m2 | .e4m3 | .e2m1 => true
  | _ => false
/-- The four wide formats that integers convert to and from (R95). -/
def Fmt.isWide : Fmt → Bool
  | .f64 | .f32 | .f16 | .bf16 => true
  | _ => false
/-- The integer formats of R84. -/
def Fmt.isInt : Fmt → Bool
  | .i8 | .i16 | .i32 | .i64 | .n8 | .n16 | .n32 | .n64 => true
  | _ => false
/-- The signed integer formats. -/
def Fmt.isSigned : Fmt → Bool
  | .i8 | .i16 | .i32 | .i64 => true
  | _ => false
/-- The width in bits (R84, R86, R90). -/
def Fmt.bits : Fmt → Nat
  | .f64 | .i64 | .n64 => 64
  | .f32 | .i32 | .n32 => 32
  | .f16 | .bf16 | .i16 | .n16 => 16
  | .e5m2 | .e4m3 | .e8m0 | .i8 | .n8 => 8
  | .e2m1 => 4
/-- The pairs that R95 allows. -/
def cvtAllowed (src tgt : Fmt) : Bool :=
  (src.isFloat && tgt.isFloat && src != tgt) || (src.isInt && tgt.isWide) || (src.isWide && tgt.isInt) ||
    (src == .f32 && tgt == .e8m0) || (src == .e8m0 && tgt == .f32)
/-- CVT (R264): the pair must be allowed. -/
def modCvt (m : BitVec 8) : Bool := cvtAllowed (Fmt.ofSource (mbits m 3 0)) (Fmt.ofTarget (mbits m 7 4))
def cvtDWidth (m : BitVec 8) : Nat := if (Fmt.ofTarget (mbits m 7 4)).bits = 64 then 2 else 1
def cvtAWidth (m : BitVec 8) : Nat := if (Fmt.ofSource (mbits m 3 0)).bits = 64 then 2 else 1
/-- The packed formats of CVTPK and CVTUNPK. -/
def packFmt (k : Nat) : Bool := k == 0 || k == 2 || k == 4 || k == 5 || k == 6
/-- POS stays below 32 / (2 x width) (R265). -/
def packPos (k pos : Nat) : Bool := pos < 32 / (2 * (Fmt.ofTarget k).bits)
def modCvtpk (m : BitVec 8) : Bool := mbits m 1 0 == 0 && packFmt (mbits m 7 4) && packPos (mbits m 7 4) (mbits m 3 2)
def modCvtunpk (m : BitVec 8) : Bool := mbits m 0 0 == 0 && packFmt (mbits m 7 4) && packPos (mbits m 7 4) (mbits m 3 2)
def cvtunpkBWidth (m : BitVec 8) : Nat := mbits m 1 1

/-- OP and TYPE of the collectives (R270): the logic operations take .b32 and .b64 only, the others never. -/
def modReduce (m : BitVec 8) : Bool :=
  m.toNat < 64 && mbits m 2 0 ≤ 5 &&
    (decide (3 ≤ mbits m 2 0) == (mbits m 5 3 == 3 || mbits m 5 3 == 7))
def modScan (m : BitVec 8) : Bool := m.toNat < 128 && modReduce (m &&& 0x3F)
def collectiveWidth (m : BitVec 8) : Nat := if 4 ≤ mbits m 5 3 then 2 else 1
def w64Width (m : BitVec 8) : Nat := 1 + mbits m 0 0

/-- The registers of an access of SIZE (R317, R318). -/
def accessWidth (m : BitVec 8) : Nat := if mbits m 2 0 = 5 then 2 else if mbits m 2 0 = 6 then 4 else 1
/-- SIZE is not 7 and [3] is zero (R318). -/
def modAccess (m : BitVec 8) : Bool := mbits m 2 0 != 7 && mbits m 3 3 == 0
/-- LD: SEM 0 with HINT 0 to 2, or .acq (R318). -/
def modLoad (m : BitVec 8) : Bool :=
  modAccess m && ((mbits m 7 6 == 0 && mbits m 5 4 ≤ 2) || mbits m 7 6 == 1)
/-- ST: SEM 0 with HINT 0 or .nt, or .rel (R318). -/
def modStore (m : BitVec 8) : Bool :=
  modAccess m && ((mbits m 7 6 == 0 && (mbits m 5 4 == 0 || mbits m 5 4 == 2)) || mbits m 7 6 == 2)
/-- LDL: SEM and HINT zero. -/
def modLoadPlain (m : BitVec 8) : Bool := modAccess m && mbits m 7 4 == 0
/-- STL: SEM and HINT zero. -/
def modStorePlain (m : BitVec 8) : Bool := modAccess m && mbits m 7 4 == 0
/-- LDS and LDC: no hint, or .acq. -/
def modLoadTier (m : BitVec 8) : Bool := modAccess m && (mbits m 7 4 == 0 || mbits m 7 6 == 1)
/-- STS and STC: no hint, or .rel. -/
def modStoreTier (m : BitVec 8) : Bool := modAccess m && (mbits m 7 4 == 0 || mbits m 7 6 == 2)
/-- LDA: SIZE 0, 5 or 6 only. -/
def modLoadAcc (m : BitVec 8) : Bool := m.toNat == 0 || m.toNat == 5 || m.toNat == 6
/-- ATOM and ATOMS (R319): SCOPE is 0 when SEM is 0. -/
def modAtomic (m : BitVec 8) : Bool := mbits m 7 6 != 0 || mbits m 5 4 == 0
/-- The operand width of an atomic: OP 14 and 15 are 64-bit. -/
def atomWidth (m : BitVec 8) : Nat := if 14 ≤ mbits m 3 0 then 2 else 1
/-- The destination of an ATOM widens when it is tagged (R330). -/
def atomDWidth (f : F2) : Nat := if f.c = .z then atomWidth f.m else 2 * atomWidth f.m
def modCas (m : BitVec 8) : Bool := mbits m 3 1 == 0 && (mbits m 7 6 != 0 || mbits m 5 4 == 0)
/-- BANKOP (R333): OP 7 is none; .ld and .st take ETYPE 0. -/
def modBankop (m : BitVec 8) : Bool :=
  mbits m 2 0 == 0 && mbits m 7 5 != 7 && (2 ≤ mbits m 7 5 || mbits m 4 3 == 0)
def bankBWidth (m : BitVec 8) : Nat := if mbits m 7 5 = 0 then 0 else 4
def bankCWidth (m : BitVec 8) : Nat := if mbits m 7 5 = 5 then 1 else 0
/-- REDSLOT (R334): only .add.n64 is 64-bit. -/
def redslotWidth (m : BitVec 8) : Nat := if mbits m 2 0 = 2 then 2 else 1
def modFence (m : BitVec 8) : Bool := mbits m 3 0 == 0 && mbits m 7 6 != 3
def modTfence (m : BitVec 8) : Bool := mbits m 3 0 == 0 && mbits m 7 6 == 0
def monitorAWidth (m : BitVec 8) : Nat := 2 - mbits m 0 0
/-- A class-3 modifier: TOKEN is t0 to t5 (R339, R347). -/
def modToken (mask m : BitVec 8) : Bool := modBits mask m && mbits m 2 0 ≤ 5
def modMwait (m : BitVec 8) : Bool := m.toNat ≤ 4
/-- FMT 0 to 5, and block scales only with FMT 0 to 2 (R385). -/
def modFmt (m : BitVec 8) : Bool := m.toNat < 16 && mbits m 2 0 ≤ 5 && (mbits m 3 3 == 0 || mbits m 2 0 ≤ 2)
/-- MDIST takes every format but .e2m1 (R390). -/
def modFmtDist (m : BitVec 8) : Bool := modFmt m && mbits m 2 0 != 2
def modTopk (m : BitVec 8) : Bool := mbits m 4 4 == 0 && modFmt (m &&& 0x0F)
def scaleWidth (m : BitVec 8) : Nat := mbits m 3 3
def topkAWidth (m : BitVec 8) : Nat := 1 + mbits m 7 7
def drainBWidth (m : BitVec 8) : Nat := 1 + mbits m 0 0

/-! The entry of each operation, by opcode (the one-word slot or 0x80 above it, R165) and fields. -/

def Entry.nop (op : Nat) (f : F2) : Entry :=
  { cls := 0, op := op, modOk := modBits 0x00 f.m, pats := true }
def Entry.mov (op : Nat) (f : F2) : Entry :=
  { cls := 0, op := op, dw := (movWidth f.m), aw := (movWidth f.m), modOk := modMov f.m, pats := true }
def Entry.rget (op : Nat) (f : F2) : Entry :=
  { cls := 0, op := op, dw := 1, aw := 1, modOk := modBits 0x00 f.m, pats := true }
def Entry.rput (op : Nat) (f : F2) : Entry :=
  { cls := 0, op := op, aw := 1, bw := 1, modOk := modBits 0x00 f.m, pats := true }
def Entry.iadd (op : Nat) (f : F2) : Entry :=
  { cls := 0, op := op, dw := 1, aw := 1, bw := 1, modOk := modBits 0x03 f.m, pats := true }
def Entry.isub (op : Nat) (f : F2) : Entry :=
  { cls := 0, op := op, dw := 1, aw := 1, bw := 1, modOk := modBits 0x03 f.m, pats := true }
def Entry.iadd3 (op : Nat) (f : F2) : Entry :=
  { cls := 0, op := op, dw := 1, aw := 1, bw := 1, cw := 1, modOk := modBits 0x03 f.m, pats := true }
def Entry.iaddco (op : Nat) (f : F2) : Entry :=
  { cls := 0, op := op, dw := 2, aw := 1, bw := 1, cw := 1, modOk := modBits 0x00 f.m, pats := true }
def Entry.imul (op : Nat) (f : F2) : Entry :=
  { cls := 0, op := op, dw := 1, aw := 1, bw := 1, modOk := modBits 0x03 f.m, pats := true }
def Entry.imulhi (op : Nat) (f : F2) : Entry :=
  { cls := 0, op := op, dw := 1, aw := 1, bw := 1, modOk := modBits 0x01 f.m, pats := true }
def Entry.imad (op : Nat) (f : F2) : Entry :=
  { cls := 0, op := op, dw := 1, aw := 1, bw := 1, cw := 1, modOk := modBits 0x03 f.m, pats := true }
def Entry.imadwide (op : Nat) (f : F2) : Entry :=
  { cls := 0, op := op, dw := 2, aw := 1, bw := 1, cw := 2, modOk := modBits 0x01 f.m, pats := true }
def Entry.imin (op : Nat) (f : F2) : Entry :=
  { cls := 0, op := op, dw := 1, aw := 1, bw := 1, modOk := modBits 0x01 f.m, pats := true }
def Entry.imax (op : Nat) (f : F2) : Entry :=
  { cls := 0, op := op, dw := 1, aw := 1, bw := 1, modOk := modBits 0x01 f.m, pats := true }
def Entry.iabs (op : Nat) (f : F2) : Entry :=
  { cls := 0, op := op, dw := 1, aw := 1, modOk := modBits 0x02 f.m, pats := true }
def Entry.icmp (op : Nat) (f : F2) : Entry :=
  { cls := 0, op := op, dw := 1, aw := 1, bw := 1, modOk := modIcmp f.m, pats := true }
def Entry.sel (op : Nat) (f : F2) : Entry :=
  { cls := 0, op := op, dw := 1, aw := 1, bw := 1, cw := 1, modOk := modBits 0x00 f.m, pats := true }
def Entry.and (op : Nat) (f : F2) : Entry :=
  { cls := 0, op := op, dw := 1, aw := 1, bw := 1, modOk := modBits 0x00 f.m, pats := true }
def Entry.or (op : Nat) (f : F2) : Entry :=
  { cls := 0, op := op, dw := 1, aw := 1, bw := 1, modOk := modBits 0x00 f.m, pats := true }
def Entry.xor (op : Nat) (f : F2) : Entry :=
  { cls := 0, op := op, dw := 1, aw := 1, bw := 1, modOk := modBits 0x00 f.m, pats := true }
def Entry.andn (op : Nat) (f : F2) : Entry :=
  { cls := 0, op := op, dw := 1, aw := 1, bw := 1, modOk := modBits 0x00 f.m, pats := true }
def Entry.not (op : Nat) (f : F2) : Entry :=
  { cls := 0, op := op, dw := 1, aw := 1, modOk := modBits 0x00 f.m, pats := true }
def Entry.lop3 (op : Nat) (_f : F2) : Entry :=
  { cls := 0, op := op, dw := 1, aw := 1, bw := 1, cw := 1, pats := true }
def Entry.shl (op : Nat) (f : F2) : Entry :=
  { cls := 0, op := op, dw := 1, aw := 1, bw := 1, modOk := modBits 0x01 f.m, pats := true }
def Entry.shr (op : Nat) (f : F2) : Entry :=
  { cls := 0, op := op, dw := 1, aw := 1, bw := 1, modOk := modBits 0x01 f.m, pats := true }
def Entry.sar (op : Nat) (f : F2) : Entry :=
  { cls := 0, op := op, dw := 1, aw := 1, bw := 1, modOk := modBits 0x01 f.m, pats := true }
def Entry.rotl (op : Nat) (f : F2) : Entry :=
  { cls := 0, op := op, dw := 1, aw := 1, bw := 1, modOk := modBits 0x00 f.m, pats := true }
def Entry.funnel (op : Nat) (f : F2) : Entry :=
  { cls := 0, op := op, dw := 1, aw := 1, bw := 1, cw := 1, modOk := modBits 0x03 f.m, pats := true }
def Entry.bfx (op : Nat) (f : F2) : Entry :=
  { cls := 0, op := op, dw := 1, aw := 1, bw := 1, modOk := modBits 0x01 f.m, pats := true }
def Entry.bfi (op : Nat) (f : F2) : Entry :=
  { cls := 0, op := op, dw := 1, aw := 1, bw := 1, cw := 1, modOk := modBits 0x00 f.m, pats := true }
def Entry.popc (op : Nat) (f : F2) : Entry :=
  { cls := 0, op := op, dw := 1, aw := 1, modOk := modBits 0x00 f.m, pats := true }
def Entry.clz (op : Nat) (f : F2) : Entry :=
  { cls := 0, op := op, dw := 1, aw := 1, modOk := modBits 0x00 f.m, pats := true }
def Entry.ctz (op : Nat) (f : F2) : Entry :=
  { cls := 0, op := op, dw := 1, aw := 1, modOk := modBits 0x00 f.m, pats := true }
def Entry.brev (op : Nat) (f : F2) : Entry :=
  { cls := 0, op := op, dw := 1, aw := 1, modOk := modBits 0x00 f.m, pats := true }
def Entry.bzip2 (op : Nat) (f : F2) : Entry :=
  { cls := 0, op := op, dw := 1, aw := 1, bw := 1, modOk := modBits 0x00 f.m, pats := true }
def Entry.bzip3 (op : Nat) (f : F2) : Entry :=
  { cls := 0, op := op, dw := 1, aw := 1, bw := 1, cw := 1, modOk := modBits 0x00 f.m, pats := true }
def Entry.bunzip2 (op : Nat) (f : F2) : Entry :=
  { cls := 0, op := op, dw := 1, aw := 1, modOk := modBits 0x01 f.m, pats := true }
def Entry.bunzip3 (op : Nat) (f : F2) : Entry :=
  { cls := 0, op := op, dw := 1, aw := 1, modOk := modBunzip3 f.m, pats := true }
def Entry.byteperm (op : Nat) (f : F2) : Entry :=
  { cls := 0, op := op, dw := 1, aw := 1, bw := 1, cw := 1, modOk := modBits 0x00 f.m, pats := true }
def Entry.iadd64 (op : Nat) (f : F2) : Entry :=
  { cls := 0, op := op, dw := 2, aw := 2, bw := 2, modOk := modBits 0x03 f.m, pats := true }
def Entry.shl64 (op : Nat) (f : F2) : Entry :=
  { cls := 0, op := op, dw := 2, aw := 2, bw := 1, modOk := modBits 0x01 f.m, pats := true }
def Entry.shr64 (op : Nat) (f : F2) : Entry :=
  { cls := 0, op := op, dw := 2, aw := 2, bw := 1, modOk := modBits 0x03 f.m, pats := true }
def Entry.lea (op : Nat) (f : F2) : Entry :=
  { cls := 0, op := op, dw := 2, aw := 2, bw := 1, modOk := modBits 0x0F f.m, pats := true }
def Entry.fadd (op : Nat) (f : F2) : Entry :=
  { cls := 0, op := op, dw := 1, aw := 1, bw := 1, modOk := modFloat f.m, pats := true }
def Entry.fsub (op : Nat) (f : F2) : Entry :=
  { cls := 0, op := op, dw := 1, aw := 1, bw := 1, modOk := modFloat f.m, pats := true }
def Entry.fmul (op : Nat) (f : F2) : Entry :=
  { cls := 0, op := op, dw := 1, aw := 1, bw := 1, modOk := modFloat f.m, pats := true }
def Entry.ffma (op : Nat) (f : F2) : Entry :=
  { cls := 0, op := op, dw := 1, aw := 1, bw := 1, cw := 1, modOk := modFloat f.m, pats := true }
def Entry.fmin (op : Nat) (f : F2) : Entry :=
  { cls := 0, op := op, dw := 1, aw := 1, bw := 1, modOk := modBits 0x00 f.m, pats := true }
def Entry.fmax (op : Nat) (f : F2) : Entry :=
  { cls := 0, op := op, dw := 1, aw := 1, bw := 1, modOk := modBits 0x00 f.m, pats := true }
def Entry.fcmp (op : Nat) (f : F2) : Entry :=
  { cls := 0, op := op, dw := 1, aw := 1, bw := 1, modOk := modBits 0x07 f.m, pats := true }
def Entry.fclass (op : Nat) (f : F2) : Entry :=
  { cls := 0, op := op, dw := 1, aw := 1, modOk := modBits 0x00 f.m, pats := true }
def Entry.frnd (op : Nat) (f : F2) : Entry :=
  { cls := 0, op := op, dw := 1, aw := 1, modOk := modBits 0x03 f.m, pats := true }
def Entry.ffract (op : Nat) (f : F2) : Entry :=
  { cls := 0, op := op, dw := 1, aw := 1, modOk := modBits 0x00 f.m, pats := true }
def Entry.fscale (op : Nat) (f : F2) : Entry :=
  { cls := 0, op := op, dw := 1, aw := 1, bw := 1, modOk := modFloat f.m, pats := true }
def Entry.fgetexp (op : Nat) (f : F2) : Entry :=
  { cls := 0, op := op, dw := 1, aw := 1, modOk := modBits 0x00 f.m, pats := true }
def Entry.fgetman (op : Nat) (f : F2) : Entry :=
  { cls := 0, op := op, dw := 1, aw := 1, modOk := modBits 0x00 f.m, pats := true }
def Entry.hadd2 (op : Nat) (f : F2) : Entry :=
  { cls := 0, op := op, dw := 1, aw := 1, bw := 1, modOk := modHalf f.m, pats := true }
def Entry.hmul2 (op : Nat) (f : F2) : Entry :=
  { cls := 0, op := op, dw := 1, aw := 1, bw := 1, modOk := modHalf f.m, pats := true }
def Entry.hfma2 (op : Nat) (f : F2) : Entry :=
  { cls := 0, op := op, dw := 1, aw := 1, bw := 1, cw := 1, modOk := modHalf f.m, pats := true }
def Entry.hmin2 (op : Nat) (f : F2) : Entry :=
  { cls := 0, op := op, dw := 1, aw := 1, bw := 1, modOk := modBits 0x10 f.m, pats := true }
def Entry.hmax2 (op : Nat) (f : F2) : Entry :=
  { cls := 0, op := op, dw := 1, aw := 1, bw := 1, modOk := modBits 0x10 f.m, pats := true }
def Entry.dot2 (op : Nat) (f : F2) : Entry :=
  { cls := 0, op := op, dw := 1, aw := 1, bw := 1, cw := 1, modOk := modHalf f.m, pats := true }
def Entry.dot4 (op : Nat) (f : F2) : Entry :=
  { cls := 0, op := op, dw := 1, aw := 1, bw := 1, cw := 1, modOk := modDot4 f.m, pats := true }
def Entry.dadd (op : Nat) (f : F2) : Entry :=
  { cls := 0, op := op, dw := 2, aw := 2, bw := 2, modOk := modFloat f.m, pats := true }
def Entry.dmul (op : Nat) (f : F2) : Entry :=
  { cls := 0, op := op, dw := 2, aw := 2, bw := 2, modOk := modFloat f.m, pats := true }
def Entry.dfma (op : Nat) (f : F2) : Entry :=
  { cls := 0, op := op, dw := 2, aw := 2, bw := 2, cw := 2, modOk := modFloat f.m, pats := true }
def Entry.dcmp (op : Nat) (f : F2) : Entry :=
  { cls := 0, op := op, dw := 1, aw := 2, bw := 2, modOk := modBits 0x07 f.m, pats := true }
def Entry.cvt (op : Nat) (f : F2) : Entry :=
  { cls := 0, op := op, dw := (cvtDWidth f.m), aw := (cvtAWidth f.m), cw := 1, modOk := modCvt f.m, pats := true, ownB := true }
def Entry.cvtpk (op : Nat) (f : F2) : Entry :=
  { cls := 0, op := op, dw := 1, aw := 1, bw := 1, cw := 1, modOk := modCvtpk f.m, pats := true, ownB := true }
def Entry.cvtunpk (op : Nat) (f : F2) : Entry :=
  { cls := 0, op := op, dw := 2, aw := 1, bw := (cvtunpkBWidth f.m), cw := 1, modOk := modCvtunpk f.m, pats := true, ownB := true }
def Entry.draw (op : Nat) (f : F2) : Entry :=
  { cls := 0, op := op, dw := 4, aw := 1, modOk := modBits 0x00 f.m, pats := true }
def Entry.drawf (op : Nat) (f : F2) : Entry :=
  { cls := 0, op := op, dw := 4, aw := 1, modOk := modBits 0x00 f.m, pats := true }
def Entry.drawn (op : Nat) (f : F2) : Entry :=
  { cls := 0, op := op, dw := 2, aw := 1, modOk := modBits 0x00 f.m, pats := true }
def Entry.sample (op : Nat) (f : F2) : Entry :=
  { cls := 0, op := op, dw := 1, aw := 1, bw := 1, modOk := modBits 0x00 f.m, pats := true }
def Entry.splitkey (op : Nat) (f : F2) : Entry :=
  { cls := 0, op := op, dw := 2, aw := 2, modOk := modBits 0x00 f.m, pats := true }
def Entry.frcp (op : Nat) (f : F2) : Entry :=
  { cls := 1, op := op, dw := 1, aw := 1, modOk := modFloat f.m, pats := true }
def Entry.frsq (op : Nat) (f : F2) : Entry :=
  { cls := 1, op := op, dw := 1, aw := 1, modOk := modFloat f.m, pats := true }
def Entry.fsqrt (op : Nat) (f : F2) : Entry :=
  { cls := 1, op := op, dw := 1, aw := 1, modOk := modFloat f.m, pats := true }
def Entry.fexp2 (op : Nat) (f : F2) : Entry :=
  { cls := 1, op := op, dw := 1, aw := 1, modOk := modFloat f.m, pats := true }
def Entry.flog2 (op : Nat) (f : F2) : Entry :=
  { cls := 1, op := op, dw := 1, aw := 1, modOk := modFloat f.m, pats := true }
def Entry.fsin (op : Nat) (f : F2) : Entry :=
  { cls := 1, op := op, dw := 1, aw := 1, modOk := modFloat f.m, pats := true }
def Entry.fcos (op : Nat) (f : F2) : Entry :=
  { cls := 1, op := op, dw := 1, aw := 1, modOk := modFloat f.m, pats := true }
def Entry.ftanh (op : Nat) (f : F2) : Entry :=
  { cls := 1, op := op, dw := 1, aw := 1, modOk := modFloat f.m, pats := true }
def Entry.reduce (op : Nat) (f : F2) : Entry :=
  { cls := 1, op := op, dw := (collectiveWidth f.m), aw := (collectiveWidth f.m), bw := 2, modOk := modReduce f.m }
def Entry.scan (op : Nat) (f : F2) : Entry :=
  { cls := 1, op := op, dw := (collectiveWidth f.m), aw := (collectiveWidth f.m), bw := 2, modOk := modScan f.m }
def Entry.vote (op : Nat) (f : F2) : Entry :=
  { cls := 1, op := op, dw := 1, aw := 1, bw := 2, modOk := modBits 0x03 f.m }
def Entry.ballot (op : Nat) (f : F2) : Entry :=
  { cls := 1, op := op, dw := 2, aw := 1, bw := 2, modOk := modBits 0x00 f.m }
def Entry.matchGroup (op : Nat) (f : F2) : Entry :=
  { cls := 1, op := op, dw := 2, aw := (w64Width f.m), bw := 2, modOk := modBits 0x01 f.m }
def Entry.laneget (op : Nat) (f : F2) : Entry :=
  { cls := 1, op := op, dw := (w64Width f.m), aw := (w64Width f.m), bw := 1, modOk := modBits 0x01 f.m }
def Entry.ld (op : Nat) (f : F2) : Entry :=
  { cls := 2, op := op, dw := (accessWidth f.m), aw := 2, bw := 1, modOk := modLoad f.m }
def Entry.st (op : Nat) (f : F2) : Entry :=
  { cls := 2, op := op, aw := 2, bw := (accessWidth f.m), cw := 1, modOk := modStore f.m }
def Entry.ldl (op : Nat) (f : F2) : Entry :=
  { cls := 2, op := op, dw := (accessWidth f.m), aw := 1, bw := 1, modOk := modLoadPlain f.m }
def Entry.stl (op : Nat) (f : F2) : Entry :=
  { cls := 2, op := op, aw := 1, bw := (accessWidth f.m), cw := 1, modOk := modStorePlain f.m }
def Entry.lds (op : Nat) (f : F2) : Entry :=
  { cls := 2, op := op, dw := (accessWidth f.m), aw := 1, bw := 1, modOk := modLoadTier f.m }
def Entry.sts (op : Nat) (f : F2) : Entry :=
  { cls := 2, op := op, aw := 1, bw := (accessWidth f.m), cw := 1, modOk := modStoreTier f.m }
def Entry.ldc (op : Nat) (f : F2) : Entry :=
  { cls := 2, op := op, dw := (accessWidth f.m), aw := 1, bw := 1, modOk := modLoadTier f.m }
def Entry.stc (op : Nat) (f : F2) : Entry :=
  { cls := 2, op := op, aw := 1, bw := (accessWidth f.m), cw := 1, modOk := modStoreTier f.m }
def Entry.lda (op : Nat) (f : F2) : Entry :=
  { cls := 2, op := op, dw := (accessWidth f.m), aw := 1, bw := 1, modOk := modLoadAcc f.m }
def Entry.atom (op : Nat) (f : F2) : Entry :=
  { cls := 2, op := op, dw := (atomDWidth f), aw := 2, bw := (atomWidth f.m), cw := 1, modOk := modAtomic f.m }
def Entry.cas (op : Nat) (f : F2) : Entry :=
  { cls := 2, op := op, dw := (w64Width f.m), aw := 2, bw := (w64Width f.m), cw := (w64Width f.m), modOk := modCas f.m }
def Entry.atoms (op : Nat) (f : F2) : Entry :=
  { cls := 2, op := op, dw := (atomWidth f.m), aw := 1, bw := (atomWidth f.m), modOk := modAtomic f.m }
def Entry.bankop (op : Nat) (f : F2) : Entry :=
  { cls := 2, op := op, dw := 4, aw := 1, bw := (bankBWidth f.m), cw := (bankCWidth f.m), modOk := modBankop f.m }
def Entry.redslot (op : Nat) (f : F2) : Entry :=
  { cls := 2, op := op, aw := 2, bw := (redslotWidth f.m), modOk := modBits 0x07 f.m }
def Entry.prefetch (op : Nat) (f : F2) : Entry :=
  { cls := 2, op := op, aw := 2, bw := 1, modOk := modBits 0x01 f.m }
def Entry.fence (op : Nat) (f : F2) : Entry :=
  { cls := 2, op := op, modOk := modFence f.m }
def Entry.tfence (op : Nat) (f : F2) : Entry :=
  { cls := 2, op := op, modOk := modTfence f.m }
def Entry.monitor (op : Nat) (f : F2) : Entry :=
  { cls := 2, op := op, aw := (monitorAWidth f.m), bw := 1, modOk := modBits 0x01 f.m }
def Entry.tdset (op : Nat) (f : F2) : Entry :=
  { cls := 3, op := op, aw := 2, bw := 1, modOk := modBits 0x00 f.m }
def Entry.copy (op : Nat) (f : F2) : Entry :=
  { cls := 3, op := op, aw := 2, bw := 2, modOk := modToken 0x3F f.m }
def Entry.copyw (op : Nat) (f : F2) : Entry :=
  { cls := 3, op := op, aw := 1, bw := 2, modOk := modToken 0x17 f.m }
def Entry.gather (op : Nat) (f : F2) : Entry :=
  { cls := 3, op := op, aw := 2, bw := 2, cw := 1, modOk := modToken 0x1F f.m }
def Entry.scatter (op : Nat) (f : F2) : Entry :=
  { cls := 3, op := op, aw := 2, bw := 2, cw := 1, modOk := modToken 0x1F f.m }
def Entry.combine (op : Nat) (f : F2) : Entry :=
  { cls := 3, op := op, aw := 2, bw := 1, modOk := modToken 0x07 f.m }
def Entry.replay (op : Nat) (f : F2) : Entry :=
  { cls := 3, op := op, modOk := modToken 0x47 f.m }
def Entry.chsend (op : Nat) (f : F2) : Entry :=
  { cls := 3, op := op, aw := 2, bw := 2, cw := 1, modOk := modToken 0x0F f.m }
def Entry.chrecv (op : Nat) (f : F2) : Entry :=
  { cls := 3, op := op, aw := 2, bw := 2, cw := 1, modOk := modToken 0x17 f.m }
def Entry.brx (op : Nat) (f : F2) : Entry :=
  { cls := 4, op := op, aw := 2, modOk := modBits 0x00 f.m }
def Entry.callx (op : Nat) (f : F2) : Entry :=
  { cls := 4, op := op, aw := 2, modOk := modBits 0x00 f.m }
def Entry.ret (op : Nat) (f : F2) : Entry :=
  { cls := 4, op := op, modOk := modBits 0x00 f.m }
def Entry.exit (op : Nat) (f : F2) : Entry :=
  { cls := 4, op := op, modOk := modBits 0x00 f.m }
def Entry.yield (op : Nat) (f : F2) : Entry :=
  { cls := 4, op := op, modOk := modBits 0x00 f.m }
def Entry.mwait (op : Nat) (f : F2) : Entry :=
  { cls := 4, op := op, dw := 1, aw := 1, modOk := modMwait f.m }
def Entry.trap (op : Nat) (_f : F2) : Entry :=
  { cls := 4, op := op, aw := 1 }
def Entry.trapfence (op : Nat) (f : F2) : Entry :=
  { cls := 4, op := op, dw := 1, modOk := modBits 0x00 f.m }
def Entry.tbar (op : Nat) (f : F2) : Entry :=
  { cls := 4, op := op, modOk := modBits 0x00 f.m }
def Entry.cbar (op : Nat) (f : F2) : Entry :=
  { cls := 4, op := op, modOk := modBits 0x00 f.m }
def Entry.arrive (op : Nat) (f : F2) : Entry :=
  { cls := 4, op := op, aw := 1, modOk := modBits 0x00 f.m }
def Entry.await (op : Nat) (f : F2) : Entry :=
  { cls := 4, op := op, dw := 1, aw := 1, modOk := modBits 0x00 f.m }
def Entry.mload (op : Nat) (f : F2) : Entry :=
  { cls := 5, op := op, aw := 1, bw := 1, cw := (scaleWidth f.m), modOk := modFmt f.m }
def Entry.mswap (op : Nat) (f : F2) : Entry :=
  { cls := 5, op := op, modOk := modBits 0x00 f.m }
def Entry.mstream (op : Nat) (f : F2) : Entry :=
  { cls := 5, op := op, aw := 1, bw := 1, cw := 1, modOk := modFmt f.m }
def Entry.mvstream (op : Nat) (f : F2) : Entry :=
  { cls := 5, op := op, aw := 2, bw := 1, cw := 1, modOk := modFmt f.m }
def Entry.mdist (op : Nat) (f : F2) : Entry :=
  { cls := 5, op := op, aw := 1, bw := 1, cw := 1, modOk := modFmtDist f.m }
def Entry.mtopk (op : Nat) (f : F2) : Entry :=
  { cls := 5, op := op, aw := (topkAWidth f.m), bw := 1, cw := 1, modOk := modTopk f.m }
def Entry.mepi (op : Nat) (f : F2) : Entry :=
  { cls := 5, op := op, aw := 2, bw := 1, cw := 1, modOk := modBits 0x00 f.m }
def Entry.mdrain (op : Nat) (f : F2) : Entry :=
  { cls := 5, op := op, aw := 1, bw := (drainBWidth f.m), cw := 1, modOk := modBits 0x01 f.m }
def Entry.mclear (op : Nat) (f : F2) : Entry :=
  { cls := 5, op := op, aw := 1, bw := 1, modOk := modBits 0x00 f.m }
def Entry.walk (op : Nat) (f : F2) : Entry :=
  { cls := 5, op := op, dw := 1, aw := 1, bw := 1, modOk := modBits 0x01 f.m }
def Entry.endwalk (op : Nat) (f : F2) : Entry :=
  { cls := 5, op := op, modOk := modBits 0x00 f.m }
def Entry.seqArrive (op : Nat) (f : F2) : Entry :=
  { cls := 5, op := op, aw := 1, modOk := modBits 0x00 f.m }
def Entry.seqAwait (op : Nat) (f : F2) : Entry :=
  { cls := 5, op := op, dw := 1, aw := 1, modOk := modBits 0x00 f.m }
def Entry.swait (op : Nat) (f : F2) : Entry :=
  { cls := 5, op := op, modOk := modBits 0x00 f.m }
def Entry.sqexit (op : Nat) (f : F2) : Entry :=
  { cls := 5, op := op, modOk := modBits 0x00 f.m }
def Entry.seqIadd (op : Nat) (f : F2) : Entry :=
  { cls := 5, op := op, dw := 1, aw := 1, bw := 1, modOk := modBits 0x03 f.m }
def Entry.seqIsub (op : Nat) (f : F2) : Entry :=
  { cls := 5, op := op, dw := 1, aw := 1, bw := 1, modOk := modBits 0x03 f.m }
def Entry.seqImul (op : Nat) (f : F2) : Entry :=
  { cls := 5, op := op, dw := 1, aw := 1, bw := 1, modOk := modBits 0x03 f.m }
def Entry.seqImin (op : Nat) (f : F2) : Entry :=
  { cls := 5, op := op, dw := 1, aw := 1, bw := 1, modOk := modBits 0x01 f.m }
def Entry.seqImax (op : Nat) (f : F2) : Entry :=
  { cls := 5, op := op, dw := 1, aw := 1, bw := 1, modOk := modBits 0x01 f.m }
def Entry.seqAnd (op : Nat) (f : F2) : Entry :=
  { cls := 5, op := op, dw := 1, aw := 1, bw := 1, modOk := modBits 0x00 f.m }
def Entry.seqOr (op : Nat) (f : F2) : Entry :=
  { cls := 5, op := op, dw := 1, aw := 1, bw := 1, modOk := modBits 0x00 f.m }
def Entry.seqXor (op : Nat) (f : F2) : Entry :=
  { cls := 5, op := op, dw := 1, aw := 1, bw := 1, modOk := modBits 0x00 f.m }
def Entry.seqShl (op : Nat) (f : F2) : Entry :=
  { cls := 5, op := op, dw := 1, aw := 1, bw := 1, modOk := modBits 0x01 f.m }
def Entry.seqShr (op : Nat) (f : F2) : Entry :=
  { cls := 5, op := op, dw := 1, aw := 1, bw := 1, modOk := modBits 0x01 f.m }
def Entry.seqMov (op : Nat) (f : F2) : Entry :=
  { cls := 5, op := op, dw := 1, aw := 1, modOk := modBits 0x00 f.m }
def Entry.sread (op : Nat) (f : F2) : Entry :=
  { cls := 6, op := op, dw := 2, aw := 1, modOk := modBits 0x00 f.m }
def Entry.swrite (op : Nat) (f : F2) : Entry :=
  { cls := 6, op := op, aw := 1, bw := 2, modOk := modBits 0x00 f.m }
def Entry.launch (op : Nat) (f : F2) : Entry :=
  { cls := 6, op := op, dw := 1, aw := 2, modOk := modBits 0x01 f.m }
def Entry.qread (op : Nat) (f : F2) : Entry :=
  { cls := 6, op := op, dw := 2, aw := 1, bw := 1, modOk := modBits 0x00 f.m }
def Entry.evread (op : Nat) (f : F2) : Entry :=
  { cls := 6, op := op, dw := 1, aw := 1, modOk := modBits 0x00 f.m }
def Entry.evwait (op : Nat) (f : F2) : Entry :=
  { cls := 6, op := op, dw := 1, aw := 1, modOk := modBits 0x00 f.m }
def Entry.signal (op : Nat) (f : F2) : Entry :=
  { cls := 6, op := op, aw := 1, modOk := modBits 0x00 f.m }
def Entry.tlbinv (op : Nat) (f : F2) : Entry :=
  { cls := 6, op := op, aw := 2, modOk := modBits 0x01 f.m }
def Entry.keyop (op : Nat) (f : F2) : Entry :=
  { cls := 6, op := op, dw := 1, aw := 1, bw := 2, modOk := modBits 0x00 f.m }

/-- Entries of the literal layouts (R172), of instructions without operands, and of the compares of two operands. -/
def Entry.literal (cls op : Nat) : Entry := { cls := cls, op := op, dw := 1 }
def Entry.bare (cls op : Nat) : Entry := { cls := cls, op := op }
def Entry.compare (cls op : Nat) : Entry := { cls := cls, op := op, aw := 1, bw := 1 }

/-- The fields of those, the absent ones idle. -/
def F2.none : F2 := ⟨.z, .z, .z, .z, .idle, .idle, 0⟩
def F2.dst (d : Opd) : F2 := ⟨d, .z, .z, .z, .idle, .idle, 0⟩
def F2.cmp (a b : Opd) : F2 := ⟨.z, a, b, .z, .idle, .idle, 0⟩

/-- The encoding entry of an instruction (the tables of R226, R250, R270, R274, R287, R291, R317, R347, R388);
none for the operations and events, which have no encoding. Class 7 stands for BRK's every class. -/
def entryOf (i : Instr) : Option Entry :=
  match i with
  | .nop f => some (Entry.nop 0x00 f.widen)
  | .nopW2 f => some (Entry.nop 0x80 f)
  | .mov f => some (Entry.mov 0x02 f.widen)
  | .movW2 f => some (Entry.mov 0x82 f)
  | .rget f => some (Entry.rget 0x04 f.widen)
  | .rgetW2 f => some (Entry.rget 0x84 f)
  | .rput f => some (Entry.rput 0x05 f.widen)
  | .rputW2 f => some (Entry.rput 0x85 f)
  | .iadd f => some (Entry.iadd 0x10 f.widen)
  | .iaddW2 f => some (Entry.iadd 0x90 f)
  | .isub f => some (Entry.isub 0x11 f.widen)
  | .isubW2 f => some (Entry.isub 0x91 f)
  | .iadd3 f => some (Entry.iadd3 0x92 f)
  | .iaddco f => some (Entry.iaddco 0x93 f)
  | .imul f => some (Entry.imul 0x14 f.widen)
  | .imulW2 f => some (Entry.imul 0x94 f)
  | .imulhi f => some (Entry.imulhi 0x15 f.widen)
  | .imulhiW2 f => some (Entry.imulhi 0x95 f)
  | .imad f => some (Entry.imad 0x96 f)
  | .imadwide f => some (Entry.imadwide 0x97 f)
  | .imin f => some (Entry.imin 0x18 f.widen)
  | .iminW2 f => some (Entry.imin 0x98 f)
  | .imax f => some (Entry.imax 0x19 f.widen)
  | .imaxW2 f => some (Entry.imax 0x99 f)
  | .iabs f => some (Entry.iabs 0x1A f.widen)
  | .iabsW2 f => some (Entry.iabs 0x9A f)
  | .icmp f => some (Entry.icmp 0x1B f.widen)
  | .icmpW2 f => some (Entry.icmp 0x9B f)
  | .sel f => some (Entry.sel 0x9C f)
  | .and f => some (Entry.and 0x20 f.widen)
  | .andW2 f => some (Entry.and 0xA0 f)
  | .or f => some (Entry.or 0x21 f.widen)
  | .orW2 f => some (Entry.or 0xA1 f)
  | .xor f => some (Entry.xor 0x22 f.widen)
  | .xorW2 f => some (Entry.xor 0xA2 f)
  | .andn f => some (Entry.andn 0x23 f.widen)
  | .andnW2 f => some (Entry.andn 0xA3 f)
  | .not f => some (Entry.not 0x24 f.widen)
  | .notW2 f => some (Entry.not 0xA4 f)
  | .lop3 f => some (Entry.lop3 0xA5 f)
  | .shl f => some (Entry.shl 0x26 f.widen)
  | .shlW2 f => some (Entry.shl 0xA6 f)
  | .shr f => some (Entry.shr 0x27 f.widen)
  | .shrW2 f => some (Entry.shr 0xA7 f)
  | .sar f => some (Entry.sar 0x28 f.widen)
  | .sarW2 f => some (Entry.sar 0xA8 f)
  | .rotl f => some (Entry.rotl 0x29 f.widen)
  | .rotlW2 f => some (Entry.rotl 0xA9 f)
  | .funnel f => some (Entry.funnel 0xAA f)
  | .bfx f => some (Entry.bfx 0x30 f.widen)
  | .bfxW2 f => some (Entry.bfx 0xB0 f)
  | .bfi f => some (Entry.bfi 0xB1 f)
  | .popc f => some (Entry.popc 0x32 f.widen)
  | .popcW2 f => some (Entry.popc 0xB2 f)
  | .clz f => some (Entry.clz 0x33 f.widen)
  | .clzW2 f => some (Entry.clz 0xB3 f)
  | .ctz f => some (Entry.ctz 0x34 f.widen)
  | .ctzW2 f => some (Entry.ctz 0xB4 f)
  | .brev f => some (Entry.brev 0x35 f.widen)
  | .brevW2 f => some (Entry.brev 0xB5 f)
  | .bzip2 f => some (Entry.bzip2 0x36 f.widen)
  | .bzip2W2 f => some (Entry.bzip2 0xB6 f)
  | .bzip3 f => some (Entry.bzip3 0x37 f.widen)
  | .bzip3W2 f => some (Entry.bzip3 0xB7 f)
  | .bunzip2 f => some (Entry.bunzip2 0x38 f.widen)
  | .bunzip2W2 f => some (Entry.bunzip2 0xB8 f)
  | .bunzip3 f => some (Entry.bunzip3 0x39 f.widen)
  | .bunzip3W2 f => some (Entry.bunzip3 0xB9 f)
  | .byteperm f => some (Entry.byteperm 0x3A f.widen)
  | .bytepermW2 f => some (Entry.byteperm 0xBA f)
  | .iadd64 f => some (Entry.iadd64 0x40 f.widen)
  | .iadd64W2 f => some (Entry.iadd64 0xC0 f)
  | .shl64 f => some (Entry.shl64 0x41 f.widen)
  | .shl64W2 f => some (Entry.shl64 0xC1 f)
  | .shr64 f => some (Entry.shr64 0x42 f.widen)
  | .shr64W2 f => some (Entry.shr64 0xC2 f)
  | .lea f => some (Entry.lea 0x43 f.widen)
  | .leaW2 f => some (Entry.lea 0xC3 f)
  | .fadd f => some (Entry.fadd 0x50 f.widen)
  | .faddW2 f => some (Entry.fadd 0xD0 f)
  | .fsub f => some (Entry.fsub 0x51 f.widen)
  | .fsubW2 f => some (Entry.fsub 0xD1 f)
  | .fmul f => some (Entry.fmul 0x52 f.widen)
  | .fmulW2 f => some (Entry.fmul 0xD2 f)
  | .ffma f => some (Entry.ffma 0xD3 f)
  | .fmin f => some (Entry.fmin 0x54 f.widen)
  | .fminW2 f => some (Entry.fmin 0xD4 f)
  | .fmax f => some (Entry.fmax 0x55 f.widen)
  | .fmaxW2 f => some (Entry.fmax 0xD5 f)
  | .fcmp f => some (Entry.fcmp 0x56 f.widen)
  | .fcmpW2 f => some (Entry.fcmp 0xD6 f)
  | .fclass f => some (Entry.fclass 0x57 f.widen)
  | .fclassW2 f => some (Entry.fclass 0xD7 f)
  | .frnd f => some (Entry.frnd 0x58 f.widen)
  | .frndW2 f => some (Entry.frnd 0xD8 f)
  | .ffract f => some (Entry.ffract 0x59 f.widen)
  | .ffractW2 f => some (Entry.ffract 0xD9 f)
  | .fscale f => some (Entry.fscale 0x5A f.widen)
  | .fscaleW2 f => some (Entry.fscale 0xDA f)
  | .fgetexp f => some (Entry.fgetexp 0x5B f.widen)
  | .fgetexpW2 f => some (Entry.fgetexp 0xDB f)
  | .fgetman f => some (Entry.fgetman 0x5C f.widen)
  | .fgetmanW2 f => some (Entry.fgetman 0xDC f)
  | .hadd2 f => some (Entry.hadd2 0x60 f.widen)
  | .hadd2W2 f => some (Entry.hadd2 0xE0 f)
  | .hmul2 f => some (Entry.hmul2 0x61 f.widen)
  | .hmul2W2 f => some (Entry.hmul2 0xE1 f)
  | .hfma2 f => some (Entry.hfma2 0xE2 f)
  | .hmin2 f => some (Entry.hmin2 0x63 f.widen)
  | .hmin2W2 f => some (Entry.hmin2 0xE3 f)
  | .hmax2 f => some (Entry.hmax2 0x64 f.widen)
  | .hmax2W2 f => some (Entry.hmax2 0xE4 f)
  | .dot2 f => some (Entry.dot2 0xE5 f)
  | .dot4 f => some (Entry.dot4 0xE6 f)
  | .dadd f => some (Entry.dadd 0x68 f.widen)
  | .daddW2 f => some (Entry.dadd 0xE8 f)
  | .dmul f => some (Entry.dmul 0x69 f.widen)
  | .dmulW2 f => some (Entry.dmul 0xE9 f)
  | .dfma f => some (Entry.dfma 0xEA f)
  | .dcmp f => some (Entry.dcmp 0x6B f.widen)
  | .dcmpW2 f => some (Entry.dcmp 0xEB f)
  | .cvt f => some (Entry.cvt 0xF0 f)
  | .cvtpk f => some (Entry.cvtpk 0xF1 f)
  | .cvtunpk f => some (Entry.cvtunpk 0xF2 f)
  | .draw f => some (Entry.draw 0x78 f.widen)
  | .drawW2 f => some (Entry.draw 0xF8 f)
  | .drawf f => some (Entry.drawf 0x79 f.widen)
  | .drawfW2 f => some (Entry.drawf 0xF9 f)
  | .drawn f => some (Entry.drawn 0x7A f.widen)
  | .drawnW2 f => some (Entry.drawn 0xFA f)
  | .sample f => some (Entry.sample 0x7B f.widen)
  | .sampleW2 f => some (Entry.sample 0xFB f)
  | .splitkey f => some (Entry.splitkey 0x7C f.widen)
  | .splitkeyW2 f => some (Entry.splitkey 0xFC f)
  | .frcp f => some (Entry.frcp 0x00 f.widen)
  | .frcpW2 f => some (Entry.frcp 0x80 f)
  | .frsq f => some (Entry.frsq 0x01 f.widen)
  | .frsqW2 f => some (Entry.frsq 0x81 f)
  | .fsqrt f => some (Entry.fsqrt 0x02 f.widen)
  | .fsqrtW2 f => some (Entry.fsqrt 0x82 f)
  | .fexp2 f => some (Entry.fexp2 0x03 f.widen)
  | .fexp2W2 f => some (Entry.fexp2 0x83 f)
  | .flog2 f => some (Entry.flog2 0x04 f.widen)
  | .flog2W2 f => some (Entry.flog2 0x84 f)
  | .fsin f => some (Entry.fsin 0x05 f.widen)
  | .fsinW2 f => some (Entry.fsin 0x85 f)
  | .fcos f => some (Entry.fcos 0x06 f.widen)
  | .fcosW2 f => some (Entry.fcos 0x86 f)
  | .ftanh f => some (Entry.ftanh 0x07 f.widen)
  | .ftanhW2 f => some (Entry.ftanh 0x87 f)
  | .reduce f => some (Entry.reduce 0x10 f.widen)
  | .reduceW2 f => some (Entry.reduce 0x90 f)
  | .scan f => some (Entry.scan 0x11 f.widen)
  | .scanW2 f => some (Entry.scan 0x91 f)
  | .vote f => some (Entry.vote 0x12 f.widen)
  | .voteW2 f => some (Entry.vote 0x92 f)
  | .ballot f => some (Entry.ballot 0x13 f.widen)
  | .ballotW2 f => some (Entry.ballot 0x93 f)
  | .matchGroup f => some (Entry.matchGroup 0x14 f.widen)
  | .matchW2 f => some (Entry.matchGroup 0x94 f)
  | .laneget f => some (Entry.laneget 0x15 f.widen)
  | .lanegetW2 f => some (Entry.laneget 0x95 f)
  | .ld f => some (Entry.ld 0x00 f.widen)
  | .ldW2 f => some (Entry.ld 0x80 f)
  | .st f => some (Entry.st 0x01 f.widen)
  | .stW2 f => some (Entry.st 0x81 f)
  | .ldl f => some (Entry.ldl 0x02 f.widen)
  | .ldlW2 f => some (Entry.ldl 0x82 f)
  | .stl f => some (Entry.stl 0x03 f.widen)
  | .stlW2 f => some (Entry.stl 0x83 f)
  | .lds f => some (Entry.lds 0x04 f.widen)
  | .ldsW2 f => some (Entry.lds 0x84 f)
  | .sts f => some (Entry.sts 0x05 f.widen)
  | .stsW2 f => some (Entry.sts 0x85 f)
  | .ldc f => some (Entry.ldc 0x06 f.widen)
  | .ldcW2 f => some (Entry.ldc 0x86 f)
  | .stc f => some (Entry.stc 0x07 f.widen)
  | .stcW2 f => some (Entry.stc 0x87 f)
  | .lda f => some (Entry.lda 0x08 f.widen)
  | .ldaW2 f => some (Entry.lda 0x88 f)
  | .atom f => some (Entry.atom 0x10 f.widen)
  | .atomW2 f => some (Entry.atom 0x90 f)
  | .cas f => some (Entry.cas 0x91 f)
  | .atoms f => some (Entry.atoms 0x12 f.widen)
  | .atomsW2 f => some (Entry.atoms 0x92 f)
  | .bankop f => some (Entry.bankop 0x98 f)
  | .redslot f => some (Entry.redslot 0x99 f)
  | .prefetch f => some (Entry.prefetch 0x20 f.widen)
  | .prefetchW2 f => some (Entry.prefetch 0xA0 f)
  | .fence f => some (Entry.fence 0x21 f.widen)
  | .fenceW2 f => some (Entry.fence 0xA1 f)
  | .tfence f => some (Entry.tfence 0x22 f.widen)
  | .tfenceW2 f => some (Entry.tfence 0xA2 f)
  | .monitor f => some (Entry.monitor 0x23 f.widen)
  | .monitorW2 f => some (Entry.monitor 0xA3 f)
  | .tdset f => some (Entry.tdset 0x00 f.widen)
  | .tdsetW2 f => some (Entry.tdset 0x80 f)
  | .copy f => some (Entry.copy 0x01 f.widen)
  | .copyW2 f => some (Entry.copy 0x81 f)
  | .copyw f => some (Entry.copyw 0x02 f.widen)
  | .copywW2 f => some (Entry.copyw 0x82 f)
  | .gather f => some (Entry.gather 0x03 f.widen)
  | .gatherW2 f => some (Entry.gather 0x83 f)
  | .scatter f => some (Entry.scatter 0x04 f.widen)
  | .scatterW2 f => some (Entry.scatter 0x84 f)
  | .combine f => some (Entry.combine 0x05 f.widen)
  | .combineW2 f => some (Entry.combine 0x85 f)
  | .replay f => some (Entry.replay 0x06 f.widen)
  | .replayW2 f => some (Entry.replay 0x86 f)
  | .chsend f => some (Entry.chsend 0x07 f.widen)
  | .chsendW2 f => some (Entry.chsend 0x87 f)
  | .chrecv f => some (Entry.chrecv 0x08 f.widen)
  | .chrecvW2 f => some (Entry.chrecv 0x88 f)
  | .brx f => some (Entry.brx 0x07 f.widen)
  | .callx f => some (Entry.callx 0x09 f.widen)
  | .ret f => some (Entry.ret 0x0A f.widen)
  | .exit f => some (Entry.exit 0x10 f.widen)
  | .yield f => some (Entry.yield 0x11 f.widen)
  | .mwait f => some (Entry.mwait 0x12 f.widen)
  | .mwaitW2 f => some (Entry.mwait 0x92 f)
  | .trap f => some (Entry.trap 0x18 f.widen)
  | .trapW2 f => some (Entry.trap 0x98 f)
  | .trapfence f => some (Entry.trapfence 0x19 f.widen)
  | .tbar f => some (Entry.tbar 0x20 f.widen)
  | .cbar f => some (Entry.cbar 0x21 f.widen)
  | .arrive f => some (Entry.arrive 0x22 f.widen)
  | .await f => some (Entry.await 0x23 f.widen)
  | .mload f => some (Entry.mload 0x00 f.widen)
  | .mloadW2 f => some (Entry.mload 0x80 f)
  | .mswap f => some (Entry.mswap 0x01 f.widen)
  | .mswapW2 f => some (Entry.mswap 0x81 f)
  | .mstream f => some (Entry.mstream 0x02 f.widen)
  | .mstreamW2 f => some (Entry.mstream 0x82 f)
  | .mvstream f => some (Entry.mvstream 0x03 f.widen)
  | .mvstreamW2 f => some (Entry.mvstream 0x83 f)
  | .mdist f => some (Entry.mdist 0x04 f.widen)
  | .mdistW2 f => some (Entry.mdist 0x84 f)
  | .mtopk f => some (Entry.mtopk 0x05 f.widen)
  | .mtopkW2 f => some (Entry.mtopk 0x85 f)
  | .mepi f => some (Entry.mepi 0x06 f.widen)
  | .mepiW2 f => some (Entry.mepi 0x86 f)
  | .mdrain f => some (Entry.mdrain 0x07 f.widen)
  | .mdrainW2 f => some (Entry.mdrain 0x87 f)
  | .mclear f => some (Entry.mclear 0x08 f.widen)
  | .mclearW2 f => some (Entry.mclear 0x88 f)
  | .walk f => some (Entry.walk 0x10 f.widen)
  | .walkW2 f => some (Entry.walk 0x90 f)
  | .endwalk f => some (Entry.endwalk 0x11 f.widen)
  | .endwalkW2 f => some (Entry.endwalk 0x91 f)
  | .seqArrive f => some (Entry.seqArrive 0x18 f.widen)
  | .seqAwait f => some (Entry.seqAwait 0x19 f.widen)
  | .swait f => some (Entry.swait 0x1A f.widen)
  | .sqexit f => some (Entry.sqexit 0x1B f.widen)
  | .seqIadd f => some (Entry.seqIadd 0x20 f.widen)
  | .seqIaddW2 f => some (Entry.seqIadd 0xA0 f)
  | .seqIsub f => some (Entry.seqIsub 0x21 f.widen)
  | .seqIsubW2 f => some (Entry.seqIsub 0xA1 f)
  | .seqImul f => some (Entry.seqImul 0x22 f.widen)
  | .seqImulW2 f => some (Entry.seqImul 0xA2 f)
  | .seqImin f => some (Entry.seqImin 0x23 f.widen)
  | .seqIminW2 f => some (Entry.seqImin 0xA3 f)
  | .seqImax f => some (Entry.seqImax 0x24 f.widen)
  | .seqImaxW2 f => some (Entry.seqImax 0xA4 f)
  | .seqAnd f => some (Entry.seqAnd 0x25 f.widen)
  | .seqAndW2 f => some (Entry.seqAnd 0xA5 f)
  | .seqOr f => some (Entry.seqOr 0x26 f.widen)
  | .seqOrW2 f => some (Entry.seqOr 0xA6 f)
  | .seqXor f => some (Entry.seqXor 0x27 f.widen)
  | .seqXorW2 f => some (Entry.seqXor 0xA7 f)
  | .seqShl f => some (Entry.seqShl 0x28 f.widen)
  | .seqShlW2 f => some (Entry.seqShl 0xA8 f)
  | .seqShr f => some (Entry.seqShr 0x29 f.widen)
  | .seqShrW2 f => some (Entry.seqShr 0xA9 f)
  | .seqMov f => some (Entry.seqMov 0x2A f.widen)
  | .seqMovW2 f => some (Entry.seqMov 0xAA f)
  | .sread f => some (Entry.sread 0x00 f.widen)
  | .sreadW2 f => some (Entry.sread 0x80 f)
  | .swrite f => some (Entry.swrite 0x01 f.widen)
  | .swriteW2 f => some (Entry.swrite 0x81 f)
  | .launch f => some (Entry.launch 0x02 f.widen)
  | .launchW2 f => some (Entry.launch 0x82 f)
  | .qread f => some (Entry.qread 0x03 f.widen)
  | .qreadW2 f => some (Entry.qread 0x83 f)
  | .evread f => some (Entry.evread 0x04 f.widen)
  | .evreadW2 f => some (Entry.evread 0x84 f)
  | .evwait f => some (Entry.evwait 0x05 f.widen)
  | .signal f => some (Entry.signal 0x06 f.widen)
  | .signalW2 f => some (Entry.signal 0x86 f)
  | .tlbinv f => some (Entry.tlbinv 0x07 f.widen)
  | .tlbinvW2 f => some (Entry.tlbinv 0x87 f)
  | .keyop f => some (Entry.keyop 0x08 f.widen)
  | .keyopW2 f => some (Entry.keyop 0x88 f)
  | .movi _ _ => some (Entry.literal 0 0x03)
  | .moviW2 _ _ => some (Entry.literal 0 0x83)
  | .seqMovi _ _ => some (Entry.literal 5 0x2B)
  | .seqMoviW2 _ _ => some (Entry.literal 5 0xAB)
  | .bra _ => some (Entry.bare 4 0x06)
  | .braW2 _ => some (Entry.bare 4 0x86)
  | .call _ => some (Entry.bare 4 0x08)
  | .callW2 _ => some (Entry.bare 4 0x88)
  | .seqBra _ => some (Entry.bare 5 0x34)
  | .seqBraW2 _ => some (Entry.bare 5 0xB4)
  | .beq _ _ _ => some (Entry.compare 4 0x80)
  | .bne _ _ _ => some (Entry.compare 4 0x81)
  | .blt _ _ _ => some (Entry.compare 4 0x82)
  | .bge _ _ _ => some (Entry.compare 4 0x83)
  | .bltn _ _ _ => some (Entry.compare 4 0x84)
  | .bgen _ _ _ => some (Entry.compare 4 0x85)
  | .seqBeq _ _ _ => some (Entry.compare 5 0xB0)
  | .seqBne _ _ _ => some (Entry.compare 5 0xB1)
  | .seqBlt _ _ _ => some (Entry.compare 5 0xB2)
  | .seqBge _ _ _ => some (Entry.compare 5 0xB3)
  | .rep _ _ _ _ _ _ => some (Entry.bare 0 0x01)
  | .brk _ _ => some (Entry.bare 7 0x7F)
  | .create _ => none
  | .sliceReady _ => none
  | .templateTimeout _ => none
  | .destroy _ => none
  | .destroyingDone _ => none
  | .merge _ => none
  | .split _ => none
  | .splitTimeout _ => none
  | .attach _ => none
  | .detach _ => none
  | .quiesce _ => none
  | .resume _ => none
  | .reset _ => none
  | .worldReset _ => none
  | .resettingDone _ => none
  | .commandDone => none
  | .fatalSliceError _ _ => none
  | .functionLevelReset _ => none
  | .wldCtlEnSet _ => none
  | .wldCtlEnClear _ => none
  | .coldReset _ => none
  | .configurationRequest _ => none
  | .stage _ => none
  | .activate _ => none
  | .discard _ => none
  | .activationDone => none
  | .getVersion _ => none
  | .getCapabilities _ => none
  | .negotiateAlgorithms _ _ => none
  | .getDigests _ => none
  | .getCertificate _ _ _ _ => none
  | .challenge _ _ => none
  | .getMeasurements _ _ _ => none
  | .keyExchange _ _ => none
  | .finish _ _ => none
  | .endSession _ _ => none
  | .keyUpdate _ _ => none
  | .respondIfReady _ _ _ => none
  | .lockInterfaceRequest _ _ => none
  | .startInterfaceRequest _ _ => none
  | .stopInterfaceRequest _ _ => none
  | .chkey _ _ _ => none
  | .chstatus _ _ _ => none
  | .freezeReadout => none
  | .lifetimeCounterRead _ => none
  | .powerTelemetry => none
  | .firmwareStaging _ _ _ => none
  | .freeze _ => none
  | .freezeN => none
  | .counterCommit => none
  | .powerDown => none
  | .atsInvalidation _ _ _ => none
  | .prgResponse _ _ _ => none
  | .hdmRead _ _ => none
  | .hdmWrite _ _ => none
  | .hdmDecoderCommit _ _ _ _ _ => none
  | .hostSnoop _ _ => none
  | .ualinkInboundRead _ _ _ _ _ _ _ => none
  | .ualinkInboundWrite _ _ _ _ _ _ _ => none
  | .ualinkInboundAtomic _ _ _ _ _ _ _ _ _ _ => none
  | .ualinkResponse _ _ _ => none
  | .requestTimeout _ => none
  | .ualStationWrite _ => none
  | .routingEntryWrite _ _ _ => none
  | .segmentWrite _ _ _ => none
  | .wldTctxWrite _ _ => none
  | .wldRbaseWrite _ _ _ => none
  | .wldCprogWrite _ _ => none
  | .wldNotifyWrite _ _ _ => none
  | .slcAgeLimitWrite _ _ => none
  | .slcLendWrite _ _ => none
  | .slcQuantumWrite _ _ => none
  | .keyRotStart _ => none
  | .keyTagbaseWrite _ _ => none
  | .relStatWrite _ => none
  | .metPeriodWrite _ => none
  | .registerWrite _ _ _ _ => none
  | .track _ => none
  | .harvest _ => none
  | .exportWorld _ => none
  | .exportTimeout _ => none
  | .importWorld _ => none
  | .untrack _ => none
  | .decisionStep _ => none
  | .launchComplete _ => none
  | .turnEnd _ => none
  | .clauseFetch _ _ _ => none
  | .stallEnd _ _ => none
  | .groupSwap _ _ => none
  | .progressOverride _ => none
  | .joinTimeout _ _ => none
  | .mwaitTimeout _ _ => none
  | .quantumExpiry _ => none
  | .contextSave _ => none
  | .rollback _ => none
  | .varnishRelease _ => none
  | .replyRetry _ _ => none
  | .replyFail _ _ => none
  | .copyPieceComplete _ _ => none
  | .passGrant _ => none
  | .passComplete _ => none
  | .entryAge _ _ => none
  | .rotationStep _ => none
  | .correctedError _ _ _ _ => none
  | .uncorrectableError _ _ _ _ => none
  | .periodBoundary => none
  | .calendarSwitch => none
  | .haltGroup _ => none
  | .resumeGroup _ => none
  | .stepGroup _ => none
  | .haltTeam _ => none
  | .resumeTeam _ => none
  | .dbgReport _ => none
  | .dbgStatWrite _ _ => none
  | .dbgRdataRead _ => none
  | .dbgRdataWrite _ _ => none
  | .dbgWpWrite _ _ _ => none
  | .stageDone _ => none
  | .migrationCommandDone _ => none
  | .badcmd _ _ _ => none
  | .unassignedOpcode _ => none
  | .spdmUnsupportedRequest _ _ => none
  | .getDeviceInterfaceReport _ _ => none
  | .ideKm _ _ _ => none
  | .fqHeadWrite _ _ => none
  | .lineEviction _ _ => none
  | .powerLoss => none
  | .correctedMergeEnd _ _ => none
  | .sensorHour _ _ => none

/-- The operand fields of an encoded instruction, in the shape of R164 (R165 for one-word forms; the fields that a
literal layout of R172 does not have read idle). -/
def fieldsOf (i : Instr) : Option F2 :=
  match i with
  | .nop f => some f.widen
  | .nopW2 f => some f
  | .rep _ _ _ _ _ _ => some F2.none
  | .mov f => some f.widen
  | .movW2 f => some f
  | .movi d _ => some (F2.dst d)
  | .moviW2 d _ => some (F2.dst d)
  | .rget f => some f.widen
  | .rgetW2 f => some f
  | .rput f => some f.widen
  | .rputW2 f => some f
  | .iadd f => some f.widen
  | .iaddW2 f => some f
  | .isub f => some f.widen
  | .isubW2 f => some f
  | .iadd3 f => some f
  | .iaddco f => some f
  | .imul f => some f.widen
  | .imulW2 f => some f
  | .imulhi f => some f.widen
  | .imulhiW2 f => some f
  | .imad f => some f
  | .imadwide f => some f
  | .imin f => some f.widen
  | .iminW2 f => some f
  | .imax f => some f.widen
  | .imaxW2 f => some f
  | .iabs f => some f.widen
  | .iabsW2 f => some f
  | .icmp f => some f.widen
  | .icmpW2 f => some f
  | .sel f => some f
  | .and f => some f.widen
  | .andW2 f => some f
  | .or f => some f.widen
  | .orW2 f => some f
  | .xor f => some f.widen
  | .xorW2 f => some f
  | .andn f => some f.widen
  | .andnW2 f => some f
  | .not f => some f.widen
  | .notW2 f => some f
  | .lop3 f => some f
  | .shl f => some f.widen
  | .shlW2 f => some f
  | .shr f => some f.widen
  | .shrW2 f => some f
  | .sar f => some f.widen
  | .sarW2 f => some f
  | .rotl f => some f.widen
  | .rotlW2 f => some f
  | .funnel f => some f
  | .bfx f => some f.widen
  | .bfxW2 f => some f
  | .bfi f => some f
  | .popc f => some f.widen
  | .popcW2 f => some f
  | .clz f => some f.widen
  | .clzW2 f => some f
  | .ctz f => some f.widen
  | .ctzW2 f => some f
  | .brev f => some f.widen
  | .brevW2 f => some f
  | .bzip2 f => some f.widen
  | .bzip2W2 f => some f
  | .bzip3 f => some f.widen
  | .bzip3W2 f => some f
  | .bunzip2 f => some f.widen
  | .bunzip2W2 f => some f
  | .bunzip3 f => some f.widen
  | .bunzip3W2 f => some f
  | .byteperm f => some f.widen
  | .bytepermW2 f => some f
  | .iadd64 f => some f.widen
  | .iadd64W2 f => some f
  | .shl64 f => some f.widen
  | .shl64W2 f => some f
  | .shr64 f => some f.widen
  | .shr64W2 f => some f
  | .lea f => some f.widen
  | .leaW2 f => some f
  | .fadd f => some f.widen
  | .faddW2 f => some f
  | .fsub f => some f.widen
  | .fsubW2 f => some f
  | .fmul f => some f.widen
  | .fmulW2 f => some f
  | .ffma f => some f
  | .fmin f => some f.widen
  | .fminW2 f => some f
  | .fmax f => some f.widen
  | .fmaxW2 f => some f
  | .fcmp f => some f.widen
  | .fcmpW2 f => some f
  | .fclass f => some f.widen
  | .fclassW2 f => some f
  | .frnd f => some f.widen
  | .frndW2 f => some f
  | .ffract f => some f.widen
  | .ffractW2 f => some f
  | .fscale f => some f.widen
  | .fscaleW2 f => some f
  | .fgetexp f => some f.widen
  | .fgetexpW2 f => some f
  | .fgetman f => some f.widen
  | .fgetmanW2 f => some f
  | .hadd2 f => some f.widen
  | .hadd2W2 f => some f
  | .hmul2 f => some f.widen
  | .hmul2W2 f => some f
  | .hfma2 f => some f
  | .hmin2 f => some f.widen
  | .hmin2W2 f => some f
  | .hmax2 f => some f.widen
  | .hmax2W2 f => some f
  | .dot2 f => some f
  | .dot4 f => some f
  | .dadd f => some f.widen
  | .daddW2 f => some f
  | .dmul f => some f.widen
  | .dmulW2 f => some f
  | .dfma f => some f
  | .dcmp f => some f.widen
  | .dcmpW2 f => some f
  | .cvt f => some f
  | .cvtpk f => some f
  | .cvtunpk f => some f
  | .draw f => some f.widen
  | .drawW2 f => some f
  | .drawf f => some f.widen
  | .drawfW2 f => some f
  | .drawn f => some f.widen
  | .drawnW2 f => some f
  | .sample f => some f.widen
  | .sampleW2 f => some f
  | .splitkey f => some f.widen
  | .splitkeyW2 f => some f
  | .brk _ _ => some F2.none
  | .frcp f => some f.widen
  | .frcpW2 f => some f
  | .frsq f => some f.widen
  | .frsqW2 f => some f
  | .fsqrt f => some f.widen
  | .fsqrtW2 f => some f
  | .fexp2 f => some f.widen
  | .fexp2W2 f => some f
  | .flog2 f => some f.widen
  | .flog2W2 f => some f
  | .fsin f => some f.widen
  | .fsinW2 f => some f
  | .fcos f => some f.widen
  | .fcosW2 f => some f
  | .ftanh f => some f.widen
  | .ftanhW2 f => some f
  | .reduce f => some f.widen
  | .reduceW2 f => some f
  | .scan f => some f.widen
  | .scanW2 f => some f
  | .vote f => some f.widen
  | .voteW2 f => some f
  | .ballot f => some f.widen
  | .ballotW2 f => some f
  | .matchGroup f => some f.widen
  | .matchW2 f => some f
  | .laneget f => some f.widen
  | .lanegetW2 f => some f
  | .ld f => some f.widen
  | .ldW2 f => some f
  | .st f => some f.widen
  | .stW2 f => some f
  | .ldl f => some f.widen
  | .ldlW2 f => some f
  | .stl f => some f.widen
  | .stlW2 f => some f
  | .lds f => some f.widen
  | .ldsW2 f => some f
  | .sts f => some f.widen
  | .stsW2 f => some f
  | .ldc f => some f.widen
  | .ldcW2 f => some f
  | .stc f => some f.widen
  | .stcW2 f => some f
  | .lda f => some f.widen
  | .ldaW2 f => some f
  | .atom f => some f.widen
  | .atomW2 f => some f
  | .cas f => some f
  | .atoms f => some f.widen
  | .atomsW2 f => some f
  | .bankop f => some f
  | .redslot f => some f
  | .prefetch f => some f.widen
  | .prefetchW2 f => some f
  | .fence f => some f.widen
  | .fenceW2 f => some f
  | .tfence f => some f.widen
  | .tfenceW2 f => some f
  | .monitor f => some f.widen
  | .monitorW2 f => some f
  | .tdset f => some f.widen
  | .tdsetW2 f => some f
  | .copy f => some f.widen
  | .copyW2 f => some f
  | .copyw f => some f.widen
  | .copywW2 f => some f
  | .gather f => some f.widen
  | .gatherW2 f => some f
  | .scatter f => some f.widen
  | .scatterW2 f => some f
  | .combine f => some f.widen
  | .combineW2 f => some f
  | .replay f => some f.widen
  | .replayW2 f => some f
  | .chsend f => some f.widen
  | .chsendW2 f => some f
  | .chrecv f => some f.widen
  | .chrecvW2 f => some f
  | .beq a b _ => some (F2.cmp a b)
  | .bne a b _ => some (F2.cmp a b)
  | .blt a b _ => some (F2.cmp a b)
  | .bge a b _ => some (F2.cmp a b)
  | .bltn a b _ => some (F2.cmp a b)
  | .bgen a b _ => some (F2.cmp a b)
  | .bra _ => some F2.none
  | .braW2 _ => some F2.none
  | .brx f => some f.widen
  | .call _ => some F2.none
  | .callW2 _ => some F2.none
  | .callx f => some f.widen
  | .ret f => some f.widen
  | .exit f => some f.widen
  | .yield f => some f.widen
  | .mwait f => some f.widen
  | .mwaitW2 f => some f
  | .trap f => some f.widen
  | .trapW2 f => some f
  | .trapfence f => some f.widen
  | .tbar f => some f.widen
  | .cbar f => some f.widen
  | .arrive f => some f.widen
  | .await f => some f.widen
  | .mload f => some f.widen
  | .mloadW2 f => some f
  | .mswap f => some f.widen
  | .mswapW2 f => some f
  | .mstream f => some f.widen
  | .mstreamW2 f => some f
  | .mvstream f => some f.widen
  | .mvstreamW2 f => some f
  | .mdist f => some f.widen
  | .mdistW2 f => some f
  | .mtopk f => some f.widen
  | .mtopkW2 f => some f
  | .mepi f => some f.widen
  | .mepiW2 f => some f
  | .mdrain f => some f.widen
  | .mdrainW2 f => some f
  | .mclear f => some f.widen
  | .mclearW2 f => some f
  | .walk f => some f.widen
  | .walkW2 f => some f
  | .endwalk f => some f.widen
  | .endwalkW2 f => some f
  | .seqArrive f => some f.widen
  | .seqAwait f => some f.widen
  | .swait f => some f.widen
  | .sqexit f => some f.widen
  | .seqIadd f => some f.widen
  | .seqIaddW2 f => some f
  | .seqIsub f => some f.widen
  | .seqIsubW2 f => some f
  | .seqImul f => some f.widen
  | .seqImulW2 f => some f
  | .seqImin f => some f.widen
  | .seqIminW2 f => some f
  | .seqImax f => some f.widen
  | .seqImaxW2 f => some f
  | .seqAnd f => some f.widen
  | .seqAndW2 f => some f
  | .seqOr f => some f.widen
  | .seqOrW2 f => some f
  | .seqXor f => some f.widen
  | .seqXorW2 f => some f
  | .seqShl f => some f.widen
  | .seqShlW2 f => some f
  | .seqShr f => some f.widen
  | .seqShrW2 f => some f
  | .seqMov f => some f.widen
  | .seqMovW2 f => some f
  | .seqMovi d _ => some (F2.dst d)
  | .seqMoviW2 d _ => some (F2.dst d)
  | .seqBeq a b _ => some (F2.cmp a b)
  | .seqBne a b _ => some (F2.cmp a b)
  | .seqBlt a b _ => some (F2.cmp a b)
  | .seqBge a b _ => some (F2.cmp a b)
  | .seqBra _ => some F2.none
  | .seqBraW2 _ => some F2.none
  | .sread f => some f.widen
  | .sreadW2 f => some f
  | .swrite f => some f.widen
  | .swriteW2 f => some f
  | .launch f => some f.widen
  | .launchW2 f => some f
  | .qread f => some f.widen
  | .qreadW2 f => some f
  | .evread f => some f.widen
  | .evreadW2 f => some f
  | .evwait f => some f.widen
  | .signal f => some f.widen
  | .signalW2 f => some f
  | .tlbinv f => some f.widen
  | .tlbinvW2 f => some f
  | .keyop f => some f.widen
  | .keyopW2 f => some f
  | _ => none

end Sys2Proof
end

