-- ==== Sys2Proof/WellFormed.lean ====
section
/-! DEFINITION. Well-formed instructions: the checks of fault 0x06 that a word alone decides (R165 to R170, R172, R177
row 2). The checks that need the clause, the lane or the group width (R162, R163, R169, R175, an argument at or above
W = 32) are made where the instruction issues. -/

namespace Sys2Proof

/-- A source operand of width w registers in class cls (R166 to R168): an unused one is idle; a register or a latch
names a multiple of its width; the code 0xF7 is no source (R74); class 5 takes s0 to s31, z, 0xF3 and 0xF6 alone. -/
def srcOk (cls w : Nat) (o : Opd) : Bool :=
  if w = 0 then o == .z else
  match o with
  | .reg n => (cls != 5 || decide (n.val < 32)) && n.val % w == 0
  | .special k => if cls = 5 then k == 0 || k == 3 || k == 6 else k != 7
  | .latch k => cls != 5 && k.val % w == 0

/-- A destination operand: as a source, but z is the only special code that takes a result (R74, R168). -/
def dstOk (cls w : Nat) (o : Opd) : Bool :=
  if w = 0 then o == .z else
  match o with
  | .special k => k == 0
  | o => srcOk cls w o

/-- A pattern on a source (R166, R169, R170): idle where patterns or the source are not used; code 00 has argument 0; a
latch is read by its own lane. -/
def patOk (allowed : Bool) (w : Nat) (o : Opd) (p : Pat) : Bool :=
  match p.kind with
  | .own => p.arg == 0
  | _ => allowed && w != 0 && (match o with | .latch _ => false | _ => true)

/-- The fields hold what the entry allows. -/
def fieldsOk (e : Entry) (f : F2) : Bool :=
  dstOk e.cls e.dw f.d && srcOk e.cls e.aw f.a && srcOk e.cls e.bw f.b && srcOk e.cls e.cw f.c && e.modOk &&
    patOk e.pats e.aw f.a f.pa && patOk (e.pats && !e.ownB) e.bw f.b f.pb

/-- The literal of a byte offset must be a multiple of four (R172). -/
def literalOk (i : Instr) : Bool :=
  match i with
  | .braW2 off | .callW2 off | .seqBraW2 off => off.toNat % 4 == 0
  | .beq _ _ off | .bne _ _ off | .blt _ _ off | .bge _ _ off | .bltn _ _ off | .bgen _ _ off => off.toNat % 4 == 0
  | .seqBeq _ _ off | .seqBne _ _ off | .seqBlt _ _ off | .seqBge _ _ off => off.toNat % 4 == 0
  | _ => true

/-- The instruction is one that a word (or two) of the spec's encoding can hold without breaking a check of R177 row 2;
operations and events have no encoding and are not well-formed words. -/
def Instr.wf (i : Instr) : Bool :=
  match entryOf i, fieldsOf i with
  | some e, some f => fieldsOk e f && literalOk i
  | _, _ => false

end Sys2Proof
end

