-- ==== Sys2Proof/Decode.lean ====
section
/-! DEFINITION. Decoding and encoding: fields of the words (R164, R172, R173, R179), the opcode maps of R180 to R186,
decoding total on any words and rejecting by name, and the encoder written from the same tables. -/

namespace Sys2Proof

/-- The operand of a code byte (R167). -/
def Opd.ofByte (x : BitVec 8) : Opd :=
  if h : x.toNat < 240 then .reg ⟨x.toNat, h⟩
  else if x.toNat < 248 then .special (Fin.ofNat 8 (x.toNat - 240))
  else .latch (Fin.ofNat 8 (x.toNat - 248))

/-- The code byte of an operand (R167). -/
def Opd.byte (o : Opd) : BitVec 8 :=
  match o with
  | .reg n => BitVec.ofNat 8 n.val
  | .special k => BitVec.ofNat 8 (240 + k.val)
  | .latch k => BitVec.ofNat 8 (248 + k.val)

/-- The pattern of a two-bit code (R170). -/
def PatKind.ofBits (x : BitVec 2) : PatKind :=
  if x = 0 then .own else if x = 1 then .broadcast else if x = 2 then .rotate else .exclusiveOr

/-- The two-bit code of a pattern (R170). -/
def PatKind.bits (p : PatKind) : BitVec 2 :=
  match p with
  | .own => 0
  | .broadcast => 1
  | .rotate => 2
  | .exclusiveOr => 3

/-- The opcode of word 0, bits 31 to 24. -/
def opOf (w : BitVec 32) : Nat := (w.extractLsb' 24 8).toNat
/-- The destination field of word 0. -/
def fieldD (w : BitVec 32) : Opd := .ofByte (w.extractLsb' 16 8)
/-- The source A field of word 0. -/
def fieldA (w : BitVec 32) : Opd := .ofByte (w.extractLsb' 8 8)
/-- The source B field of word 0. -/
def fieldB (w : BitVec 32) : Opd := .ofByte (w.extractLsb' 0 8)
/-- The three operand fields of word 0. -/
def f1Of (w : BitVec 32) : F1 := ⟨fieldD w, fieldA w, fieldB w⟩
/-- The fields of a two-word instruction (R164). -/
def f2Of (w v : BitVec 32) : F2 :=
  { d := fieldD w, a := fieldA w, b := fieldB w, c := .ofByte (v.extractLsb' 24 8),
    pa := ⟨.ofBits (v.extractLsb' 22 2), v.extractLsb' 16 6⟩,
    pb := ⟨.ofBits (v.extractLsb' 14 2), v.extractLsb' 8 6⟩, m := v.extractLsb' 0 8 }
/-- The 16-bit literal of one-word MOVI (R172). -/
def imm16 (w : BitVec 32) : BitVec 16 := w.extractLsb' 0 16
/-- The offset of one-word BRA and CALL (R172). -/
def off24 (w : BitVec 32) : BitVec 24 := w.extractLsb' 0 24
/-- Sources A and B of a literal layout are idle (R172). -/
def idleAB (w : BitVec 32) : Bool := w.extractLsb' 0 16 == 0xF0F0#16
/-- The destination of a literal layout is idle (R172). -/
def idleD (w : BitVec 32) : Bool := w.extractLsb' 16 8 == 0xF0#8
/-- The literal word of REP (R173); its bits 11 to 0 are zero. -/
noncomputable def repOf (w : BitVec 32) : Option Instr :=
  if w.extractLsb' 0 12 = 0 then
    some (.rep (w.extractLsb' 18 6) (w.getLsbD 17) (w.getLsbD 16) (w.getLsbD 15) (w.getLsbD 14) (w.extractLsb' 12 2))
  else none
/-- The word of BRK (R179); its bits 7 to 1 are zero. -/
noncomputable def brkOf (w : BitVec 32) : Option Instr :=
  if w.extractLsb' 1 7 = 0 then some (.brk (w.extractLsb' 8 16) (w.getLsbD 0)) else none

/-- One-word instructions of class 0 by opcode (R180). -/
noncomputable def oneAlu (op : Nat) (w : BitVec 32) : Option Instr :=
  match op with
  | 0x00 => some (.nop (f1Of w))
  | 0x01 => repOf w
  | 0x02 => some (.mov (f1Of w))
  | 0x03 => some (.movi (fieldD w) (imm16 w))
  | 0x04 => some (.rget (f1Of w))
  | 0x05 => some (.rput (f1Of w))
  | 0x10 => some (.iadd (f1Of w))
  | 0x11 => some (.isub (f1Of w))
  | 0x14 => some (.imul (f1Of w))
  | 0x15 => some (.imulhi (f1Of w))
  | 0x18 => some (.imin (f1Of w))
  | 0x19 => some (.imax (f1Of w))
  | 0x1A => some (.iabs (f1Of w))
  | 0x1B => some (.icmp (f1Of w))
  | 0x20 => some (.and (f1Of w))
  | 0x21 => some (.or (f1Of w))
  | 0x22 => some (.xor (f1Of w))
  | 0x23 => some (.andn (f1Of w))
  | 0x24 => some (.not (f1Of w))
  | 0x26 => some (.shl (f1Of w))
  | 0x27 => some (.shr (f1Of w))
  | 0x28 => some (.sar (f1Of w))
  | 0x29 => some (.rotl (f1Of w))
  | 0x30 => some (.bfx (f1Of w))
  | 0x32 => some (.popc (f1Of w))
  | 0x33 => some (.clz (f1Of w))
  | 0x34 => some (.ctz (f1Of w))
  | 0x35 => some (.brev (f1Of w))
  | 0x36 => some (.bzip2 (f1Of w))
  | 0x37 => some (.bzip3 (f1Of w))
  | 0x38 => some (.bunzip2 (f1Of w))
  | 0x39 => some (.bunzip3 (f1Of w))
  | 0x3A => some (.byteperm (f1Of w))
  | 0x40 => some (.iadd64 (f1Of w))
  | 0x41 => some (.shl64 (f1Of w))
  | 0x42 => some (.shr64 (f1Of w))
  | 0x43 => some (.lea (f1Of w))
  | 0x50 => some (.fadd (f1Of w))
  | 0x51 => some (.fsub (f1Of w))
  | 0x52 => some (.fmul (f1Of w))
  | 0x54 => some (.fmin (f1Of w))
  | 0x55 => some (.fmax (f1Of w))
  | 0x56 => some (.fcmp (f1Of w))
  | 0x57 => some (.fclass (f1Of w))
  | 0x58 => some (.frnd (f1Of w))
  | 0x59 => some (.ffract (f1Of w))
  | 0x5A => some (.fscale (f1Of w))
  | 0x5B => some (.fgetexp (f1Of w))
  | 0x5C => some (.fgetman (f1Of w))
  | 0x60 => some (.hadd2 (f1Of w))
  | 0x61 => some (.hmul2 (f1Of w))
  | 0x63 => some (.hmin2 (f1Of w))
  | 0x64 => some (.hmax2 (f1Of w))
  | 0x68 => some (.dadd (f1Of w))
  | 0x69 => some (.dmul (f1Of w))
  | 0x6B => some (.dcmp (f1Of w))
  | 0x78 => some (.draw (f1Of w))
  | 0x79 => some (.drawf (f1Of w))
  | 0x7A => some (.drawn (f1Of w))
  | 0x7B => some (.sample (f1Of w))
  | 0x7C => some (.splitkey (f1Of w))
  | 0x7F => brkOf w
  | _ => none

/-- Two-word instructions of class 0 by opcode (R180). -/
noncomputable def twoAlu (op : Nat) (w v : BitVec 32) : Option Instr :=
  match op with
  | 0x80 => some (.nopW2 (f2Of w v))
  | 0x82 => some (.movW2 (f2Of w v))
  | 0x83 => if idleAB w then some (.moviW2 (fieldD w) v) else none
  | 0x84 => some (.rgetW2 (f2Of w v))
  | 0x85 => some (.rputW2 (f2Of w v))
  | 0x90 => some (.iaddW2 (f2Of w v))
  | 0x91 => some (.isubW2 (f2Of w v))
  | 0x92 => some (.iadd3 (f2Of w v))
  | 0x93 => some (.iaddco (f2Of w v))
  | 0x94 => some (.imulW2 (f2Of w v))
  | 0x95 => some (.imulhiW2 (f2Of w v))
  | 0x96 => some (.imad (f2Of w v))
  | 0x97 => some (.imadwide (f2Of w v))
  | 0x98 => some (.iminW2 (f2Of w v))
  | 0x99 => some (.imaxW2 (f2Of w v))
  | 0x9A => some (.iabsW2 (f2Of w v))
  | 0x9B => some (.icmpW2 (f2Of w v))
  | 0x9C => some (.sel (f2Of w v))
  | 0xA0 => some (.andW2 (f2Of w v))
  | 0xA1 => some (.orW2 (f2Of w v))
  | 0xA2 => some (.xorW2 (f2Of w v))
  | 0xA3 => some (.andnW2 (f2Of w v))
  | 0xA4 => some (.notW2 (f2Of w v))
  | 0xA5 => some (.lop3 (f2Of w v))
  | 0xA6 => some (.shlW2 (f2Of w v))
  | 0xA7 => some (.shrW2 (f2Of w v))
  | 0xA8 => some (.sarW2 (f2Of w v))
  | 0xA9 => some (.rotlW2 (f2Of w v))
  | 0xAA => some (.funnel (f2Of w v))
  | 0xB0 => some (.bfxW2 (f2Of w v))
  | 0xB1 => some (.bfi (f2Of w v))
  | 0xB2 => some (.popcW2 (f2Of w v))
  | 0xB3 => some (.clzW2 (f2Of w v))
  | 0xB4 => some (.ctzW2 (f2Of w v))
  | 0xB5 => some (.brevW2 (f2Of w v))
  | 0xB6 => some (.bzip2W2 (f2Of w v))
  | 0xB7 => some (.bzip3W2 (f2Of w v))
  | 0xB8 => some (.bunzip2W2 (f2Of w v))
  | 0xB9 => some (.bunzip3W2 (f2Of w v))
  | 0xBA => some (.bytepermW2 (f2Of w v))
  | 0xC0 => some (.iadd64W2 (f2Of w v))
  | 0xC1 => some (.shl64W2 (f2Of w v))
  | 0xC2 => some (.shr64W2 (f2Of w v))
  | 0xC3 => some (.leaW2 (f2Of w v))
  | 0xD0 => some (.faddW2 (f2Of w v))
  | 0xD1 => some (.fsubW2 (f2Of w v))
  | 0xD2 => some (.fmulW2 (f2Of w v))
  | 0xD3 => some (.ffma (f2Of w v))
  | 0xD4 => some (.fminW2 (f2Of w v))
  | 0xD5 => some (.fmaxW2 (f2Of w v))
  | 0xD6 => some (.fcmpW2 (f2Of w v))
  | 0xD7 => some (.fclassW2 (f2Of w v))
  | 0xD8 => some (.frndW2 (f2Of w v))
  | 0xD9 => some (.ffractW2 (f2Of w v))
  | 0xDA => some (.fscaleW2 (f2Of w v))
  | 0xDB => some (.fgetexpW2 (f2Of w v))
  | 0xDC => some (.fgetmanW2 (f2Of w v))
  | 0xE0 => some (.hadd2W2 (f2Of w v))
  | 0xE1 => some (.hmul2W2 (f2Of w v))
  | 0xE2 => some (.hfma2 (f2Of w v))
  | 0xE3 => some (.hmin2W2 (f2Of w v))
  | 0xE4 => some (.hmax2W2 (f2Of w v))
  | 0xE5 => some (.dot2 (f2Of w v))
  | 0xE6 => some (.dot4 (f2Of w v))
  | 0xE8 => some (.daddW2 (f2Of w v))
  | 0xE9 => some (.dmulW2 (f2Of w v))
  | 0xEA => some (.dfma (f2Of w v))
  | 0xEB => some (.dcmpW2 (f2Of w v))
  | 0xF0 => some (.cvt (f2Of w v))
  | 0xF1 => some (.cvtpk (f2Of w v))
  | 0xF2 => some (.cvtunpk (f2Of w v))
  | 0xF8 => some (.drawW2 (f2Of w v))
  | 0xF9 => some (.drawfW2 (f2Of w v))
  | 0xFA => some (.drawnW2 (f2Of w v))
  | 0xFB => some (.sampleW2 (f2Of w v))
  | 0xFC => some (.splitkeyW2 (f2Of w v))
  | _ => none

/-- One-word instructions of class 1 by opcode (R181). -/
noncomputable def oneSpecial (op : Nat) (w : BitVec 32) : Option Instr :=
  match op with
  | 0x00 => some (.frcp (f1Of w))
  | 0x01 => some (.frsq (f1Of w))
  | 0x02 => some (.fsqrt (f1Of w))
  | 0x03 => some (.fexp2 (f1Of w))
  | 0x04 => some (.flog2 (f1Of w))
  | 0x05 => some (.fsin (f1Of w))
  | 0x06 => some (.fcos (f1Of w))
  | 0x07 => some (.ftanh (f1Of w))
  | 0x10 => some (.reduce (f1Of w))
  | 0x11 => some (.scan (f1Of w))
  | 0x12 => some (.vote (f1Of w))
  | 0x13 => some (.ballot (f1Of w))
  | 0x14 => some (.matchGroup (f1Of w))
  | 0x15 => some (.laneget (f1Of w))
  | 0x7F => brkOf w
  | _ => none

/-- Two-word instructions of class 1 by opcode (R181). -/
noncomputable def twoSpecial (op : Nat) (w v : BitVec 32) : Option Instr :=
  match op with
  | 0x80 => some (.frcpW2 (f2Of w v))
  | 0x81 => some (.frsqW2 (f2Of w v))
  | 0x82 => some (.fsqrtW2 (f2Of w v))
  | 0x83 => some (.fexp2W2 (f2Of w v))
  | 0x84 => some (.flog2W2 (f2Of w v))
  | 0x85 => some (.fsinW2 (f2Of w v))
  | 0x86 => some (.fcosW2 (f2Of w v))
  | 0x87 => some (.ftanhW2 (f2Of w v))
  | 0x90 => some (.reduceW2 (f2Of w v))
  | 0x91 => some (.scanW2 (f2Of w v))
  | 0x92 => some (.voteW2 (f2Of w v))
  | 0x93 => some (.ballotW2 (f2Of w v))
  | 0x94 => some (.matchW2 (f2Of w v))
  | 0x95 => some (.lanegetW2 (f2Of w v))
  | _ => none

/-- One-word instructions of class 2 by opcode (R182). -/
noncomputable def oneMemory (op : Nat) (w : BitVec 32) : Option Instr :=
  match op with
  | 0x00 => some (.ld (f1Of w))
  | 0x01 => some (.st (f1Of w))
  | 0x02 => some (.ldl (f1Of w))
  | 0x03 => some (.stl (f1Of w))
  | 0x04 => some (.lds (f1Of w))
  | 0x05 => some (.sts (f1Of w))
  | 0x06 => some (.ldc (f1Of w))
  | 0x07 => some (.stc (f1Of w))
  | 0x08 => some (.lda (f1Of w))
  | 0x10 => some (.atom (f1Of w))
  | 0x12 => some (.atoms (f1Of w))
  | 0x20 => some (.prefetch (f1Of w))
  | 0x21 => some (.fence (f1Of w))
  | 0x22 => some (.tfence (f1Of w))
  | 0x23 => some (.monitor (f1Of w))
  | 0x7F => brkOf w
  | _ => none

/-- Two-word instructions of class 2 by opcode (R182). -/
noncomputable def twoMemory (op : Nat) (w v : BitVec 32) : Option Instr :=
  match op with
  | 0x80 => some (.ldW2 (f2Of w v))
  | 0x81 => some (.stW2 (f2Of w v))
  | 0x82 => some (.ldlW2 (f2Of w v))
  | 0x83 => some (.stlW2 (f2Of w v))
  | 0x84 => some (.ldsW2 (f2Of w v))
  | 0x85 => some (.stsW2 (f2Of w v))
  | 0x86 => some (.ldcW2 (f2Of w v))
  | 0x87 => some (.stcW2 (f2Of w v))
  | 0x88 => some (.ldaW2 (f2Of w v))
  | 0x90 => some (.atomW2 (f2Of w v))
  | 0x91 => some (.cas (f2Of w v))
  | 0x92 => some (.atomsW2 (f2Of w v))
  | 0x98 => some (.bankop (f2Of w v))
  | 0x99 => some (.redslot (f2Of w v))
  | 0xA0 => some (.prefetchW2 (f2Of w v))
  | 0xA1 => some (.fenceW2 (f2Of w v))
  | 0xA2 => some (.tfenceW2 (f2Of w v))
  | 0xA3 => some (.monitorW2 (f2Of w v))
  | _ => none

/-- One-word instructions of class 3 by opcode (R183). -/
noncomputable def oneCopy (op : Nat) (w : BitVec 32) : Option Instr :=
  match op with
  | 0x00 => some (.tdset (f1Of w))
  | 0x01 => some (.copy (f1Of w))
  | 0x02 => some (.copyw (f1Of w))
  | 0x03 => some (.gather (f1Of w))
  | 0x04 => some (.scatter (f1Of w))
  | 0x05 => some (.combine (f1Of w))
  | 0x06 => some (.replay (f1Of w))
  | 0x07 => some (.chsend (f1Of w))
  | 0x08 => some (.chrecv (f1Of w))
  | 0x7F => brkOf w
  | _ => none

/-- Two-word instructions of class 3 by opcode (R183). -/
noncomputable def twoCopy (op : Nat) (w v : BitVec 32) : Option Instr :=
  match op with
  | 0x80 => some (.tdsetW2 (f2Of w v))
  | 0x81 => some (.copyW2 (f2Of w v))
  | 0x82 => some (.copywW2 (f2Of w v))
  | 0x83 => some (.gatherW2 (f2Of w v))
  | 0x84 => some (.scatterW2 (f2Of w v))
  | 0x85 => some (.combineW2 (f2Of w v))
  | 0x86 => some (.replayW2 (f2Of w v))
  | 0x87 => some (.chsendW2 (f2Of w v))
  | 0x88 => some (.chrecvW2 (f2Of w v))
  | _ => none

/-- One-word instructions of class 4 by opcode (R184). -/
noncomputable def oneControl (op : Nat) (w : BitVec 32) : Option Instr :=
  match op with
  | 0x06 => some (.bra (off24 w))
  | 0x07 => some (.brx (f1Of w))
  | 0x08 => some (.call (off24 w))
  | 0x09 => some (.callx (f1Of w))
  | 0x0A => some (.ret (f1Of w))
  | 0x10 => some (.exit (f1Of w))
  | 0x11 => some (.yield (f1Of w))
  | 0x12 => some (.mwait (f1Of w))
  | 0x18 => some (.trap (f1Of w))
  | 0x19 => some (.trapfence (f1Of w))
  | 0x20 => some (.tbar (f1Of w))
  | 0x21 => some (.cbar (f1Of w))
  | 0x22 => some (.arrive (f1Of w))
  | 0x23 => some (.await (f1Of w))
  | 0x7F => brkOf w
  | _ => none

/-- Two-word instructions of class 4 by opcode (R184). -/
noncomputable def twoControl (op : Nat) (w v : BitVec 32) : Option Instr :=
  match op with
  | 0x80 => if idleD w then some (.beq (fieldA w) (fieldB w) v) else none
  | 0x81 => if idleD w then some (.bne (fieldA w) (fieldB w) v) else none
  | 0x82 => if idleD w then some (.blt (fieldA w) (fieldB w) v) else none
  | 0x83 => if idleD w then some (.bge (fieldA w) (fieldB w) v) else none
  | 0x84 => if idleD w then some (.bltn (fieldA w) (fieldB w) v) else none
  | 0x85 => if idleD w then some (.bgen (fieldA w) (fieldB w) v) else none
  | 0x86 => if idleD w && idleAB w then some (.braW2 v) else none
  | 0x88 => if idleD w && idleAB w then some (.callW2 v) else none
  | 0x92 => some (.mwaitW2 (f2Of w v))
  | 0x98 => some (.trapW2 (f2Of w v))
  | _ => none

/-- One-word instructions of class 5 by opcode (R185). -/
noncomputable def oneSequencer (op : Nat) (w : BitVec 32) : Option Instr :=
  match op with
  | 0x00 => some (.mload (f1Of w))
  | 0x01 => some (.mswap (f1Of w))
  | 0x02 => some (.mstream (f1Of w))
  | 0x03 => some (.mvstream (f1Of w))
  | 0x04 => some (.mdist (f1Of w))
  | 0x05 => some (.mtopk (f1Of w))
  | 0x06 => some (.mepi (f1Of w))
  | 0x07 => some (.mdrain (f1Of w))
  | 0x08 => some (.mclear (f1Of w))
  | 0x10 => some (.walk (f1Of w))
  | 0x11 => some (.endwalk (f1Of w))
  | 0x18 => some (.seqArrive (f1Of w))
  | 0x19 => some (.seqAwait (f1Of w))
  | 0x1A => some (.swait (f1Of w))
  | 0x1B => some (.sqexit (f1Of w))
  | 0x20 => some (.seqIadd (f1Of w))
  | 0x21 => some (.seqIsub (f1Of w))
  | 0x22 => some (.seqImul (f1Of w))
  | 0x23 => some (.seqImin (f1Of w))
  | 0x24 => some (.seqImax (f1Of w))
  | 0x25 => some (.seqAnd (f1Of w))
  | 0x26 => some (.seqOr (f1Of w))
  | 0x27 => some (.seqXor (f1Of w))
  | 0x28 => some (.seqShl (f1Of w))
  | 0x29 => some (.seqShr (f1Of w))
  | 0x2A => some (.seqMov (f1Of w))
  | 0x2B => some (.seqMovi (fieldD w) (imm16 w))
  | 0x34 => some (.seqBra (off24 w))
  | 0x7F => brkOf w
  | _ => none

/-- Two-word instructions of class 5 by opcode (R185). -/
noncomputable def twoSequencer (op : Nat) (w v : BitVec 32) : Option Instr :=
  match op with
  | 0x80 => some (.mloadW2 (f2Of w v))
  | 0x81 => some (.mswapW2 (f2Of w v))
  | 0x82 => some (.mstreamW2 (f2Of w v))
  | 0x83 => some (.mvstreamW2 (f2Of w v))
  | 0x84 => some (.mdistW2 (f2Of w v))
  | 0x85 => some (.mtopkW2 (f2Of w v))
  | 0x86 => some (.mepiW2 (f2Of w v))
  | 0x87 => some (.mdrainW2 (f2Of w v))
  | 0x88 => some (.mclearW2 (f2Of w v))
  | 0x90 => some (.walkW2 (f2Of w v))
  | 0x91 => some (.endwalkW2 (f2Of w v))
  | 0xA0 => some (.seqIaddW2 (f2Of w v))
  | 0xA1 => some (.seqIsubW2 (f2Of w v))
  | 0xA2 => some (.seqImulW2 (f2Of w v))
  | 0xA3 => some (.seqIminW2 (f2Of w v))
  | 0xA4 => some (.seqImaxW2 (f2Of w v))
  | 0xA5 => some (.seqAndW2 (f2Of w v))
  | 0xA6 => some (.seqOrW2 (f2Of w v))
  | 0xA7 => some (.seqXorW2 (f2Of w v))
  | 0xA8 => some (.seqShlW2 (f2Of w v))
  | 0xA9 => some (.seqShrW2 (f2Of w v))
  | 0xAA => some (.seqMovW2 (f2Of w v))
  | 0xAB => if idleAB w then some (.seqMoviW2 (fieldD w) v) else none
  | 0xB0 => if idleD w then some (.seqBeq (fieldA w) (fieldB w) v) else none
  | 0xB1 => if idleD w then some (.seqBne (fieldA w) (fieldB w) v) else none
  | 0xB2 => if idleD w then some (.seqBlt (fieldA w) (fieldB w) v) else none
  | 0xB3 => if idleD w then some (.seqBge (fieldA w) (fieldB w) v) else none
  | 0xB4 => if idleD w && idleAB w then some (.seqBraW2 v) else none
  | _ => none

/-- One-word instructions of class 6 by opcode (R186). -/
noncomputable def oneSystem (op : Nat) (w : BitVec 32) : Option Instr :=
  match op with
  | 0x00 => some (.sread (f1Of w))
  | 0x01 => some (.swrite (f1Of w))
  | 0x02 => some (.launch (f1Of w))
  | 0x03 => some (.qread (f1Of w))
  | 0x04 => some (.evread (f1Of w))
  | 0x05 => some (.evwait (f1Of w))
  | 0x06 => some (.signal (f1Of w))
  | 0x07 => some (.tlbinv (f1Of w))
  | 0x08 => some (.keyop (f1Of w))
  | 0x7F => brkOf w
  | _ => none

/-- Two-word instructions of class 6 by opcode (R186). -/
noncomputable def twoSystem (op : Nat) (w v : BitVec 32) : Option Instr :=
  match op with
  | 0x80 => some (.sreadW2 (f2Of w v))
  | 0x81 => some (.swriteW2 (f2Of w v))
  | 0x82 => some (.launchW2 (f2Of w v))
  | 0x83 => some (.qreadW2 (f2Of w v))
  | 0x84 => some (.evreadW2 (f2Of w v))
  | 0x86 => some (.signalW2 (f2Of w v))
  | 0x87 => some (.tlbinvW2 (f2Of w v))
  | 0x88 => some (.keyopW2 (f2Of w v))
  | _ => none

/-- The raw reading of a one-word instruction in the map of its class (R159, R178). -/
noncomputable def readOne (cls : Nat) (w : BitVec 32) : Option Instr :=
  match cls with
  | 0 => oneAlu (opOf w) w
  | 1 => oneSpecial (opOf w) w
  | 2 => oneMemory (opOf w) w
  | 3 => oneCopy (opOf w) w
  | 4 => oneControl (opOf w) w
  | 5 => oneSequencer (opOf w) w
  | 6 => oneSystem (opOf w) w
  | _ => none

/-- The raw reading of a two-word instruction in the map of its class. -/
noncomputable def readTwo (cls : Nat) (w v : BitVec 32) : Option Instr :=
  match cls with
  | 0 => twoAlu (opOf w) w v
  | 1 => twoSpecial (opOf w) w v
  | 2 => twoMemory (opOf w) w v
  | 3 => twoCopy (opOf w) w v
  | 4 => twoControl (opOf w) w v
  | 5 => twoSequencer (opOf w) w v
  | 6 => twoSystem (opOf w) w v
  | _ => none

/-- Why words are refused; each raises fault 0x06 where it is met (R177). -/
inductive Reject where
  /-- no operation of the class stands at the opcode (R178) -/
  | unassigned
  /-- a field is not idle, or a modifier, operand code, alignment, pattern or literal is not legal (R165 to R179) -/
  | illegalField
  /-- the second word of a two-word opcode is missing (R164, R176) -/
  | truncated
  deriving DecidableEq, Repr

/-- Bit 7 of the opcode makes an instruction two words long, even in an unassigned slot (R164). -/
def isTwoWord (w : BitVec 32) : Bool := w.getLsbD 31

/-- The words that an instruction starting with w takes in a clause: BRK with SKIP counts as two (R179). -/
def lengthOf (w : BitVec 32) : Nat :=
  if isTwoWord w then 2 else if opOf w = 0x7F ∧ w.getLsbD 0 then 2 else 1

/-- The opcodes of the one-word literal layouts whose words can be refused before the fields are checked: the slot is
assigned. -/
def assignedOne (cls : Nat) (w : BitVec 32) : Bool := opOf w = 0x7F || (cls == 0 && opOf w = 0x01)

/-- The opcodes of the two-word literal layouts. -/
def assignedTwo (cls : Nat) (w : BitVec 32) : Bool :=
  (cls == 0 && opOf w = 0x83) || (cls == 4 && (0x80 ≤ opOf w && opOf w ≤ 0x86 || opOf w = 0x88)) ||
    (cls == 5 && (opOf w = 0xAB || (0xB0 ≤ opOf w && opOf w ≤ 0xB4)))

/-- Keeps a reading that is well-formed. -/
def checked (assigned : Bool) (i : Option Instr) : Except Reject Instr :=
  match i with
  | none => .error (if assigned then .illegalField else .unassigned)
  | some i => if i.wf then .ok i else .error .illegalField

/-- Decodes the instruction that starts a list of words, in the map of class cls; the words after it are not looked at.
BRK is decoded alone: the word after one with SKIP = 1 is not its own (R179). -/
noncomputable def decodeWords (cls : Nat) (ws : List (BitVec 32)) : Except Reject Instr :=
  match ws with
  | [] => .error .truncated
  | w :: rest =>
    if isTwoWord w then
      match rest with
      | [] => .error .truncated
      | v :: _ => checked (assignedTwo cls w) (readTwo cls w v)
    else checked (assignedOne cls w) (readOne cls w)

/-- Little-endian words of bytes (R2); a last word that is not whole is dropped. -/
def wordsOfBytes : List Byte → List (BitVec 32)
  | b0 :: b1 :: b2 :: b3 :: rest => (b3 ++ b2 ++ b1 ++ b0) :: wordsOfBytes rest
  | _ => []

/-- Decodes any bytes in the map of class cls. -/
noncomputable def decodeBytes (cls : Nat) (bs : List Byte) : Except Reject Instr := decodeWords cls (wordsOfBytes bs)

/-- The four operand bytes of word 0 under an opcode (R164). -/
def word0 (op : BitVec 8) (d a b : Opd) : BitVec 32 := op ++ d.byte ++ a.byte ++ b.byte

/-- Word 1 of a two-word instruction (R164). -/
def word1 (f : F2) : BitVec 32 := f.c.byte ++ f.pa.kind.bits ++ f.pa.arg ++ f.pb.kind.bits ++ f.pb.arg ++ f.m

/-- The word of REP (R173). -/
def repWord (count : BitVec 6) (sd sa sb sc : Bool) (stride : BitVec 2) : BitVec 32 :=
  0x01#8 ++ count ++ BitVec.ofBool sd ++ BitVec.ofBool sa ++ BitVec.ofBool sb ++ BitVec.ofBool sc ++ stride ++ 0#12

/-- The words of an instruction, written from the layouts of R164 and R172 to R179; an instruction of BRK's every class
is written the same in each. Operations and events have no words. -/
def encode (i : Instr) : List (BitVec 32) :=
  match i with
  | .nop f => [word0 0x00 f.d f.a f.b]
  | .nopW2 f => [word0 0x80 f.d f.a f.b, word1 f]
  | .mov f => [word0 0x02 f.d f.a f.b]
  | .movW2 f => [word0 0x82 f.d f.a f.b, word1 f]
  | .rget f => [word0 0x04 f.d f.a f.b]
  | .rgetW2 f => [word0 0x84 f.d f.a f.b, word1 f]
  | .rput f => [word0 0x05 f.d f.a f.b]
  | .rputW2 f => [word0 0x85 f.d f.a f.b, word1 f]
  | .iadd f => [word0 0x10 f.d f.a f.b]
  | .iaddW2 f => [word0 0x90 f.d f.a f.b, word1 f]
  | .isub f => [word0 0x11 f.d f.a f.b]
  | .isubW2 f => [word0 0x91 f.d f.a f.b, word1 f]
  | .iadd3 f => [word0 0x92 f.d f.a f.b, word1 f]
  | .iaddco f => [word0 0x93 f.d f.a f.b, word1 f]
  | .imul f => [word0 0x14 f.d f.a f.b]
  | .imulW2 f => [word0 0x94 f.d f.a f.b, word1 f]
  | .imulhi f => [word0 0x15 f.d f.a f.b]
  | .imulhiW2 f => [word0 0x95 f.d f.a f.b, word1 f]
  | .imad f => [word0 0x96 f.d f.a f.b, word1 f]
  | .imadwide f => [word0 0x97 f.d f.a f.b, word1 f]
  | .imin f => [word0 0x18 f.d f.a f.b]
  | .iminW2 f => [word0 0x98 f.d f.a f.b, word1 f]
  | .imax f => [word0 0x19 f.d f.a f.b]
  | .imaxW2 f => [word0 0x99 f.d f.a f.b, word1 f]
  | .iabs f => [word0 0x1A f.d f.a f.b]
  | .iabsW2 f => [word0 0x9A f.d f.a f.b, word1 f]
  | .icmp f => [word0 0x1B f.d f.a f.b]
  | .icmpW2 f => [word0 0x9B f.d f.a f.b, word1 f]
  | .sel f => [word0 0x9C f.d f.a f.b, word1 f]
  | .and f => [word0 0x20 f.d f.a f.b]
  | .andW2 f => [word0 0xA0 f.d f.a f.b, word1 f]
  | .or f => [word0 0x21 f.d f.a f.b]
  | .orW2 f => [word0 0xA1 f.d f.a f.b, word1 f]
  | .xor f => [word0 0x22 f.d f.a f.b]
  | .xorW2 f => [word0 0xA2 f.d f.a f.b, word1 f]
  | .andn f => [word0 0x23 f.d f.a f.b]
  | .andnW2 f => [word0 0xA3 f.d f.a f.b, word1 f]
  | .not f => [word0 0x24 f.d f.a f.b]
  | .notW2 f => [word0 0xA4 f.d f.a f.b, word1 f]
  | .lop3 f => [word0 0xA5 f.d f.a f.b, word1 f]
  | .shl f => [word0 0x26 f.d f.a f.b]
  | .shlW2 f => [word0 0xA6 f.d f.a f.b, word1 f]
  | .shr f => [word0 0x27 f.d f.a f.b]
  | .shrW2 f => [word0 0xA7 f.d f.a f.b, word1 f]
  | .sar f => [word0 0x28 f.d f.a f.b]
  | .sarW2 f => [word0 0xA8 f.d f.a f.b, word1 f]
  | .rotl f => [word0 0x29 f.d f.a f.b]
  | .rotlW2 f => [word0 0xA9 f.d f.a f.b, word1 f]
  | .funnel f => [word0 0xAA f.d f.a f.b, word1 f]
  | .bfx f => [word0 0x30 f.d f.a f.b]
  | .bfxW2 f => [word0 0xB0 f.d f.a f.b, word1 f]
  | .bfi f => [word0 0xB1 f.d f.a f.b, word1 f]
  | .popc f => [word0 0x32 f.d f.a f.b]
  | .popcW2 f => [word0 0xB2 f.d f.a f.b, word1 f]
  | .clz f => [word0 0x33 f.d f.a f.b]
  | .clzW2 f => [word0 0xB3 f.d f.a f.b, word1 f]
  | .ctz f => [word0 0x34 f.d f.a f.b]
  | .ctzW2 f => [word0 0xB4 f.d f.a f.b, word1 f]
  | .brev f => [word0 0x35 f.d f.a f.b]
  | .brevW2 f => [word0 0xB5 f.d f.a f.b, word1 f]
  | .bzip2 f => [word0 0x36 f.d f.a f.b]
  | .bzip2W2 f => [word0 0xB6 f.d f.a f.b, word1 f]
  | .bzip3 f => [word0 0x37 f.d f.a f.b]
  | .bzip3W2 f => [word0 0xB7 f.d f.a f.b, word1 f]
  | .bunzip2 f => [word0 0x38 f.d f.a f.b]
  | .bunzip2W2 f => [word0 0xB8 f.d f.a f.b, word1 f]
  | .bunzip3 f => [word0 0x39 f.d f.a f.b]
  | .bunzip3W2 f => [word0 0xB9 f.d f.a f.b, word1 f]
  | .byteperm f => [word0 0x3A f.d f.a f.b]
  | .bytepermW2 f => [word0 0xBA f.d f.a f.b, word1 f]
  | .iadd64 f => [word0 0x40 f.d f.a f.b]
  | .iadd64W2 f => [word0 0xC0 f.d f.a f.b, word1 f]
  | .shl64 f => [word0 0x41 f.d f.a f.b]
  | .shl64W2 f => [word0 0xC1 f.d f.a f.b, word1 f]
  | .shr64 f => [word0 0x42 f.d f.a f.b]
  | .shr64W2 f => [word0 0xC2 f.d f.a f.b, word1 f]
  | .lea f => [word0 0x43 f.d f.a f.b]
  | .leaW2 f => [word0 0xC3 f.d f.a f.b, word1 f]
  | .fadd f => [word0 0x50 f.d f.a f.b]
  | .faddW2 f => [word0 0xD0 f.d f.a f.b, word1 f]
  | .fsub f => [word0 0x51 f.d f.a f.b]
  | .fsubW2 f => [word0 0xD1 f.d f.a f.b, word1 f]
  | .fmul f => [word0 0x52 f.d f.a f.b]
  | .fmulW2 f => [word0 0xD2 f.d f.a f.b, word1 f]
  | .ffma f => [word0 0xD3 f.d f.a f.b, word1 f]
  | .fmin f => [word0 0x54 f.d f.a f.b]
  | .fminW2 f => [word0 0xD4 f.d f.a f.b, word1 f]
  | .fmax f => [word0 0x55 f.d f.a f.b]
  | .fmaxW2 f => [word0 0xD5 f.d f.a f.b, word1 f]
  | .fcmp f => [word0 0x56 f.d f.a f.b]
  | .fcmpW2 f => [word0 0xD6 f.d f.a f.b, word1 f]
  | .fclass f => [word0 0x57 f.d f.a f.b]
  | .fclassW2 f => [word0 0xD7 f.d f.a f.b, word1 f]
  | .frnd f => [word0 0x58 f.d f.a f.b]
  | .frndW2 f => [word0 0xD8 f.d f.a f.b, word1 f]
  | .ffract f => [word0 0x59 f.d f.a f.b]
  | .ffractW2 f => [word0 0xD9 f.d f.a f.b, word1 f]
  | .fscale f => [word0 0x5A f.d f.a f.b]
  | .fscaleW2 f => [word0 0xDA f.d f.a f.b, word1 f]
  | .fgetexp f => [word0 0x5B f.d f.a f.b]
  | .fgetexpW2 f => [word0 0xDB f.d f.a f.b, word1 f]
  | .fgetman f => [word0 0x5C f.d f.a f.b]
  | .fgetmanW2 f => [word0 0xDC f.d f.a f.b, word1 f]
  | .hadd2 f => [word0 0x60 f.d f.a f.b]
  | .hadd2W2 f => [word0 0xE0 f.d f.a f.b, word1 f]
  | .hmul2 f => [word0 0x61 f.d f.a f.b]
  | .hmul2W2 f => [word0 0xE1 f.d f.a f.b, word1 f]
  | .hfma2 f => [word0 0xE2 f.d f.a f.b, word1 f]
  | .hmin2 f => [word0 0x63 f.d f.a f.b]
  | .hmin2W2 f => [word0 0xE3 f.d f.a f.b, word1 f]
  | .hmax2 f => [word0 0x64 f.d f.a f.b]
  | .hmax2W2 f => [word0 0xE4 f.d f.a f.b, word1 f]
  | .dot2 f => [word0 0xE5 f.d f.a f.b, word1 f]
  | .dot4 f => [word0 0xE6 f.d f.a f.b, word1 f]
  | .dadd f => [word0 0x68 f.d f.a f.b]
  | .daddW2 f => [word0 0xE8 f.d f.a f.b, word1 f]
  | .dmul f => [word0 0x69 f.d f.a f.b]
  | .dmulW2 f => [word0 0xE9 f.d f.a f.b, word1 f]
  | .dfma f => [word0 0xEA f.d f.a f.b, word1 f]
  | .dcmp f => [word0 0x6B f.d f.a f.b]
  | .dcmpW2 f => [word0 0xEB f.d f.a f.b, word1 f]
  | .cvt f => [word0 0xF0 f.d f.a f.b, word1 f]
  | .cvtpk f => [word0 0xF1 f.d f.a f.b, word1 f]
  | .cvtunpk f => [word0 0xF2 f.d f.a f.b, word1 f]
  | .draw f => [word0 0x78 f.d f.a f.b]
  | .drawW2 f => [word0 0xF8 f.d f.a f.b, word1 f]
  | .drawf f => [word0 0x79 f.d f.a f.b]
  | .drawfW2 f => [word0 0xF9 f.d f.a f.b, word1 f]
  | .drawn f => [word0 0x7A f.d f.a f.b]
  | .drawnW2 f => [word0 0xFA f.d f.a f.b, word1 f]
  | .sample f => [word0 0x7B f.d f.a f.b]
  | .sampleW2 f => [word0 0xFB f.d f.a f.b, word1 f]
  | .splitkey f => [word0 0x7C f.d f.a f.b]
  | .splitkeyW2 f => [word0 0xFC f.d f.a f.b, word1 f]
  | .frcp f => [word0 0x00 f.d f.a f.b]
  | .frcpW2 f => [word0 0x80 f.d f.a f.b, word1 f]
  | .frsq f => [word0 0x01 f.d f.a f.b]
  | .frsqW2 f => [word0 0x81 f.d f.a f.b, word1 f]
  | .fsqrt f => [word0 0x02 f.d f.a f.b]
  | .fsqrtW2 f => [word0 0x82 f.d f.a f.b, word1 f]
  | .fexp2 f => [word0 0x03 f.d f.a f.b]
  | .fexp2W2 f => [word0 0x83 f.d f.a f.b, word1 f]
  | .flog2 f => [word0 0x04 f.d f.a f.b]
  | .flog2W2 f => [word0 0x84 f.d f.a f.b, word1 f]
  | .fsin f => [word0 0x05 f.d f.a f.b]
  | .fsinW2 f => [word0 0x85 f.d f.a f.b, word1 f]
  | .fcos f => [word0 0x06 f.d f.a f.b]
  | .fcosW2 f => [word0 0x86 f.d f.a f.b, word1 f]
  | .ftanh f => [word0 0x07 f.d f.a f.b]
  | .ftanhW2 f => [word0 0x87 f.d f.a f.b, word1 f]
  | .reduce f => [word0 0x10 f.d f.a f.b]
  | .reduceW2 f => [word0 0x90 f.d f.a f.b, word1 f]
  | .scan f => [word0 0x11 f.d f.a f.b]
  | .scanW2 f => [word0 0x91 f.d f.a f.b, word1 f]
  | .vote f => [word0 0x12 f.d f.a f.b]
  | .voteW2 f => [word0 0x92 f.d f.a f.b, word1 f]
  | .ballot f => [word0 0x13 f.d f.a f.b]
  | .ballotW2 f => [word0 0x93 f.d f.a f.b, word1 f]
  | .matchGroup f => [word0 0x14 f.d f.a f.b]
  | .matchW2 f => [word0 0x94 f.d f.a f.b, word1 f]
  | .laneget f => [word0 0x15 f.d f.a f.b]
  | .lanegetW2 f => [word0 0x95 f.d f.a f.b, word1 f]
  | .ld f => [word0 0x00 f.d f.a f.b]
  | .ldW2 f => [word0 0x80 f.d f.a f.b, word1 f]
  | .st f => [word0 0x01 f.d f.a f.b]
  | .stW2 f => [word0 0x81 f.d f.a f.b, word1 f]
  | .ldl f => [word0 0x02 f.d f.a f.b]
  | .ldlW2 f => [word0 0x82 f.d f.a f.b, word1 f]
  | .stl f => [word0 0x03 f.d f.a f.b]
  | .stlW2 f => [word0 0x83 f.d f.a f.b, word1 f]
  | .lds f => [word0 0x04 f.d f.a f.b]
  | .ldsW2 f => [word0 0x84 f.d f.a f.b, word1 f]
  | .sts f => [word0 0x05 f.d f.a f.b]
  | .stsW2 f => [word0 0x85 f.d f.a f.b, word1 f]
  | .ldc f => [word0 0x06 f.d f.a f.b]
  | .ldcW2 f => [word0 0x86 f.d f.a f.b, word1 f]
  | .stc f => [word0 0x07 f.d f.a f.b]
  | .stcW2 f => [word0 0x87 f.d f.a f.b, word1 f]
  | .lda f => [word0 0x08 f.d f.a f.b]
  | .ldaW2 f => [word0 0x88 f.d f.a f.b, word1 f]
  | .atom f => [word0 0x10 f.d f.a f.b]
  | .atomW2 f => [word0 0x90 f.d f.a f.b, word1 f]
  | .cas f => [word0 0x91 f.d f.a f.b, word1 f]
  | .atoms f => [word0 0x12 f.d f.a f.b]
  | .atomsW2 f => [word0 0x92 f.d f.a f.b, word1 f]
  | .bankop f => [word0 0x98 f.d f.a f.b, word1 f]
  | .redslot f => [word0 0x99 f.d f.a f.b, word1 f]
  | .prefetch f => [word0 0x20 f.d f.a f.b]
  | .prefetchW2 f => [word0 0xA0 f.d f.a f.b, word1 f]
  | .fence f => [word0 0x21 f.d f.a f.b]
  | .fenceW2 f => [word0 0xA1 f.d f.a f.b, word1 f]
  | .tfence f => [word0 0x22 f.d f.a f.b]
  | .tfenceW2 f => [word0 0xA2 f.d f.a f.b, word1 f]
  | .monitor f => [word0 0x23 f.d f.a f.b]
  | .monitorW2 f => [word0 0xA3 f.d f.a f.b, word1 f]
  | .tdset f => [word0 0x00 f.d f.a f.b]
  | .tdsetW2 f => [word0 0x80 f.d f.a f.b, word1 f]
  | .copy f => [word0 0x01 f.d f.a f.b]
  | .copyW2 f => [word0 0x81 f.d f.a f.b, word1 f]
  | .copyw f => [word0 0x02 f.d f.a f.b]
  | .copywW2 f => [word0 0x82 f.d f.a f.b, word1 f]
  | .gather f => [word0 0x03 f.d f.a f.b]
  | .gatherW2 f => [word0 0x83 f.d f.a f.b, word1 f]
  | .scatter f => [word0 0x04 f.d f.a f.b]
  | .scatterW2 f => [word0 0x84 f.d f.a f.b, word1 f]
  | .combine f => [word0 0x05 f.d f.a f.b]
  | .combineW2 f => [word0 0x85 f.d f.a f.b, word1 f]
  | .replay f => [word0 0x06 f.d f.a f.b]
  | .replayW2 f => [word0 0x86 f.d f.a f.b, word1 f]
  | .chsend f => [word0 0x07 f.d f.a f.b]
  | .chsendW2 f => [word0 0x87 f.d f.a f.b, word1 f]
  | .chrecv f => [word0 0x08 f.d f.a f.b]
  | .chrecvW2 f => [word0 0x88 f.d f.a f.b, word1 f]
  | .brx f => [word0 0x07 f.d f.a f.b]
  | .callx f => [word0 0x09 f.d f.a f.b]
  | .ret f => [word0 0x0A f.d f.a f.b]
  | .exit f => [word0 0x10 f.d f.a f.b]
  | .yield f => [word0 0x11 f.d f.a f.b]
  | .mwait f => [word0 0x12 f.d f.a f.b]
  | .mwaitW2 f => [word0 0x92 f.d f.a f.b, word1 f]
  | .trap f => [word0 0x18 f.d f.a f.b]
  | .trapW2 f => [word0 0x98 f.d f.a f.b, word1 f]
  | .trapfence f => [word0 0x19 f.d f.a f.b]
  | .tbar f => [word0 0x20 f.d f.a f.b]
  | .cbar f => [word0 0x21 f.d f.a f.b]
  | .arrive f => [word0 0x22 f.d f.a f.b]
  | .await f => [word0 0x23 f.d f.a f.b]
  | .mload f => [word0 0x00 f.d f.a f.b]
  | .mloadW2 f => [word0 0x80 f.d f.a f.b, word1 f]
  | .mswap f => [word0 0x01 f.d f.a f.b]
  | .mswapW2 f => [word0 0x81 f.d f.a f.b, word1 f]
  | .mstream f => [word0 0x02 f.d f.a f.b]
  | .mstreamW2 f => [word0 0x82 f.d f.a f.b, word1 f]
  | .mvstream f => [word0 0x03 f.d f.a f.b]
  | .mvstreamW2 f => [word0 0x83 f.d f.a f.b, word1 f]
  | .mdist f => [word0 0x04 f.d f.a f.b]
  | .mdistW2 f => [word0 0x84 f.d f.a f.b, word1 f]
  | .mtopk f => [word0 0x05 f.d f.a f.b]
  | .mtopkW2 f => [word0 0x85 f.d f.a f.b, word1 f]
  | .mepi f => [word0 0x06 f.d f.a f.b]
  | .mepiW2 f => [word0 0x86 f.d f.a f.b, word1 f]
  | .mdrain f => [word0 0x07 f.d f.a f.b]
  | .mdrainW2 f => [word0 0x87 f.d f.a f.b, word1 f]
  | .mclear f => [word0 0x08 f.d f.a f.b]
  | .mclearW2 f => [word0 0x88 f.d f.a f.b, word1 f]
  | .walk f => [word0 0x10 f.d f.a f.b]
  | .walkW2 f => [word0 0x90 f.d f.a f.b, word1 f]
  | .endwalk f => [word0 0x11 f.d f.a f.b]
  | .endwalkW2 f => [word0 0x91 f.d f.a f.b, word1 f]
  | .seqArrive f => [word0 0x18 f.d f.a f.b]
  | .seqAwait f => [word0 0x19 f.d f.a f.b]
  | .swait f => [word0 0x1A f.d f.a f.b]
  | .sqexit f => [word0 0x1B f.d f.a f.b]
  | .seqIadd f => [word0 0x20 f.d f.a f.b]
  | .seqIaddW2 f => [word0 0xA0 f.d f.a f.b, word1 f]
  | .seqIsub f => [word0 0x21 f.d f.a f.b]
  | .seqIsubW2 f => [word0 0xA1 f.d f.a f.b, word1 f]
  | .seqImul f => [word0 0x22 f.d f.a f.b]
  | .seqImulW2 f => [word0 0xA2 f.d f.a f.b, word1 f]
  | .seqImin f => [word0 0x23 f.d f.a f.b]
  | .seqIminW2 f => [word0 0xA3 f.d f.a f.b, word1 f]
  | .seqImax f => [word0 0x24 f.d f.a f.b]
  | .seqImaxW2 f => [word0 0xA4 f.d f.a f.b, word1 f]
  | .seqAnd f => [word0 0x25 f.d f.a f.b]
  | .seqAndW2 f => [word0 0xA5 f.d f.a f.b, word1 f]
  | .seqOr f => [word0 0x26 f.d f.a f.b]
  | .seqOrW2 f => [word0 0xA6 f.d f.a f.b, word1 f]
  | .seqXor f => [word0 0x27 f.d f.a f.b]
  | .seqXorW2 f => [word0 0xA7 f.d f.a f.b, word1 f]
  | .seqShl f => [word0 0x28 f.d f.a f.b]
  | .seqShlW2 f => [word0 0xA8 f.d f.a f.b, word1 f]
  | .seqShr f => [word0 0x29 f.d f.a f.b]
  | .seqShrW2 f => [word0 0xA9 f.d f.a f.b, word1 f]
  | .seqMov f => [word0 0x2A f.d f.a f.b]
  | .seqMovW2 f => [word0 0xAA f.d f.a f.b, word1 f]
  | .sread f => [word0 0x00 f.d f.a f.b]
  | .sreadW2 f => [word0 0x80 f.d f.a f.b, word1 f]
  | .swrite f => [word0 0x01 f.d f.a f.b]
  | .swriteW2 f => [word0 0x81 f.d f.a f.b, word1 f]
  | .launch f => [word0 0x02 f.d f.a f.b]
  | .launchW2 f => [word0 0x82 f.d f.a f.b, word1 f]
  | .qread f => [word0 0x03 f.d f.a f.b]
  | .qreadW2 f => [word0 0x83 f.d f.a f.b, word1 f]
  | .evread f => [word0 0x04 f.d f.a f.b]
  | .evreadW2 f => [word0 0x84 f.d f.a f.b, word1 f]
  | .evwait f => [word0 0x05 f.d f.a f.b]
  | .signal f => [word0 0x06 f.d f.a f.b]
  | .signalW2 f => [word0 0x86 f.d f.a f.b, word1 f]
  | .tlbinv f => [word0 0x07 f.d f.a f.b]
  | .tlbinvW2 f => [word0 0x87 f.d f.a f.b, word1 f]
  | .keyop f => [word0 0x08 f.d f.a f.b]
  | .keyopW2 f => [word0 0x88 f.d f.a f.b, word1 f]
  | .rep count sd sa sb sc stride => [repWord count sd sa sb sc stride]
  | .movi d imm => [0x03#8 ++ d.byte ++ imm]
  | .bra off => [0x06#8 ++ off]
  | .call off => [0x08#8 ++ off]
  | .seqMovi d imm => [0x2B#8 ++ d.byte ++ imm]
  | .seqBra off => [0x34#8 ++ off]
  | .moviW2 d imm => [word0 0x83 d .z .z, imm]
  | .beq a b off => [word0 0x80 .z a b, off]
  | .bne a b off => [word0 0x81 .z a b, off]
  | .blt a b off => [word0 0x82 .z a b, off]
  | .bge a b off => [word0 0x83 .z a b, off]
  | .bltn a b off => [word0 0x84 .z a b, off]
  | .bgen a b off => [word0 0x85 .z a b, off]
  | .braW2 off => [word0 0x86 .z .z .z, off]
  | .callW2 off => [word0 0x88 .z .z .z, off]
  | .seqMoviW2 d imm => [word0 0xAB d .z .z, imm]
  | .seqBeq a b off => [word0 0xB0 .z a b, off]
  | .seqBne a b off => [word0 0xB1 .z a b, off]
  | .seqBlt a b off => [word0 0xB2 .z a b, off]
  | .seqBge a b off => [word0 0xB3 .z a b, off]
  | .seqBraW2 off => [word0 0xB4 .z .z .z, off]
  | .brk code skip => [0x7F#8 ++ code ++ 0#7 ++ BitVec.ofBool skip]
  | _ => []

/-- How many operand bytes of word 0 an instruction leaves open. -/
def openBytes (i : Instr) : Nat :=
  match i with
  | .rep .. | .movi .. | .bra .. | .call .. | .seqMovi .. | .seqBra .. | .brk .. => 3
  | _ =>
    match entryOf i with
    | some e => [e.dw, e.aw, e.bw].countP (· != 0)
    | none => 3

/-- The class in whose map the words are a legal instruction with the fewest open operand bytes; among equals the lowest.
A word alone names no class (R187): this choice is the model's (log entry 3). -/
noncomputable def firstClass (ws : List (BitVec 32)) : Option (Nat × Instr) :=
  ([0, 1, 2, 3, 4, 5, 6].filterMap fun cls =>
    match decodeWords cls ws with
    | .ok i => some (cls, i)
    | .error _ => none).foldl (fun (best : Option (Nat × Instr)) c =>
      match best with
      | none => some c
      | some b => if openBytes c.2 < openBytes b.2 then some c else best) none

/-- The two words of a table word: bits 31 to 0 are the first, bits 63 to 32 the second. -/
def tableWords (w : Nat) : List (BitVec 32) := [BitVec.ofNat 32 w, BitVec.ofNat 32 (w / 2 ^ 32)]

/-- The instruction read from a table word (the bits above nbits are zero). -/
noncomputable def decodeTableWord (nbits w : Nat) : Option Instr :=
  (firstClass (tableWords (w % 2 ^ nbits))).map (·.2)

end Sys2Proof
end

