-- ==== Sys2Proof/Config.lean ====
section
/-! DEFINITION. What the spec leaves to the part or to the outside: opaque constants without a body, so that no proof
can lean on a value of one. -/

namespace Sys2Proof.Config

/-- The n-th value that the spec leaves unspecified in a run (R8); State.freeCtr counts them. Log entry 15. -/
opaque freeValue : Nat → Nat
/-- Unordered walks: which of the unvisited tuples comes next, by State.freeCtr (R380). Log entry 15. -/
opaque walkChoice : Nat → Nat
/-- In a 2 MiB run whose CONT conditions fail: which translation an access uses, by cycle, quad, world and 64 KiB page (R309);
0 is the page's own entry. Log entry 53. -/
opaque runChoice : Nat → Nat → Nat → Nat → Nat
/-- Which of the values that a scratchpad byte held a pass reads, by State.freeCtr and address (R367, R376). Log entry 54. -/
opaque scratchChoice : Nat → Nat → Nat
/-- Whether a fetch reads the old value of a code word that a store changed, by cycle, core and address (R79). Log entry 55. -/
opaque codeChoice : Nat → Nat → Nat → Bool
/-- Byte i of the AES-256-CTR key stream of GCM under a key and a nonce (R355, R360). Log entry 10. -/
opaque keystream : Nat → List Byte → Nat → Byte
/-- The 16-byte GCM tag under key, nonce, additional data and ciphertext, as a number. Log entry 10. -/
opaque gcmTag : Nat → List Byte → List Byte → List Byte → Nat
/-- SHA-384 of bytes, 48 bytes as a little-endian number (R52, R57, R497). Log entry 10. -/
opaque sha384 : List Byte → Nat
/-- ECDSA over brainpoolP384r1 under a key name, 96 bytes as a little-endian number (R52, R497). Log entry 10. -/
opaque sign : Nat → List Byte → Nat
/-- The body of an image of manufacture: 0 the ROM, 1 SEC, 2 MEMT, 3 LINK, 4 REL, 5 SLICE, 6 the default FIFO program. Log
entry 20. -/
opaque factoryImage : Nat → List Byte
/-- Whether the signature of an image holds under the firmware key: image number and bytes (R52). Log entry 10. -/
opaque imageSigned : Nat → List Byte → Bool
/-- The security version number in the bytes of an image (R52). Log entry 20. -/
opaque imageVersion : Nat → List Byte → Nat
/-- The Alias key that the security processor derives from the DeviceID secret, measurements 1 to 5 and the activation
counter (R53). Log entry 10. -/
opaque aliasKey : List Byte → Nat → Nat
/-- The rest of the fused state of measurement 5 beside the minimum versions, as a number of 44 bytes (R57). Log entry 20. -/
opaque fusedState : Nat
/-- The freeze-pin enable of measurement 5 (R469). Log entry 20. -/
opaque freezePin : Bool
/-- The device serial number of R497, 16 bytes. Log entry 20. -/
opaque serial : Nat
/-- The certificate chain bytes of SPDM slot 0 for an Alias key, the measurements digested in it and the activation counter
(R53). Log entry 20. -/
opaque certChain : Nat → List Byte → Nat → List Byte
/-- The secrets of a Diffie-Hellman exchange of a session (R56), and of its key updates. Log entry 10. -/
opaque sessionSecret : Nat → Nat → Nat
/-- The exported key of a session for a bounce channel and key count (R359). Log entry 10. -/
opaque channelKey : Nat → Nat → Nat → Nat
/-- Power telemetry of the management port (R66), at a time. Log entry 20. -/
opaque telemetry : Nat → List Byte
/-- What KEYOP 0x04 reports of a world's key slots (R298): the slot kind it names, whether the inline key, the second key, a
rotation and the sealing key stand, and the boundary of the rotation. Log entry 15. -/
opaque slotState : Nat → Bool → Bool → Bool → Bool → Nat → Nat
/-- The signature of the dump image of R470, and the unit state it carries beside what the model names. Log entry 20. -/
opaque dumpTail : Nat → List Byte

end Sys2Proof.Config
end

