-- ==== Sys2Proof/Machine/State.lean ====
section
/-! DEFINITION. The state of the package as plain data: everything the spec gives the machine (INVENTORY.md), the model's
own fields (agenda, due, out, cur, freeCtr, turn), the machine after reset, and the reasons a step can stop. -/

namespace Sys2Proof.Machine

/-- Why a step stops. The device itself takes every fault of its own (R436) in a next state. -/
inductive Fault where
  /-- exec of an encoded instruction while no agent executes (State.cur is none). Raised by the meanings of encoded
  instructions; step calls them so only where an agenda entry names one as an event, which nothing outside can do. Safe. -/
  | noAgent
  /-- exec of an encoded instruction by an agent whose clauses cannot hold it (R176: class 5 is the sequencers' alone).
  Raised by the meanings of encoded instructions; step calls them so only where an agenda entry gives the SLICE firmware
  an instruction of the sequencers. Safe. -/
  | wrongAgent
  deriving DecidableEq, Repr

/-- Why an instruction has no meaning. -/
inductive Refusal where
  /-- an instruction that the model does not give its meaning yet. Raised by exec's refused arms. Safe. -/
  | notModelled (mnemonic : String)
  deriving DecidableEq, Repr

/-- The stores that hold bytes (R299): slice HBM by package address, host memory, a world's bank window, a team's
scratchpad and accumulator store, a control program's private memory. -/
inductive Space where
  | hbm | host | window (w : Nat) | scratch (t : Nat) | acc (t : Nat) | priv (w : Nat)
  deriving DecidableEq, Repr

/-- What the segment table makes of a WPA (R310): slice HBM, a host I/O address, or a WPA of a peer's world. -/
inductive Target where
  | device (addr : Nat) | hostIo (addr : Nat) | peer (accel wpa : Nat)
  deriving DecidableEq, Repr

/-- A lane's place: team and lane-in-team; a control program's: its world; a sequencer's: its team; the SLICE
firmware's: its control core. -/
inductive Agent where
  | lane (t lit : Nat) | prog (w : Nat) | seq (t : Nat) | firm (c : Nat)
  deriving DecidableEq, Repr

/-- The states of a token (R75). -/
inductive TokSt where
  | idle | pending | done | faulted
  deriving DecidableEq, Repr

/-- A token: its state and its 32-bit count of completed bytes (R72, R75). -/
structure Token where
  st : TokSt := .idle
  count : Nat := 0
  deriving DecidableEq, Repr

/-- The states of a lane (R216). -/
inductive LaneSt where
  | ready | token | join | converge | barrier | mwait | parked | halted | exited
  deriving DecidableEq, Repr

/-- The range that MONITOR armed (R338): a 128-byte line of a store, and whether it has been written since. -/
structure Armed where
  space : Space
  line : Nat
  written : Bool := false
  deriving DecidableEq, Repr

/-- The covered repeats of a REP (R173, R174): index of the next repeat, count, steps. -/
structure Rep where
  idx : Nat
  count : Nat
  sd : Bool
  sa : Bool
  sb : Bool
  sc : Bool
  stride : Nat
  deriving DecidableEq, Repr

/-- A fetched clause (R155, R158) and the place in it: index of the next word, repeats under way. -/
structure Clause where
  hdr : Nat
  cls : Nat
  words : List Word
  yield : Bool
  safe : Bool := false
  pos : Nat := 0
  rep : Option Rep := none
  deriving DecidableEq, Repr

/-- A lane (R72, R73, R216), or the single lane of a control program. Registers read 0 until written. -/
structure Lane where
  regs : SMap Word := []
  shadow : SMap Word := []
  pc : Nat := 0
  sptr : Word := 0
  tokens : SMap Token := []
  flags : BitVec 5 := 0
  sflags : BitVec 5 := 0
  draw : BitVec 64 := 0
  spawn : BitVec 64 := 0
  dist : Nat := 0
  latches : SMap (Option Word) := []
  slatches : SMap (Option Word) := []
  st : LaneSt := .ready
  readyAt : Nat := 0
  /-- cycle of arrival at a J header, or of entering MWAIT -/
  since : Nat := 0
  /-- N(lane, X) of R283: X = 0 TB, 1 CB, 2 + k NBk -/
  arrived : SMap Nat := []
  /-- the barrier waited at in BARRIER -/
  bar : Nat := 0
  armed : Option Armed := none
  /-- MWAIT: the timeout in cycles -/
  mwLimit : Nat := 0
  /-- a wait is over: the waiting instruction runs once more and completes; for MWAIT the value of its wake (R279) -/
  woken : Option Nat := none
  /-- header of the clause the lane stands in -/
  hdr : Nat := 0
  inClause : Bool := false
  /-- repeats under way when the lane left its gang -/
  rep : Option Rep := none
  /-- the fault of a PARKED or HALTED lane, with R452's INFO and TCODE -/
  code : Nat := 0
  info : Nat := 0
  tcode : Nat := 0
  haltFrom : LaneSt := .ready
  byDebug : Bool := false
  /-- a HALT of the debugger waits for the lane's next instruction boundary (R218, R481) -/
  haltReq : Bool := false
  /-- a STEP lets the lane run one step (R484) -/
  stepReq : Bool := false
  /-- the next step ignores watchpoints (R482), or executes the displaced word (R483) -/
  skipWatch : Bool := false
  displaced : Bool := false
  /-- the clause at which a running Primer ends (R445) -/
  primer : Option Nat := none
  /-- the lane has left JOIN at the header it stands at (R213) -/
  passJ : Bool := false
  /-- it has issued the instruction for which its gang still holds (R361) -/
  issued : Bool := false
  /-- HALTED on a TRAP: the header of the clause after it, at which a resume goes on (R482) -/
  after : Option Nat := none
  /-- a restore found it in BARRIER: its arrival is recorded, and the instruction that runs again only waits (R286) -/
  waits : Bool := false
  /-- stopped at a safe point, or at once, for a pending save, snapshot or end (R217) -/
  stopped : Bool := false
  deriving DecidableEq, Repr

/-- A plane record (R366, R389), with one more than the number of the pass that loads it and the cycle of that pass's grant
(R367). -/
structure Plane where
  off : Nat
  fmt : Nat
  sc : Bool
  k : Nat
  n : Nat
  soff : Nat
  load : Nat := 0
  since : Nat := 0
  deriving DecidableEq, Repr

/-- An open walk (R380, R396): extents, register, order, body, the visited tuples and the current one, by row-major index. -/
structure Walk where
  e0 : Nat
  e1 : Nat
  e2 : Nat
  d : Nat
  order : Bool
  body : Nat
  visited : List Nat
  current : Nat
  deriving DecidableEq, Repr

/-- The states of a sequencer (R372). -/
inductive SeqSt where
  | running | posting | barrier | swait | parked | halted | exited
  deriving DecidableEq, Repr

/-- A team sequencer (R371, R384). -/
structure Seq where
  s : SMap Word := []
  pc : Nat := 0
  draw : BitVec 64 := 0
  arrived : SMap Nat := []
  /-- arrivals recorded at retirement that do not count yet (R398), with the passes that must complete first -/
  held : List (Nat × List Nat) := []
  active : Option Plane := none
  shadow : Option Plane := none
  epi : BitVec 64 := 0
  epiScale : Nat := 0
  epiBias : Nat := 0
  walk : Option Walk := none
  dist : Nat := 0
  st : SeqSt := .running
  clause : Option Clause := none
  hdr : Nat := 0
  /-- without a fetched clause: the PC stands inside the clause of hdr, which is fetched again -/
  inClause : Bool := false
  bar : Nat := 0
  barD : Opd := .z
  /-- a restore found it in BARRIER: its AWAIT runs again and only waits (R286, R373) -/
  waits : Bool := false
  code : Nat := 0
  info : Nat := 0
  haltFrom : SeqSt := .running
  haltReq : Bool := false
  displaced : Bool := false
  /-- it waits in SWAIT for the sake of SQEXIT (R398) -/
  exiting : Bool := false
  /-- a save or a snapshot has stopped it at a safe point -/
  stopped : Bool := false
  deriving DecidableEq, Repr

/-- A group of a team (R67, R346): its descriptor set and its place on the core (an active slot, or pending since). -/
structure Group where
  ds : SMap (BitVec 64) := []
  slot : Option Nat := none
  pendingSince : Nat := 0
  exited : Bool := false
  deriving DecidableEq, Repr

/-- A staged-tile record (R352). -/
structure Tile where
  src : Nat
  dst : Nat
  x : Nat
  y : Nat
  z : Nat
  sfmt : Nat
  dfmt : Nat
  sat : Bool
  mode : Nat
  sealed : Bool
  sstrideY : BitVec 32
  sstrideZ : BitVec 32
  deriving DecidableEq, Repr

/-- What a staged entry does when it is written out (R423, R427). -/
inductive StagedOp where
  /-- a store, a copy piece or a drain write -/
  | write (bytes : List Byte)
  /-- an ATOM (op and operand of R319; 16 and 17 are CAS of 32 and 64 bits) -/
  | atom (op : Nat) (b cnew : Nat)
  /-- a BANKOP update (op, etype, quadruple, scalar) at a window offset -/
  | bank (op etype : Nat) (b : Nat) (c : Nat)
  /-- a LAUNCH by a lane: the record with its derived key, and whether the release is at system scope -/
  | launch (record : List Byte) (sys : Bool)
  deriving DecidableEq, Repr

/-- A staged access (R332): target fixed at issue (R510), VA for the team's own loads; window offset for BANKOP. -/
structure Staged where
  op : StagedOp
  target : Target
  va : Nat
  /-- copy command and piece that wrote the entry, so that a reissue replaces it (R453) -/
  copyPiece : Option (Nat × Nat) := none
  /-- committed at a team barrier of a launch both ordered and guarded (R430) -/
  eligible : Bool := false
  /-- the target lies in a sealed page, which a copy alone writes (R356) -/
  sealed : Bool := false
  /-- the bytes that a copy writes poisoned, counted from the first (R342) -/
  poison : List Nat := []
  deriving DecidableEq, Repr

/-- A slot entry (R334, R431): address, operation, contributions in order. -/
structure SlotEntry where
  va : Nat
  target : Target
  op : Nat
  xs : List Nat
  deriving DecidableEq, Repr

/-- The life of a team. -/
inductive TeamSt where
  /-- resident on its core -/
  | resident
  /-- saved; its cluster is a returning cluster -/
  | saved
  /-- being restored; a staged-tile piece waits for a reply (R354) -/
  | restoring
  /-- retired, its staged entries not released yet (R426) -/
  | retired
  /-- gone: ended, or retired and released -/
  | gone
  deriving DecidableEq, Repr

/-- A team (R67, R283, R352, R423, R446, R462). -/
structure Team where
  launch : Nat
  index : Nat
  rank : Nat
  cluster : Nat
  core : Nat
  st : TeamSt := .resident
  scrBase : Nat := 0
  accBase : Nat := 0
  slot : Nat := 0
  /-- control core whose private region holds its staging allocation (R41, R425) -/
  region : Nat := 0
  lanes : List Lane := []
  groups : List Group := []
  seq : Option Seq := none
  scratch : SMap Byte := []
  acc : SMap Byte := []
  /-- P(X) of R283 for TB and NBk -/
  phase : SMap Nat := []
  tiles : List Tile := []
  account : Nat := 0
  staged : List Staged := []
  slots : List SlotEntry := []
  /-- the slot entries as the last snapshot found them; a rollback goes back to them (R463) -/
  slotsKept : List SlotEntry := []
  /-- its release has begun and waits for a place in a queue (R132) -/
  releasing : Bool := false
  undo : List (Nat × List Byte) := []
  /-- lines of private memory as the interval found them (R332): store, 256-byte line, bytes -/
  undoPriv : List (Space × Nat × List Byte) := []
  /-- earlier values of scratchpad bytes that passes may still read (R367, R376): cycle of the write that replaced it, address,
  value -/
  past : List (Nat × Nat × Byte) := []
  /-- a pass of the team has drained to global memory (R302) -/
  drained : Bool := false
  overflow : Bool := false
  rollbacks : Nat := 0
  /-- a save of this KIND is pending (R441) -/
  savePending : Option Nat := none
  /-- a Gesso snapshot of the completed TB phase is pending (R461) -/
  snapshot : Bool := false
  /-- the interval began with the first snapshot (no TB phase yet) -/
  firstInterval : Bool := true
  /-- the interval of a rollback in progress: its TB completion takes no snapshot (R463) -/
  replaying : Bool := false
  /-- the team ends at its next safe point, because another team of the launch ended with a fault (R134) -/
  ending : Bool := false
  /-- a rollback is due or its restore runs: the fault's code and address, the UNIT of its record, and whether the address
  is one of a tier (R463, R467) -/
  rollback : Option (Nat × Nat × Nat × Bool) := none
  /-- the staged tile and its piece that a held restore waits for (R354); without one, a team in restoring waits for a peer's
  bytes before its context is read, or before its first snapshot is written (R303) -/
  tileWait : Option (Nat × Nat) := none
  /-- kept over a save beside the context: the header of the clause a framed sequencer stands in, and of each lane that a
  fault stopped in its Primer the header at which that ends and whether it wakes an MWAIT (log entry 47) -/
  seqHdr : Option Nat := none
  stubs : List (Nat × Nat × Bool) := []
  /-- registers whose storage holds poison (R458): lane in team, register, whether of the shadow lane; and those that the
  last snapshot recorded so -/
  bad : List (Nat × Nat × Bool) := []
  badKept : List (Nat × Nat × Bool) := []
  /-- the key counts under which the bounce-channel commands of the last snapshot were issued: lane in team, token, count
  (R359) -/
  keysKept : List (Nat × Nat × Nat) := []
  deriving DecidableEq, Repr

/-- The fields of a kernel descriptor that the device uses (R80). -/
structure Desc where
  entry : Nat := 0
  stream : Nat := 0
  safeTab : Nat := 0
  codeBase : Nat := 0
  safeCount : Nat := 0
  codeSize : Nat := 0
  shape : BitVec 32 := 0
  scratch : Nat := 0
  accum : Nat := 0
  priv : Nat := 0
  stage : Nat := 0
  undo : Nat := 0
  safeDist : Nat := 0
  kflags : BitVec 32 := 0
  /-- every reserved byte and bit is zero -/
  clean : Bool := true
  deriving DecidableEq, Repr

/-- The fields of a launch record (R128). -/
structure Record where
  kdesc : Nat := 0
  args : BitVec 64 := 0
  teamsM1 : Nat := 0
  lflags : BitVec 32 := 0
  key : BitVec 64 := 0
  cookie : BitVec 64 := 0
  save : Nat := 0
  saveSize : Nat := 0
  raceTab : Nat := 0
  clean : Bool := true
  deriving DecidableEq, Repr

/-- How a launch stands. -/
inductive LaunchSt where
  /-- in its priority queue, not yet checked -/
  | queued
  /-- the checks of R130 passed; clusters are placed -/
  | active
  /-- a fault ended a team: no further team is placed (R134) -/
  | failing
  /-- finished, its event held by a full event queue (R133) -/
  | holding
  /-- complete -/
  | done
  deriving DecidableEq, Repr

/-- A launch (R128, R130, R134, R419). Its number is its acceptance order. -/
structure Launch where
  world : Nat
  ctl : Nat
  prio : Nat
  record : Record
  recBytes : List Byte := []
  desc : Desc := {}
  descBytes : List Byte := []
  st : LaunchSt := .queued
  /-- position among the records of its queue; lower first -/
  place : Nat := 0
  /-- where its returning clusters stand among those places: 0, or the start of its part after a MERGE (R141, R146) -/
  part : Nat := 0
  nextCluster : Nat := 0
  /-- returning clusters, ascending (R141) -/
  returning : List Nat := []
  retired : Nat := 0
  /-- teams released by the Varnish -/
  released : Nat := 0
  g : Nat := 0
  /-- P(CB) by cluster -/
  cb : SMap Nat := []
  races : List (Nat × Nat) := []
  raceWords : SMap (BitVec 16) := []
  raceHeld : Bool := false
  /-- control core whose private region holds them (R41) -/
  raceRegion : Nat := 0
  slotsUsed : List Nat := []
  /-- status, code and team of the LAUNCH_ERROR the launch ends with -/
  fail : Option (Nat × Nat × Nat) := none
  /-- order among the completed launches, by their events (R431) -/
  doneSeq : Nat := 0
  deriving DecidableEq, Repr

/-- A gang in flight (R205, R206). -/
structure Gang where
  core : Nat
  team : Nat
  lanes : List Nat
  clause : Clause
  age : Nat
  began : Nat
  /-- YIELD or Y = 1 (R208, R278) -/
  yields : Bool := false
  /-- the next instruction found an interlock (R205) -/
  stalled : Bool := false
  deriving DecidableEq, Repr

/-- A missing, waiting or finished piece of a copy command (R340, R341). -/
inductive PieceSt where
  | todo | issued | done | missing
  deriving DecidableEq, Repr

/-- A copy command (R339, R346, R347): unit, issuer, operation index n, modifier, operands, descriptor set, pieces. -/
structure Copy where
  quad : Nat
  who : Agent
  world : Nat
  op : Nat
  m : BitVec 8
  a : Nat
  b : Nat
  c : Nat
  ds : List (BitVec 64)
  token : Nat
  pieces : List PieceSt
  /-- destination bytes of each piece -/
  bytes : List Nat
  /-- the index table as the unit read it (R349) -/
  idx : List Nat := []
  /-- the counter value of a bounce-channel command (R361) -/
  ctr : Nat := 0
  /-- bytes of a CHSEND have reached host memory -/
  touched : Bool := false
  /-- PENDING, else FAULTED -/
  pending : Bool := true
  /-- the key count of its channel at its issue: after a CHKEY it moves no data any more (R359) -/
  keyed : Nat := 0
  /-- pages and codes that already have a fault record (R340) -/
  reported : List (Nat × Nat) := []
  deriving DecidableEq, Repr

/-- A pass in a reservation table (R363, R374): opcode, modifier, operands, records and epilogue taken at posting. -/
structure Pass where
  team : Nat
  op : Nat
  m : BitVec 8
  a : Nat
  b : Nat
  c : Nat
  plane : Option Plane
  epi : BitVec 64
  epiScale : Nat
  epiBias : Nat
  draw : BitVec 64
  /-- address of the global operand, and what its 4 KiB units were translated to at posting, in order (R382) -/
  va : Nat
  pages : List (Target × Option (Space × Nat))
  posted : Nat
  prio : Nat
  granted : Bool := false
  deriving DecidableEq, Repr

/-- A peer request in flight or answered (R115, R330). -/
inductive ReqSt where
  | waiting | ok (bytes : List Byte) | mismatch | poison | indeterminate
  deriving DecidableEq, Repr

/-- An outstanding remote request: requester and tag, issuer (or copy command and piece), accelerator, address, what it
asks. -/
structure Req where
  world : Nat := 0
  tag : Nat
  who : Agent
  /-- further agents whose accesses wait for the same bytes -/
  joined : List Agent := []
  /-- launch of the issuer, team and cookie of its records, which outlive it (R134, R331) -/
  launch : Option Nat := none
  team : Nat := 0xFFFFFFFF
  cookie : Nat := 0
  /-- a read that serves a walk, a fetch or a unit (R303): its length; the answer stays until the access has used it -/
  inner : Option Nat := none
  /-- the pass whose operand it reads -/
  pass : Option Nat := none
  copyPiece : Option (Nat × Nat) := none
  accel : Nat
  wpa : Nat
  write : Bool
  /-- the issuer waits for the response -/
  awaited : Bool
  st : ReqSt := .waiting
  /-- cycle of the request -/
  sent : Nat := 0
  deriving DecidableEq, Repr

/-- An inbound atomic kept by the target (R116). -/
structure Kept where
  station : Nat
  snode : Nat
  sworld : Nat
  tag : BitVec 16
  wpa : Nat
  node : Nat
  world : Nat
  op : Nat
  b : BitVec 64
  cnew : BitVec 64
  result : Nat
  deriving DecidableEq, Repr

/-- An event record (R133). -/
structure Event where
  type : Nat
  status : Nat := 0
  world : Nat
  aux : Nat := 0
  seq : Nat := 0
  cookie : BitVec 64 := 0
  count : Nat := 0
  team : Nat := 0xFFFFFFFF
  time : Nat := 0
  deriving DecidableEq, Repr

/-- The states of a slice (R32). -/
inductive SliceSt where
  | empty | creating | ready | busy | failed | destroying
  deriving DecidableEq, Repr

/-- The states of a world (R33). -/
inductive WorldSt where
  | free | attached | running | quiesced | resetting
  deriving DecidableEq, Repr

/-- The states of a TDI (R59). -/
inductive TdiSt where
  | unlocked | locked | run | error
  deriving DecidableEq, Repr

/-- The states of a control program (R126). -/
inductive CpSt where
  | stopped | running | waiting | parked | faulted
  deriving DecidableEq, Repr

/-- An outstanding record of the default FIFO program (R136): ring, cookie, DONE, vector to signal. -/
structure FifoRec where
  ring : Nat
  cookie : BitVec 64
  done : Nat
  vector : Option Nat
  deriving DecidableEq, Repr

/-- The default FIFO program's own state (R136): the ring served next, held records by ring, outstanding records. -/
structure Fifo where
  next : Nat := 0
  /-- a record taken and held until earlier launches of its ring completed, or refused with FULL: ring, bytes, retry -/
  holds : List (Nat × List Byte × Bool) := []
  outstanding : List FifoRec := []
  deriving DecidableEq, Repr

/-- A control program (R123 to R126). -/
structure Prog where
  st : CpSt := .stopped
  fault : Nat := 0
  faultPc : Nat := 0
  custom : Bool := false
  /-- its start waits for a peer's bytes: the descriptor and the code are read again (R303) -/
  starting : Bool := false
  lane : Lane := {}
  clause : Option Clause := none
  priv : SMap Byte := []
  ds : SMap (BitVec 64) := []
  entry : Nat := 0
  codeBase : Nat := 0
  codeSize : Nat := 0
  nregs : Nat := 0
  privSize : Nat := 0
  flagEn : BitVec 5 := 0
  fifo : Fifo := {}
  deriving DecidableEq, Repr

/-- A bounce channel (R359 to R361): 0 OFF, 1 LIVE, 2 DESYNC. -/
structure Channel where
  st : Nat := 0
  send : Nat := 0
  recv : Nat := 0
  key : Nat := 0
  keyCount : Nat := 0
  deriving DecidableEq, Repr

/-- A work ring (R118 to R121). -/
structure Ring where
  base : BitVec 64 := 0
  head : BitVec 32 := 0
  tail : BitVec 32 := 0
  badNotify : Bool := false
  deriving DecidableEq, Repr

/-- The translation context read at EN = 1 (R311). -/
structure Context where
  root : Nat
  pasid : Nat
  fqLog2 : Nat
  fqVector : Nat
  fqBase : Nat
  deriving DecidableEq, Repr

/-- A session of a world's SPDM responder (R55, R59). -/
structure Session where
  id : Nat
  established : Bool := false
  secret : Nat := 0
  updates : Nat := 0
  deriving DecidableEq, Repr

/-- The algorithms that an SPDM connection has negotiated (R56), as the bits of the ALGORITHMS message, and the ExtAsym entry. -/
structure Algorithms where
  hash : Nat
  dhe : Nat
  aead : Nat
  schedule : Nat
  baseAsym : Nat
  extAsym : List Byte
  deriving DecidableEq, Repr

/-- A world's SPDM responder: negotiation, sessions, the deferred request under its token, transcript start. -/
structure Spdm where
  version : Bool := false
  /-- the version of the connection: 0x12 or 0x13 (R54) -/
  speaks : Nat := 0x13
  capabilities : Bool := false
  algorithms : Option Algorithms := none
  sessions : List Session := []
  deferred : Option (Nat × Instr) := none
  tokens : Nat := 0
  /-- activation counter at the first message of the running transcript -/
  transcript : Option Nat := none
  deriving DecidableEq, Repr

/-- A page fault reported on the PRI queue (R110). -/
structure PriGroup where
  vpage : Nat
  deriving DecidableEq, Repr

/-- A debug report that is due (R481): team, group, whether it concerns the sequencer, CAUSE, CODE, BRK code or
watchpoint number. -/
structure Report where
  team : Nat
  group : Nat
  seq : Bool
  cause : Nat
  code : Nat
  aux : Nat
  deriving DecidableEq, Repr

/-- A HALT or STEP under way (R481, R484), or the group halt of GSTOP (operation 0): operation, team, group, and the
report's CAUSE, CODE and AUX. -/
structure DbgCmd where
  op : Nat
  team : Nat
  group : Nat
  cause : Nat
  code : Nat
  aux : Nat
  deriving DecidableEq, Repr

/-- The debug block of a world (R480 to R487). -/
structure Debug where
  ctl : BitVec 64 := 0
  mseq : BitVec 32 := 0
  err : Bool := false
  busy : Bool := false
  new : Bool := false
  sel : BitVec 64 := 0
  cmd : BitVec 64 := 0
  displaced : BitVec 64 := 0
  dispPc : BitVec 64 := 0
  rsel : BitVec 64 := 0
  wp : SMap (BitVec 64) := []
  mbox : SMap (BitVec 64) := []
  /-- reports due, held while NEW = 1 (R481) -/
  held : List Report := []
  /-- the running command -/
  running : Option DbgCmd := none
  /-- group halts of GSTOP under way -/
  stops : List DbgCmd := []
  deriving DecidableEq, Repr

/-- The place in a usage chain at which its next record begins: number, chain, START, totals there, hash of the record
before, and the flags IMPORTED and "merged or split" that the record will carry (R497). -/
structure Chain where
  seq : Nat := 0
  chain : Nat := 0
  start : Nat := 0
  totals : SMap Nat := []
  prev : Nat := 0
  imported : Bool := false
  changed : Bool := false
  deriving DecidableEq, Repr

/-- A record that waits (R496): its place in the chain, END, totals at END, NODE, LAST, and whether it replaced another. -/
structure HeldRec where
  at' : Chain
  finish : Nat
  totals : SMap Nat
  node : Nat
  last : Bool
  again : Bool
  deriving DecidableEq, Repr

/-- The usage chain of a world (R495 to R497): the open chain, and the held record. -/
structure Usage where
  chain : Option Chain := none
  held : Option HeldRec := none
  deriving DecidableEq, Repr

/-- A fault record that the device watches (R316), or keeps for the outcome of its reply. -/
structure FaultRec where
  seq : Nat
  who : List Agent
  vpage : Nat
  src : Nat
  /-- the cycle of the fault: misses of one cycle on one page share the record (R314) -/
  born : Nat := 0
  /-- an ATS miss, which the Page Request group of its VA page replays (R110) -/
  ats : Bool := false
  /-- the record waits in PARKED for room in the queue (R315) -/
  queued : Bool := false
  bytes : List Byte := []
  deriving DecidableEq, Repr

/-- A world (R24, R33, R51 and the chapters that give it registers). -/
structure World where
  st : WorldSt := .free
  ctl : Nat := 0
  lastReset : Nat := 0
  en : Bool := false
  enDropped : Bool := false
  base : Nat := 0
  size : Nat := 0
  adopted : Bool := false
  windowMask : BitVec 16 := 0
  cacheMask : BitVec 16 := 0
  key : Option Nat := none
  secondKey : Option Nat := none
  rotation : Option Nat := none
  sealKey : Option Nat := none
  sealCtr : Nat := 0
  tagBase : BitVec 64 := 0
  channels : SMap Channel := []
  rings : SMap Ring := []
  cprog : BitVec 64 := 0
  prog : Prog := {}
  tctx : BitVec 64 := 0
  context : Option Context := none
  fqBroken : Bool := false
  records : List FaultRec := []
  eventSeq : Nat := 0
  segments : SMap (BitVec 128) := []
  window : SMap Byte := []
  tdi : TdiSt := .unlocked
  lockSession : Nat := 0
  measured : List Nat := []
  progDigest : Nat := 0
  spdm : Spdm := {}
  /-- MSI-X vectors that the host has unmasked, and those pending under a mask (R105, R296; log entry 22) -/
  unmasked : List Nat := []
  pendingVectors : List Nat := []
  priGroups : List PriGroup := []
  tracking : Bool := false
  dirty : SMap Bool := []
  exported : Bool := false
  /-- EXPORT drops inbound writes (R474) -/
  dropWrites : Bool := false
  migCmd : BitVec 32 := 0
  migStatus : Nat := 0
  migElapsed : Nat := 0
  migBuf : BitVec 64 := 0
  migSize : BitVec 32 := 0
  migLen : BitVec 32 := 0
  dbg : Debug := {}
  meter : SMap Nat := []
  /-- the counters when the world came to its slice, for the slice's sum (R492) -/
  meterBase : SMap Nat := []
  residSince : Nat := 0
  usage : Usage := {}
  deriving DecidableEq, Repr

/-- A slice, under its control core (R28, R47, R50). -/
structure Slice where
  st : SliceSt := .empty
  node : Nat := 0
  owner : Nat := 0
  cause : Nat := 0
  winWays : Nat := 0
  tmplAddr : BitVec 64 := 0
  tmplSize : BitVec 32 := 0
  tmplDest : BitVec 64 := 0
  /-- the template area (offset, size) that stands (R37), and its adopter -/
  area : Option (Nat × Nat) := none
  adopter : Option Nat := none
  areaTaken : Bool := false
  wlist : List Nat := [0, 0, 0, 0, 0, 0]
  ageLimit : Nat := 8
  lend : BitVec 16 := 0
  quantum : Nat := 0x0A
  key : Option Nat := none
  /-- blocked head: launch and cluster (R144) -/
  blocked : Option (Nat × Nat) := none
  age : Nat := 0
  draining : Bool := false
  splitting : Bool := false
  eligible : Option Nat := none
  /-- when that world became eligible (R456) -/
  eligibleSince : Nat := 0
  events : List Event := []
  /-- events that producers hold (R133) -/
  heldEvents : List Event := []
  /-- turn among the control programs: position and retired instructions (R127) -/
  turnPos : Nat := 0
  turnCount : Nat := 0
  routes : SMap (BitVec 64) := []
  /-- the kept private regions of absorbed children: control core of the child and its slice key (R41) -/
  oldPrivate : List (Nat × Option Nat) := []
  meter : SMap Nat := []
  residSince : Nat := 0
  /-- the registers of the SLICE firmware (R123) -/
  firm : Lane := {}
  /-- the 4 KiB page of the template that the copy unit moves next, while it loads (R34) -/
  template : Option Nat := none
  deriving DecidableEq, Repr

/-- The running slice or migration command (R42): operation (0x81 to 0x85 are TRACK to UNTRACK), word, start time. -/
structure Command where
  op : Nat
  world : Nat
  node : Nat
  owner : Nat
  arg : BitVec 64
  /-- the starting write; and the time from which its bounds count (R63) -/
  start : Nat
  bound : Nat
  /-- the command has ended, with this status, and its completion is due -/
  ended : Option Nat := none
  deriving DecidableEq, Repr

/-- A firmware command that runs (R61, R64): operation, image, start time, and what a STAGE copies. -/
structure FwCommand where
  op : Nat
  image : Nat
  start : Nat
  addr : Nat := 0
  size : Nat := 0
  /-- the flash bank that an ACTIVATE makes the active one -/
  bank : Nat := 0
  deriving DecidableEq, Repr

/-- A flash bank of an image (R52, R61): its body (none for the image of manufacture), whether its signature holds, and its
security version number. -/
structure Bank where
  body : Option (List Byte) := none
  signed : Bool := true
  version : Nat := 0
  deriving DecidableEq, Repr

/-- The host link (R104): rate in GT/s, width, whether it trained. -/
structure HostLink where
  rate : Nat := 128
  width : Nat := 16
  up : Bool := true
  deriving DecidableEq, Repr

/-- An HDM decoder (R107, R108). -/
structure Decoder where
  committed : Bool := false
  error : Bool := false
  base : Nat := 0
  size : Nat := 0
  world : Nat := 0
  roff : Nat := 0
  deriving DecidableEq, Repr

/-- A cached translation of a quad's unit (R312): the leaf that a 64 KiB page has, with its permissions. -/
structure TlbEntry where
  quad : Nat
  world : Nat
  vpage : Nat
  wpage : Nat
  r : Bool
  w : Bool
  x : Bool
  sealed : Bool
  level : Nat
  run : Bool := false
  deriving DecidableEq, Repr

/-- A line of a core's L1 (R302) or of its instruction cache (R155). -/
structure L1Line where
  core : Nat
  space : Space
  line : Nat
  bytes : List Byte
  deriving DecidableEq, Repr

/-- The value that a code word had before a store changed it: the teams below a number may still fetch it (R79). -/
structure OldWord where
  space : Space
  addr : Nat
  bytes : List Byte
  teams : Nat
  deriving DecidableEq, Repr

/-- A 64-byte host line in the L2 ways of a world (R106), and whether the device has written it. -/
structure HostLine where
  world : Nat
  line : Nat
  dirty : Bool
  deriving DecidableEq, Repr

/-- An error record kept by the hub (R466, R467), 64 bytes. -/
structure ErrRec where
  bytes : List Byte
  deriving DecidableEq, Repr

/-- A merge window of CORRECTED records (R467): unit, location, the first error's address and syndrome, count, start. -/
structure MergeWin where
  unit : Nat
  loc : Nat
  addr : Nat
  syn : Nat
  count : Nat
  opened : Nat
  deriving DecidableEq, Repr

/-- The freeze of the package (R469): cause and time. -/
structure Freeze where
  cause : Nat
  time : Nat
  deriving DecidableEq, Repr

/-- What the last step sent outside: an interrupt, a Page Request group, a UALink request, or a reply to a request. -/
inductive Output where
  | msix (w v : Nat)
  /-- a group under a PASID: its 4 KiB pages, each with the mark of the last one (R110) -/
  | pageRequest (w pasid : Nat) (pages : List (Nat × Bool))
  /-- the port, the requester (station, node, world), the tag, the accelerator and WPA asked, the operation, and the bytes of a
  drain that are poisoned (R382; log entry 60) -/
  | ualRequest (port station node world tag accel wpa : Nat) (write : Bool) (op : Nat) (bytes : List Byte) (bad : List Nat)
  | reply (status : Nat) (bytes : List Byte)
  | configRetry
  /-- an ATS invalidation of a world has completed: first page and count (R109) -/
  | invalidated (w page count : Nat)
  /-- the answer to a snoop: whether the device held the line, and the bytes it had written (R106) -/
  | snooped (held : Bool) (bytes : List Byte)
  /-- on the management port: the image that failed in both banks, and the status of R64 for its cause (R52) -/
  | bootFailed (image cause : Nat)
  /-- on the management port: the host link stays down at this rate and width (R104) -/
  | linkDown (rate width : Nat)
  deriving DecidableEq, Repr

/-- One entry of the agenda: an operation or event of the table, an agent allowed to move, a change outside the device,
or time that passes (log entry 2). -/
inductive Move where
  /-- an operation or event of the opcode table -/
  | event (i : Instr)
  /-- the picker of a core issues -/
  | core (c : Nat)
  /-- a team's sequencer moves -/
  | seq (t : Nat)
  /-- a world's control program moves -/
  | prog (w : Nat)
  /-- the SLICE firmware of a control core executes an instruction (log entry 17) -/
  | firm (c : Nat) (i : Instr)
  /-- the secure clock advances by ns, every core's cycle counter by cycles -/
  | time (ns cycles : Nat)
  /-- the host maps (or unmaps) a 4 KiB page of a function's PASID onto a host page -/
  | ats (w pasid page : Nat) (host : Option Nat)
  /-- a host request that carries the TEE bit, on an IDE stream (R59, R111) -/
  | tee (stream : Nat) (i : Instr)
  /-- a TDISP message without an operation of its own, in a session of a world (R59; log entry 19) -/
  | tdisp (w sess code : Nat)
  /-- the boot flash as the next boot will find it: bank of an image, whether its signature holds, its security version -/
  | flash (image bank : Nat) (signed : Bool) (version : Nat)
  /-- the minimum security version of an image in the fuses (R52) -/
  | fuse (image version : Nat)
  /-- a translation unit drops a cached translation -/
  | tlbEvict (q w vpage : Nat)
  /-- the host masks or unmasks an MSI-X vector -/
  | mask (w v : Nat) (on : Bool)
  deriving DecidableEq, Repr

/-- Which agent executes in this step: gang number g of State.gangs, a sequencer, a control program, the firmware of a
control core. -/
inductive Cur where
  | gang (g : Nat)
  | seq (t : Nat)
  | prog (w : Nat)
  | firm (c : Nat)
  deriving DecidableEq, Repr

/-- The package. -/
structure State where
  agenda : List Move := []
  due : List Instr := []
  out : List Output := []
  cur : Option Cur := none
  /-- the agent that the default order tries next (log entry 2) -/
  turn : Nat := 0
  freeCtr : Nat := 0
  cycle : Nat := 0
  clock : Nat := 0
  clockCommitted : Nat := 0
  /-- the bring-up of R65 has ended -/
  up : Bool := true
  /-- the time at which a bring-up under way has ended -/
  upAt : Option Nat := none
  /-- order number of the image that failed in both banks (R52), which holds the host link in reset, and the cause -/
  bootFailed : Nat := 0
  bootCause : Nat := 0
  link : HostLink := {}
  frozen : Option Freeze := none
  life : SMap Nat := []
  lifePending : SMap Nat := []
  activations : Nat := 0
  keys : Nat := 0
  /-- firmware: registers, running command and that of the management port, staged image (image, bank), the bodies of the
  running images, flash banks (2 · image + bank), the bank of an image that a boot tries first, minimum security versions -/
  fwaCmd : BitVec 32 := 0
  fwaStatus : Nat := 0
  fwaElapsed : Nat := 0
  fwaAddr : BitVec 64 := 0
  fwaSize : BitVec 32 := 0
  fw : Option FwCommand := none
  portFw : Option FwCommand := none
  staged : Option (Nat × Nat) := none
  builds : SMap (List Byte) := []
  banks : SMap Bank := []
  bootBank : SMap Nat := []
  fuses : SMap Nat := []
  /-- operations held while an activation or a slice command runs (R42, R63), in arrival order -/
  held : List Instr := []
  slcCmd : BitVec 32 := 0
  slcArg : BitVec 64 := 0
  slcStatus : Nat := 0
  slcElapsed : Nat := 0
  /-- the starting write of a held slice or migration command (R49, R63) -/
  cmdWritten : Nat := 0
  command : Option Command := none
  slices : SMap Slice := []
  worlds : SMap World := []
  launches : SMap Launch := []
  nextLaunch : Nat := 0
  teams : SMap Team := []
  nextTeam : Nat := 0
  gangs : SMap Gang := []
  nextGang : Nat := 0
  /-- per core: counter C of R210 -/
  progress : SMap Nat := []
  /-- per core: the override of R210 holds -/
  override : List Nat := []
  copies : SMap Copy := []
  nextCopy : Nat := 0
  passes : SMap Pass := []
  nextPass : Nat := 0
  hbm : SMap Byte := []
  /-- 64 KiB pages of the package that have been written since they became fresh (R35) -/
  written : SMap Bool := []
  host : SMap Byte := []
  /-- poisoned granules (R458): store and granule number -/
  poison : List (Space × Nat) := []
  /-- granules of a clean cached copy found uncorrectable: the accesses of this step meet the error, of the next one
  (R458; log entry 48) -/
  meets : List (Space × Nat) := []
  meetsNext : List (Space × Nat) := []
  l1 : List L1Line := []
  /-- instruction caches (R155), and the old values of changed code words (R79) -/
  icache : List L1Line := []
  oldCode : List OldWord := []
  /-- host lines in the L2 ways of worlds (R106) -/
  hostLines : List HostLine := []
  tlb : List TlbEntry := []
  /-- host's translation of I/O pages: ((world, PASID), page, host page); and those the device holds (R109) -/
  atsTable : List ((Nat × Nat) × Nat × Nat) := []
  atsHeld : List ((Nat × Nat) × Nat × Nat) := []
  reqs : List Req := []
  /-- by world: the tags that the device has chosen itself (R330) -/
  tags : SMap Nat := []
  kept : List Kept := []
  station : BitVec 10 := 0
  palSel : BitVec 32 := 0
  /-- frame at which a staged calendar rewrite takes effect -/
  palPend : Option Nat := none
  /-- node of each slice as the calendars in force know them (control core, node) -/
  calendar : List (Nat × Nat) := []
  calendarNext : List (Nat × Nat) := []
  relBase : BitVec 64 := 0
  relHead : BitVec 32 := 0
  relTail : BitVec 32 := 0
  relOvf : Bool := false
  relLost : Nat := 0
  errors : List ErrRec := []
  merges : List MergeWin := []
  metBase : BitVec 64 := 0
  metHead : BitVec 32 := 0
  metTail : BitVec 32 := 0
  metPeriod : Nat := 1000
  metNext : Nat := 1000
  decoders : SMap Decoder := []
  /-- IDE streams keyed (R111): stream number and the world it is bound to -/
  ide : List (Nat × Nat) := []
  deriving DecidableEq, Repr

/-- The machine right after reset: bring-up has ended (log entry 21), no slice stands, every world but 0 is FREE, and
memory lists nothing. World 0 is the physical function, which exists whenever the device is out of reset (R23). -/
def State.reset : State := {}

end Sys2Proof.Machine
end

