-- ==== Sys2Proof/Machine/Base.lean ====
section
/-! DEFINITION. Small operations that every family uses: little-endian bytes, bit fields, the numbering of dies, quads,
cores and slice nodes (R12 to R14, R27, R28, R305), and the reads and updates of the tables in State. -/

namespace Sys2Proof.Machine

/-- The n low bytes of v, lowest first (R2). -/
def leBytes (n v : Nat) : List Byte :=
  match n with
  | 0 => []
  | n + 1 => BitVec.ofNat 8 v :: leBytes n (v / 256)

/-- The number that little-endian bytes hold (R2). -/
def ofLe (bs : List Byte) : Nat :=
  match bs with
  | [] => 0
  | b :: bs => b.toNat + 256 * ofLe bs

/-- Bits hi to lo of a number, x[hi:lo] of R5. -/
def bits (x hi lo : Nat) : Nat := x / 2 ^ lo % 2 ^ (hi + 1 - lo)

/-- Bit k of a number. -/
def bit (x k : Nat) : Bool := x / 2 ^ k % 2 == 1

/-- The signed value of the w low bits of x, sext_w of R82. -/
def sext (w x : Nat) : Int := if x % 2 ^ w < 2 ^ (w - 1) then (x % 2 ^ w : Nat) else (x % 2 ^ w : Nat) - (2 ^ w : Nat)

/-- wrap_w of R82: the pattern of an integer modulo 2^w. -/
def wrapInt (w : Nat) (x : Int) : Nat := (x % (2 ^ w : Nat)).toNat

/-- The least integer not below n / d. -/
def ceilDiv (n d : Nat) : Nat := (n + d - 1) / d

/-- x rounded up to a multiple of d. -/
def roundUp (x d : Nat) : Nat := ceilDiv x d * d

/-- Replaces element k of a list. -/
def setAt {α : Type} (l : List α) (k : Nat) (v : α) : List α := l.set k v

/-- Bytes off to off + n - 1 of a byte list as a number; bytes beyond its end are 0. -/
def field (bs : List Byte) (off n : Nat) : Nat := ofLe ((bs.drop off).take n)

/-- Overwrites bytes of a list from off on. -/
def patch (bs : List Byte) (off : Nat) (new : List Byte) : List Byte :=
  bs.take off ++ new ++ bs.drop (off + new.length)

/-- n zero bytes. -/
def zeros (n : Nat) : List Byte := List.replicate n 0

/-! Numbering -/

/-- The level of a slice node (R27). -/
def nodeLevel (n : Nat) : Nat := Nat.log2 n
/-- How many sixteenths a node covers. -/
def nodeSpan (n : Nat) : Nat := 2 ^ (4 - nodeLevel n)
/-- The control core of a node: its lowest sixteenth (R28). -/
def nodeCtl (n : Nat) : Nat := n * nodeSpan n - 16
/-- The sixteenths under a node, by index 0 to 15; they are also the HBM stacks in tree order (R305). -/
def nodeSixteenths (n : Nat) : List Nat := (List.range (nodeSpan n)).map (nodeCtl n + ·)
/-- The die of eighth 8 + e (R27). -/
def eighthDie (e : Nat) : Nat := [0, 1, 4, 5, 2, 3, 6, 7].getD e 0
/-- The two quads of sixteenth i, left first (R12, R27). -/
def sixteenthQuads (i : Nat) : List Nat :=
  let d := eighthDie (i / 2)
  let q := 8 * (2 * (d / 4) + i % 2) + 2 * (d % 4)
  [q, q + 1]
/-- The HBM stack of sixteenth i (R14). -/
def sixteenthStack (i : Nat) : Nat := 2 * eighthDie (i / 2) + i % 2
/-- The quads of a node. -/
def nodeQuads (n : Nat) : List Nat := (nodeSixteenths n).flatMap sixteenthQuads
/-- The sixteenth that holds quad q. -/
def quadSixteenth (q : Nat) : Nat :=
  ((List.range 16).find? fun i => (sixteenthQuads i).contains q).getD 0
/-- The quad of a core, and the core's place on the core mesh (R13). -/
def coreQuad (core : Nat) : Nat := core / 4
def coreX (core : Nat) : Nat := 2 * (coreQuad core % 8) + core % 2
def coreY (core : Nat) : Nat := 2 * (coreQuad core / 8) + core % 4 / 2
/-- The core at a place of the mesh (R13). -/
def coreAt (cx cy : Nat) : Nat := 4 * (8 * (cy / 2) + cx / 2) + 2 * (cy % 2) + cx % 2
/-- The cores of a node. -/
def nodeCores (n : Nat) : List Nat := (nodeQuads n).flatMap fun q => [4 * q, 4 * q + 1, 4 * q + 2, 4 * q + 3]
/-- One GiB, and the bytes of one HBM stack (R4, R18). -/
def giB : Nat := 2 ^ 30
def stackBytes : Nat := 64 * giB
/-- HBM bytes of a node. -/
def nodeBytes (n : Nat) : Nat := nodeSpan n * stackBytes
/-- The package address of a slice's HBM offset 0: stacks in tree order, from the slice's lowest sixteenth. -/
def ctlBase (c : Nat) : Nat := c * stackBytes
/-- L2 banks of a node (R14). -/
def nodeBanks (n : Nat) : Nat := 16 * nodeSpan n
/-- The L2 banks that share the stack of sixteenth i (R14): 32d to 32d + 15 for an even row of die d, the next 16 for an odd. -/
def stackBanks (i : Nat) : List Nat := (List.range 16).map (16 * sixteenthStack i + ·)
/-- The L2 banks of a node in ascending bank number (R304). -/
def bankList (n : Nat) : List Nat := (List.range 256).filter fun b => (nodeSixteenths n).any fun i => b / 16 == sixteenthStack i
/-- Where byte o of a bank window lies (R304): bank, byte within the bank's share, and which set bit of the window mask. -/
def windowBank (n o : Nat) : Nat := (bankList n).getD (o / 256 % nodeBanks n) 0
def windowByte (n o : Nat) : Nat := o / 256 / nodeBanks n * 256 + o % 256
def windowWay (n o : Nat) : Nat := windowByte n o / 131072
/-- Whether a is b or an ancestor of b in the slice tree. -/
def isAncestor (a b : Nat) : Bool :=
  nodeLevel a ≤ nodeLevel b && b / 2 ^ (nodeLevel b - nodeLevel a) == a

/-! Tables of State -/

namespace State

def world (s : State) (w : Nat) : World := s.worlds.get {} w
def setWorld (s : State) (w : Nat) (x : World) : State := { s with worlds := s.worlds.insert w x }
def modWorld (s : State) (w : Nat) (f : World → World) : State := s.setWorld w (f (s.world w))
def slice (s : State) (c : Nat) : Slice := s.slices.get {} c
def setSlice (s : State) (c : Nat) (x : Slice) : State := { s with slices := s.slices.insert c x }
def modSlice (s : State) (c : Nat) (f : Slice → Slice) : State := s.setSlice c (f (s.slice c))
def team? (s : State) (t : Nat) : Option Team := s.teams.look t
def team (s : State) (t : Nat) : Team := s.teams.get { launch := 0, index := 0, rank := 0, cluster := 0, core := 0, st := .gone } t
def setTeam (s : State) (t : Nat) (x : Team) : State := { s with teams := s.teams.insert t x }
def modTeam (s : State) (t : Nat) (f : Team → Team) : State := s.setTeam t (f (s.team t))
def launch (s : State) (l : Nat) : Launch := s.launches.get { world := 0, ctl := 0, prio := 0, record := {}, st := .done } l
def setLaunch (s : State) (l : Nat) (x : Launch) : State := { s with launches := s.launches.insert l x }
def modLaunch (s : State) (l : Nat) (f : Launch → Launch) : State := s.setLaunch l (f (s.launch l))
def prog (s : State) (w : Nat) : Prog := (s.world w).prog
def modProg (s : State) (w : Nat) (f : Prog → Prog) : State := s.modWorld w fun x => { x with prog := f x.prog }
/-- The lane at a place; a lane that is not there reads as an exited one. -/
def lane (s : State) (t lit : Nat) : Lane := (s.team t).lanes.getD lit { st := .exited }
def modLane (s : State) (t lit : Nat) (f : Lane → Lane) : State :=
  s.modTeam t fun x => { x with lanes := x.lanes.set lit (f (x.lanes.getD lit { st := .exited })) }
/-- The lane that an agent is; a sequencer has none and reads as the default lane. -/
def laneOf (s : State) (a : Agent) : Lane :=
  match a with
  | .lane t lit => s.lane t lit
  | .prog w => (s.prog w).lane
  | .firm c => (s.slice c).firm
  | .seq _ => {}
def modLaneOf (s : State) (a : Agent) (f : Lane → Lane) : State :=
  match a with
  | .lane t lit => s.modLane t lit f
  | .prog w => s.modProg w fun p => { p with lane := f p.lane }
  | .firm c => s.modSlice c fun x => { x with firm := f x.firm }
  | .seq _ => s
def seqOf (s : State) (t : Nat) : Seq := (s.team t).seq.getD { st := .exited }
def modSeq (s : State) (t : Nat) (f : Seq → Seq) : State := s.modTeam t fun x => { x with seq := x.seq.map f }
def gang (s : State) (g : Nat) : Option Gang := s.gangs.look g
def ring (x : World) (r : Nat) : Ring := x.rings.get {} r

/-- The launch of a team, and the world an agent acts for (R24). -/
def launchOf (s : State) (t : Nat) : Launch := s.launch (s.team t).launch
def worldOf (s : State) (a : Agent) : Nat :=
  match a with
  | .lane t _ => (s.launchOf t).world
  | .prog w => w
  | .firm _ => 0
  | .seq t => (s.launchOf t).world
/-- The slice of a world, as its control core. -/
def sliceOf (s : State) (w : Nat) : Slice := s.slice (s.world w).ctl
/-- The quad whose units serve an agent (R314, R339): its core's, or its slice's lowest. -/
def lowestQuad (c : Nat) : Nat := (sixteenthQuads c).headD 0
def quadOf (s : State) (a : Agent) : Nat :=
  match a with
  | .lane t _ | .seq t => coreQuad (s.team t).core
  | .prog w => lowestQuad (s.world w).ctl
  | .firm c => lowestQuad c
/-- Adds an operation that the device performs next of itself. -/
def push (s : State) (i : Instr) : State := { s with due := s.due ++ [i] }
/-- As push, unless the same one is due already. -/
def pushOnce (s : State) (i : Instr) : State := if s.due.contains i then s else s.push i
/-- Sends something outside. -/
def send (s : State) (o : Output) : State := { s with out := s.out ++ [o] }
/-- Takes the next unspecified value (R8). -/
def free (s : State) : Nat × State := (Config.freeValue s.freeCtr, { s with freeCtr := s.freeCtr + 1 })
/-- Sends MSI-X vector v of world w, or keeps it pending under a mask (R105, R296; log entry 22). -/
def signal (s : State) (w v : Nat) : State :=
  if (s.world w).unmasked.contains v then s.send (.msix w v)
  else s.modWorld w fun x => { x with pendingVectors := if x.pendingVectors.contains v then x.pendingVectors else x.pendingVectors ++ [v] }
/-- Adds to a metering counter of a world (R491). -/
def meter (s : State) (w k n : Nat) : State :=
  s.modWorld w fun x => { x with meter := x.meter.put 0 k ((x.meter.get 0 k + n) % 2 ^ 64) }
/-- Adds to a metering counter of a slice's own firmware work (R492). -/
def meterSlice (s : State) (c k n : Nat) : State :=
  s.modSlice c fun x => { x with meter := x.meter.put 0 k ((x.meter.get 0 k + n) % 2 ^ 64) }
/-- The body of an image that runs (R57): that of manufacture until another one is activated or booted. -/
def imageBody (s : State) (i : Nat) : List Byte := (s.builds.look i).getD (Config.factoryImage i)
/-- The measurements that describe the package, 1 to 5 (R57); the fused state begins with the minimum versions of the images
in their order, 32 bits each (log entry 20). -/
def packageMeasurement (s : State) (idx : Nat) : List Byte :=
  match idx with
  | 1 => leBytes 48 (Config.sha384 (Config.factoryImage 0))
  | 2 => leBytes 48 (Config.sha384 (s.imageBody 1))
  | 3 => leBytes 48 (Config.sha384 (s.imageBody 5))
  | 4 => leBytes 48 (Config.sha384 (s.imageBody 3 ++ s.imageBody 2))
  | _ => ((List.range 5).flatMap fun i => leBytes 4 (s.fuses.get 0 (i + 1))) ++ leBytes 44 Config.fusedState
/-- The Alias key and the certificate chain that go with it (R53). -/
def aliasKey (s : State) : Nat := Config.aliasKey ((List.range 5).flatMap fun i => s.packageMeasurement (i + 1)) s.activations
def chainBytes (s : State) : List Byte :=
  Config.certChain s.aliasKey ((List.range 5).flatMap fun i => s.packageMeasurement (i + 1)) s.activations
/-- Draws a new key from the true random generator; keys are named by serial numbers (log entry 11). -/
def drawKey (s : State) : Nat × State := (s.keys + 1, { s with keys := s.keys + 1 })

end State

/-- The attached worlds of a slice, in the order of SLC_WLIST (R29). -/
def Slice.worlds (x : Slice) : List Nat := x.wlist.filter (· != 0)

/-- Group width of a launch: 32 lanes in a protected one (R67). -/
def Launch.prot (l : Launch) : Bool := l.record.lflags.getLsbD 4
def Launch.guarded (l : Launch) : Bool := l.record.lflags.getLsbD 3
def Launch.ordered (l : Launch) : Bool := l.record.lflags.getLsbD 2
def Launch.staging (l : Launch) : Bool := l.guarded || l.ordered
def Launch.width (l : Launch) : Nat := if l.prot then 32 else 64
def Launch.rect (l : Launch) : Nat := bits l.record.lflags.toNat 7 5
/-- Width and height of rectangle k (R68). -/
def rectShape (k : Nat) : Nat × Nat := [(1, 1), (1, 2), (2, 1), (2, 2), (2, 4), (4, 2), (2, 6), (6, 2)].getD k (1, 1)
def Launch.clusterSize (l : Launch) : Nat := (rectShape l.rect).1 * (rectShape l.rect).2
def Launch.teams (l : Launch) : Nat := l.record.teamsM1 + 1
def Desc.groups (d : Desc) : Nat := bits d.shape.toNat 5 0
def Desc.nregs (d : Desc) : Nat := bits d.shape.toNat 15 8
def Desc.hasSeq (d : Desc) : Bool := d.kflags.getLsbD 8
def Desc.flagEn (d : Desc) : BitVec 5 := d.kflags.extractLsb' 0 5
def Desc.dist (d : Desc) : Nat := if d.safeDist = 0 then 16384 else d.safeDist
/-- Visible lanes of a team (R446). -/
def Launch.lanes (l : Launch) : Nat := l.desc.groups * l.width

end Sys2Proof.Machine
end

