-- ==== Sys2Proof/Machine/Memory.lean ====
section
/-! DEFINITION. Memory: one byte of a store, ranges, the fresh pages of R35, poison (R458), the undo log (R462), staged
tiles (R353), dirty bits (R473), monitors (R338) and the L1 of a core (R302). Memory.wf is the canonical form. -/

namespace Sys2Proof.Machine

/-- What a byte of memory that nothing has written reads as: 0 (log entry 1; the spec's own zero for fresh pages, the
bank window, the scratchpad and the accumulator store: R35, R301, R304). -/
def unlisted : Byte := 0

/-- The canonical form of a byte store: addresses rise strictly and no entry equals the unlisted value. -/
def Memory.wf (m : SMap Byte) : Bool := SMap.wf unlisted m

namespace State

/-- The bytes of a store. -/
def bytesOf (s : State) (sp : Space) : SMap Byte :=
  match sp with
  | .hbm => s.hbm
  | .host => s.host
  | .window w => (s.world w).window
  | .scratch t => (s.team t).scratch
  | .acc t => (s.team t).acc
  | .priv w => (s.prog w).priv

/-- Replaces the bytes of a store. -/
def withBytes (s : State) (sp : Space) (m : SMap Byte) : State :=
  match sp with
  | .hbm => { s with hbm := m }
  | .host => { s with host := m }
  | .window w => s.modWorld w fun x => { x with window := m }
  | .scratch t => s.modTeam t fun x => { x with scratch := m }
  | .acc t => s.modTeam t fun x => { x with acc := m }
  | .priv w => s.modProg w fun x => { x with priv := m }

/-- One byte of a store. -/
def byte (s : State) (sp : Space) (a : Nat) : Byte := (s.bytesOf sp).get unlisted a

/-- n bytes of a store from a on. -/
def read (s : State) (sp : Space) (a n : Nat) : List Byte :=
  let m := s.bytesOf sp
  (List.range n).map fun i => m.get unlisted (a + i)

/-- A store to bytes that an instruction cache holds (R157): the lines leave every cache, and the teams that stand may still
fetch the words' old values (R79). -/
def changeCode (s : State) (sp : Space) (a n : Nat) : State :=
  let meets := fun (l : L1Line) => l.space = sp && l.line * 128 < a + n && a < (l.line + 1) * 128
  if n = 0 || !s.icache.any meets then s else
  let words := (List.range ((a + n - 1) / 4 + 1 - a / 4)).map fun i => (a / 4 + i) * 4
  { s with
    icache := s.icache.filter fun l => !meets l
    oldCode := s.oldCode ++ words.map fun x => { space := sp, addr := x, bytes := s.read sp x 4, teams := s.nextTeam } }

/-- Before a scratchpad write, the values that passes may still read are kept: any of them while the team has a pass in the
table, else those that a plane record of its sequencer may name (R367, R376). -/
def keepPast (s : State) (t a n : Nat) : State :=
  let q := (s.team t).seq.getD {}
  let near := fun (p : Option Plane) => p.any fun p => p.off < a + n || p.soff < a + n
  if s.passes.any (fun (_, p) => p.team == t) || near q.active || near q.shadow then
    s.modTeam t fun x => { x with past := x.past ++ (List.range n).map fun i => (s.cycle, a + i, s.byte (.scratch t) (a + i)) }
  else s

end State

/-- Stores bytes one after another, keeping the canonical form. -/
def putBytes (m : SMap Byte) (a : Nat) (bs : List Byte) : SMap Byte :=
  match bs with
  | [] => m
  | b :: bs => putBytes (m.put unlisted a b) (a + 1) bs

/-- Drops the entries with keys from a to a + n - 1. -/
def dropRange {α : Type} (m : SMap α) (a n : Nat) : SMap α := m.filter fun e => e.1 < a || a + n ≤ e.1

/-- Keeps the entries with keys from a to a + n - 1. -/
def keepRange {α : Type} (m : SMap α) (a n : Nat) : SMap α := m.filter fun e => a ≤ e.1 && e.1 < a + n

/-- The poison granule of a store in bytes (R458). -/
def granule (sp : Space) : Nat :=
  match sp with
  | .scratch _ | .acc _ => 32
  | _ => 64

/-- The granules that a to a + n - 1 touch, from the first to the last. -/
def granules (sp : Space) (a n : Nat) : List Nat :=
  if n = 0 then [] else (List.range ((a + n - 1) / granule sp + 1 - a / granule sp)).map (a / granule sp + ·)

namespace State

/-- Some byte of the range lies in a poisoned granule, or meets an error that is found now (R458). -/
def poisoned (s : State) (sp : Space) (a n : Nat) : Bool :=
  (granules sp a n).any fun g => s.poison.contains (sp, g) || s.meets.contains (sp, g)

/-- Marks the granules of a range poisoned. -/
def poisonRange (s : State) (sp : Space) (a n : Nat) : State :=
  { s with poison := s.poison ++ ((granules sp a n).filter fun g => !s.poison.contains (sp, g)).map fun g => (sp, g) }

/-- A write that covers a whole granule removes its poison (R458). -/
def cleanPoison (s : State) (sp : Space) (a n : Nat) : State :=
  { s with poison := s.poison.filter fun (p, g) => !(p = sp ∧ a ≤ g * granule sp ∧ (g + 1) * granule sp ≤ a + n) }

/-- The world whose region holds a package address (R30, R305). -/
def regionWorld (s : State) (a : Nat) : Option Nat :=
  (s.worlds.find? fun (_, x) =>
    x.st != .free && ctlBase x.ctl + x.base * giB ≤ a && a < ctlBase x.ctl + (x.base + x.size) * giB).map (·.1)

/-- The first write to a fresh page clears its bit (R35), and a page of a tracked world becomes dirty (R473). -/
def touchPages (s : State) (a n : Nat) : State :=
  if n = 0 then s else
  (List.range ((a + n - 1) / 65536 + 1 - a / 65536)).foldl (fun s i =>
    let p := a / 65536 + i
    let s := { s with written := s.written.put false p true }
    match s.regionWorld (p * 65536) with
    | some w =>
      if (s.world w).tracking then
        s.modWorld w fun x =>
          { x with dirty := x.dirty.put false (p - (ctlBase x.ctl + x.base * giB) / 65536) true }
      else s
    | none => s) s

/-- A page is fresh until its first write (R35). -/
def fresh (s : State) (page : Nat) : Bool := !s.written.get false page

/-- Marks every 64 KiB page of a range fresh: its bytes read as zero again (R35, R36), whatever it held; poison goes
with the bytes. -/
def freshen (s : State) (a n : Nat) : State :=
  { s with
    hbm := dropRange s.hbm a n
    written := s.written.filter fun e => e.1 * 65536 < a || a + n ≤ e.1 * 65536
    poison := s.poison.filter fun (p, g) => !(p = .hbm ∧ a ≤ g * 64 ∧ g * 64 < a + n)
    l1 := s.l1.filter fun l => !(l.space = .hbm ∧ a ≤ l.line * 128 ∧ l.line * 128 < a + n)
    icache := s.icache.filter fun l => !(l.space = .hbm ∧ a ≤ l.line * 128 ∧ l.line * 128 < a + n) }

/-- Pages of a range that are still fresh, for SLC_FRESH (R47). -/
def freshPages (s : State) (a n : Nat) : Nat := n / 65536 - (keepRange s.written (a / 65536) (n / 65536)).length

/-- A lane that waits in MWAIT, or has armed the range, sees a write to it (R279, R338). -/
def wakeLane (cycle : Nat) (sp : Space) (a n : Nat) (l : Lane) : Lane :=
  match l.armed with
  | none => l
  | some r =>
    if r.space = sp ∧ r.line * 128 < a + n ∧ a < (r.line + 1) * 128 then
      let l := { l with armed := some { r with written := true } }
      if l.st = .mwait then { l with st := .ready, readyAt := cycle, woken := some 0 } else l
    else l

/-- Reports a write to every armed range (R338). -/
def notifyWrite (s : State) (sp : Space) (a n : Nat) : State :=
  { s with
    teams := s.teams.map fun (k, t) => (k, { t with lanes := t.lanes.map (wakeLane s.cycle sp a n) })
    worlds := s.worlds.map fun (k, w) => (k, { w with prog := { w.prog with lane := wakeLane s.cycle sp a n w.prog.lane } }) }

end State

/-- Bytes of a tile in its scratchpad (R352): e2m1 packs two elements in a byte. -/
def formatBits (f : Nat) : Nat := [8, 32, 16, 16, 8, 8, 4, 64].getD f 8
def Tile.bytes (r : Tile) : Nat := r.x * r.y * r.z * formatBits r.dfmt / 8

namespace State

/-- Before a write lands in a team's scratchpad: records of the tiles it meets end (R353), and in a guarded launch the
undo log takes each 256-byte line not yet recorded in the interval, or the interval's overflow mark is set (R462). -/
def beforeScratch (s : State) (t a n : Nat) : State :=
  if n = 0 then s else
  let s := s.modTeam t fun x => { x with tiles := x.tiles.filter fun r => a + n ≤ r.dst || r.dst + r.bytes ≤ a }
  if (s.launchOf t).guarded then
    (List.range ((a + n - 1) / 256 + 1 - a / 256)).foldl (fun s i =>
      let line := a / 256 + i
      let x := s.team t
      if x.undo.any (·.1 == line) then s
      else if x.undo.length < (s.launchOf t).desc.undo then
        s.setTeam t { x with undo := x.undo ++ [(line, s.read (.scratch t) (line * 256) 256)] }
      else s.setTeam t { x with overflow := true }) s
  else s

/-- Performs a write at its point of coherence. -/
def write (s : State) (sp : Space) (a : Nat) (bs : List Byte) : State :=
  let n := bs.length
  let s := match sp with
    | .scratch t => (s.beforeScratch t a n).keepPast t a n
    | .hbm | .host => s.changeCode sp a n
    | _ => s
  let s := s.withBytes sp (putBytes (s.bytesOf sp) a bs)
  let s := s.cleanPoison sp a n
  let s := match sp with
    | .hbm => s.touchPages a n
    | _ => s
  s.notifyWrite sp a n

/-- Puts bytes back without the side effects of a write (a rollback's undo lines, a restored range). -/
def restoreBytes (s : State) (sp : Space) (a : Nat) (bs : List Byte) : State :=
  s.withBytes sp (putBytes (s.bytesOf sp) a bs)

/-! The L1 of a core (R302): 1.5 MiB of lines of slice HBM (R15); host lines stay in the L2 (R106). A plain load allocates,
and a full L1 lets its oldest line go (log entry 7). -/

/-- Lines of an L1 and of an instruction cache (R15). -/
def l1Lines : Nat := 12288
def icacheLines : Nat := 2048

/-- Adds a line of a core to a cache of k lines. -/
def addLine (ls : List L1Line) (k : Nat) (l : L1Line) : List L1Line :=
  let ls := if (ls.filter (·.core == l.core)).length < k then ls else
    match ls.find? (·.core == l.core) with
    | some old => ls.erase old
    | none => ls
  ls ++ [l]

def l1Find (s : State) (core : Nat) (sp : Space) (line : Nat) : Option L1Line :=
  s.l1.find? fun l => l.core == core && l.space == sp && l.line == line

/-- A weak load: the held line, or memory; a miss allocates when alloc is set. -/
def l1Read (s : State) (core : Nat) (sp : Space) (a n : Nat) (alloc : Bool) : List Byte × State :=
  match s.l1Find core sp (a / 128) with
  | some l => ((l.bytes.drop (a % 128)).take n, s)
  | none =>
    if alloc && sp = .hbm then
      (s.read sp a n, { s with l1 := addLine s.l1 l1Lines ⟨core, sp, a / 128, s.read sp (a / 128 * 128) 128⟩ })
    else (s.read sp a n, s)

/-- Four code bytes as a core fetches them (R155): from the line in its instruction cache, which a miss brings in; no line
with poison is kept. -/
def fetchBytes (s : State) (core : Nat) (sp : Space) (a : Nat) : List Byte × State :=
  match s.icache.find? fun l => l.core == core && l.space == sp && l.line == a / 128 with
  | some l => ((l.bytes.drop (a % 128)).take 4, s)
  | none =>
    if s.poisoned sp (a / 128 * 128) 128 then (s.read sp a 4, s)
    else (s.read sp a 4, { s with icache := addLine s.icache icacheLines ⟨core, sp, a / 128, s.read sp (a / 128 * 128) 128⟩ })

/-- The old value of a code word that a team may still fetch (R79), if the device gives it that one. -/
def oldWord (s : State) (t core : Nat) (sp : Space) (a : Nat) : Option (List Byte) :=
  match s.oldCode.find? fun e => e.space == sp && e.addr == a && t < e.teams with
  | some e => if Config.codeChoice s.cycle core a then some e.bytes else none
  | none => none

/-- Host lines that the L2 ways of a world's cache mask can hold (R46, R106). -/
def hostLineLimit (s : State) (w : Nat) : Nat :=
  nodeBanks (s.sliceOf w).node * (List.range 16).countP (fun k => (s.world w).cacheMask.getLsbD k) * 2048

/-- The L2 keeps the 64-byte host lines that an access of a world touches, as far as its ways reach (R106; log entry 7). -/
def holdHost (s : State) (w : Nat) (sp : Space) (a n : Nat) (dirty : Bool) : State :=
  if sp ≠ .host || n = 0 || s.hostLineLimit w = 0 then s else
  (List.range ((a + n - 1) / 64 + 1 - a / 64)).foldl (fun (s : State) i =>
    let line := a / 64 + i
    let was := s.hostLines.any fun l => l.line == line && l.dirty
    let rest := s.hostLines.filter fun l => l.line != line
    let mine := rest.filter (·.world == w)
    let rest := if mine.length < s.hostLineLimit w then rest else
      match mine with
      | old :: _ => rest.erase old
      | [] => rest
    { s with hostLines := rest ++ [⟨w, line, dirty || was⟩] }) s

/-- The issuing core removes the line before a store, an atomic or a bank operation (R302). -/
def l1Drop (s : State) (core : Nat) (sp : Space) (a : Nat) : State :=
  { s with l1 := s.l1.filter fun l => !(l.core == core && l.space == sp && l.line == a / 128) }

/-- The issuing core removes every line of a staged write that is performed (R302, R427). -/
def l1DropRange (s : State) (core : Nat) (sp : Space) (a n : Nat) : State :=
  { s with l1 := s.l1.filter fun l => !(l.core == core && l.space == sp && a / 128 ≤ l.line && l.line ≤ (a + (n - 1)) / 128) }

/-- An acquire that R302 names invalidates the whole L1 of the core. -/
def l1Flush (s : State) (core : Nat) : State := { s with l1 := s.l1.filter fun l => l.core != core }

end State

end Sys2Proof.Machine
end

