-- ==== Sys2Proof/Machine/Translate.lean ====
section
/-! DEFINITION. Address translation: the segment table (R310), host pages through ATS (R109, R110), the walk (R306 to R308)
and the cached translations of a quad's unit (R312). -/

namespace Sys2Proof.Machine

/-- What an access needs of a page (R308). -/
inductive Need where
  | read | write | both | fetch
  deriving DecidableEq, Repr

/-- A fault of translation: its code, the walk level, whether a host page had no ATS translation, and R315's INFO. No fault,
but a wait, is one whose ask names the bytes of a peer that must be read first (R303): accelerator, WPA, count. -/
structure Trouble where
  code : Nat
  level : Nat := 0
  ats : Bool := false
  info : Nat := 0
  ask : Option (Nat × Nat × Nat) := none
  deriving DecidableEq, Repr

/-- Where an access lands: the target of the segment table, and the store and address there; none for a peer. -/
structure Place where
  target : Target
  at? : Option (Space × Nat)
  deriving DecidableEq, Repr

/-- A segment word matches a WPA (R310). -/
def segMatch (g : BitVec 128) (wpa : Nat) : Bool :=
  g.getLsbD 127 && (bits g.toNat 31 0 * 65536 ≤ wpa && wpa < (bits g.toNat 31 0 + bits g.toNat 63 32) * 65536)

/-- The target that one segment gives a WPA (R310); a device target as a package address. -/
def segTarget (ctl : Nat) (g : BitVec 128) (wpa : Nat) : Target :=
  let off := bits g.toNat 95 64 * 65536 + (wpa - bits g.toNat 31 0 * 65536)
  if bits g.toNat 126 125 = 0 then .device (ctlBase ctl + off)
  else if bits g.toNat 126 125 = 1 then .hostIo off
  else .peer (bits g.toNat 105 96) off

/-- The lowest-numbered valid segment that matches (R310). -/
def segment (x : World) (wpa : Nat) : Option Target :=
  (List.range 16).findSome? fun i =>
    let g := x.segments.get 0 i
    if segMatch g wpa then some (segTarget x.ctl g wpa) else none

namespace State

/-- The function and the PASID under which a world's host accesses travel (R109): that of its translation context; without
one, as for world 0's rings, PASID 0 stands for none. -/
def pasidOf (s : State) (w : Nat) : Nat × Nat := (w, (((s.world w).context).map (·.pasid)).getD 0)

/-- The host page that a 4 KiB I/O page of a world stands for: the held translation, or the host's answer (R109). -/
def atsPage (s : State) (w page : Nat) : Option Nat :=
  match s.atsHeld.find? fun e => e.1 == s.pasidOf w && e.2.1 == page with
  | some e => some e.2.2
  | none => (s.atsTable.find? fun e => e.1 == s.pasidOf w && e.2.1 == page).map (·.2.2)

/-- The device keeps the translation it has used (R109). -/
def atsHold (s : State) (w page : Nat) : State :=
  if s.atsHeld.any fun e => e.1 == s.pasidOf w && e.2.1 == page then s
  else match s.atsPage w page with
    | some h => { s with atsHeld := s.atsHeld ++ [(s.pasidOf w, page, h)] }
    | none => s

/-- The host address of an I/O address of a world, if ATS translates it. -/
def hostAddr (s : State) (w io : Nat) : Option Nat := (s.atsPage w (io / 4096)).map fun h => h * 4096 + io % 4096

/-- Bytes of host memory behind an I/O range of a world; none when a page of it has no translation. -/
def hostRead (s : State) (w io n : Nat) : Option (List Byte) :=
  (List.range n).foldl (fun acc i =>
    match acc, s.hostAddr w (io + i) with
    | some bs, some a => some (bs ++ [s.byte .host a])
    | _, _ => none) (some [])

/-- Writes bytes of host memory behind an I/O range of a world, byte by byte; none when a page has no translation. -/
def hostWrite (s : State) (w io : Nat) (bs : List Byte) : Option State :=
  match bs with
  | [] => some s
  | b :: rest =>
    match s.hostAddr w io with
    | some a => (s.write .host a [b]).hostWrite w (io + 1) rest
    | none => none

/-- The 16 Page Requests of a 64 KiB VA page, the last one marked (R110); they name the page's 4 KiB pages (log entry 36). -/
def pageGroup (vpage : Nat) : List (Nat × Bool) := (List.range 16).map fun k => (16 * vpage + k, k == 15)

/-- Sends one Page Request group for a 64 KiB VA page under the world's PASID, unless one is outstanding or the allowance is
used up (R110). -/
def pageRequest (s : State) (w vpage : Nat) : State :=
  let x := s.world w
  if x.priGroups.any (·.vpage == vpage) || 512 < 16 * (x.priGroups.length + 1) then s
  else (s.setWorld w { x with priGroups := x.priGroups ++ [⟨vpage⟩] }).send (.pageRequest w (s.pasidOf w).2 (pageGroup vpage))

/-! Peers -/

/-- The usable ports of a routing entry, ascending (R114). -/
def usablePorts (s : State) (w accel : Nat) : List Nat :=
  let sl := s.slice (s.world w).ctl
  let e := (sl.routes.get 0 accel).toNat
  if bit e 63 && sl.node ≠ 0 then (List.range 32).filter fun q => bit e q && (nodeQuads sl.node).contains q else []

/-- A routing entry reaches its target (R114). -/
def routeOk (s : State) (w accel : Nat) : Bool := !(s.usablePorts w accel).isEmpty

/-- The port by which a request leaves: the rank is the 4 KiB page number modulo the count of usable ports (R114). -/
def portOf (s : State) (w accel wpa : Nat) : Nat :=
  let ps := s.usablePorts w accel
  ps.getD (wpa / 4096 % ps.length) 0

/-- An inner read of a world asks for these bytes. -/
def innerFor (w : Nat) (q : Nat × Nat × Nat) (r : Req) : Bool :=
  r.inner == some q.2.2 && r.world == w && r.accel == q.1 && r.wpa == q.2.1

/-- n bytes of a peer's memory for a walk, a fetch or a unit (R303): the answer to the request that asked for them, fault 0x0B
without one (R331), fault 0x12 without a route (R114), or the wait for it. -/
def peerBytes (s : State) (w accel wpa n : Nat) : Except Trouble (List Byte) :=
  match (s.reqs.find? fun r => innerFor w (accel, wpa, n) r && r.st != ReqSt.waiting).map (·.st) with
  | some (ReqSt.ok bs) => .ok ((bs ++ zeros n).take n)
  | some _ => .error { code := 0x0B }
  | none => if s.routeOk w accel then .error { code := 0, ask := some (accel, wpa, n) } else .error { code := 0x12 }

/-- Answers that an access has used go. -/
def usePeer (s : State) (w : Nat) (used : List (Nat × Nat × Nat)) : State :=
  if used.isEmpty then s
  else { s with reqs := s.reqs.filter fun r => !(r.st != .waiting && used.any fun q => innerFor w q r) }

/-- The place behind a target: a host target passes ATS (R310). -/
def placeOf (s : State) (w : Nat) (t : Target) : Except Trouble Place :=
  match t with
  | .device a => .ok ⟨t, some (.hbm, a)⟩
  | .hostIo io =>
    match s.hostAddr w io with
    | some a => .ok ⟨t, some (.host, a)⟩
    | none => .error { code := 1, ats := true }
  | .peer _ _ => .ok ⟨t, none⟩

/-- One 8-byte read of a walk (R308, R312); an entry in peer memory is read over UALink (R303, R310). -/
def walkRead (s : State) (w wpa level : Nat) : Except Trouble Nat :=
  match segment (s.world w) wpa with
  | none => .error { code := 0x12, level := level }
  | some (.device a) => if s.poisoned .hbm a 8 then .error { code := 0x0B, level := level } else .ok (ofLe (s.read .hbm a 8))
  | some (.hostIo io) =>
    match s.hostRead w io 8 with
    | some bs => .ok (ofLe bs)
    | none => .error { code := 1, level := level, ats := true }
  | some (.peer accel x) =>
    match s.peerBytes w accel x 8 with
    | .ok bs => .ok (ofLe bs)
    | .error e => .error { e with level := level }

/-- The peer bytes that a walk's read used. -/
def walkUsed (s : State) (w wpa : Nat) : List (Nat × Nat × Nat) :=
  match segment (s.world w) wpa with
  | some (.peer accel x) => [(accel, x, 8)]
  | _ => []

end State

/-- The leaf that a walk found: WPA of the byte, permissions, seal, level, and the peer bytes that the walk has read. -/
structure Leaf where
  wpa : Nat
  r : Bool
  w : Bool
  x : Bool
  sealed : Bool
  level : Nat
  used : List (Nat × Nat × Nat) := []
  /-- a 2 MiB translation of a run (R309) -/
  run : Bool := false
  deriving DecidableEq, Repr

/-- A leaf has the permissions that an access needs (R308). -/
def Leaf.allows (l : Leaf) (n : Need) : Bool :=
  match n with
  | .read => l.r
  | .write => l.w
  | .both => l.r && l.w
  | .fetch => l.x

/-- A valid leaf of level 3, free of the malformations of R308, with CONT = 1 (R306, R309). -/
def contLeaf (e : Nat) : Bool :=
  bit e 0 && !bit e 1 && bit e 61 && !bit e 63 && bits e 60 48 == 0 && bits e 14 5 == 0 && bits e 47 15 % 2 == 0

/-- The 2 MiB translation that an entry with CONT = 1 makes (R309): the 2 MiB that hold its ADDR (log entry 53). -/
def runLeaf (va : Nat) (e : Nat) (used : List (Nat × Nat × Nat)) : Leaf :=
  ⟨bits e 47 15 * 2 ^ 15 / 2 ^ 21 * 2 ^ 21 + va % 2 ^ 21, bit e 2, bit e 3, bit e 4, bit e 62, 3, used, true⟩

/-- The entries with CONT = 1 of the 32 whose indices agree with a VA's in bits [11:5] (R309); one that cannot be read offers
no translation. -/
def runEntries (s : State) (w va node : Nat) : List Nat :=
  (List.range 32).filterMap fun j =>
    match s.walkRead w (node + 8 * (va / 65536 % 4096 / 32 * 32 + j)) 3 with
    | .ok e => if contLeaf e then some e else none
    | .error _ => none

/-- The entry whose 2 MiB translation an access uses in place of its own entry (R309); none for its own. -/
def runPick (s : State) (w va node pick : Nat) : Option Nat :=
  let runs := runEntries s w va node
  if pick % (runs.length + 1) = 0 then none else runs[pick % (runs.length + 1) - 1]?

/-- The levels of a walk from level 4 - k on (R308), k levels left, down to a leaf. At level 3 an access may use, in place of
its own entry, the 2 MiB translation of any entry of its run with CONT = 1: pick chooses, 0 for its own (R309; log entry
53). Where the conditions of R309 hold, every choice is the same translation. -/
def walkFrom (s : State) (w va node pick : Nat) (used : List (Nat × Nat × Nat)) (k : Nat) : Except Trouble Leaf :=
  match k with
  | 0 => .error { code := 2, info := 1 }
  | k + 1 =>
    let level := 3 - k
    let own := node + 8 * (va / 2 ^ (52 - 12 * level) % 4096)
    match if level = 3 && pick ≠ 0 then runPick s w va node pick else none with
    | some e => .ok (runLeaf va e used)
    | none =>
      match s.walkRead w own level with
      | .error e => .error e
      | .ok e =>
        let used := used ++ s.walkUsed w own
        if !bit e 0 then .error { code := 1, level := level }
        else if bit e 63 || bits e 60 48 ≠ 0 || bits e 14 5 ≠ 0 then .error { code := 2, level := level, info := 1 }
        else if bit e 1 then
          if level = 3 || bits e 62 61 ≠ 0 || bits e 4 2 ≠ 0 then .error { code := 2, level := level, info := 1 }
          else walkFrom s w va (bits e 47 15 * 2 ^ 15) pick used k
        else
          let size := 2 ^ (52 - 12 * level)
          if bits e 47 15 * 2 ^ 15 % size ≠ 0 || (bit e 61 && level ≠ 3) then .error { code := 2, level := level, info := 1 }
          else .ok ⟨bits e 47 15 * 2 ^ 15 + va % size, bit e 2, bit e 3, bit e 4, bit e 62, level, used, false⟩

/-- The indices of a table node whose entries may be valid: the listed bytes of slice HBM, or every one of a node in host
memory. -/
def nodeIndices (s : State) (w node : Nat) : List Nat :=
  match segment (s.world w) node with
  | some (.device a) => ((keepRange s.hbm a 32768).map fun e => (e.1 - a) / 8).eraseDups
  | some (.hostIo _) => List.range 4096
  | _ => []

/-- A leaf with SEAL = 1 of a world's tables maps the 64 KiB page of a WPA (R307, R355). -/
def sealedFrom (s : State) (w wpa node : Nat) (k : Nat) : Bool :=
  match k with
  | 0 => false
  | k + 1 =>
    (nodeIndices s w node).any fun i =>
      match s.walkRead w (node + 8 * i) (3 - k) with
      | .ok e =>
        bit e 0 && if bit e 1 then sealedFrom s w wpa (bits e 47 15 * 2 ^ 15) k
          else bit e 62 && bits e 47 15 * 2 ^ 15 / 65536 ≤ wpa / 65536 &&
            wpa / 65536 < (bits e 47 15 * 2 ^ 15 + 2 ^ (52 - 12 * (3 - k))) / 65536
      | .error _ => false

namespace State

/-- The page of a WPA is sealed. -/
def sealedPage (s : State) (w wpa : Nat) : Bool :=
  match (s.world w).context with
  | some c => sealedFrom s w wpa c.root 3
  | none => false

/-- The leaf of a VA: a cached translation of the quad's unit, or a walk from ROOT (R308, R311, R312; log entry 8). -/
def leafOf (s : State) (w quad va : Nat) : Except Trouble Leaf :=
  match s.tlb.find? fun e => e.quad == quad && e.world == w && e.vpage == va / 65536 with
  | some e => .ok ⟨e.wpage * 65536 + va % 65536, e.r, e.w, e.x, e.sealed, e.level, [], e.run⟩
  | none =>
    match (s.world w).context with
    | none => .error { code := 2, info := 2 }
    | some c => walkFrom s w va c.root (Config.runChoice s.cycle quad w (va / 65536)) [] 3

/-- The unit keeps the translation of a page that an access used. -/
def tlbFill (s : State) (w quad va : Nat) (l : Leaf) : State :=
  if s.tlb.any fun e => e.quad == quad && e.world == w && e.vpage == va / 65536 then s
  else { s with tlb := s.tlb ++ [⟨quad, w, va / 65536, l.wpa / 65536, l.r, l.w, l.x, l.sealed, l.level, l.run⟩] }

/-- Drops every cached translation of a world (R297 with ALL = 1, R312). -/
def tlbDropAll (s : State) (w : Nat) : State := { s with tlb := s.tlb.filter fun e => e.world != w }

/-- 64 KiB pages that a cached translation covers: a leaf of level L spans 2^(36 - 12 L), a 2 MiB run 32 (R306, R309). -/
def tlbSpan (e : TlbEntry) : Nat := if e.run then 32 else 2 ^ (36 - 12 * e.level)

/-- Drops those that cover a 64 KiB page (R297). -/
def tlbDropPage (s : State) (w vpage : Nat) : State :=
  { s with tlb := s.tlb.filter fun e => !(e.world == w && e.vpage / tlbSpan e == vpage / tlbSpan e) }

/-- The translation of R308 for one access, and its place; copy names the tensor copy unit, which alone may reach a
sealed page (R356). The state keeps the translations used. -/
def translate (s : State) (w quad va0 : Nat) (need : Need) (copy : Bool) : Except Trouble (Place × Bool) × State :=
  let va := va0 % 2 ^ 52
  match s.leafOf w quad va with
  | .error e => (.error e, s)
  | .ok l =>
    if !l.allows need then (.error { code := 2, level := l.level }, s) else
    match segment (s.world w) l.wpa with
    | none => (.error { code := 0x12, level := l.level }, s)
    | some t =>
      let device := match t with | .device _ => true | _ => false
      if l.sealed && !device then (.error { code := 2, level := l.level, info := 1 }, s)
      else if l.sealed && !copy then (.error { code := 3, level := l.level }, s)
      else
        match s.placeOf w t with
        | .error e => (.error e, s)
        | .ok p =>
          let s := (s.tlbFill w quad va l).usePeer w l.used
          let s := match t with | .hostIo io => s.atsHold w (io / 4096) | _ => s
          (.ok (p, l.sealed), s)

end State

end Sys2Proof.Machine
end

