-- ==== Sys2Proof/Machine/Ops.lean ====
section
/-! DEFINITION. Operations that every family shares: error records (R466, R467), event records (R133), writes by WPA,
fault records (R315), ending a team or a launch (R134, R436), and taking a fault: the one operation takeFault. -/

namespace Sys2Proof.Machine

namespace State

/-- The slice node of a world, 0 when it has none. -/
def nodeOf (s : State) (w : Nat) : Nat := if (s.world w).st = .free then 0 else (s.sliceOf w).node

/-- Puts an error record of R467 into the ring of R466, or counts it lost; the hub keeps the latest 64. -/
def errorRecordAt (s : State) (node cls unit w addr loc code flags team : Nat) (cookie : BitVec 64) (count syn : Nat) : State :=
  let bytes := [BitVec.ofNat 8 cls, BitVec.ofNat 8 unit, BitVec.ofNat 8 w, BitVec.ofNat 8 node] ++
    leBytes 4 s.relTail.toNat ++ leBytes 8 s.clock ++ leBytes 8 addr ++ leBytes 2 loc ++
    [BitVec.ofNat 8 code, BitVec.ofNat 8 flags] ++ leBytes 4 team ++ leBytes 8 cookie.toNat ++ leBytes 4 count ++
    leBytes 4 syn ++ zeros 16
  let s := { s with errors := (ErrRec.mk bytes :: s.errors).take 64 }
  let lost := { s with relOvf := true, relLost := min 0xFFFF (s.relLost + 1) }
  let log := bits s.relBase.toNat 3 0
  if log < 6 || 2 ^ log ≤ (s.relTail - s.relHead).toNat then lost else
  match s.hostWrite 0 (bits s.relBase.toNat 63 12 * 4096 + 64 * (s.relTail.toNat % 2 ^ log)) bytes with
  | none => lost
  | some s' =>
    let empty := s.relTail = s.relHead
    let s := { s' with relTail := s.relTail + 1 }
    if empty then s.signal 0 2 else s

/-- The same with the node of the world's slice. -/
def errorRecord (s : State) (cls unit w addr loc code flags team : Nat) (cookie : BitVec 64) (count syn : Nat) : State :=
  s.errorRecordAt (s.nodeOf w) cls unit w addr loc code flags team cookie count syn

/-- An error record that names a team's launch. -/
def teamRecord (s : State) (cls unit t addr loc code flags count : Nat) : State :=
  let l := s.launchOf t
  s.errorRecord cls unit l.world addr loc code flags (s.team t).index l.record.cookie count 0

/-! Events (R133) -/

/-- The unread events of a world in its slice's queue. -/
def eventsOf (s : State) (w : Nat) : List Event := (s.sliceOf w).events.filter (·.world == w)

/-- A reserved or a shared entry is free for a world (R133). -/
def eventRoom (s : State) (w : Nat) : Bool :=
  let sl := s.sliceOf w
  let own (v : Nat) := (sl.events.filter (·.world == v)).length
  let shared := sl.worlds.foldl (fun n v => n + (own v - 512)) 0
  decide (own w < 512) || decide (shared < 4096 - 512 * sl.worlds.length)

/-- Puts an event into the queue: it takes the world's next SEQ and the time; a program waiting in EVWAIT wakes. -/
def enterEvent (s : State) (w : Nat) (e : Event) : State :=
  let x := s.world w
  let e := { e with world := w, seq := x.eventSeq % 2 ^ 32, time := s.clock }
  let s := s.modSlice x.ctl fun sl => { sl with events := sl.events ++ [e] }
  s.modWorld w fun x =>
    { x with eventSeq := (x.eventSeq + 1) % 2 ^ 32,
             prog := if x.prog.st = .waiting then { x.prog with st := .running } else x.prog }

/-- Produces an event that is not a launch's own: with no free entry, the producer holds it (R133). -/
def postEvent (s : State) (w : Nat) (e : Event) : State :=
  let sl := s.sliceOf w
  if s.eventRoom w && !sl.heldEvents.any (·.world == w) then s.enterEvent w e
  else s.modSlice (s.world w).ctl fun sl => { sl with heldEvents := sl.heldEvents ++ [{ e with world := w }] }

/-- Delivers held events, and lets held launches complete, once an entry is free. -/
def flushEvents (s : State) (c : Nat) : State :=
  let s := ((s.slice c).heldEvents.map (·.world)).foldl (fun s w =>
    match (s.slice c).heldEvents.find? (·.world == w) with
    | some e =>
      if s.eventRoom w then
        (s.modSlice c fun sl => { sl with heldEvents := sl.heldEvents.erase e }).enterEvent w e
      else s
    | none => s) s
  (s.launches.filter fun (_, l) => l.ctl == c && l.st == .holding).foldl (fun s (k, _) => s.pushOnce (.launchComplete k)) s

/-! Accesses by WPA, through the segment table and never the page tables (R311) -/

/-- Reads n bytes by WPA; none when no segment, no host translation or poison stands in the way, or a peer is named. -/
def wpaRead (s : State) (w wpa n : Nat) : Option (List Byte) :=
  match segment (s.world w) wpa with
  | some (.device a) => if s.poisoned .hbm a n then none else some (s.read .hbm a n)
  | some (.hostIo io) => s.hostRead w io n
  | _ => none

/-- Writes bytes by WPA, likewise. -/
def wpaWrite (s : State) (w wpa : Nat) (bs : List Byte) : Option State :=
  match segment (s.world w) wpa with
  | some (.device a) => if s.poisoned .hbm a bs.length then none else some (s.write .hbm a bs)
  | some (.hostIo io) => s.hostWrite w io bs
  | _ => none

/-! Fault records (R315) -/

/-- The world's context address (R311). -/
def contextAddr (x : World) : Nat := bits x.tctx.toNat 47 6 * 64

/-- The queue breaks: an error record of class QUEUE on the first loss (R315). -/
def breakQueue (s : State) (w : Nat) : State :=
  if (s.world w).fqBroken then s
  else (s.modWorld w fun x => { x with fqBroken := true }).errorRecord 0x0B 7 w 0 0 0 0 0xFFFFFFFF 0 1 0

/-- A write to the fault queue or its context, which fails on a sealed page (R315). -/
def queueWrite (s : State) (w wpa : Nat) (bs : List Byte) : Option State := if s.sealedPage w wpa then none else s.wpaWrite w wpa bs

/-- What became of a record. -/
inductive Recorded where
  | written (seq : Nat) | full | broken
  deriving DecidableEq, Repr

/-- Writes a record whose SEQ field is filled in, advances FQ_TAIL and signals FQ_VECTOR when the queue was empty. -/
def queueRecord (s : State) (w : Nat) (bytes : Nat → List Byte) : State × Recorded :=
  let x := s.world w
  match x.context with
  | none => (s.breakQueue w, .broken)
  | some c =>
    if x.fqBroken then (s, .broken) else
    match s.wpaRead w (contextAddr x + 0x18) 8 with
    | none => (s.breakQueue w, .broken)
    | some ht =>
      let tail := ofLe (ht.take 4)
      let head := ofLe (ht.drop 4)
      if (tail + 2 ^ 32 - head) % 2 ^ 32 = 2 ^ c.fqLog2 then (s, .full) else
      match s.queueWrite w (c.fqBase + 32 * (tail % 2 ^ c.fqLog2)) (bytes tail) with
      | none => (s.breakQueue w, .broken)
      | some s1 =>
        match s1.queueWrite w (contextAddr x + 0x18) (leBytes 4 (tail + 1)) with
        | none => (s.breakQueue w, .broken)
        | some s2 => (if tail = head then s2.signal w c.fqVector else s2, .written tail)

/-- A record of a non-replayable fault that found the queue full is dropped and FQ_LOST advances (R315). -/
def countLost (s : State) (w : Nat) : State :=
  let a := contextAddr (s.world w) + 0x20
  match s.wpaRead w a 4 with
  | some bs => (s.queueWrite w a (leBytes 4 (ofLe bs + 1))).getD (s.breakQueue w)
  | none => s.breakQueue w

end State

/-- What a faulting access tells: the code, R315's FLAGS without [0], the address, INFO and TRAP's CODE; for an error
record the UNIT of R467, and whether the address is one of a tier. -/
structure Why where
  code : Nat
  flags : Nat := 0
  addr : Nat := 0
  info : Nat := 0
  tcode : Nat := 0
  unit : Nat := 1
  tier : Bool := false
  ats : Bool := false
  deriving DecidableEq, Repr

/-- The codes whose faults write a record (R315). -/
def recordedCode (c : Nat) : Bool := [0x01, 0x02, 0x03, 0x04, 0x07, 0x08, 0x12].contains c

/-- The 32 bytes of a fault record (R315). -/
def faultBytes (y : Why) (w seq team lane src aux cookie : Nat) : List Byte :=
  [BitVec.ofNat 8 y.code, BitVec.ofNat 8 (y.flags + if y.code = 1 then 1 else 0), BitVec.ofNat 8 w, 0] ++ leBytes 4 seq ++
    leBytes 8 y.addr ++ leBytes 4 team ++ leBytes 2 lane ++ [BitVec.ofNat 8 src, BitVec.ofNat 8 aux] ++
    leBytes 4 y.info ++ leBytes 4 cookie

/-- An agent is no lane and no sequencer of team t. -/
def agentNotOf (t : Nat) (a : Agent) : Bool :=
  match a with
  | .lane u _ | .seq u => u != t
  | .prog _ | .firm _ => true

namespace State

/-- TEAM, LANE and COOKIE of an agent's records, and its SRC. -/
def recordNames (s : State) (a : Agent) : Nat × Nat × Nat × Nat :=
  match a with
  | .lane t lit => ((s.team t).index, lit, (s.launchOf t).record.cookie.toNat % 2 ^ 32, 0)
  | .seq t => ((s.team t).index, 0xFFFF, (s.launchOf t).record.cookie.toNat % 2 ^ 32, 1)
  | .prog _ | .firm _ => (0, 0xFFFF, 0, 3)

/-- The launch of a team is debugged (R480). -/
def debugged (s : State) (t : Nat) : Bool :=
  let l := s.launchOf t
  let ctl := (s.world l.world).dbg.ctl
  ctl.getLsbD 8 || ctl.extractLsb' 32 32 == l.record.cookie.extractLsb' 0 32

/-- CATCH names code 0x0C + k for the team's launch (R436, R480). -/
def caught (s : State) (t code : Nat) : Bool :=
  0x0C ≤ code && code ≤ 0x0F && s.debugged t && (s.world (s.launchOf t).world).dbg.ctl.getLsbD (code - 0x0C)

/-- Clears the stall of every gang: something it may wait for has changed (R205). -/
def wakeGangs (s : State) : State := { s with gangs := s.gangs.map fun (k, g) => (k, { g with stalled := false }) }

/-- The lanes of a world that hold their gangs, or a program, in TOKEN try their instruction again: a channel may be free
(R361). -/
def wakeStalled (s : State) (w : Nat) : State :=
  let wake := fun (l : Lane) => if l.st = LaneSt.token && l.inClause then { l with st := LaneSt.ready, readyAt := s.cycle } else l
  let all := fun (x : Team) => if (s.launch x.launch).world = w then { x with lanes := x.lanes.map wake } else x
  let prog := fun (p : Prog) =>
    if p.clause.isSome && p.lane.st = LaneSt.token then { p with lane := { p.lane with st := LaneSt.ready } } else p
  (({ s with teams := s.teams.map fun (k, x) => (k, all x) } : State).modProg w prog).wakeGangs

/-- A lane leaves its gang, which does not wait for it any more; a gang without lanes ends. -/
def leaveGang (s : State) (t lit : Nat) : State :=
  let leave := fun (g : Gang) =>
    if g.team = t && g.lanes.contains lit then { g with lanes := g.lanes.filter (· != lit), stalled := false } else g
  { s with gangs := (s.gangs.map fun (k, g) => (k, leave g)).filter fun (_, g) => !g.lanes.isEmpty }

/-- Every gang of a team ends. -/
def dropGangs (s : State) (t : Nat) : State := { s with gangs := s.gangs.filter fun (_, g) => g.team != t }

/-- The decision point of a slice (R143). -/
def decide' (s : State) (c : Nat) : State := s.pushOnce (.decisionStep c)

/-- The device watches no record for a team any more (R437). -/
def dropRecords (s : State) (t : Nat) : State :=
  s.modWorld (s.launchOf t).world fun w =>
    { w with records := (w.records.map fun r => { r with who := r.who.filter (agentNotOf t) }).filter fun r => !r.who.isEmpty }

/-- A request that goes on without its issuer: nobody waits for it, and its loss still writes a record (R331). -/
def orphan (r : Req) : Bool := !r.awaited && r.copyPiece.isNone && r.inner.isNone && r.pass.isNone && r.st == .waiting

/-- A team is gone: its cores, its save slot, its copies and its ungranted passes leave with it (R140, R374, R436). Its
scratchpad still answers the other ranks of its cluster (R299; log entry 15). -/
def removeTeam (s : State) (t : Nat) : State :=
  let x := s.team t
  let l := s.launchOf t
  let s := s.dropGangs t
  let s := { s with
    copies := s.copies.filter fun e => agentNotOf t e.2.who
    passes := s.passes.filter fun e => e.2.team != t || e.2.granted
    reqs := s.reqs.filter fun r => agentNotOf t r.who || orphan r
    oldCode := s.oldCode.filter fun e => s.teams.any fun (u, y) => u < e.teams && u != t && y.st != TeamSt.gone }
  let s := s.dropRecords t
  let s := s.setTeam t { x with
    st := .gone, lanes := [], groups := [], seq := none, scratch := if l.clusterSize = 1 then [] else x.scratch, acc := [], tiles := [],
    staged := [], slots := [], slotsKept := [], releasing := false, undo := [], undoPriv := [], past := [], savePending := none, snapshot := false, rollback := none, ending := false, bad := [], badKept := [], keysKept := [] }
  let s := s.modLaunch x.launch fun l => { l with slotsUsed := l.slotsUsed.filter (· != x.slot) }
  let s := if s.passes.any fun e => e.2.team == t then s.pushOnce (.passComplete (coreQuad x.core)) else s
  (s.wakeStalled l.world).decide' l.ctl

/-- The teams of a launch that are not gone. -/
def teamsOf (s : State) (l : Nat) : List Nat := (s.teams.filter fun (_, t) => t.launch == l && t.st != .gone).map (·.1)

/-- A launch that fails places no further team; its resident teams end at their next safe points, its saved ones are
dropped (R134), and in an ordered launch nothing more is released (R429). -/
def failLaunch (s : State) (l status code team : Nat) : State :=
  let x := s.launch l
  if x.st = .failing || x.st = .holding || x.st = .done then s else
  let s := s.setLaunch l { x with st := .failing, fail := some (status, code, team), returning := [] }
  let s := (s.teamsOf l).foldl (fun s t =>
    match (s.team t).st with
    | .saved | .restoring => s.removeTeam t
    | .retired => if (s.team t).releasing then s else s.removeTeam t
    | _ => s.modTeam t fun x => { x with ending := true }) s
  (s.decide' x.ctl).pushOnce (.launchComplete l)

/-- A team ends with a fault (R436): its launch ends under R134, and names the team whose fault ended first. -/
def endTeam (s : State) (t code : Nat) : State :=
  let x := s.team t
  let s := s.removeTeam t
  (s.failLaunch x.launch 4 code x.index).pushOnce (.launchComplete x.launch)

/-- A control program's fault (R126). -/
def failProg (s : State) (w code pc : Nat) : State :=
  ({ s with reqs := s.reqs.filter fun r => r.who != Agent.prog w || orphan r }.modProg w fun p =>
    { p with st := .faulted, fault := code, faultPc := pc, clause := none }).signal w 1

/-- Parks an agent at its faulting step (R216, R372, R437). -/
def park (s : State) (a : Agent) (y : Why) : State :=
  match a with
  | .lane t lit =>
    let rep := (s.gangs.findSome? fun (_, g) => if g.team = t && g.lanes.contains lit then some g.clause.rep else none).getD (s.lane t lit).rep
    (s.leaveGang t lit).modLane t lit fun l => { l with st := .parked, code := y.code, info := y.info, rep := rep }
  | .seq t => s.modSeq t fun q => { q with st := .parked, code := y.code, info := y.info }
  | .prog w => s.modProg w fun p => { p with st := .parked, lane := { p.lane with code := y.code } }
  | .firm _ => s

/-- An unserviceable replayable fault, and every other fault that nothing catches, ends the work of its agent. -/
def endAgent (s : State) (a : Agent) (code : Nat) : State :=
  match a with
  | .lane t _ | .seq t => s.endTeam t code
  | .prog w => s.failProg w code (s.prog w).lane.pc
  | .firm c => s.push (.fatalSliceError c 2)

/-- The record of a fault, and for a replayable one the parking of the agent (R315, R436). Misses of one cycle on one
page share one record (R314). -/
def recordFault (s : State) (a : Agent) (y : Why) : State :=
  let w := s.worldOf a
  let (team, lane, cookie, src) := s.recordNames a
  if y.code = 1 then
    match (s.world w).records.find? fun r => r.born == s.cycle && r.vpage == y.addr / 65536 && r.src == src with
    | some r =>
      (s.modWorld w fun x => { x with records := x.records.map fun q => if q = r then { q with who := q.who ++ [a] } else q }).park a y
    | none =>
      let mk := fun seq => faultBytes y w seq team lane src 0 cookie
      let keep := fun (s : State) (seq : Nat) (queued : Bool) => s.modWorld w fun x =>
        { x with records := x.records ++ [{ seq := seq, who := [a], vpage := y.addr / 65536, src := src, queued := queued,
                                            ats := y.ats, born := s.cycle, bytes := if queued then mk 0 else [] }] }
      match s.queueRecord w mk with
      | (s, .written seq) => (keep s seq false).park a y
      | (s, .full) => (keep s 0 true).park a y
      | (s, .broken) => s.endAgent a y.code
  else
    match s.queueRecord w fun seq => faultBytes y w seq team lane src 0 cookie with
    | (s, .full) => s.countLost w
    | (s, _) => s

/-- Halts a lane on a caught fault, and lets the report fall due: at once, or when its whole group has halted under
GSTOP (R436, R480, R481). -/
def haltLane (s : State) (t lit : Nat) (y : Why) : State :=
  let w := (s.launchOf t).world
  let cl := s.gangs.findSome? fun (_, g) => if g.team = t && g.lanes.contains lit then some g.clause else none
  let s := (s.leaveGang t lit).modLane t lit fun l =>
    { l with st := .halted, haltFrom := .ready, code := y.code, info := y.info, tcode := y.tcode, byDebug := false,
             rep := (cl.map (·.rep)).getD none, after := cl.map fun c => c.hdr + 4 * (1 + c.words.length) }
  let group := lit / (s.launchOf t).width
  let aux := if y.code = 0x0E || y.code = 0x0F then y.info else 0
  if (s.world w).dbg.ctl.getLsbD 9 then
    let s := s.modTeam t fun x => { x with lanes := x.lanes.mapIdx fun j l =>
      if j / (s.launchOf t).width = group && l.st != .halted && l.st != .exited then { l with haltReq := true } else l }
    (s.modWorld w fun x => { x with dbg := { x.dbg with
      stops := if x.dbg.stops.any fun c => c.op == 0 && c.team == t && c.group == group then x.dbg.stops
        else x.dbg.stops ++ [⟨0, t, group, 1, y.code, aux⟩] } }).pushOnce (.dbgReport w)
  else
    (s.modWorld w fun x => { x with dbg := { x.dbg with held := x.dbg.held ++ [⟨t, group, false, 1, y.code, aux⟩] } }).pushOnce (.dbgReport w)

/-- The L2 bank that met an address of a world, by quad: that of a window offset (R304), one of those that share the stack
of a slice HBM address, or any of the slice's for host memory (R14, R303); which of these is a free value (log entry 15). -/
def homeBank (s : State) (w quad addr : Nat) (tier : Bool) : Nat × State :=
  let node := s.nodeOf w
  if tier then (windowBank node addr, s)
  else
    let banks := match (s.translate w quad addr .read true).1 with
      | .ok (p, _) => match p.at? with
        | some (.hbm, a) => stackBanks (a / stackBytes)
        | _ => bankList node
      | _ => bankList node
    let (v, s) := s.free
    (banks.getD (v % banks.length) 0, s)

/-- The record of a fault 0x0A or 0x0B of a team (R465, R467): LOC is the core for the units of a core, and the home bank
for the L2. -/
def faultErrorRecord (s : State) (cls t count : Nat) (code addr unit : Nat) (tier : Bool) : State :=
  let flags := (if tier then 0 else 1) + if code = 0x0A then 4 else 0
  if unit = 1 then
    let (loc, s) := s.homeBank (s.launchOf t).world (coreQuad (s.team t).core) addr tier
    s.teamRecord cls unit t addr loc code flags count
  else s.teamRecord cls unit t addr (s.team t).core code flags count

/-- A rollback of a guarded team falls due; the first fault names it. -/
def askRollback (s : State) (t : Nat) (y : Why) : State :=
  (s.modTeam t fun x => { x with rollback := x.rollback.or (some (y.code, y.addr, y.unit, y.tier)) }).pushOnce (.rollback t)

/-- Takes a fault that a lane, a sequencer or a control program raises at its step: the one operation for every code
(R315, R435, R436, R126, R382). The step has not retired: the caller passes the state before it. -/
def takeFault (s : State) (a : Agent) (y : Why) : State :=
  match a with
  | .firm c => s.push (.fatalSliceError c 2)
  | .prog w =>
    let s := if recordedCode y.code then s.recordFault a y else s
    if y.code = 1 then s else s.failProg w y.code (s.prog w).lane.pc
  | .lane t lit =>
    let l := s.launchOf t
    if y.code = 1 then s.recordFault a y
    else if (y.code = 0x0A || y.code = 0x0B) && l.guarded then
      (s.askRollback t y).leaveGang t lit
    else if s.caught t y.code then s.haltLane t lit y
    else
      let s := if recordedCode y.code then s.recordFault a y else s
      let s := if y.code = 0x0A then s.faultErrorRecord 0x0A t 1 y.code y.addr 3 y.tier
        else if y.code = 0x0B then s.faultErrorRecord 0x03 t 1 y.code y.addr y.unit y.tier
        else if y.code = 0x10 then s.teamRecord 0x06 7 t y.addr (s.team t).core 0x10 1 1 else s
      s.endTeam t y.code
  | .seq t =>
    let l := s.launchOf t
    if y.code = 1 then s.recordFault a y
    else if (y.code = 0x0A || y.code = 0x0B) && l.guarded then
      s.askRollback t y
    else if y.code = 0x0E && s.caught t y.code then
      let s := s.modSeq t fun q => { q with st := .halted, haltFrom := .running, code := y.code, info := y.info }
      (s.modWorld l.world fun x => { x with dbg := { x.dbg with held := x.dbg.held ++ [⟨t, 0, true, 1, y.code, y.info⟩] } }).pushOnce (.dbgReport l.world)
    else
      let s := if recordedCode y.code then s.recordFault a y else s
      let s := if y.code = 0x0B then s.faultErrorRecord 0x03 t 1 y.code y.addr y.unit y.tier else s
      s.endTeam t y.code

/-! Requests to peers (R115, R330) -/

/-- The launch of an agent, and TEAM and COOKIE of its error records. -/
def requestNames (s : State) (a : Agent) : Option Nat × Nat × Nat :=
  match a with
  | .lane t _ | .seq t => (some (s.team t).launch, (s.team t).index, (s.launchOf t).record.cookie.toNat % 2 ^ 32)
  | .prog _ | .firm _ => (none, 0xFFFFFFFF, 0)

/-- The request as it leaves by its port: it carries the package's station (R113), the slice's node and the world. -/
def sendRequest (s : State) (r : Req) (op : Nat) (bytes : List Byte) (bad : List Nat := []) : State :=
  { s with
    reqs := s.reqs ++ [{ r with sent := s.cycle }]
    out := s.out ++ [.ualRequest (s.portOf r.world r.accel r.wpa) s.station.toNat (s.nodeOf r.world) r.world r.tag r.accel r.wpa
      r.write op bytes bad] }

/-- The next tag that the device chooses for a requester: bit 15 is set, and 32,768 requests pass before it repeats (R330). -/
def nextTag (s : State) (w : Nat) : Nat × State := (0x8000 + s.tags.get 0 w % 0x8000, { s with tags := s.tags.put 0 w (s.tags.get 0 w + 1) })

/-- An agent's read of peer bytes that its access waits for (R303); one that is under way for the world serves it too. -/
def askInner (s : State) (a : Agent) (w : Nat) (q : Nat × Nat × Nat) : State :=
  if s.reqs.any (innerFor w q) then
    { s with reqs := s.reqs.map fun r => if innerFor w q r && r.who != a && !r.joined.contains a then { r with joined := r.joined ++ [a] } else r }
  else
  let (tag, s) := s.nextTag w
  let (launch, team, cookie) := s.requestNames a
  s.sendRequest { world := w, tag := tag, who := a, launch := launch, team := team, cookie := cookie, inner := some q.2.2,
                  accel := q.1, wpa := q.2.1, write := false, awaited := true } 32 (zeros q.2.2)

/-- A request serves an access of an agent; one of a copy piece serves the unit (R303). -/
def serves (a : Agent) (r : Req) : Bool := r.inner.isSome && ((r.who == a && r.copyPiece.isNone) || r.joined.contains a)

/-- An agent waits for such a read. -/
def asking (s : State) (a : Agent) : Bool := s.reqs.any fun r => serves a r && r.st == .waiting

/-- The answers that an agent's accesses have not used go. -/
def dropAnswers (s : State) (a : Agent) : State :=
  if s.reqs.any fun r => serves a r && r.st != .waiting then
    { s with reqs := s.reqs.filter fun r => !(serves a r && r.st != .waiting) }
  else s

/-- An agent's step waits for a peer's bytes and will run again: a lane leaves its gang meanwhile (log entry 13). -/
def waitPeer (s : State) (a : Agent) (q : Nat × Nat × Nat) : State :=
  let s := s.askInner a (s.worldOf a) q
  match a with
  | .lane t lit =>
    let rep := (s.gangs.findSome? fun (_, g) => if g.team = t && g.lanes.contains lit then some g.clause.rep else none).getD (s.lane t lit).rep
    (s.leaveGang t lit).modLane t lit fun l => { l with rep := rep }
  | _ => s

/-- A fault of translation, as R315's FLAGS name it; an ATS miss also asks the host for the page (R110). One that only needs
a peer's bytes waits for them. -/
def takeTrouble (s : State) (a : Agent) (e : Trouble) (flags va : Nat) : State :=
  match e.ask with
  | some q => s.waitPeer a q
  | none =>
    let s := s.dropAnswers a
    let s := if e.ats then s.pageRequest (s.worldOf a) (va % 2 ^ 52 / 65536) else s
    s.takeFault a { code := e.code, flags := flags + 16 * e.level + (if e.ats then 64 else 0), addr := va % 2 ^ 52, info := e.info, ats := e.ats }

/-! Acquire and release (R285, R302, R335, R405, R419, R422) -/

/-- G of a launch advances, and the words of the stale epoch are swept (R419, R422). -/
def advanceG (s : State) (l : Nat) : State :=
  s.modLaunch l fun x =>
    let g := x.g + 1
    { x with g := g, raceWords := x.raceWords.filter fun (_, v) => !(v.extractLsb' 0 2 != 0 && (v.extractLsb' 2 2).toNat == (g + 1) % 4) }

/-- An acquire at a scope (0 team, 1 cluster, 2 slice, 3 system): from cluster on it invalidates the core's L1. -/
def acquire (s : State) (a : Agent) (scope : Nat) : State :=
  match a with
  | .lane t _ | .seq t => if scope = 0 then s else s.l1Flush (s.team t).core
  | .prog _ | .firm _ => s

/-- A release at a scope: from cluster on it ends a race-detection interval of the launch. -/
def release (s : State) (a : Agent) (scope : Nat) : State :=
  match a with
  | .lane t _ | .seq t => if scope = 0 then s else s.advanceG (s.team t).launch
  | .prog _ | .firm _ => s

/-- Earlier peer requests of an agent that a release at system scope waits for (R331). -/
def peersWait (s : State) (a : Agent) : Bool := s.reqs.any fun r => r.who == a && r.copyPiece == none && r.st == .waiting && !r.awaited

end State

end Sys2Proof.Machine
end

