-- ==== Sys2Proof/Machine/Operands.lean ====
section
/-! DEFINITION. Operands: what every operand code reads and writes in a lane, a control program or the firmware (R74, R125,
R167 to R169), the lane-permutation patterns (R170), the steps of REP (R174), and a sequencer's registers (R167, R383). -/

namespace Sys2Proof.Machine

/-- w consecutive 32-bit entries of a map as one number, the lowest entry lowest (R168). -/
def regsGet (m : SMap Word) (n w : Nat) : Nat :=
  match w with
  | 0 => 0
  | w + 1 => (m.get 0 n).toNat + 2 ^ 32 * regsGet m (n + 1) w

/-- Writes a number into w consecutive registers (R168). -/
def regsPut (m : SMap Word) (n w v : Nat) : SMap Word :=
  match w with
  | 0 => m
  | w + 1 => regsPut (m.put 0 n (BitVec.ofNat 32 v)) (n + 1) w (v / 2 ^ 32)

/-- w consecutive latches as one number; an unwritten one reads 0 here, and its check comes first (R169). -/
def latchGet (m : SMap (Option Word)) (n w : Nat) : Nat :=
  match w with
  | 0 => 0
  | w + 1 => ((m.get none n).getD 0).toNat + 2 ^ 32 * latchGet m (n + 1) w

/-- Writes w latches. -/
def latchPut (m : SMap (Option Word)) (n w v : Nat) : SMap (Option Word) :=
  match w with
  | 0 => m
  | w + 1 => latchPut (m.insert n (some (BitVec.ofNat 32 v))) (n + 1) w (v / 2 ^ 32)

/-- w latches from n on have been written since the clause began. -/
def latchWritten (m : SMap (Option Word)) (n w : Nat) : Bool := (List.range w).all fun j => (m.get none (n + j)).isSome

namespace State

/-- Registers that an agent may name: NREGS of its kernel; 240 for the firmware (R71, R123). -/
def nregsOf (s : State) (a : Agent) : Nat :=
  match a with
  | .lane t _ => (s.launchOf t).desc.nregs
  | .prog w => (s.prog w).nregs
  | .firm _ => 240
  | .seq _ => 32

/-- The special code 0xF0 + k (R74); the control core reads 0xF1 to 0xF4 as zero (R125). -/
def special (s : State) (a : Agent) (k w : Nat) : Nat :=
  match a, k with
  | .lane t lit, 1 => lit % (s.launchOf t).width
  | .lane t lit, 2 => lit / (s.launchOf t).width
  | .lane t _, 3 | .seq t, 3 => (s.team t).index % 2 ^ 32
  | .lane t _, 4 => (s.team t).rank
  | _, 5 => s.cycle % 2 ^ 32
  | _, 6 => 2 ^ (32 * w) - 1
  | _, _ => 0

/-- An operand of w registers, read in one lane; sh selects the shadow of a protected pair (R219). -/
def operand (s : State) (a : Agent) (l : Lane) (sh : Bool) (o : Opd) (w : Nat) : Nat :=
  match o with
  | .reg n => regsGet (if sh then l.shadow else l.regs) n.val w
  | .special k => s.special a k.val w
  | .latch k => latchGet (if sh then l.slatches else l.latches) k.val w

end State

/-- Writes a result of w registers; z discards it (R74, R168). -/
def Lane.writeOpd (l : Lane) (sh : Bool) (o : Opd) (w v : Nat) : Lane :=
  match o with
  | .reg n => if sh then { l with shadow := regsPut l.shadow n.val w v } else { l with regs := regsPut l.regs n.val w v }
  | .special _ => l
  | .latch k =>
    if sh then { l with slatches := latchPut l.slatches k.val w v } else { l with latches := latchPut l.latches k.val w v }

/-- The lane that a pattern reads for lane i of a group of W (R170). -/
def patLane (W i : Nat) (p : Pat) : Nat :=
  match p.kind with
  | .own => i
  | .broadcast => p.arg.toNat
  | .rotate => (i + p.arg.toNat) % W
  | .exclusiveOr => if p.arg.toNat = 63 then i ^^^ (W - 1) else i ^^^ p.arg.toNat

/-- A pattern argument is legal for group width W (R170, R221). -/
def patArgOk (W : Nat) (p : Pat) : Bool := p.kind == .own || p.arg.toNat < W || (p.kind == .exclusiveOr && p.arg.toNat == 63)

namespace State

/-- A source under a pattern: the operand of the lane that the pattern names, zero when that lane has exited (R170). -/
def patOperand (s : State) (a : Agent) (sh : Bool) (o : Opd) (p : Pat) (w : Nat) : Nat :=
  match a, p.kind with
  | .lane t lit, .own => s.operand a (s.lane t lit) sh o w
  | .lane t lit, _ =>
    let W := (s.launchOf t).width
    let j := lit / W * W + patLane W (lit % W) p
    if (s.lane t j).st = .exited then 0 else s.operand (.lane t j) (s.lane t j) sh o w
  | a, _ => s.operand a (s.laneOf a) sh o w

end State

/-- An operand moved by the steps of REP; none when the index passes v239 (R174). -/
def stepOpd (o : Opd) (by' : Nat) : Option Opd :=
  match o with
  | .reg n => if h : n.val + by' < 240 then some (.reg ⟨n.val + by', h⟩) else none
  | o => some o

/-- The operand fields of repeat rep.idx (R174). -/
def stepFields (rep : Option Rep) (e : Entry) (f : F2) : Option F2 :=
  match rep with
  | none => some f
  | some r =>
    let k := fun (on : Bool) (w : Nat) => if on then r.idx * r.stride * w else 0
    match stepOpd f.d (k r.sd e.dw), stepOpd f.a (k r.sa e.aw), stepOpd f.b (k r.sb e.bw), stepOpd f.c (k r.sc e.cw) with
    | some d, some a, some b, some c => some { f with d := d, a := a, b := b, c := c }
    | _, _, _, _ => none

/-- A register operand lies below NREGS with all its registers (R71, R168). -/
def regOk (nregs w : Nat) (o : Opd) : Bool :=
  match o with
  | .reg n => n.val + w ≤ nregs
  | _ => true

/-- A latch source has been written since the clause began (R169). -/
def latchOk (l : Lane) (prot : Bool) (w : Nat) (o : Opd) : Bool :=
  match o with
  | .latch k => latchWritten l.latches k.val w && (!prot || latchWritten l.slatches k.val w)
  | _ => true

/-- A sequencer's operand: s registers, z, the team index, m1 (R167). -/
def State.seqOperand (s : State) (t : Nat) (o : Opd) (w : Nat) : Nat :=
  match o with
  | .reg n => regsGet (s.seqOf t).s n.val w
  | .special k => s.special (.seq t) k.val w
  | .latch _ => 0

/-- Writes a sequencer's register. -/
def Seq.writeOpd (q : Seq) (o : Opd) (w v : Nat) : Seq :=
  match o with
  | .reg n => { q with s := regsPut q.s n.val w v }
  | _ => q

end Sys2Proof.Machine
end

