-- ==== Sys2Proof/Machine/Issue.lean ====
section
/-! DEFINITION. One instruction step of a gang, a control program or the firmware: the checks of R177 in their order,
operands, the meaning applied lane by lane in ascending identity (R322), results, sticky flags, the safe-point distance
(R161, R440) and the place in the clause (R155, R174, R205, R208). Likewise for a sequencer. -/

namespace Sys2Proof.Machine

/-- What the meaning of an instruction sees in one lane: who executes, its world, team, lane-in-team, lane index and
group width, the operand fields and their widths, the operand values (x' in the shadow of a protected pair), and the
addresses of the clause header, of the instruction and of the next header. -/
structure Env where
  who : Agent
  w : Nat
  t : Nat
  lit : Nat
  i : Nat
  width : Nat
  prot : Bool
  f : F2
  e : Entry
  a : Nat
  b : Nat
  c : Nat
  a' : Nat
  b' : Nat
  c' : Nat
  hdr : Nat
  pc : Nat
  next : Nat

/-- How a step ends in one lane. -/
inductive Res where
  /-- it retires; D takes the first value (the second in the shadow) and the flags are raised -/
  | ok (d d' : Nat) (fl fl' : FlagSet)
  /-- it retires with a transfer of control -/
  | jump (pc : Nat)
  /-- a fault; nothing of the step stands -/
  | fault (y : Why)
  /-- a fault of translation with R315's FLAGS and the address -/
  | trouble (e : Trouble) (flags va : Nat)
  /-- the lane waits, or has left: the meaning has set its state -/
  | wait

/-- A step that retires without a result. -/
def Res.done : Res := .ok 0 0 0 0

/-- A meaning, one lane at a time: all environments of the step, the lane's own, the state. -/
abbrev LaneFn := List Env → Env → State → State × Res

/-- The code 0x06 fault (R177). -/
def Why.illegal : Why := { code := 0x06 }

/-- The blocking instructions (R162). -/
def isBlocking (e : Entry) : Bool :=
  (e.cls == 4 && [0x12, 0x92, 0x20, 0x21, 0x23].contains e.op) || (e.cls == 6 && e.op == 0x05) ||
    (e.cls == 5 && [0x19, 0x1A].contains e.op)

/-- The transfers of control (R163), and WALK and ENDWALK, which must end their clauses too (R397). -/
def endsClause (e : Entry) : Bool :=
  (e.cls == 4 && ([0x80, 0x81, 0x82, 0x83, 0x84, 0x85, 0x06, 0x86, 0x07, 0x08, 0x88, 0x09, 0x0A, 0x10, 0x18, 0x98].contains e.op)) ||
    (e.cls == 5 && [0xB0, 0xB1, 0xB2, 0xB3, 0x34, 0xB4, 0x10, 0x90, 0x11, 0x91].contains e.op)

/-- The collectives (R269). -/
def isCollective (e : Entry) : Bool := e.cls == 1 && 0x10 ≤ e.op % 128 && e.op % 128 ≤ 0x15

/-- The draws that consume a block (R287). -/
def isDraw (e : Entry) : Bool := e.cls == 0 && 0x78 ≤ e.op % 128 && e.op % 128 ≤ 0x7B

/-- A pattern other than own lane (R171). -/
def hasPattern (f : F2) : Bool := f.pa.kind != .own || f.pb.kind != .own

/-- What the control core does not execute (R125). -/
def progRefuses (e : Entry) (f : F2) : Bool :=
  hasPattern f || isCollective e || isDraw e ||
    (e.cls == 2 && [0x04, 0x05, 0x06, 0x07, 0x08, 0x12].contains (e.op % 128)) ||
    (e.cls == 4 && [0x20, 0x21, 0x22, 0x23].contains e.op)

/-- What a Primer stub may not execute (R445). -/
def primerRefuses (e : Entry) (f : F2) : Bool :=
  hasPattern f || isCollective e || isDraw e || e.cls == 3 || e.cls == 5 || e.cls == 6 ||
    (e.cls == 2 && [0x01, 0x10, 0x11, 0x12, 0x19].contains (e.op % 128)) ||
    (e.cls == 2 && e.op == 0x98 && mbits f.m 7 5 != 0) ||
    (e.cls == 4 && [0x20, 0x21, 0x22, 0x23].contains e.op)

/-- Privilege by where an instruction runs (R291): QREAD to SIGNAL are the control core's, KEYOP the firmware's. -/
def privileged (a : Agent) (e : Entry) : Bool :=
  match a with
  | .firm _ => false
  | .prog _ => e.cls == 6 && e.op % 128 == 8
  | _ => e.cls == 6 && (e.op % 128 == 8 || (3 ≤ e.op % 128 && e.op % 128 ≤ 6))

/-- An instruction as a step sees it: its entry, its fields, whether its literal is legal (R172), and whether it is a BRK
with SKIP = 1. -/
structure Op where
  e : Entry
  f : F2
  lit : Bool := true
  skip : Bool := false
  /-- D is read too (CVTPK, R265) -/
  dRead : Bool := false

/-- The checks of R177 row 2 that the words alone decide; Instr.wf says the same. -/
def Op.ok (o : Op) : Bool := fieldsOk o.e o.f && o.lit
/-- The words that an instruction takes (R164, R179). -/
def Op.len (o : Op) : Nat := if 0x80 ≤ o.e.op || o.skip then 2 else 1

/-- Address of word pos of a clause. -/
def Clause.at (c : Clause) (pos : Nat) : Nat := c.hdr + 4 * (1 + pos)
/-- Address of the next clause header (R155). -/
def Clause.next (c : Clause) : Nat := c.at c.words.length

/-- An armed instruction watchpoint of the world stands at an address (R485). -/
def watchAt (d : Debug) (pc : Nat) : Option Nat :=
  if !d.ctl.getLsbD 3 then none else
  (List.range 4).find? fun n =>
    let w := (d.wp.get 0 n).toNat
    bit w 63 && bits w 62 61 == 0 && bits w 51 0 == pc

/-- The agent is a lane of a protected launch (R219). -/
def protOf (s : State) (a : Agent) : Bool :=
  match a with
  | .lane t _ => (s.launchOf t).prot
  | _ => false

/-- A source of w registers, read in a lane under a pattern, meets a register whose storage holds poison (R458). -/
def badSource (s : State) (a : Agent) (prot : Bool) (o : Opd) (p : Pat) (w : Nat) : Bool :=
  match a, o with
  | .lane t lit, .reg n =>
    let W := (s.launchOf t).width
    let j := if p.kind = .own then lit else lit / W * W + patLane W (lit % W) p
    (s.team t).bad.any fun r => r.1 == j && n.val ≤ r.2.1 && r.2.1 < n.val + w && (prot || !r.2.2)
  | _, _ => false

/-- The first poisoned register that a step reads. -/
def badRead (s : State) (a : Agent) (prot : Bool) (e : Entry) (f : F2) (dRead : Bool) : Bool :=
  match a with
  | .lane t _ =>
    !(s.team t).bad.isEmpty && (badSource s a prot f.a f.pa e.aw || badSource s a prot f.b f.pb e.bw ||
      badSource s a prot f.c .idle e.cw || (dRead && badSource s a prot f.d .idle e.dw))
  | _ => false

/-- A write of w registers of a lane removes their poison (R458). -/
def cleanRegs (s : State) (a : Agent) (o : Opd) (w : Nat) : State :=
  match a, o with
  | .lane t lit, .reg n =>
    if (s.team t).bad.isEmpty then s
    else s.modTeam t fun x => { x with bad := x.bad.filter fun r => !(r.1 == lit && n.val ≤ r.2.1 && r.2.1 < n.val + w) }
  | _, _ => s

/-- The checks before a step (R177, rows 2 to 4; R458 for a poisoned register), for a lane, a control program or the firmware; a watchpoint on the
instruction comes before the step (R485). -/
def preFault (o : Op) (s : State) (a : Agent) (cl : Clause) : Option Why :=
  let e := o.e
  let f0 := o.f
  let l := s.laneOf a
  let watch := match a with
    | .lane t _ =>
      if l.skipWatch || !s.debugged t || cl.rep.any (·.idx != 0) then none
      else watchAt (s.world (s.worldOf a)).dbg (cl.at cl.pos)
    | _ => none
  match watch with
  | some n => some { code := 0x0F, info := n }
  | none =>
    let prot := protOf s a
    let W := match a with | .lane t _ => (s.launchOf t).width | _ => 64
    let f := (stepFields cl.rep e f0).getD f0
    if !o.ok then some .illegal
    else if isBlocking e && (cl.pos != 0 || !cl.safe) then some .illegal
    else if endsClause e && cl.pos + o.len != cl.words.length then some .illegal
    else if !patArgOk W f.pa || !patArgOk W f.pb then some .illegal
    else if (match a with | .prog _ | .firm _ => progRefuses e f | _ => false) then some .illegal
    else if l.primer.isSome && primerRefuses e f then some .illegal
    else if !latchOk l prot e.aw f.a || !latchOk l prot e.bw f.b || !latchOk l prot e.cw f.c ||
      (o.dRead && !latchOk l prot e.dw f.d) then some .illegal
    else if privileged a e then some { code := 0x13 }
    else
      let n := s.nregsOf a
      match stepFields cl.rep e f0 with
      | none => some { code := 0x05 }
      | some f =>
        if !(regOk n e.dw f.d && regOk n e.aw f.a && regOk n e.bw f.b && regOk n e.cw f.c) then some { code := 0x05 }
        else if badRead s a prot e f o.dRead then some { code := 0x0B, unit := 3, tier := true }
        else none

/-- The environment of a step in one lane. -/
def envOf (o : Op) (s : State) (a : Agent) (cl : Clause) : Env :=
  let e := o.e
  let f0 := o.f
  let f := (stepFields cl.rep e f0).getD f0
  let l := s.laneOf a
  let prot := protOf s a
  let W := match a with | .lane t _ => (s.launchOf t).width | _ => 64
  let lit := match a with | .lane _ lit => lit | _ => 0
  { who := a, w := s.worldOf a, t := match a with | .lane t _ => t | _ => 0, lit := lit, i := lit % W, width := W,
    prot := prot, f := f, e := e,
    a := s.patOperand a false f.a f.pa e.aw, b := s.patOperand a false f.b f.pb e.bw, c := s.operand a l false f.c e.cw,
    a' := if prot then s.patOperand a true f.a f.pa e.aw else 0,
    b' := if prot then s.patOperand a true f.b f.pb e.bw else 0,
    c' := if prot then s.operand a l true f.c e.cw else 0,
    hdr := cl.hdr, pc := cl.at cl.pos, next := cl.next }

/-- The operands of a protected pair differ (R220). -/
def Env.mismatch (v : Env) : Bool := v.prot && (v.a != v.a' || v.b != v.b' || v.c != v.c')

/-- The agents that execute now, in ascending identity, with their clause. -/
def agentsOf (s : State) : Option (List Agent × Clause) :=
  match s.cur with
  | none | some (.seq _) => none
  | some (.gang g) => (s.gang g).map fun x => (x.lanes.map (Agent.lane x.team), x.clause)
  | some (.prog w) => (s.prog w).clause.map fun c => ([.prog w], c)
  | some (.firm c) => some ([.firm c], { hdr := 0, cls := 6, words := [0], yield := false, safe := true })

/-- The agent may still act in this step: its team is resident and not about to roll back, and it is READY, and has not issued
the instruction already; a control program runs, in a RUNNING world (R33, R123). -/
def acting (s : State) (a : Agent) : Bool :=
  match a with
  | .lane t lit => (s.team t).st == .resident && (s.team t).rollback.isNone && (s.lane t lit).st == .ready && !(s.lane t lit).issued
  | .prog w => (s.world w).st == .running && (s.prog w).st == .running
  | _ => true

/-- A debug HALT takes effect at the instruction boundary (R218, R481): those lanes leave the gang. -/
def haltAtBoundary (s : State) (a : Agent) : State :=
  match a with
  | .lane t lit =>
    let l := s.lane t lit
    if l.haltReq && !l.stepReq && l.st == .ready && !l.issued then
      let rep := (s.gangs.findSome? fun (_, g) => if g.team = t && g.lanes.contains lit then some g.clause.rep else none).getD l.rep
      ((s.leaveGang t lit).modLane t lit fun l =>
        { l with st := .halted, haltFrom := .ready, haltReq := false, byDebug := true, code := 0, rep := rep }).pushOnce
          (.dbgReport (s.launchOf t).world)
    else s
  | _ => s

/-- A retired instruction of a control program counts in its turn (R127). -/
def countTurn (s : State) (a : Agent) : State :=
  match a with
  | .prog w =>
    let c := (s.world w).ctl
    let s := s.modSlice c fun x => { x with turnCount := x.turnCount + 1 }
    if 4096 ≤ (s.slice c).turnCount then s.pushOnce (.turnEnd c) else s
  | _ => s

/-- The retirement of a step in one lane: the distance counts it (R161); a STEP of the debugger is used up (R484). -/
def retire (s : State) (a : Agent) (e : Entry) (f : F2) (r : Res) : State :=
  match r with
  | .ok d d' fl fl' => countTurn ((cleanRegs s a f.d e.dw).modLaneOf a fun l =>
    let l := l.writeOpd false f.d e.dw d
    let l := if protOf s a then l.writeOpd true f.d e.dw d' else l
    { l with flags := FlagSet.join l.flags fl, sflags := FlagSet.join l.sflags fl', dist := l.dist + 1,
             skipWatch := false, stepReq := false, woken := if isBlocking e then none else l.woken }) a
  | .jump _ => countTurn (s.modLaneOf a fun l => { l with dist := l.dist + 1, skipWatch := false, stepReq := false }) a
  | _ => s

/-- The retirement would take the count past SAFE_DIST (R440); the control core counts none (R125). -/
def tooFar (s : State) (a : Agent) : Bool :=
  match a with
  | .lane t lit => (s.launchOf t).desc.dist < (s.lane t lit).dist + 1
  | _ => false

/-- One lane's step. The list gathers the targets of the transfers. -/
def stepAgent (o : Op) (cl : Clause) (envs : List Env) (fn : LaneFn) (s0 : State)
    (acc : State × List (Agent × Nat)) (a : Agent) : State × List (Agent × Nat) :=
  let (s, js) := acc
  if !acting s a then (s, js) else
  match preFault o s0 a cl with
  | some y => (s.takeFault a y, js)
  | none =>
    let env := envOf o s0 a cl
    match fn envs env s with
    | (_, .fault y) => (s.takeFault a y, js)
    | (_, .trouble t flags va) => (s.takeTrouble a t flags va, js)
    | (s1, .wait) => (s1, js)
    | (s1, .jump pc) => if tooFar s a then (s.takeFault a { code := 0x09 }, js) else (retire s1 a o.e env.f (.jump pc), js ++ [(a, pc)])
    | (s1, r) => if tooFar s a then (s.takeFault a { code := 0x09 }, js) else (retire s1 a o.e env.f r, js)

/-- The clause after a step: the next repeat, or the next instruction, with the repeats that REP itself opens. -/
def Clause.advance (cl : Clause) (len : Nat) (opens : Option Rep) : Clause :=
  match cl.rep with
  | some r => if r.idx + 1 < r.count then { cl with rep := some { r with idx := r.idx + 1 } } else { cl with rep := none, pos := cl.pos + len }
  | none => { cl with rep := opens, pos := cl.pos + len }

/-- The clause has no instruction left. -/
def Clause.over (cl : Clause) : Bool := cl.words.length ≤ cl.pos

/-- Where an agent stands after the step: at its transfer's target, or at the next instruction or header. -/
def targetOf (js : List (Agent × Nat)) (a : Agent) (pc : Nat) : Nat :=
  match js.find? fun j => j.1 == a with
  | some j => j.2
  | none => pc

/-- Moves the agents on after a step (R155, R205, R208). A transfer to the end of its Primer ends it (R445). A gang with a lane
that could not issue yet, for the sake of a channel that another lane of it has taken, holds (R205, R361). -/
def advance (s : State) (cl : Clause) (js : List (Agent × Nat)) : State :=
  match s.cur with
  | some (.gang g) =>
    match s.gang g with
    | none => s
    | some x =>
      if x.lanes.any fun lit => (s.lane x.team lit).st == .token then s else
      let now := s.cycle
      let ready := if x.yields || cl.yield then now + 1 else x.age
      let s := x.lanes.foldl (fun s lit => s.modLane x.team lit fun l =>
        if cl.over then { l with pc := targetOf js (.lane x.team lit) (cl.at cl.pos), inClause := false, rep := none,
                                 passJ := false, readyAt := ready, since := now, displaced := false, issued := false,
                                 primer := if js.any fun j => j.1 == .lane x.team lit && l.primer == some j.2 then none else l.primer }
        else { l with pc := cl.at cl.pos, rep := cl.rep, displaced := l.displaced && cl.rep.any (·.idx != 0), issued := false }) s
      if cl.over then { s with gangs := s.gangs.erase g } else { s with gangs := s.gangs.insert g { x with clause := cl } }
  | some (.prog w) =>
    if ((s.prog w).st = .running || (s.prog w).st = .waiting) && !s.asking (.prog w) then
      s.modProg w fun p =>
        if p.clause.isNone || p.st != .running || p.lane.st != .ready then p
        else { p with clause := if cl.over then none else some cl,
                      lane := { p.lane with pc := targetOf js (.prog w) (cl.at cl.pos) } }
    else s
  | _ => s

/-- The gang's next instruction waits (R205). -/
def stall (s : State) : State :=
  match s.cur with
  | some (.gang g) =>
    match s.gang g with
    | some x => { s with gangs := s.gangs.insert g { x with stalled := true } }
    | none => s
  | _ => s

/-- Metering of the issue (R491). -/
def countIssue (s : State) (as : List Agent) : State :=
  match as with
  | .prog _ :: _ => s
  | a :: _ => s.meter (s.worldOf a) 0 1
  | [] => s

/-- One step of the executing agents. ready tells, lane by lane, whether the step can start now (it may send what the
step waits for); fn is the meaning in one lane; opens is the repeat block of a REP. -/
def runLanes (o : Op) (s : State) (fn : LaneFn) (ready : Env → State → State × Bool := fun _ s => (s, true))
    (opens : Option Rep := none) : Host.Outcome State Fault Refusal :=
  match agentsOf s with
  | none => .fault .noAgent
  | some (as0, cl) =>
    if o.e.cls = 5 then .fault .wrongAgent else
    let s := as0.foldl haltAtBoundary s
    let as := as0.filter (acting s)
    if as.isEmpty then
      .next (if !as0.isEmpty && as0.all fun a => (s.laneOf a).issued then advance s (cl.advance o.len opens) [] else s)
    else
    let clean := as.filter fun a => (preFault o s a cl).isNone
    let envs := clean.map fun a => envOf o s a cl
    let (s1, go) := envs.foldl (fun (acc : State × Bool) v => let (s, ok) := ready v acc.1; (s, acc.2 && ok)) (s, true)
    if !go then .next (stall s1) else
    let (s2, js) := as.foldl (stepAgent o cl envs fn s) (s1, [])
    .next (advance (countIssue s2 as) (cl.advance o.len opens) js)

/-- A meaning that only computes: in each lane the result and flags from the operands; the shadow computes its own. -/
def runAlu (o : Op) (s : State) (g : F2 → Nat → Nat → Nat → Nat × FlagSet) : Host.Outcome State Fault Refusal :=
  runLanes o s fun _ v s =>
    let (d, fl) := g v.f v.a v.b v.c
    let (d', fl') := if v.prot then g v.f v.a' v.b' v.c' else (0, 0)
    (s, .ok d d' fl fl')

/-! The sequencer -/

/-- What a class-5 meaning sees. -/
structure SeqEnv where
  t : Nat
  w : Nat
  f : F2
  e : Entry
  a : Nat
  b : Nat
  c : Nat
  hdr : Nat
  pc : Nat
  next : Nat

/-- The checks of R177 row 2 for a class-5 step; no class-5 instruction raises fault 0x05 (R383). -/
def seqPreFault (o : Op) (cl : Clause) : Bool :=
  o.ok && !(isBlocking o.e && (cl.pos != 0 || !cl.safe)) && !(endsClause o.e && cl.pos + o.len != cl.words.length)

/-- How the sequencer goes on after a step. -/
def seqAdvance (s : State) (t : Nat) (cl : Clause) (jump : Option Nat) : State :=
  s.modSeq t fun q =>
    if q.st != .running then q
    else if cl.over then { q with clause := none, inClause := false, pc := jump.getD (cl.at cl.pos), displaced := false, haltFrom := .running }
    else { q with clause := some cl, pc := cl.at cl.pos, displaced := false }

/-- One step of the executing sequencer. A meaning that waits leaves the place in the clause as it is. -/
def runSeq (o : Op) (s : State) (fn : SeqEnv → State → State × Res) : Host.Outcome State Fault Refusal :=
  match s.cur with
  | some (.seq t) =>
    let e := o.e
    let f := o.f
    let q := s.seqOf t
    match q.clause with
    | none => .fault .noAgent
    | some cl =>
      if e.cls ≠ 5 && e.cls ≠ 7 then .fault .wrongAgent
      else if q.haltReq then
        .next ((s.modSeq t fun q => { q with st := .halted, haltFrom := .running, haltReq := false, code := 0 }).pushOnce
          (.dbgReport (s.launchOf t).world))
      else if !seqPreFault o cl then .next (s.takeFault (.seq t) .illegal)
      else
        let w := (s.launchOf t).world
        let v : SeqEnv := { t := t, w := w, f := f, e := e, a := s.seqOperand t f.a e.aw, b := s.seqOperand t f.b e.bw,
                            c := s.seqOperand t f.c e.cw, hdr := cl.hdr, pc := cl.at cl.pos, next := cl.next }
        let far := (s.launchOf t).desc.dist < q.dist + 1
        let go := fun (s1 : State) (d : Option Nat) (j : Option Nat) =>
          if far then s.takeFault (.seq t) { code := 0x09 }
          else
            let s2 := s1.modSeq t fun q => { (match d with | some d => q.writeOpd f.d e.dw d | none => q) with dist := q.dist + 1 }
            seqAdvance (s2.meter w 0 1) t (cl.advance (o.len) none) j
        match fn v s with
        | (_, .fault y) => .next (s.takeFault (.seq t) y)
        | (_, .trouble e flags va) => .next (s.takeTrouble (.seq t) e flags va)
        | (s1, .wait) => .next s1
        | (s1, .jump pc) => .next (go s1 none (some pc))
        | (s1, .ok d _ _ _) => .next (go s1 (some d) none)
  | none => .fault .noAgent
  | some _ => .fault .wrongAgent

end Sys2Proof.Machine
end

