-- ==== Sys2Proof/Machine/Float.lean ====
section
/-! DEFINITION. Numbers (R84 to R97, R103) and the arithmetic built on them: decoding and rounding in every format, the
fused sum (R251), conversions, comparison, and the correctly rounded functions of R267 and R288. -/

namespace Sys2Proof.Machine

/-- The shape of a floating-point format (R86): exponent and fraction bits, bias, the code of the largest finite
magnitude, the code of infinity where there is one, the canonical NaN, and whether NaNs can signal (R87). -/
structure FloatFmt where
  w : Nat
  f : Nat
  bias : Nat
  top : Nat
  inf : Option Nat
  nan : Nat
  snan : Bool
  deriving DecidableEq, Repr

/-- The formats of R86; a format that is not a floating-point one has no shape and reads as .f32. -/
def shape (k : Fmt) : FloatFmt :=
  match k with
  | .f64 => ⟨11, 52, 1023, 0x7FEFFFFFFFFFFFFF, some 0x7FF0000000000000, 0x7FF8000000000000, true⟩
  | .f16 => ⟨5, 10, 15, 0x7BFF, some 0x7C00, 0x7E00, true⟩
  | .bf16 => ⟨8, 7, 127, 0x7F7F, some 0x7F80, 0x7FC0, true⟩
  | .e5m2 => ⟨5, 2, 15, 0x7B, some 0x7C, 0x7E, false⟩
  | .e4m3 => ⟨4, 3, 7, 0x7E, none, 0x7F, false⟩
  | .e2m1 => ⟨2, 1, 1, 7, none, 0, false⟩
  | _ => ⟨8, 23, 127, 0x7F7FFFFF, some 0x7F800000, 0x7FC00000, true⟩

/-- A value: NaN (signalling or quiet), an infinity, or (-1)^neg · m · 2^e, where m = 0 is a signed zero. -/
inductive Num where
  | nan (signalling : Bool)
  | inf (neg : Bool)
  | fin (neg : Bool) (m : Nat) (e : Int)
  deriving DecidableEq, Repr

/-- decode of R103 for the formats of R86 (R87). -/
def decodeNum (k : Fmt) (v : Nat) : Num :=
  let F := (shape k)
  let mag := v % 2 ^ (F.w + F.f)
  let neg := bit v (F.w + F.f)
  let frac := mag % 2 ^ F.f
  let ex := mag / 2 ^ F.f
  if F.top < mag then
    if F.inf = some mag then .inf neg else .nan (F.snan && decide (frac < 2 ^ (F.f - 1)))
  else if ex = 0 then .fin neg frac (1 - (F.bias : Int) - F.f)
  else .fin neg (2 ^ F.f + frac) ((ex : Int) - F.bias - F.f)

/-- A code from sign and magnitude. -/
def signCode (k : Fmt) (neg : Bool) (mag : Nat) : Nat := (if neg then 2 ^ ((shape k).w + (shape k).f) else 0) + mag

/-- The result of an overflow or of an infinite input (R92); new tells that it overflowed. -/
def ovf (k : Fmt) (neg : Bool) (mode : Nat) (sat new : Bool) : Nat × FlagSet :=
  let F := (shape k)
  let fl := FlagSet.when new (FlagSet.overflow ||| FlagSet.inexact)
  match F.inf with
  | none => (signCode k neg F.top, fl)
  | some i =>
    let finite := sat || mode == 1 || (mode == 2 && neg) || (mode == 3 && !neg)
    (signCode k neg (if finite then F.top else i), fl)

/-- Rounds m · 2^-sh to an integer (R91): modes 0 .rn, 1 .rz, 2 .rp, 3 .rm, 4 .sr with random bits r. sticky says that the
true value lies strictly between m and m + 1 units. The second part tells whether the result is inexact. -/
def chop (mode : Nat) (neg sticky : Bool) (r m sh : Nat) : Nat × Bool :=
  let lo := m / 2 ^ sh
  let rest := m % 2 ^ sh
  if rest = 0 && !sticky then (lo, false)
  else
    let up := match mode with
      | 0 => if 2 * rest = 2 ^ sh && !sticky then lo % 2 == 1 else decide (2 ^ sh ≤ 2 * rest)
      | 1 => false
      | 2 => !neg
      | 3 => neg
      | _ => decide (r < rest * 2 ^ 16 / 2 ^ sh)
    (if up then lo + 1 else lo, true)

/-- round of R91 for a nonzero magnitude m · 2^e. The code of a magnitude is built with an unbounded exponent field, so that
overflow is a comparison of codes. -/
def roundMag (k : Fmt) (mode : Nat) (sat : Bool) (r : Nat) (neg : Bool) (m : Nat) (e : Int) (sticky : Bool) : Nat × FlagSet :=
  let F := (shape k)
  let emin : Int := 1 - (F.bias : Int)
  let lg : Int := (Nat.log2 m : Int) + e
  let q : Int := max lg emin - F.f
  let (n, inexact) := if q ≤ e then (m * 2 ^ (e - q).toNat, false) else chop mode neg sticky r m (q - e).toNat
  let tiny := decide (lg < emin)
  let fl := FlagSet.when inexact FlagSet.inexact ||| FlagSet.when (inexact && tiny) FlagSet.underflow
  let ex : Int := (Nat.log2 n : Int) + q
  let mag :=
    if n < 2 ^ F.f then n
    else (ex + F.bias).toNat * 2 ^ F.f + (n * 2 ^ F.f / 2 ^ Nat.log2 n - 2 ^ F.f)
  if F.top < mag then
    let (c, g) := ovf k neg mode sat true
    (c, fl ||| g)
  else (signCode k neg mag, fl)

/-- round of R103. A NaN gives the canonical NaN; its flags are the caller's. -/
def roundNum (k : Fmt) (mode : Nat) (sat : Bool) (r : Nat) (x : Num) : Nat × FlagSet :=
  match x with
  | .nan _ => ((shape k).nan, 0)
  | .inf neg => ovf k neg mode sat false
  | .fin neg m e => if m = 0 then (signCode k neg 0, 0) else roundMag k mode sat r neg m e false

/-- round_ne of R91. -/
def roundNe (k : Fmt) (x : Num) : Nat := (roundNum k 0 false 0 x).1

/-- rint of R96: the integer chosen with spacing 1, and whether it differs from x. -/
def rintMag (mode : Nat) (neg : Bool) (m : Nat) (e : Int) : Nat × Bool :=
  if 0 ≤ e then (m * 2 ^ e.toNat, false)
  else if (Nat.log2 m : Int) + 2 < -e then chop mode neg (m ≠ 0) 0 0 0
  else chop mode neg false 0 m (-e).toNat

/-- invalid for a signalling NaN (R88). -/
def nanFlag (x : Num) : FlagSet :=
  match x with
  | .nan true => FlagSet.invalid
  | _ => 0

def Num.isNan : Num → Bool
  | .nan _ => true
  | _ => false
def Num.isInf : Num → Bool
  | .inf _ => true
  | _ => false
def Num.isZero : Num → Bool
  | .fin _ m _ => m == 0
  | _ => false
def Num.neg : Num → Bool
  | .inf s => s
  | .fin s _ _ => s
  | .nan _ => false
def Num.negate : Num → Num
  | .inf s => .inf (!s)
  | .fin s m e => .fin (!s) m e
  | x => x
/-- x · 2^n. -/
def Num.scale (x : Num) (n : Int) : Num :=
  match x with
  | .fin s m e => .fin s m (e + n)
  | x => x

/-- The exact product of a factor pair; zero times infinity and a NaN factor are the caller's cases. -/
def Num.mul (x y : Num) : Num :=
  match x, y with
  | .fin s m e, .fin t n g => .fin (s != t) (m * n) (e + g)
  | x, y => .inf (x.neg != y.neg)

/-- One as a factor. -/
def Num.one : Num := .fin false 1 0

/-- The exact sum of finite terms as a signed integer in units of 2^u, u the least exponent. -/
def exactSum (ts : List Num) : Int × Int :=
  let u := ts.foldl (fun (u : Option Int) t =>
    match t, u with
    | .fin _ _ e, none => some e
    | .fin _ _ e, some v => some (min e v)
    | _, u => u) none |>.getD 0
  (ts.foldl (fun n t => match t with
    | .fin s m e => n + (if s then -1 else 1) * ((m * 2 ^ (e - u).toNat : Nat) : Int)
    | _ => n) 0, u)

/-- fused of R251, before rounding: NaN (with invalid or not), an infinity, or the exact sum with the sign of a zero. -/
def fusedNum (ps : List (Num × Num)) (c : Option Num) (rm : Bool) : Num × FlagSet :=
  let bad := ps.any fun (x, y) => (x.isZero && y.isInf) || (x.isInf && y.isZero)
  let ins := ps.flatMap (fun (x, y) => [x, y]) ++ c.toList
  if bad || ins.any Num.isNan then
    (.nan false, FlagSet.when (bad || ins.any fun x => x == .nan true) FlagSet.invalid)
  else
    let ts := ps.map (fun (x, y) => x.mul y) ++ c.toList
    let infs := ts.filter Num.isInf
    if infs.any Num.neg && infs.any (fun x => !x.neg) then (.nan false, FlagSet.invalid)
    else
      match infs with
      | x :: _ => (.inf x.neg, 0)
      | [] =>
        let (n, u) := exactSum ts
        if n = 0 then
          if ts.all Num.isZero && (ts.all Num.neg || ts.all fun x => !x.neg) then (.fin (ts.all Num.neg) 0 0, 0)
          else (.fin rm 0 0, 0)
        else (.fin (decide (n < 0)) n.natAbs u, 0)

/-- fused of R251. An infinite sum raises no flag. -/
def fused (ps : List (Num × Num)) (c : Option Num) (k : Fmt) (mode : Nat) (sat : Bool) : Nat × FlagSet :=
  let (x, fl) := fusedNum ps c (mode == 3)
  let x' := match x with
    | .inf neg => (signCode k neg (match (shape k).inf with | some i => if sat then (shape k).top else i | none => (shape k).top), 0)
    | x => roundNum k mode sat 0 x
  (x'.1, x'.2 ||| fl)

/-- The order of two codes with -0 below +0 (R253), as numbers. -/
def orderKey (k : Fmt) (v : Nat) : Int :=
  let mag := v % 2 ^ ((shape k).w + (shape k).f)
  if bit v ((shape k).w + (shape k).f) then -(mag : Int) - 1 else mag

/-- The minimum or maximum of R253 in a format. -/
def minMax (k : Fmt) (isMax : Bool) (a b : Nat) : Nat × FlagSet :=
  let x := decodeNum k a
  let y := decodeNum k b
  let fl := nanFlag x ||| nanFlag y
  if x.isNan && y.isNan then ((shape k).nan, fl)
  else if x.isNan then (b, fl)
  else if y.isNan then (a, fl)
  else
    let takeB := if isMax then decide (orderKey k a < orderKey k b) else decide (orderKey k b < orderKey k a)
    (if takeB then b else a, fl)

/-- The condition of FCMP and DCMP (R254). -/
def floatCmp (k : Fmt) (cond : Nat) (a b : Nat) : Bool × FlagSet :=
  let x := decodeNum k a
  let y := decodeNum k b
  let un := x.isNan || y.isNan
  let key := fun v => if (decodeNum k v).isZero then (0 : Int) else orderKey k v + (if bit v ((shape k).w + (shape k).f) then 1 else 0)
  let fl := nanFlag x ||| nanFlag y ||| FlagSet.when (un && 2 ≤ cond && cond ≤ 5) FlagSet.invalid
  let holds := match cond with
    | 0 => !un && key a == key b
    | 1 => un || key a != key b
    | 2 => !un && decide (key a < key b)
    | 3 => !un && decide (key a ≤ key b)
    | 4 => !un && decide (key b < key a)
    | 5 => !un && decide (key b ≤ key a)
    | 6 => un
    | _ => !un
  (holds, fl)

/-! Conversions (R95 to R97) -/

/-- An exact integer as a number. -/
def Num.ofInt (x : Int) : Num := .fin (decide (x < 0)) x.natAbs 0

/-- The exact value of a source code of CVT (R264). -/
def cvtSource (k : Fmt) (v : Nat) : Num :=
  if k.isInt then .ofInt (if k.isSigned then sext k.bits v else (v % 2 ^ k.bits : Nat))
  else if k = .e8m0 then (if v % 256 = 255 then .nan false else .fin false 1 ((v % 256 : Nat) - 127))
  else decodeNum k (v % 2 ^ k.bits)

/-- A conversion into a floating-point target (R96): an infinite source gives an infinity of that sign whatever the mode,
the greatest finite value under .sat and in a format without infinities. -/
def toFloat (k : Fmt) (mode : Nat) (sat : Bool) (r : Nat) (x : Num) : Nat × FlagSet :=
  let (c, fl) := match x with
    | .inf neg => ovf k neg 0 sat false
    | _ => roundNum k mode sat r x
  (c, fl ||| (if k = .e2m1 then FlagSet.when x.isNan FlagSet.invalid else nanFlag x))

/-- A conversion into an integer target (R96), as a pattern of its width. -/
def toInt (k : Fmt) (mode : Nat) (x : Num) : Nat × FlagSet :=
  let n := k.bits
  let hi : Int := if k.isSigned then (2 ^ (n - 1) : Nat) - 1 else (2 ^ n : Nat) - 1
  let lo : Int := if k.isSigned then -(2 ^ (n - 1) : Nat) else 0
  match x with
  | .nan _ => (0, FlagSet.invalid)
  | .inf neg => (wrapInt n (if neg then lo else hi), FlagSet.invalid)
  | .fin neg m e =>
    if m = 0 then (0, 0) else
    let (v, inexact) := rintMag mode neg m e
    let y : Int := if neg then -(v : Int) else v
    if y < lo then (wrapInt n lo, FlagSet.invalid)
    else if hi < y then (wrapInt n hi, FlagSet.invalid)
    else (wrapInt n y, FlagSet.when inexact FlagSet.inexact)

/-- A conversion into .e8m0 (R97). -/
def toE8m0 (mode : Nat) (x : Num) : Nat × FlagSet :=
  match x with
  | .nan s => (255, FlagSet.when s FlagSet.invalid)
  | .inf _ => (254, FlagSet.overflow)
  | .fin _ m e =>
    if m = 0 then (0, FlagSet.inexact) else
    let lg := Nat.log2 m
    let k : Int := (lg : Int) + e
    let exact := m == 2 ^ lg
    let up := match mode with
      | 0 => decide (3 * 2 ^ lg ≤ 2 * m)
      | 2 => !exact
      | _ => false
    let ch : Int := k + 127 + (if up then 1 else 0)
    if 254 < ch then (254, FlagSet.inexact ||| FlagSet.overflow)
    else if ch < 0 then (0, FlagSet.inexact ||| FlagSet.underflow)
    else (ch.toNat, FlagSet.when (!exact) FlagSet.inexact)

/-- The register pattern of a conversion result (R264): signed narrow integers are sign-extended. -/
def extendResult (k : Fmt) (v : Nat) : Nat :=
  match k with
  | .i8 | .i16 => wrapInt 32 (sext k.bits v)
  | _ => v

/-- CVT of R264 with its control. -/
def convert (src tgt : Fmt) (mode : Nat) (sat : Bool) (r : Nat) (v : Nat) : Nat × FlagSet :=
  let x := cvtSource src v
  if tgt = .e8m0 then toE8m0 mode x
  else if tgt.isInt then
    let (c, fl) := toInt tgt mode x
    (extendResult tgt c, fl)
  else toFloat tgt mode sat r x

/-! The functions of R267 and R288, correctly rounded. An irrational value is held as m · 2^e with the true value between m
and m + 1 units up to an error far below the distance of any .f32 argument's value from a rounding boundary (log entry
14). Fixed-point numbers below have 320 fraction bits. -/

/-- Fraction bits of the fixed-point numbers. -/
def fxBits : Nat := 320
def fxOne : Nat := 2 ^ 320
/-- π / 2 with 480 fraction bits, ln 2 and 2π with 320. -/
def halfPi480 : Nat := 0x1921fb54442d18469898cc51701b839a252049c1114cf98e804177d4c76273644a29410f31c6809bbdf2a33679a748636605614dbe4be286e9fc26ada
def ln2Fx : Nat := 0xb17217f7d1cf79abc9e3b39803f2f6af40f343267298b62d8a0d175b8baafa2be7b876206debac98
def twoPiFx : Nat := 0x6487ed5110b4611a62633145c06e0e68948127044533e63a0105df531d89cd9128a5043cc71a026ef
def fxMul (x y : Nat) : Nat := x * y / 2 ^ 320

/-- Sum of the terms t · x^j · (k - 1)! / (k - 1 + j)! from k on: the exponential series. -/
def expSeries (fuel k t x acc : Nat) : Nat :=
  match fuel with
  | 0 => acc
  | n + 1 => expSeries n (k + 1) (fxMul t x / k) x (acc + fxMul t x / k)

/-- e^x for x below 1. -/
def expFx (x : Nat) : Nat := expSeries 95 1 fxOne x fxOne

/-- The alternating series of sine and cosine in x² from term t on. -/
def trigSeries (fuel k t xx : Nat) (neg : Bool) (acc : Int) : Int :=
  match fuel with
  | 0 => acc
  | n + 1 =>
    let t' := fxMul t xx / (k * (k + 1))
    trigSeries n (k + 2) t' xx (!neg) (if neg then acc + t' else acc - t')

/-- sin r and cos r for r up to π / 2. -/
def sinFx (r : Nat) : Nat := (trigSeries 60 2 r (fxMul r r) false r).toNat
def cosFx (r : Nat) : Nat := (trigSeries 60 1 fxOne (fxMul r r) false fxOne).toNat

/-- The series of the inverse hyperbolic tangent: sum of z^k / k over odd k. -/
def atanhSeries (fuel k p zz acc : Nat) : Nat :=
  match fuel with
  | 0 => acc
  | n + 1 => atanhSeries n (k + 2) (fxMul p zz) zz (acc + p / k)

/-- ln t for t = num / den from 1 to 2. -/
def lnFx (num den : Nat) : Nat :=
  let z := (num - den) * 2 ^ 320 / (num + den)
  2 * atanhSeries 115 1 z (fxMul z z) 0

/-- The largest root with root² ≤ n, bit by bit from bit k - 1 down. -/
def isqrtFrom (k r n : Nat) : Nat :=
  match k with
  | 0 => r
  | k + 1 => if (r + 2 ^ k) ^ 2 ≤ n then isqrtFrom k (r + 2 ^ k) n else isqrtFrom k r n

def isqrt (n : Nat) : Nat := isqrtFrom (Nat.log2 n / 2 + 1) 0 n

/-- An approximation: sign, m, e, and whether the true value lies above m units. -/
structure Approx where
  neg : Bool
  m : Nat
  e : Int
  sticky : Bool
  deriving DecidableEq, Repr

/-- Rounds an approximation to .f32 (R267). -/
def Approx.round (x : Approx) (mode : Nat) (sat : Bool) : Nat × FlagSet :=
  if x.m = 0 then (signCode .f32 x.neg 0, 0) else roundMag .f32 mode sat 0 x.neg x.m x.e x.sticky

/-- 1 / (m · 2^e). -/
def rcpApprox (neg : Bool) (m : Nat) (e : Int) : Approx := ⟨neg, 2 ^ 80 / m, -80 - e, 2 ^ 80 % m ≠ 0⟩
/-- √(m · 2^e): with an even exponent the root of the scaled integer. -/
def sqrtApprox (m : Nat) (e : Int) : Approx :=
  let odd := e % 2 = 1
  let n := (if odd then 2 * m else m) * 2 ^ 80
  let r := isqrt n
  ⟨false, r, (if odd then e - 1 else e) / 2 - 40, r * r ≠ n⟩
/-- 1 / √(m · 2^e). -/
def rsqApprox (m : Nat) (e : Int) : Approx :=
  let odd := e % 2 = 1
  let d := if odd then 2 * m else m
  let n := 2 ^ 120 / d
  let r := isqrt n
  ⟨false, r, -60 - (if odd then e - 1 else e) / 2, r * r ≠ n || 2 ^ 120 % d ≠ 0⟩
/-- A magnitude m · 2^e, e at least -320, in fixed point. -/
def toFx (m : Nat) (e : Int) : Nat := m * 2 ^ (e + 320).toNat
/-- 2^a. Beyond ±1,000 only the overflow or the underflow counts. -/
def exp2Approx (neg : Bool) (m : Nat) (e : Int) : Approx :=
  let lg : Int := (Nat.log2 m : Int) + e
  if 10 ≤ lg then ⟨false, 1, if neg then -1000 else 1000, false⟩
  else if lg < -60 then ⟨false, if neg then 2 ^ 64 - 1 else 2 ^ 64, -64, true⟩
  else
    let x := toFx m e
    let fl : Int := if neg then -(((x + fxOne - 1) / fxOne : Nat) : Int) else ((x / fxOne : Nat) : Int)
    let fr : Nat := if neg then (fxOne - x % fxOne) % fxOne else x % fxOne
    if fr = 0 then ⟨false, 1, fl, false⟩
    else ⟨false, expFx (fxMul fr ln2Fx), fl - 320, true⟩
/-- log2 of a positive number. -/
def log2Approx (m : Nat) (e : Int) : Approx :=
  let lg := Nat.log2 m
  let k : Int := (lg : Int) + e
  if m = 2 ^ lg then ⟨decide (k < 0), k.natAbs, 0, false⟩
  else
    let l : Nat := lnFx m (2 ^ lg) * 2 ^ 320 / ln2Fx
    let y : Int := k * (2 ^ 320 : Nat) + l
    ⟨decide (y < 0), y.natAbs, -320, true⟩
/-- The quadrant of |a| and the rest r below π / 2. -/
def reduceArg (m : Nat) (e : Int) : Nat × Nat :=
  let x := m * 2 ^ (e + 480).toNat
  (x / halfPi480, x % halfPi480 / 2 ^ 160)
/-- The rest under exact reduction of large arguments: 160 more fraction bits than the result keeps. -/
def trigApprox (quadrant : Nat) (neg : Bool) (m : Nat) (e : Int) : Approx :=
  let (q, r) := reduceArg m e
  let k := (q + quadrant) % 4
  ⟨neg != decide (2 ≤ k), if k % 2 = 0 then sinFx r else cosFx r, -320, true⟩
/-- sin a; a small a lies just above its sine. -/
def sinApprox (neg : Bool) (m : Nat) (e : Int) : Approx :=
  if (Nat.log2 m : Int) + e < -45 then ⟨neg, m * 2 ^ 64 - 1, e - 64, true⟩ else trigApprox 0 neg m e
/-- cos a. -/
def cosApprox (m : Nat) (e : Int) : Approx :=
  if (Nat.log2 m : Int) + e < -45 then ⟨false, 2 ^ 64 - 1, -64, true⟩ else trigApprox 1 false m e
/-- tanh a. -/
def tanhApprox (neg : Bool) (m : Nat) (e : Int) : Approx :=
  let lg : Int := (Nat.log2 m : Int) + e
  if lg < -45 then ⟨neg, m * 2 ^ 64 - 1, e - 64, true⟩
  else if 5 ≤ lg then ⟨neg, 2 ^ 64 - 1, -64, true⟩
  else
    let y := 2 * toFx m e
    let k := y / ln2Fx
    let ex := expFx (y - k * ln2Fx) * 2 ^ k
    ⟨neg, (ex - fxOne) * 2 ^ 320 / (ex + fxOne), -320, true⟩

/-- The special functions of R267, by slot: 0 FRCP, 1 FRSQ, 2 FSQRT, 3 FEXP2, 4 FLOG2, 5 FSIN, 6 FCOS, 7 FTANH. -/
def specialFn (fn mode : Nat) (sat : Bool) (a : Nat) : Nat × FlagSet :=
  let x := decodeNum .f32 a
  let nan : Nat × FlagSet := (0x7FC00000, FlagSet.invalid)
  let inf := fun (s : Bool) (fl : FlagSet) => (signCode .f32 s (if sat then 0x7F7FFFFF else 0x7F800000), fl)
  let zero := fun (s : Bool) => ((signCode .f32 s 0, 0) : Nat × FlagSet)
  match x with
  | .nan s => (0x7FC00000, FlagSet.when s FlagSet.invalid)
  | .inf s =>
    match fn with
    | 0 => zero s
    | 1 => if s then nan else zero false
    | 2 => if s then nan else inf false 0
    | 3 => if s then zero false else inf false 0
    | 4 => if s then nan else inf false 0
    | 5 | 6 => nan
    | _ => (signCode .f32 s 0x3F800000, 0)
  | .fin s m e =>
    if m = 0 then
      match fn with
      | 0 | 1 => inf s FlagSet.divZero
      | 3 | 6 => (0x3F800000, 0)
      | 4 => inf true FlagSet.divZero
      | _ => zero s
    else
      match fn with
      | 0 => (rcpApprox s m e).round mode sat
      | 1 => if s then nan else (rsqApprox m e).round mode sat
      | 2 => if s then nan else (sqrtApprox m e).round mode sat
      | 3 => (exp2Approx s m e).round mode sat
      | 4 => if s then nan else (log2Approx m e).round mode sat
      | 5 => (sinApprox s m e).round mode sat
      | 6 => (cosApprox m e).round mode sat
      | _ => (tanhApprox s m e).round mode sat

/-! The Mill (R100 to R102) -/

/-- The rounds of Philox-4×32 left to do. -/
def philoxRounds (n k0 k1 c0 c1 c2 c3 : Nat) : Nat × Nat × Nat × Nat :=
  match n with
  | 0 => (c0, c1, c2, c3)
  | n + 1 =>
    let p := 0xD2511F53 * c0
    let q := 0xCD9E8D57 * c2
    philoxRounds n ((k0 + 0x9E3779B9) % 2 ^ 32) ((k1 + 0xBB67AE85) % 2 ^ 32)
      (q / 2 ^ 32 ^^^ c1 ^^^ k0) (q % 2 ^ 32) (p / 2 ^ 32 ^^^ c3 ^^^ k1) (p % 2 ^ 32)

/-- philox10 of R100: the key is advanced after each round, which no later round of the last one reads. -/
def philox10 (k0 k1 c0 c1 c2 c3 : Nat) : Nat × Nat × Nat × Nat := philoxRounds 10 k0 k1 c0 c1 c2 c3

/-- The 128-bit value of a Mill block (R94): x0 lowest. -/
def millBlock (key draw team stream lit : Nat) : Nat :=
  let (x0, x1, x2, x3) := philox10 (key % 2 ^ 32) (key / 2 ^ 32) (draw % 2 ^ 32) (draw / 2 ^ 32) team (stream * 2 ^ 16 + lit)
  x0 + 2 ^ 32 * x1 + 2 ^ 64 * x2 + 2 ^ 96 * x3

/-- Word j of a block. -/
def blockWord (x j : Nat) : Nat := x / 2 ^ (32 * j) % 2 ^ 32

/-- derive_key of R102. -/
def deriveKey (key idx team lit : Nat) : Nat := millBlock key idx team 0xFFFF lit % 2 ^ 64

/-- u01 of R101 as an odd multiple of 2^-24. -/
def u01Mant (w : Nat) : Nat := 2 * (w / 2 ^ 9) + 1
/-- u01 of R101 as an .f32 code; it is exact. -/
def u01 (w : Nat) : Nat := roundNe .f32 (.fin false (u01Mant w) (-24))

/-- DRAWN of R288: g · cos h and g · sin h for u01 of two words. -/
def drawNormal (w0 w1 : Nat) : Nat :=
  let u := u01Mant w0
  let lg := Nat.log2 u
  let negLn := (24 - lg) * ln2Fx - lnFx u (2 ^ lg)
  let g := isqrt (2 * negLn * 2 ^ 320)
  let h := u01Mant w1 * 2 ^ 296
  let quarter := h / (fxOne / 4)
  let r := fxMul (h % (fxOne / 4)) twoPiFx
  let c := if quarter % 2 = 0 then cosFx r else sinFx r
  let d := if quarter % 2 = 0 then sinFx r else cosFx r
  let code := fun (neg : Bool) (v : Nat) => (roundMag .f32 0 false 0 neg (fxMul g v) (-320) true).1
  code (quarter = 1 || quarter = 2) c + 2 ^ 32 * code (2 ≤ quarter) d

namespace State

/-- Key, team index and lane-in-team of an agent's draws (R101, R125). -/
def millKey (s : State) (a : Agent) : Nat × Nat × Nat :=
  match a with
  | .lane t lit => ((s.launchOf t).record.key.toNat, (s.team t).index % 2 ^ 32, lit)
  | _ => (0, 0, 0)

/-- mill_draw of R101: the block, and the state with the draw counter advanced. -/
def millDraw (s : State) (a : Agent) (stream : Nat) : Nat × State :=
  let (key, team, lit) := s.millKey a
  (millBlock key (s.laneOf a).draw.toNat team stream lit, s.modLaneOf a fun l => { l with draw := l.draw + 1 })

end State

/-- Element e's random bits of a block (R94). -/
def srBits (block e : Nat) : Nat := block / 2 ^ (16 * (e % 8)) % 2 ^ 16

end Sys2Proof.Machine
end

