-- ==== Sys2Proof/Machine/Integer.lean ====
section
/-! DEFINITION. Integer, bit and address arithmetic (R223 to R245): the pure functions of each operation on bit patterns,
and the meaning of each instruction. -/

namespace Sys2Proof.Machine

/-- ext of R227: the source pattern as a number, unsigned when U = 1. -/
def ext (w : Nat) (u : Bool) (x : Nat) : Int := if u then (x % 2 ^ w : Nat) else sext w x

/-- Clamps an exact result to the signed or unsigned range of w bits, as a pattern (R103). -/
def satInt (w : Nat) (u : Bool) (x : Int) : Nat :=
  if u then wrapInt w (max 0 (min x (2 ^ w - 1 : Nat)))
  else wrapInt w (max (-(2 ^ (w - 1) : Nat)) (min x ((2 ^ (w - 1) : Nat) - 1)))

/-- fit of R227: SAT in [1], U in [0] of the modifier. -/
def fit (w : Nat) (m : BitVec 8) (x : Int) : Nat := if m.getLsbD 1 then satInt w (m.getLsbD 0) x else wrapInt w x

/-- ext under the modifier's U. -/
def extM (w : Nat) (m : BitVec 8) (x : Nat) : Int := ext w (m.getLsbD 0) x

/-! R233 to R236 -/
def aluIadd (m : BitVec 8) (a b : Nat) : Nat := fit 32 m (extM 32 m a + extM 32 m b)
def aluIsub (m : BitVec 8) (a b : Nat) : Nat := fit 32 m (extM 32 m a - extM 32 m b)
def aluIadd3 (m : BitVec 8) (a b c : Nat) : Nat := fit 32 m (extM 32 m a + extM 32 m b + extM 32 m c)
def aluIaddco (a b c : Nat) : Nat := a % 2 ^ 32 + b % 2 ^ 32 + c % 2
def aluImul (m : BitVec 8) (a b : Nat) : Nat := fit 32 m (extM 32 m a * extM 32 m b)
def aluImulhi (m : BitVec 8) (a b : Nat) : Nat := wrapInt 32 (Int.fdiv (extM 32 m a * extM 32 m b) (2 ^ 32))
def aluImad (m : BitVec 8) (a b c : Nat) : Nat := fit 32 m (extM 32 m a * extM 32 m b + extM 32 m c)
def aluImadwide (m : BitVec 8) (a b c : Nat) : Nat := wrapInt 64 (extM 32 m a * extM 32 m b + c)
def aluImin (m : BitVec 8) (a b : Nat) : Nat := wrapInt 32 (min (extM 32 m a) (extM 32 m b))
def aluImax (m : BitVec 8) (a b : Nat) : Nat := wrapInt 32 (max (extM 32 m a) (extM 32 m b))
/-- IABS has SAT only; U is 0. -/
def aluIabs (m : BitVec 8) (a : Nat) : Nat := fit 32 (m &&& 2) (((sext 32 a).natAbs : Nat) : Int)
/-- A condition of R236 on two numbers. -/
def condHolds (k : Nat) (a b : Int) : Bool :=
  match k with
  | 0 => a == b
  | 1 => a != b
  | 2 => decide (a < b)
  | 3 => decide (a ≤ b)
  | 4 => decide (b < a)
  | _ => decide (b ≤ a)
def allOnes : Nat := 2 ^ 32 - 1
def aluIcmp (m : BitVec 8) (a b : Nat) : Nat :=
  if condHolds (mbits m 3 1) (extM 32 m a) (extM 32 m b) then allOnes else 0
def aluSel (a b c : Nat) : Nat := if c ≠ 0 then a else b

/-! R237 to R239 -/
def aluAndn (a b : Nat) : Nat := a &&& (allOnes - b % 2 ^ 32)
def aluNot (a : Nat) : Nat := allOnes - a % 2 ^ 32
/-- A number from its bits, bit 0 first. -/
def ofBits (l : List Bool) : Nat := l.foldr (fun b n => b.toNat + 2 * n) 0
def aluLop3 (lut : BitVec 8) (a b c : Nat) : Nat :=
  ofBits ((List.range 32).map fun j => bit lut.toNat ((bit a j).toNat + 2 * (bit b j).toNat + 4 * (bit c j).toNat))
/-- The shift amount of R238 and R244 for width w. -/
def shiftBy (w : Nat) (wrap : Bool) (b : Nat) : Nat := if wrap then b % w else min (b % 2 ^ 32) w
def aluShl (w : Nat) (wrap : Bool) (a b : Nat) : Nat := a * 2 ^ shiftBy w wrap b % 2 ^ w
def aluShr (w : Nat) (wrap : Bool) (a b : Nat) : Nat := a % 2 ^ w / 2 ^ shiftBy w wrap b
def aluSar (w : Nat) (wrap : Bool) (a b : Nat) : Nat := wrapInt w (Int.fdiv (sext w a) (2 ^ shiftBy w wrap b : Nat))
def aluRotl (a b : Nat) : Nat := (a * 2 ^ (b % 32)) % 2 ^ 32 + a / 2 ^ (32 - b % 32)
def aluFunnel (m : BitVec 8) (a b c : Nat) : Nat :=
  let x := a + 2 ^ 32 * b
  let n := shiftBy 32 (m.getLsbD 1) c
  if m.getLsbD 0 then x * 2 ^ n / 2 ^ 32 % 2 ^ 32 else x / 2 ^ n % 2 ^ 32

/-! R240 to R243 -/
def fieldPos (b : Nat) : Nat := min (b % 256) 32
def fieldLen (b : Nat) : Nat := min (b / 256 % 256) (32 - fieldPos b)
def aluBfx (m : BitVec 8) (a b : Nat) : Nat :=
  let l := fieldLen b
  let f := a / 2 ^ fieldPos b % 2 ^ l
  if l = 0 then 0 else if m.getLsbD 0 then f else wrapInt 32 (sext l f)
def aluBfi (a b c : Nat) : Nat :=
  let p := fieldPos b
  let l := fieldLen b
  c % 2 ^ p + a % 2 ^ l * 2 ^ p + c / 2 ^ (p + l) * 2 ^ (p + l)
def bitsOf (n x : Nat) : List Bool := (List.range n).map (bit x)
def aluPopc (a : Nat) : Nat := ((bitsOf 32 a).filter id).length
def aluClz (a : Nat) : Nat := if a % 2 ^ 32 = 0 then 32 else 31 - Nat.log2 (a % 2 ^ 32)
def aluCtz (a : Nat) : Nat := ((bitsOf 32 a).takeWhile not).length
def aluBrev (a : Nat) : Nat := ofBits (bitsOf 32 a).reverse
def aluBzip2 (a b : Nat) : Nat := ofBits ((List.range 16).flatMap fun i => [bit a i, bit b i])
def aluBzip3 (a b c : Nat) : Nat := ofBits ((List.range 10).flatMap fun i => [bit a i, bit b i, bit c i])
def aluBunzip2 (k a : Nat) : Nat := ofBits ((List.range 16).map fun i => bit a (2 * i + k))
def aluBunzip3 (k a : Nat) : Nat := ofBits ((List.range 10).map fun i => bit a (3 * i + k))
def aluByteperm (a b c : Nat) : Nat :=
  let x := a + 2 ^ 32 * c
  (List.range 4).foldr (fun j d =>
    let n := b / 2 ^ (4 * j) % 16
    let y := x / 2 ^ (8 * (n % 8)) % 256
    (if n < 8 then y else if 128 ≤ y then 255 else 0) + 256 * d) 0

/-! R244, R245 -/
def aluIadd64 (m : BitVec 8) (a b : Nat) : Nat := fit 64 m (extM 64 m a + extM 64 m b)
def aluShr64 (m : BitVec 8) (a b : Nat) : Nat :=
  if m.getLsbD 1 then aluSar 64 (m.getLsbD 0) a b else aluShr 64 (m.getLsbD 0) a b
def aluLea (m : BitVec 8) (a b : Nat) : Nat := wrapInt 64 (a + extM 32 m b * (2 ^ mbits m 3 1 : Nat))

/-- An integer operation: no sticky flag (R224). -/
def runInt (o : Op) (s : State) (g : BitVec 8 → Nat → Nat → Nat → Nat) : Host.Outcome State Fault Refusal :=
  runAlu o s fun f a b c => (g f.m a b c, 0)

/-! The meanings. Each takes its entry's opcode: the one-word slot, or 0x80 above it for two words (R165). -/

/-- NOP (R228). -/
def opNop (o : Op) (s : State) : Host.Outcome State Fault Refusal := runLanes o s fun _ _ s => (s, .done)

/-- MOVI (R231). -/
def opMovi (op : Nat) (d : Opd) (v : Nat) (s : State) : Host.Outcome State Fault Refusal :=
  runAlu { e := .literal 0 op, f := .dst d } s fun _ _ _ _ => (v, 0)

/-- Which of D, A, B, C an ALU operation uses, by the operand columns of its encoding table (R226, R250, R287); CVTUNPK
uses B when its scale bit is set (R266). -/
def usedOperands (op : Nat) (scaled : Bool) : List Bool :=
  [op != 0x00 && op != 0x05, op != 0x00,
   !(List.contains [0x00, 0x02, 0x04, 0x1A, 0x24, 0x32, 0x33, 0x34, 0x35, 0x38, 0x39, 0x57, 0x58, 0x59, 0x5B, 0x5C, 0x70, 0x78, 0x79,
     0x7A, 0x7C] op) && (op != 0x72 || scaled),
   [0x12, 0x13, 0x16, 0x17, 0x1C, 0x25, 0x2A, 0x31, 0x37, 0x3A, 0x53, 0x62, 0x65, 0x66, 0x6A, 0x70, 0x71, 0x72].contains op]

/-- The word that follows in the clause may not be repeated with these steps (R175): it is missing or a REP, a step names an
operand that it does not use, or a code that is no register; MOVI uses D alone, and its other bytes are the literal. -/
def repBreach (cl : Clause) (steps : List Bool) : Bool :=
  match cl.words[cl.pos + 1]? with
  | none => true
  | some w =>
    let op := (w.extractLsb' 24 8).toNat
    if op = 0x7F then false
    else if op = 0x01 then true
    else
      let two := decide (0x80 ≤ op)
      let v := if two then cl.words.getD (cl.pos + 2) 0 else 0xF0000000#32
      let movi := op = 0x03 || op = 0x83
      let codes := [w.extractLsb' 16 8, w.extractLsb' 8 8, w.extractLsb' 0 8, v.extractLsb' 24 8]
      if movi then (steps.drop 1).any id || (steps.headD false && decide (0xF0 ≤ (w.extractLsb' 16 8).toNat))
      else ((steps.zip codes).any fun (st, c) => st && decide (0xF0 ≤ c.toNat)) ||
        (steps.zip (usedOperands (op % 128) (v.getLsbD 1))).any fun (st, u) => st && !u

def execNop (f : F1) (s : State) : Host.Outcome State Fault Refusal := opNop { e := .nop 0x00 f.widen, f := f.widen } s
def execNopW2 (f : F2) (s : State) : Host.Outcome State Fault Refusal := opNop { e := .nop 0x80 f, f := f } s
/-- MOV (R230). -/
def opMov (op : Nat) (f : F2) (s : State) : Host.Outcome State Fault Refusal :=
  runInt { e := .mov op f, f := f } s fun _ a _ _ => a
def execMov (f : F1) (s : State) : Host.Outcome State Fault Refusal := opMov 0x02 f.widen s
def execMovW2 (f : F2) (s : State) : Host.Outcome State Fault Refusal := opMov 0x82 f s
/-- IADD (R233). -/
def opIadd (op : Nat) (f : F2) (s : State) : Host.Outcome State Fault Refusal :=
  runInt { e := .iadd op f, f := f } s fun m a b _ => aluIadd m a b
def execIadd (f : F1) (s : State) : Host.Outcome State Fault Refusal := opIadd 0x10 f.widen s
def execIaddW2 (f : F2) (s : State) : Host.Outcome State Fault Refusal := opIadd 0x90 f s
/-- ISUB (R233). -/
def opIsub (op : Nat) (f : F2) (s : State) : Host.Outcome State Fault Refusal :=
  runInt { e := .isub op f, f := f } s fun m a b _ => aluIsub m a b
def execIsub (f : F1) (s : State) : Host.Outcome State Fault Refusal := opIsub 0x11 f.widen s
def execIsubW2 (f : F2) (s : State) : Host.Outcome State Fault Refusal := opIsub 0x91 f s
/-- IADD3 (R233). -/
def opIadd3 (op : Nat) (f : F2) (s : State) : Host.Outcome State Fault Refusal :=
  runInt { e := .iadd3 op f, f := f } s fun m a b c => aluIadd3 m a b c
def execIadd3 (f : F2) (s : State) : Host.Outcome State Fault Refusal := opIadd3 0x92 f s
/-- IADDCO (R234). -/
def opIaddco (op : Nat) (f : F2) (s : State) : Host.Outcome State Fault Refusal :=
  runInt { e := .iaddco op f, f := f } s fun _ a b c => aluIaddco a b c
def execIaddco (f : F2) (s : State) : Host.Outcome State Fault Refusal := opIaddco 0x93 f s
/-- IMUL (R233). -/
def opImul (op : Nat) (f : F2) (s : State) : Host.Outcome State Fault Refusal :=
  runInt { e := .imul op f, f := f } s fun m a b _ => aluImul m a b
def execImul (f : F1) (s : State) : Host.Outcome State Fault Refusal := opImul 0x14 f.widen s
def execImulW2 (f : F2) (s : State) : Host.Outcome State Fault Refusal := opImul 0x94 f s
/-- IMULHI (R233). -/
def opImulhi (op : Nat) (f : F2) (s : State) : Host.Outcome State Fault Refusal :=
  runInt { e := .imulhi op f, f := f } s fun m a b _ => aluImulhi m a b
def execImulhi (f : F1) (s : State) : Host.Outcome State Fault Refusal := opImulhi 0x15 f.widen s
def execImulhiW2 (f : F2) (s : State) : Host.Outcome State Fault Refusal := opImulhi 0x95 f s
/-- IMAD (R233). -/
def opImad (op : Nat) (f : F2) (s : State) : Host.Outcome State Fault Refusal :=
  runInt { e := .imad op f, f := f } s fun m a b c => aluImad m a b c
def execImad (f : F2) (s : State) : Host.Outcome State Fault Refusal := opImad 0x96 f s
/-- IMADWIDE (R235). -/
def opImadwide (op : Nat) (f : F2) (s : State) : Host.Outcome State Fault Refusal :=
  runInt { e := .imadwide op f, f := f } s fun m a b c => aluImadwide m a b c
def execImadwide (f : F2) (s : State) : Host.Outcome State Fault Refusal := opImadwide 0x97 f s
/-- IMIN (R233). -/
def opImin (op : Nat) (f : F2) (s : State) : Host.Outcome State Fault Refusal :=
  runInt { e := .imin op f, f := f } s fun m a b _ => aluImin m a b
def execImin (f : F1) (s : State) : Host.Outcome State Fault Refusal := opImin 0x18 f.widen s
def execIminW2 (f : F2) (s : State) : Host.Outcome State Fault Refusal := opImin 0x98 f s
/-- IMAX (R233). -/
def opImax (op : Nat) (f : F2) (s : State) : Host.Outcome State Fault Refusal :=
  runInt { e := .imax op f, f := f } s fun m a b _ => aluImax m a b
def execImax (f : F1) (s : State) : Host.Outcome State Fault Refusal := opImax 0x19 f.widen s
def execImaxW2 (f : F2) (s : State) : Host.Outcome State Fault Refusal := opImax 0x99 f s
/-- IABS (R233). -/
def opIabs (op : Nat) (f : F2) (s : State) : Host.Outcome State Fault Refusal :=
  runInt { e := .iabs op f, f := f } s fun m a _ _ => aluIabs m a
def execIabs (f : F1) (s : State) : Host.Outcome State Fault Refusal := opIabs 0x1A f.widen s
def execIabsW2 (f : F2) (s : State) : Host.Outcome State Fault Refusal := opIabs 0x9A f s
/-- ICMP (R236). -/
def opIcmp (op : Nat) (f : F2) (s : State) : Host.Outcome State Fault Refusal :=
  runInt { e := .icmp op f, f := f } s fun m a b _ => aluIcmp m a b
def execIcmp (f : F1) (s : State) : Host.Outcome State Fault Refusal := opIcmp 0x1B f.widen s
def execIcmpW2 (f : F2) (s : State) : Host.Outcome State Fault Refusal := opIcmp 0x9B f s
/-- SEL (R233). -/
def opSel (op : Nat) (f : F2) (s : State) : Host.Outcome State Fault Refusal :=
  runInt { e := .sel op f, f := f } s fun _ a b c => aluSel a b c
def execSel (f : F2) (s : State) : Host.Outcome State Fault Refusal := opSel 0x9C f s
/-- AND (R237). -/
def opAnd (op : Nat) (f : F2) (s : State) : Host.Outcome State Fault Refusal :=
  runInt { e := .and op f, f := f } s fun _ a b _ => a &&& b
def execAnd (f : F1) (s : State) : Host.Outcome State Fault Refusal := opAnd 0x20 f.widen s
def execAndW2 (f : F2) (s : State) : Host.Outcome State Fault Refusal := opAnd 0xA0 f s
/-- OR (R237). -/
def opOr (op : Nat) (f : F2) (s : State) : Host.Outcome State Fault Refusal :=
  runInt { e := .or op f, f := f } s fun _ a b _ => a ||| b
def execOr (f : F1) (s : State) : Host.Outcome State Fault Refusal := opOr 0x21 f.widen s
def execOrW2 (f : F2) (s : State) : Host.Outcome State Fault Refusal := opOr 0xA1 f s
/-- XOR (R237). -/
def opXor (op : Nat) (f : F2) (s : State) : Host.Outcome State Fault Refusal :=
  runInt { e := .xor op f, f := f } s fun _ a b _ => a ^^^ b
def execXor (f : F1) (s : State) : Host.Outcome State Fault Refusal := opXor 0x22 f.widen s
def execXorW2 (f : F2) (s : State) : Host.Outcome State Fault Refusal := opXor 0xA2 f s
/-- ANDN (R237). -/
def opAndn (op : Nat) (f : F2) (s : State) : Host.Outcome State Fault Refusal :=
  runInt { e := .andn op f, f := f } s fun _ a b _ => aluAndn a b
def execAndn (f : F1) (s : State) : Host.Outcome State Fault Refusal := opAndn 0x23 f.widen s
def execAndnW2 (f : F2) (s : State) : Host.Outcome State Fault Refusal := opAndn 0xA3 f s
/-- NOT (R237). -/
def opNot (op : Nat) (f : F2) (s : State) : Host.Outcome State Fault Refusal :=
  runInt { e := .not op f, f := f } s fun _ a _ _ => aluNot a
def execNot (f : F1) (s : State) : Host.Outcome State Fault Refusal := opNot 0x24 f.widen s
def execNotW2 (f : F2) (s : State) : Host.Outcome State Fault Refusal := opNot 0xA4 f s
/-- LOP3 (R237). -/
def opLop3 (op : Nat) (f : F2) (s : State) : Host.Outcome State Fault Refusal :=
  runInt { e := .lop3 op f, f := f } s fun m a b c => aluLop3 m a b c
def execLop3 (f : F2) (s : State) : Host.Outcome State Fault Refusal := opLop3 0xA5 f s
/-- SHL (R238). -/
def opShl (op : Nat) (f : F2) (s : State) : Host.Outcome State Fault Refusal :=
  runInt { e := .shl op f, f := f } s fun m a b _ => aluShl 32 (m.getLsbD 0) a b
def execShl (f : F1) (s : State) : Host.Outcome State Fault Refusal := opShl 0x26 f.widen s
def execShlW2 (f : F2) (s : State) : Host.Outcome State Fault Refusal := opShl 0xA6 f s
/-- SHR (R238). -/
def opShr (op : Nat) (f : F2) (s : State) : Host.Outcome State Fault Refusal :=
  runInt { e := .shr op f, f := f } s fun m a b _ => aluShr 32 (m.getLsbD 0) a b
def execShr (f : F1) (s : State) : Host.Outcome State Fault Refusal := opShr 0x27 f.widen s
def execShrW2 (f : F2) (s : State) : Host.Outcome State Fault Refusal := opShr 0xA7 f s
/-- SAR (R238). -/
def opSar (op : Nat) (f : F2) (s : State) : Host.Outcome State Fault Refusal :=
  runInt { e := .sar op f, f := f } s fun m a b _ => aluSar 32 (m.getLsbD 0) a b
def execSar (f : F1) (s : State) : Host.Outcome State Fault Refusal := opSar 0x28 f.widen s
def execSarW2 (f : F2) (s : State) : Host.Outcome State Fault Refusal := opSar 0xA8 f s
/-- ROTL (R238). -/
def opRotl (op : Nat) (f : F2) (s : State) : Host.Outcome State Fault Refusal :=
  runInt { e := .rotl op f, f := f } s fun _ a b _ => aluRotl a b
def execRotl (f : F1) (s : State) : Host.Outcome State Fault Refusal := opRotl 0x29 f.widen s
def execRotlW2 (f : F2) (s : State) : Host.Outcome State Fault Refusal := opRotl 0xA9 f s
/-- FUNNEL (R239). -/
def opFunnel (op : Nat) (f : F2) (s : State) : Host.Outcome State Fault Refusal :=
  runInt { e := .funnel op f, f := f } s fun m a b c => aluFunnel m a b c
def execFunnel (f : F2) (s : State) : Host.Outcome State Fault Refusal := opFunnel 0xAA f s
/-- BFX (R240). -/
def opBfx (op : Nat) (f : F2) (s : State) : Host.Outcome State Fault Refusal :=
  runInt { e := .bfx op f, f := f } s fun m a b _ => aluBfx m a b
def execBfx (f : F1) (s : State) : Host.Outcome State Fault Refusal := opBfx 0x30 f.widen s
def execBfxW2 (f : F2) (s : State) : Host.Outcome State Fault Refusal := opBfx 0xB0 f s
/-- BFI (R240). -/
def opBfi (op : Nat) (f : F2) (s : State) : Host.Outcome State Fault Refusal :=
  runInt { e := .bfi op f, f := f } s fun _ a b c => aluBfi a b c
def execBfi (f : F2) (s : State) : Host.Outcome State Fault Refusal := opBfi 0xB1 f s
/-- POPC (R241). -/
def opPopc (op : Nat) (f : F2) (s : State) : Host.Outcome State Fault Refusal :=
  runInt { e := .popc op f, f := f } s fun _ a _ _ => aluPopc a
def execPopc (f : F1) (s : State) : Host.Outcome State Fault Refusal := opPopc 0x32 f.widen s
def execPopcW2 (f : F2) (s : State) : Host.Outcome State Fault Refusal := opPopc 0xB2 f s
/-- CLZ (R241). -/
def opClz (op : Nat) (f : F2) (s : State) : Host.Outcome State Fault Refusal :=
  runInt { e := .clz op f, f := f } s fun _ a _ _ => aluClz a
def execClz (f : F1) (s : State) : Host.Outcome State Fault Refusal := opClz 0x33 f.widen s
def execClzW2 (f : F2) (s : State) : Host.Outcome State Fault Refusal := opClz 0xB3 f s
/-- CTZ (R241). -/
def opCtz (op : Nat) (f : F2) (s : State) : Host.Outcome State Fault Refusal :=
  runInt { e := .ctz op f, f := f } s fun _ a _ _ => aluCtz a
def execCtz (f : F1) (s : State) : Host.Outcome State Fault Refusal := opCtz 0x34 f.widen s
def execCtzW2 (f : F2) (s : State) : Host.Outcome State Fault Refusal := opCtz 0xB4 f s
/-- BREV (R241). -/
def opBrev (op : Nat) (f : F2) (s : State) : Host.Outcome State Fault Refusal :=
  runInt { e := .brev op f, f := f } s fun _ a _ _ => aluBrev a
def execBrev (f : F1) (s : State) : Host.Outcome State Fault Refusal := opBrev 0x35 f.widen s
def execBrevW2 (f : F2) (s : State) : Host.Outcome State Fault Refusal := opBrev 0xB5 f s
/-- BZIP2 (R242). -/
def opBzip2 (op : Nat) (f : F2) (s : State) : Host.Outcome State Fault Refusal :=
  runInt { e := .bzip2 op f, f := f } s fun _ a b _ => aluBzip2 a b
def execBzip2 (f : F1) (s : State) : Host.Outcome State Fault Refusal := opBzip2 0x36 f.widen s
def execBzip2W2 (f : F2) (s : State) : Host.Outcome State Fault Refusal := opBzip2 0xB6 f s
/-- BZIP3 (R242). -/
def opBzip3 (op : Nat) (f : F2) (s : State) : Host.Outcome State Fault Refusal :=
  runInt { e := .bzip3 op f, f := f } s fun _ a b c => aluBzip3 a b c
def execBzip3 (f : F1) (s : State) : Host.Outcome State Fault Refusal := opBzip3 0x37 f.widen s
def execBzip3W2 (f : F2) (s : State) : Host.Outcome State Fault Refusal := opBzip3 0xB7 f s
/-- BUNZIP2 (R242). -/
def opBunzip2 (op : Nat) (f : F2) (s : State) : Host.Outcome State Fault Refusal :=
  runInt { e := .bunzip2 op f, f := f } s fun m a _ _ => aluBunzip2 (mbits m 0 0) a
def execBunzip2 (f : F1) (s : State) : Host.Outcome State Fault Refusal := opBunzip2 0x38 f.widen s
def execBunzip2W2 (f : F2) (s : State) : Host.Outcome State Fault Refusal := opBunzip2 0xB8 f s
/-- BUNZIP3 (R242). -/
def opBunzip3 (op : Nat) (f : F2) (s : State) : Host.Outcome State Fault Refusal :=
  runInt { e := .bunzip3 op f, f := f } s fun m a _ _ => aluBunzip3 (mbits m 1 0) a
def execBunzip3 (f : F1) (s : State) : Host.Outcome State Fault Refusal := opBunzip3 0x39 f.widen s
def execBunzip3W2 (f : F2) (s : State) : Host.Outcome State Fault Refusal := opBunzip3 0xB9 f s
/-- BYTEPERM (R243). -/
def opByteperm (op : Nat) (f : F2) (s : State) : Host.Outcome State Fault Refusal :=
  runInt { e := .byteperm op f, f := f } s fun _ a b c => aluByteperm a b c
def execByteperm (f : F1) (s : State) : Host.Outcome State Fault Refusal := opByteperm 0x3A f.widen s
def execBytepermW2 (f : F2) (s : State) : Host.Outcome State Fault Refusal := opByteperm 0xBA f s
/-- IADD64 (R244). -/
def opIadd64 (op : Nat) (f : F2) (s : State) : Host.Outcome State Fault Refusal :=
  runInt { e := .iadd64 op f, f := f } s fun m a b _ => aluIadd64 m a b
def execIadd64 (f : F1) (s : State) : Host.Outcome State Fault Refusal := opIadd64 0x40 f.widen s
def execIadd64W2 (f : F2) (s : State) : Host.Outcome State Fault Refusal := opIadd64 0xC0 f s
/-- SHL64 (R244). -/
def opShl64 (op : Nat) (f : F2) (s : State) : Host.Outcome State Fault Refusal :=
  runInt { e := .shl64 op f, f := f } s fun m a b _ => aluShl 64 (m.getLsbD 0) a b
def execShl64 (f : F1) (s : State) : Host.Outcome State Fault Refusal := opShl64 0x41 f.widen s
def execShl64W2 (f : F2) (s : State) : Host.Outcome State Fault Refusal := opShl64 0xC1 f s
/-- SHR64 (R244). -/
def opShr64 (op : Nat) (f : F2) (s : State) : Host.Outcome State Fault Refusal :=
  runInt { e := .shr64 op f, f := f } s fun m a b _ => aluShr64 m a b
def execShr64 (f : F1) (s : State) : Host.Outcome State Fault Refusal := opShr64 0x42 f.widen s
def execShr64W2 (f : F2) (s : State) : Host.Outcome State Fault Refusal := opShr64 0xC2 f s
/-- LEA (R245). -/
def opLea (op : Nat) (f : F2) (s : State) : Host.Outcome State Fault Refusal :=
  runInt { e := .lea op f, f := f } s fun m a b _ => aluLea m a b
def execLea (f : F1) (s : State) : Host.Outcome State Fault Refusal := opLea 0x43 f.widen s
def execLeaW2 (f : F2) (s : State) : Host.Outcome State Fault Refusal := opLea 0xC3 f s

/-- MOVI, one word: the sign-extended 16-bit literal (R231). -/
def execMovi (d : Opd) (imm : BitVec 16) (s : State) : Host.Outcome State Fault Refusal :=
  opMovi 0x03 d (imm.signExtend 32).toNat s
/-- MOVI, two words: the literal of word 1 (R231). -/
def execMoviW2 (d : Opd) (imm : BitVec 32) (s : State) : Host.Outcome State Fault Refusal := opMovi 0x83 d imm.toNat s

/-- RGET: a register of the executing lane by computed index (R232). -/
def opRget (op : Nat) (f : F2) (s : State) : Host.Outcome State Fault Refusal :=
  runLanes { e := .rget op f, f := f } s fun _ v s =>
    let n := s.nregsOf v.who
    let l := s.laneOf v.who
    if n ≤ v.a || (v.prot && n ≤ v.a') then (s, .fault { code := 0x05 })
    else (s, .ok (l.regs.get 0 v.a).toNat (l.shadow.get 0 v.a').toNat 0 0)
def execRget (f : F1) (s : State) : Host.Outcome State Fault Refusal := opRget 0x04 f.widen s
def execRgetW2 (f : F2) (s : State) : Host.Outcome State Fault Refusal := opRget 0x84 f s

/-- RPUT: writes a register of the executing lane by computed index (R232). -/
def opRput (op : Nat) (f : F2) (s : State) : Host.Outcome State Fault Refusal :=
  runLanes { e := .rput op f, f := f } s fun _ v s =>
    let n := s.nregsOf v.who
    if n ≤ v.a || (v.prot && n ≤ v.a') then (s, .fault { code := 0x05 })
    else
      (s.modLaneOf v.who fun l =>
        { l with
          regs := l.regs.put 0 v.a (BitVec.ofNat 32 v.b)
          shadow := if v.prot then l.shadow.put 0 v.a' (BitVec.ofNat 32 v.b') else l.shadow }, .done)
def execRput (f : F1) (s : State) : Host.Outcome State Fault Refusal := opRput 0x05 f.widen s
def execRputW2 (f : F2) (s : State) : Host.Outcome State Fault Refusal := opRput 0x85 f s

/-- REP (R173 to R175, R229): opens the repeats of the next instruction of the clause. -/
def execRep (count : BitVec 6) (sd sa sb sc : Bool) (stride : BitVec 2) (s : State) : Host.Outcome State Fault Refusal :=
  let breach := match agentsOf s with
    | some (_, cl) => repBreach cl [sd, sa, sb, sc]
    | none => false
  runLanes { e := .bare 0 0x01, f := .none } s (fun _ _ s => (s, if breach then .fault .illegal else .done))
    (opens := some { idx := 0, count := count.toNat + 1, sd := sd, sa := sa, sb := sb, sc := sc, stride := 2 ^ stride.toNat })

end Sys2Proof.Machine
end

