-- ==== Sys2Proof/Machine/FloatOps.lean ====
section
/-! DEFINITION. The floating-point, conversion and special-function instructions (R246 to R267): SAT in [3] and MODE in
[2:0] of most modifiers (R247). -/

namespace Sys2Proof.Machine

/-- MODE and SAT of R247. -/
def mode (m : BitVec 8) : Nat := mbits m 2 0
def sat (m : BitVec 8) : Bool := m.getLsbD 3

/-! R252, R261 -/
def fpAdd (k : Fmt) (m : BitVec 8) (a b : Nat) : Nat × FlagSet :=
  fused [(decodeNum k a, .one)] (some (decodeNum k b)) k (mode m) (sat m)
def fpSub (k : Fmt) (m : BitVec 8) (a b : Nat) : Nat × FlagSet :=
  fused [(decodeNum k a, .one)] (some (decodeNum k b).negate) k (mode m) (sat m)
def fpMul (k : Fmt) (m : BitVec 8) (a b : Nat) : Nat × FlagSet :=
  fused [(decodeNum k a, decodeNum k b)] none k (mode m) (sat m)
def fpFma (k : Fmt) (m : BitVec 8) (a b c : Nat) : Nat × FlagSet :=
  fused [(decodeNum k a, decodeNum k b)] (some (decodeNum k c)) k (mode m) (sat m)
/-- FCMP and DCMP (R254). -/
def fpCmp (k : Fmt) (m : BitVec 8) (a b : Nat) : Nat × FlagSet :=
  let (c, fl) := floatCmp k (mode m) a b
  (if c then 2 ^ 32 - 1 else 0, fl)

/-- FCLASS (R255). -/
def fpClass (a : Nat) : Nat :=
  match decodeNum .f32 a with
  | .nan true => 2 ^ 8
  | .nan false => 2 ^ 9
  | .inf s => if s then 2 ^ 0 else 2 ^ 7
  | .fin s m _ => if m = 0 then (if s then 2 ^ 3 else 2 ^ 4)
    else if m < 2 ^ 23 then (if s then 2 ^ 2 else 2 ^ 5) else (if s then 2 ^ 1 else 2 ^ 6)

/-- FRND (R256). -/
def fpRnd (m : BitVec 8) (a : Nat) : Nat × FlagSet :=
  match decodeNum .f32 a with
  | .nan s => (0x7FC00000, FlagSet.when s FlagSet.invalid)
  | .inf _ => (a, 0)
  | .fin s n e => if n = 0 then (a, 0) else
    let v := (rintMag (mode m) s n e).1
    (if v = 0 then signCode .f32 s 0 else roundNe .f32 (.fin s v 0), 0)

/-- FFRACT (R256). -/
def fpFract (a : Nat) : Nat × FlagSet :=
  match decodeNum .f32 a with
  | .nan s => (0x7FC00000, FlagSet.when s FlagSet.invalid)
  | .inf _ => (0x7FC00000, FlagSet.invalid)
  | .fin s n e =>
    if 0 ≤ e || n = 0 then (0, 0) else
    let u := 2 ^ (-e).toNat
    let r := if s then (u - n % u) % u else n % u
    if r = 0 then (0, 0) else
    let (c, fl) := roundMag .f32 0 false 0 false r e false
    (min c 0x3F7FFFFF, fl)

/-- FSCALE (R257); beyond ±1,000 the exponent only overflows or underflows. -/
def fpScale (m : BitVec 8) (a b : Nat) : Nat × FlagSet :=
  match decodeNum .f32 a with
  | .nan s => (0x7FC00000, FlagSet.when s FlagSet.invalid)
  | .inf _ => (a, 0)
  | .fin s n e => if n = 0 then (a, 0) else
    roundMag .f32 (mode m) (sat m) 0 s n (e + max (-1000) (min 1000 (sext 32 b))) false

/-- FGETEXP (R257). -/
def fpGetexp (a : Nat) : Nat × FlagSet :=
  match decodeNum .f32 a with
  | .nan s => (0x7FC00000, FlagSet.when s FlagSet.invalid)
  | .inf _ => (0x7F800000, 0)
  | .fin _ n e => if n = 0 then (0xFF800000, FlagSet.divZero)
    else (roundNe .f32 (.ofInt ((Nat.log2 n : Int) + e)), 0)

/-- FGETMAN (R257). -/
def fpGetman (a : Nat) : Nat × FlagSet :=
  match decodeNum .f32 a with
  | .nan s => (0x7FC00000, FlagSet.when s FlagSet.invalid)
  | .inf _ => (0x7FC00000, FlagSet.invalid)
  | .fin s n _ => if n = 0 then (a, 0) else (roundNe .f32 (.fin s n (-(Nat.log2 n : Int))), 0)

/-! Packed pairs and dot products (R258 to R260) -/

/-- Element e of a packed word, w bits wide (R85). -/
def elem (w e x : Nat) : Nat := x / 2 ^ (w * e) % 2 ^ w
/-- TYPE of R247: .f16 or .bf16. -/
def pairFmt (m : BitVec 8) : Fmt := if m.getLsbD 4 then .bf16 else .f16
/-- Applies an operation to both elements; the flags join. -/
def onPairs (g : Nat → Nat → Nat → Nat × FlagSet) (a b c : Nat) : Nat × FlagSet :=
  let (x, fl) := g (elem 16 0 a) (elem 16 0 b) (elem 16 0 c)
  let (y, fl') := g (elem 16 1 a) (elem 16 1 b) (elem 16 1 c)
  (x + 2 ^ 16 * y, fl ||| fl')
/-- DOT2 (R259): the whole product rounds once. -/
def fpDot2 (m : BitVec 8) (a b c : Nat) : Nat × FlagSet :=
  let d := fun x e => decodeNum (pairFmt m) (elem 16 e x)
  fused [(d a 0, d b 0), (d a 1, d b 1)] (some (decodeNum .f32 c)) .f32 (mode m) (sat m)
/-- DOT4 (R260): floats in one fused sum, integers exactly. -/
def fpDot4 (m : BitVec 8) (a b c : Nat) : Nat × FlagSet :=
  let ta := mbits m 3 2
  let tb := mbits m 1 0
  if ta < 2 then
    let d := fun t x e => decodeNum (if t = 0 then .e4m3 else .e5m2) (elem 8 e x)
    fused ((List.range 4).map fun e => (d ta a e, d tb b e)) (some (decodeNum .f32 c)) .f32 (mbits m 5 4) (m.getLsbD 6)
  else
    let d := fun t x e => ext 8 (t == 3) (elem 8 e x)
    let x := (List.range 4).foldl (fun n e => n + d ta a e * d tb b e) (sext 32 c)
    (if m.getLsbD 6 then satInt 32 false x else wrapInt 32 x, 0)

/-! Conversions under a rounding control word (R263 to R266) -/

/-- The control word is legal (R263); sr tells whether the targets take stochastic rounding. -/
def rcOk (c : Nat) (sr : Bool) : Bool :=
  bits c 15 4 == 0 && bits c 2 0 ≤ 4 && (bits c 2 0 != 4 || (sr && bits c 31 16 != 0xFFFF))

/-- A conversion step: checks the control word of both copies, draws one block under .sr, and applies g to the mode, the
saturation, the block and the operand values (a, b, old D). -/
def runCvt (o : Op) (s : State) (sr : Bool) (g : Nat → Bool → Nat → Nat → Nat → Nat → Nat × FlagSet) :
    Host.Outcome State Fault Refusal :=
  runLanes o s fun _ v s =>
    if !rcOk v.c sr || (v.prot && !rcOk v.c' sr) then (s, .fault .illegal) else
    let l := s.laneOf v.who
    let old := fun sh => s.operand v.who l sh v.f.d v.e.dw
    let (block, s1) := if bits v.c 2 0 = 4 then s.millDraw v.who (bits v.c 31 16) else (0, s)
    let (d, fl) := g (bits v.c 2 0) (bit v.c 3) block v.a v.b (old false)
    let (d', fl') := if v.prot then g (bits v.c' 2 0) (bit v.c' 3) block v.a' v.b' (old true) else (0, 0)
    (s1, .ok d d' fl fl')

/-- CVT (R264). -/
def execCvt (f : F2) (s : State) : Host.Outcome State Fault Refusal :=
  let tgt := Fmt.ofTarget (mbits f.m 7 4)
  runCvt { e := .cvt 0xF0 f, f := f } s tgt.isFloat fun md st block a _ _ =>
    convert (Fmt.ofSource (mbits f.m 3 0)) tgt md st (srBits block 0) a

/-- CVTPK (R265): D is a source for targets narrower than 16 bits. -/
def execCvtpk (f : F2) (s : State) : Host.Outcome State Fault Refusal :=
  let tgt := Fmt.ofTarget (mbits f.m 7 4)
  let w := tgt.bits
  let pos := mbits f.m 3 2
  runCvt { e := .cvtpk 0xF1 f, f := f, dRead := w != 16 } s true fun md st block a b old =>
    let (y0, fl0) := toFloat tgt md st (srBits block 0) (decodeNum .f32 a)
    let (y1, fl1) := toFloat tgt md st (srBits block 1) (decodeNum .f32 b)
    let lo := 2 * pos * w
    let keep := if w = 16 then 0 else old % 2 ^ lo + old / 2 ^ (lo + 2 * w) * 2 ^ (lo + 2 * w)
    (keep + y0 * 2 ^ lo + y1 * 2 ^ (lo + w), fl0 ||| fl1)

/-- CVTUNPK (R266). -/
def execCvtunpk (f : F2) (s : State) : Host.Outcome State Fault Refusal :=
  let k := Fmt.ofTarget (mbits f.m 7 4)
  let pos := mbits f.m 3 2
  let sc := f.m.getLsbD 1
  runCvt { e := .cvtunpk 0xF2 f, f := f } s true fun md st block a b _ =>
    let one := fun e =>
      let x := decodeNum k (elem k.bits (2 * pos + e) a)
      let fl := nanFlag x
      if !sc then (roundNe .f32 x, fl)
      else if b % 256 = 255 then (0x7FC00000, fl)
      else
        let (y, g) := roundNum .f32 md st (srBits block e) (x.scale ((b % 256 : Nat) - 127))
        (y, fl ||| g)
    ((one 0).1 + 2 ^ 32 * (one 1).1, (one 0).2 ||| (one 1).2)

/-! The meanings by entry -/

/-- FADD. -/
def opFadd (op : Nat) (f : F2) (s : State) : Host.Outcome State Fault Refusal :=
  runAlu { e := .fadd op f, f := f } s fun f a b _ => fpAdd .f32 f.m a b
def execFadd (f : F1) (s : State) : Host.Outcome State Fault Refusal := opFadd 0x50 f.widen s
def execFaddW2 (f : F2) (s : State) : Host.Outcome State Fault Refusal := opFadd 0xD0 f s
/-- FSUB. -/
def opFsub (op : Nat) (f : F2) (s : State) : Host.Outcome State Fault Refusal :=
  runAlu { e := .fsub op f, f := f } s fun f a b _ => fpSub .f32 f.m a b
def execFsub (f : F1) (s : State) : Host.Outcome State Fault Refusal := opFsub 0x51 f.widen s
def execFsubW2 (f : F2) (s : State) : Host.Outcome State Fault Refusal := opFsub 0xD1 f s
/-- FMUL. -/
def opFmul (op : Nat) (f : F2) (s : State) : Host.Outcome State Fault Refusal :=
  runAlu { e := .fmul op f, f := f } s fun f a b _ => fpMul .f32 f.m a b
def execFmul (f : F1) (s : State) : Host.Outcome State Fault Refusal := opFmul 0x52 f.widen s
def execFmulW2 (f : F2) (s : State) : Host.Outcome State Fault Refusal := opFmul 0xD2 f s
/-- FFMA. -/
def opFfma (op : Nat) (f : F2) (s : State) : Host.Outcome State Fault Refusal :=
  runAlu { e := .ffma op f, f := f } s fun f a b c => fpFma .f32 f.m a b c
def execFfma (f : F2) (s : State) : Host.Outcome State Fault Refusal := opFfma 0xD3 f s
/-- FMIN. -/
def opFmin (op : Nat) (f : F2) (s : State) : Host.Outcome State Fault Refusal :=
  runAlu { e := .fmin op f, f := f } s fun _ a b _ => minMax .f32 false a b
def execFmin (f : F1) (s : State) : Host.Outcome State Fault Refusal := opFmin 0x54 f.widen s
def execFminW2 (f : F2) (s : State) : Host.Outcome State Fault Refusal := opFmin 0xD4 f s
/-- FMAX. -/
def opFmax (op : Nat) (f : F2) (s : State) : Host.Outcome State Fault Refusal :=
  runAlu { e := .fmax op f, f := f } s fun _ a b _ => minMax .f32 true a b
def execFmax (f : F1) (s : State) : Host.Outcome State Fault Refusal := opFmax 0x55 f.widen s
def execFmaxW2 (f : F2) (s : State) : Host.Outcome State Fault Refusal := opFmax 0xD5 f s
/-- FCMP. -/
def opFcmp (op : Nat) (f : F2) (s : State) : Host.Outcome State Fault Refusal :=
  runAlu { e := .fcmp op f, f := f } s fun f a b _ => fpCmp .f32 f.m a b
def execFcmp (f : F1) (s : State) : Host.Outcome State Fault Refusal := opFcmp 0x56 f.widen s
def execFcmpW2 (f : F2) (s : State) : Host.Outcome State Fault Refusal := opFcmp 0xD6 f s
/-- FCLASS. -/
def opFclass (op : Nat) (f : F2) (s : State) : Host.Outcome State Fault Refusal :=
  runAlu { e := .fclass op f, f := f } s fun _ a _ _ => (fpClass a, 0)
def execFclass (f : F1) (s : State) : Host.Outcome State Fault Refusal := opFclass 0x57 f.widen s
def execFclassW2 (f : F2) (s : State) : Host.Outcome State Fault Refusal := opFclass 0xD7 f s
/-- FRND. -/
def opFrnd (op : Nat) (f : F2) (s : State) : Host.Outcome State Fault Refusal :=
  runAlu { e := .frnd op f, f := f } s fun f a _ _ => fpRnd f.m a
def execFrnd (f : F1) (s : State) : Host.Outcome State Fault Refusal := opFrnd 0x58 f.widen s
def execFrndW2 (f : F2) (s : State) : Host.Outcome State Fault Refusal := opFrnd 0xD8 f s
/-- FFRACT. -/
def opFfract (op : Nat) (f : F2) (s : State) : Host.Outcome State Fault Refusal :=
  runAlu { e := .ffract op f, f := f } s fun _ a _ _ => fpFract a
def execFfract (f : F1) (s : State) : Host.Outcome State Fault Refusal := opFfract 0x59 f.widen s
def execFfractW2 (f : F2) (s : State) : Host.Outcome State Fault Refusal := opFfract 0xD9 f s
/-- FSCALE. -/
def opFscale (op : Nat) (f : F2) (s : State) : Host.Outcome State Fault Refusal :=
  runAlu { e := .fscale op f, f := f } s fun f a b _ => fpScale f.m a b
def execFscale (f : F1) (s : State) : Host.Outcome State Fault Refusal := opFscale 0x5A f.widen s
def execFscaleW2 (f : F2) (s : State) : Host.Outcome State Fault Refusal := opFscale 0xDA f s
/-- FGETEXP. -/
def opFgetexp (op : Nat) (f : F2) (s : State) : Host.Outcome State Fault Refusal :=
  runAlu { e := .fgetexp op f, f := f } s fun _ a _ _ => fpGetexp a
def execFgetexp (f : F1) (s : State) : Host.Outcome State Fault Refusal := opFgetexp 0x5B f.widen s
def execFgetexpW2 (f : F2) (s : State) : Host.Outcome State Fault Refusal := opFgetexp 0xDB f s
/-- FGETMAN. -/
def opFgetman (op : Nat) (f : F2) (s : State) : Host.Outcome State Fault Refusal :=
  runAlu { e := .fgetman op f, f := f } s fun _ a _ _ => fpGetman a
def execFgetman (f : F1) (s : State) : Host.Outcome State Fault Refusal := opFgetman 0x5C f.widen s
def execFgetmanW2 (f : F2) (s : State) : Host.Outcome State Fault Refusal := opFgetman 0xDC f s
/-- HADD2. -/
def opHadd2 (op : Nat) (f : F2) (s : State) : Host.Outcome State Fault Refusal :=
  runAlu { e := .hadd2 op f, f := f } s fun f a b c => onPairs (fun x y _ => fpAdd (pairFmt f.m) f.m x y) a b c
def execHadd2 (f : F1) (s : State) : Host.Outcome State Fault Refusal := opHadd2 0x60 f.widen s
def execHadd2W2 (f : F2) (s : State) : Host.Outcome State Fault Refusal := opHadd2 0xE0 f s
/-- HMUL2. -/
def opHmul2 (op : Nat) (f : F2) (s : State) : Host.Outcome State Fault Refusal :=
  runAlu { e := .hmul2 op f, f := f } s fun f a b c => onPairs (fun x y _ => fpMul (pairFmt f.m) f.m x y) a b c
def execHmul2 (f : F1) (s : State) : Host.Outcome State Fault Refusal := opHmul2 0x61 f.widen s
def execHmul2W2 (f : F2) (s : State) : Host.Outcome State Fault Refusal := opHmul2 0xE1 f s
/-- HFMA2. -/
def opHfma2 (op : Nat) (f : F2) (s : State) : Host.Outcome State Fault Refusal :=
  runAlu { e := .hfma2 op f, f := f } s fun f a b c => onPairs (fpFma (pairFmt f.m) f.m) a b c
def execHfma2 (f : F2) (s : State) : Host.Outcome State Fault Refusal := opHfma2 0xE2 f s
/-- HMIN2. -/
def opHmin2 (op : Nat) (f : F2) (s : State) : Host.Outcome State Fault Refusal :=
  runAlu { e := .hmin2 op f, f := f } s fun f a b c => onPairs (fun x y _ => minMax (pairFmt f.m) false x y) a b c
def execHmin2 (f : F1) (s : State) : Host.Outcome State Fault Refusal := opHmin2 0x63 f.widen s
def execHmin2W2 (f : F2) (s : State) : Host.Outcome State Fault Refusal := opHmin2 0xE3 f s
/-- HMAX2. -/
def opHmax2 (op : Nat) (f : F2) (s : State) : Host.Outcome State Fault Refusal :=
  runAlu { e := .hmax2 op f, f := f } s fun f a b c => onPairs (fun x y _ => minMax (pairFmt f.m) true x y) a b c
def execHmax2 (f : F1) (s : State) : Host.Outcome State Fault Refusal := opHmax2 0x64 f.widen s
def execHmax2W2 (f : F2) (s : State) : Host.Outcome State Fault Refusal := opHmax2 0xE4 f s
/-- DOT2. -/
def opDot2 (op : Nat) (f : F2) (s : State) : Host.Outcome State Fault Refusal :=
  runAlu { e := .dot2 op f, f := f } s fun f a b c => fpDot2 f.m a b c
def execDot2 (f : F2) (s : State) : Host.Outcome State Fault Refusal := opDot2 0xE5 f s
/-- DOT4. -/
def opDot4 (op : Nat) (f : F2) (s : State) : Host.Outcome State Fault Refusal :=
  runAlu { e := .dot4 op f, f := f } s fun f a b c => fpDot4 f.m a b c
def execDot4 (f : F2) (s : State) : Host.Outcome State Fault Refusal := opDot4 0xE6 f s
/-- DADD. -/
def opDadd (op : Nat) (f : F2) (s : State) : Host.Outcome State Fault Refusal :=
  runAlu { e := .dadd op f, f := f } s fun f a b _ => fpAdd .f64 f.m a b
def execDadd (f : F1) (s : State) : Host.Outcome State Fault Refusal := opDadd 0x68 f.widen s
def execDaddW2 (f : F2) (s : State) : Host.Outcome State Fault Refusal := opDadd 0xE8 f s
/-- DMUL. -/
def opDmul (op : Nat) (f : F2) (s : State) : Host.Outcome State Fault Refusal :=
  runAlu { e := .dmul op f, f := f } s fun f a b _ => fpMul .f64 f.m a b
def execDmul (f : F1) (s : State) : Host.Outcome State Fault Refusal := opDmul 0x69 f.widen s
def execDmulW2 (f : F2) (s : State) : Host.Outcome State Fault Refusal := opDmul 0xE9 f s
/-- DFMA. -/
def opDfma (op : Nat) (f : F2) (s : State) : Host.Outcome State Fault Refusal :=
  runAlu { e := .dfma op f, f := f } s fun f a b c => fpFma .f64 f.m a b c
def execDfma (f : F2) (s : State) : Host.Outcome State Fault Refusal := opDfma 0xEA f s
/-- DCMP. -/
def opDcmp (op : Nat) (f : F2) (s : State) : Host.Outcome State Fault Refusal :=
  runAlu { e := .dcmp op f, f := f } s fun f a b _ => fpCmp .f64 f.m a b
def execDcmp (f : F1) (s : State) : Host.Outcome State Fault Refusal := opDcmp 0x6B f.widen s
def execDcmpW2 (f : F2) (s : State) : Host.Outcome State Fault Refusal := opDcmp 0xEB f s
/-- FRCP. -/
def opFrcp (op : Nat) (f : F2) (s : State) : Host.Outcome State Fault Refusal :=
  runAlu { e := .frcp op f, f := f } s fun f a _ _ => specialFn 0 (mode f.m) (sat f.m) a
def execFrcp (f : F1) (s : State) : Host.Outcome State Fault Refusal := opFrcp 0x00 f.widen s
def execFrcpW2 (f : F2) (s : State) : Host.Outcome State Fault Refusal := opFrcp 0x80 f s
/-- FRSQ. -/
def opFrsq (op : Nat) (f : F2) (s : State) : Host.Outcome State Fault Refusal :=
  runAlu { e := .frsq op f, f := f } s fun f a _ _ => specialFn 1 (mode f.m) (sat f.m) a
def execFrsq (f : F1) (s : State) : Host.Outcome State Fault Refusal := opFrsq 0x01 f.widen s
def execFrsqW2 (f : F2) (s : State) : Host.Outcome State Fault Refusal := opFrsq 0x81 f s
/-- FSQRT. -/
def opFsqrt (op : Nat) (f : F2) (s : State) : Host.Outcome State Fault Refusal :=
  runAlu { e := .fsqrt op f, f := f } s fun f a _ _ => specialFn 2 (mode f.m) (sat f.m) a
def execFsqrt (f : F1) (s : State) : Host.Outcome State Fault Refusal := opFsqrt 0x02 f.widen s
def execFsqrtW2 (f : F2) (s : State) : Host.Outcome State Fault Refusal := opFsqrt 0x82 f s
/-- FEXP2. -/
def opFexp2 (op : Nat) (f : F2) (s : State) : Host.Outcome State Fault Refusal :=
  runAlu { e := .fexp2 op f, f := f } s fun f a _ _ => specialFn 3 (mode f.m) (sat f.m) a
def execFexp2 (f : F1) (s : State) : Host.Outcome State Fault Refusal := opFexp2 0x03 f.widen s
def execFexp2W2 (f : F2) (s : State) : Host.Outcome State Fault Refusal := opFexp2 0x83 f s
/-- FLOG2. -/
def opFlog2 (op : Nat) (f : F2) (s : State) : Host.Outcome State Fault Refusal :=
  runAlu { e := .flog2 op f, f := f } s fun f a _ _ => specialFn 4 (mode f.m) (sat f.m) a
def execFlog2 (f : F1) (s : State) : Host.Outcome State Fault Refusal := opFlog2 0x04 f.widen s
def execFlog2W2 (f : F2) (s : State) : Host.Outcome State Fault Refusal := opFlog2 0x84 f s
/-- FSIN. -/
def opFsin (op : Nat) (f : F2) (s : State) : Host.Outcome State Fault Refusal :=
  runAlu { e := .fsin op f, f := f } s fun f a _ _ => specialFn 5 (mode f.m) (sat f.m) a
def execFsin (f : F1) (s : State) : Host.Outcome State Fault Refusal := opFsin 0x05 f.widen s
def execFsinW2 (f : F2) (s : State) : Host.Outcome State Fault Refusal := opFsin 0x85 f s
/-- FCOS. -/
def opFcos (op : Nat) (f : F2) (s : State) : Host.Outcome State Fault Refusal :=
  runAlu { e := .fcos op f, f := f } s fun f a _ _ => specialFn 6 (mode f.m) (sat f.m) a
def execFcos (f : F1) (s : State) : Host.Outcome State Fault Refusal := opFcos 0x06 f.widen s
def execFcosW2 (f : F2) (s : State) : Host.Outcome State Fault Refusal := opFcos 0x86 f s
/-- FTANH. -/
def opFtanh (op : Nat) (f : F2) (s : State) : Host.Outcome State Fault Refusal :=
  runAlu { e := .ftanh op f, f := f } s fun f a _ _ => specialFn 7 (mode f.m) (sat f.m) a
def execFtanh (f : F1) (s : State) : Host.Outcome State Fault Refusal := opFtanh 0x07 f.widen s
def execFtanhW2 (f : F2) (s : State) : Host.Outcome State Fault Refusal := opFtanh 0x87 f s

end Sys2Proof.Machine
end

