-- ==== Sys2Proof/Machine/Lanes.lean ====
section
/-! DEFINITION. The collectives of class 1 (R269 to R273), which combine values through the Sieve (R99), and the draws
(R287 to R290), which read the Mill. -/

namespace Sys2Proof.Machine

/-- A value over lane positions, absent where no member stands, with the flags of the joins so far. -/
abbrev Sieved := Option Nat × FlagSet

/-- join of R99. -/
def sieveJoin (op : Nat → Nat → Nat × FlagSet) (x y : Sieved) : Sieved :=
  match x.1, y.1 with
  | none, _ => (y.1, x.2 ||| y.2)
  | _, none => (x.1, x.2 ||| y.2)
  | some a, some b => let r := op a b; (some r.1, x.2 ||| y.2 ||| r.2)

/-- tree of R99 over 2^k positions from lo on. -/
def sieveTree (op : Nat → Nat → Nat × FlagSet) (v : Nat → Option Nat) (k lo : Nat) : Sieved :=
  match k with
  | 0 => (v lo, 0)
  | k + 1 => sieveJoin op (sieveTree op v k lo) (sieveTree op v k (lo + 2 ^ k))

/-- sieve_scan of R99 at a position: n = position + 1, bits b - 1 down to 0 left, blocks from base on. -/
def sieveScan (op : Nat → Nat → Nat × FlagSet) (v : Nat → Option Nat) (n : Nat) (b base : Nat) (acc : Sieved) : Sieved :=
  match b with
  | 0 => acc
  | b + 1 =>
    if bit n b then sieveScan op v n b (base + 2 ^ b) (sieveJoin op acc (sieveTree op v b base))
    else sieveScan op v n b base acc

/-- The operations of R271 on values of a TYPE code (R270). -/
def sieveOp (ty op : Nat) (a b : Nat) : Nat × FlagSet :=
  let w := if 4 ≤ ty then 64 else 32
  let flt := ty == 2 || ty == 6
  let k : Fmt := if ty == 6 then .f64 else .f32
  let u := ty == 1 || ty == 5
  match op with
  | 0 => if flt then fused [(decodeNum k a, .one)] (some (decodeNum k b)) k 0 false else ((a + b) % 2 ^ w, 0)
  | 1 => if flt then minMax k false a b else (if ext w u b < ext w u a then b else a, 0)
  | 2 => if flt then minMax k true a b else (if ext w u a < ext w u b then b else a, 0)
  | 3 => (a &&& b, 0)
  | 4 => (a ||| b, 0)
  | _ => (a ^^^ b, 0)

/-- The lanes of the step that are of the executing lane's group: every non-exited lane of it (R214). -/
def Env.group (v : Env) (envs : List Env) : List Env := envs.filter fun u => u.lit / u.width == v.lit / v.width

/-- The member mask of R269, from the lowest-indexed non-exited lane of the group. -/
def Env.mask (v : Env) (envs : List Env) (sh : Bool) : Nat :=
  match v.group envs with
  | u :: _ => if sh then u.b' else u.b
  | [] => 0

/-- The members of R269 by lane index, with their A. -/
def Env.members (v : Env) (envs : List Env) (sh : Bool) : List (Nat × Nat) :=
  ((v.group envs).filter fun u => bit (v.mask envs sh) u.i).map fun u => (u.i, if sh then u.a' else u.a)

/-- A lane position's value, absent where no member stands. -/
def memberValue (ms : List (Nat × Nat)) (j : Nat) : Option Nat := (ms.find? fun m => m.1 == j).map (·.2)

/-- A collective: its result in a lane from the members, the lane's own A and B; the shadow combines its own copies. -/
def runCollective (o : Op) (s : State) (g : Env → List (Nat × Nat) → Nat → Nat × FlagSet) : Host.Outcome State Fault Refusal :=
  runLanes o s fun envs v s =>
    let (d, fl) := g v (v.members envs false) v.a
    let (d', fl') := if v.prot then g v (v.members envs true) v.a' else (0, 0)
    (s, .ok d d' fl fl')

/-- REDUCE (R271): an empty range gives zero and no flag. -/
def collReduce (v : Env) (ms : List (Nat × Nat)) : Nat × FlagSet :=
  let r := sieveTree (sieveOp (mbits v.f.m 5 3) (mbits v.f.m 2 0)) (memberValue ms) (Nat.log2 v.width) 0
  (r.1.getD 0, r.2)

/-- SCAN (R271): every lane position receives its prefix, and the flags are those of every position's joins. -/
def collScan (v : Env) (ms : List (Nat × Nat)) : Nat × FlagSet :=
  let op := sieveOp (mbits v.f.m 5 3) (mbits v.f.m 2 0)
  let at' := fun (n : Nat) => sieveScan op (memberValue ms) n 7 0 (none, 0)
  let excl := v.f.m.getLsbD 6
  let flags := (List.range v.width).foldl (fun (fl : FlagSet) j => fl ||| (at' (if excl then j else j + 1)).2) 0
  ((at' (if excl then v.i else v.i + 1)).1.getD 0, flags)

/-- VOTE (R272). -/
def collVote (v : Env) (ms : List (Nat × Nat)) : Nat × FlagSet :=
  let t := match mbits v.f.m 1 0 with
    | 0 => ms.all fun m => m.2 != 0
    | 1 => ms.any fun m => m.2 != 0
    | 2 => ms.all fun m => m.2 == (ms.headD m).2
    | _ => ms.all fun m => m.2 == 0
  (if t then allOnes else 0, 0)

/-- The lane mask of some members. -/
def laneMask (ms : List (Nat × Nat)) : Nat := ms.foldl (fun n m => n ||| 2 ^ m.1) 0

/-- BALLOT and MATCH (R272). -/
def collBallot (_ : Env) (ms : List (Nat × Nat)) : Nat × FlagSet := (laneMask (ms.filter fun m => m.2 != 0), 0)
def collMatch (_ : Env) (ms : List (Nat × Nat)) (a : Nat) : Nat × FlagSet := (laneMask (ms.filter fun m => m.2 == a), 0)

/-- A draw of a block on the stream A[15:0] (R287, R101): stream 0xFFFF is reserved. -/
def runDraw (o : Op) (s : State) (g : Nat → Nat) : Host.Outcome State Fault Refusal :=
  runLanes o s fun _ v s =>
    if v.a % 2 ^ 16 = 0xFFFF then (s, .fault .illegal)
    else
      let (x, s) := s.millDraw v.who (v.a % 2 ^ 16)
      (s, .ok (g x) (g x) 0 0)

/-- The value that four words make. -/
def fourWords (g : Nat → Nat) (x : Nat) : Nat :=
  g (blockWord x 0) + 2 ^ 32 * g (blockWord x 1) + 2 ^ 64 * g (blockWord x 2) + 2 ^ 96 * g (blockWord x 3)

/-- u01 of R101 as a number. -/
def u01Num (w : Nat) : Num := .fin false (u01Mant w) (-24)

/-- a > b for two finite or infinite values; a NaN is never above (R289). -/
def Num.above (a b : Num) : Bool :=
  match a, b with
  | .inf s, .fin _ _ _ => !s
  | .fin _ _ _, .fin _ _ _ => decide (0 < (exactSum [a, b.negate]).1)
  | _, _ => false

/-- The index of SAMPLE (R289) in a table of codes, from the block's first word; none when the total is no positive
finite number. -/
def sampleIndex (table : List Nat) (x0 : Nat) : Option Nat :=
  let t := decodeNum .f32 (table.getLastD 0)
  match t with
  | .fin false m _ =>
    if m = 0 then none
    else some ((table.takeWhile fun c => !(decodeNum .f32 c).above (Num.mul (u01Num x0) t)).length)
  | _ => none


/-- REDUCE (R271). -/
def opReduce (op : Nat) (f : F2) (s : State) : Host.Outcome State Fault Refusal :=
  runCollective { e := .reduce op f, f := f } s fun v ms _ => collReduce v ms

def execReduce (f : F1) (s : State) : Host.Outcome State Fault Refusal := opReduce 0x10 f.widen s

def execReduceW2 (f : F2) (s : State) : Host.Outcome State Fault Refusal := opReduce 0x90 f s

/-- SCAN (R271). -/
def opScan (op : Nat) (f : F2) (s : State) : Host.Outcome State Fault Refusal :=
  runCollective { e := .scan op f, f := f } s fun v ms _ => collScan v ms

def execScan (f : F1) (s : State) : Host.Outcome State Fault Refusal := opScan 0x11 f.widen s

def execScanW2 (f : F2) (s : State) : Host.Outcome State Fault Refusal := opScan 0x91 f s

/-- VOTE (R272). -/
def opVote (op : Nat) (f : F2) (s : State) : Host.Outcome State Fault Refusal :=
  runCollective { e := .vote op f, f := f } s fun v ms _ => collVote v ms

def execVote (f : F1) (s : State) : Host.Outcome State Fault Refusal := opVote 0x12 f.widen s

def execVoteW2 (f : F2) (s : State) : Host.Outcome State Fault Refusal := opVote 0x92 f s

/-- BALLOT (R272). -/
def opBallot (op : Nat) (f : F2) (s : State) : Host.Outcome State Fault Refusal :=
  runCollective { e := .ballot op f, f := f } s fun v ms _ => collBallot v ms

def execBallot (f : F1) (s : State) : Host.Outcome State Fault Refusal := opBallot 0x13 f.widen s

def execBallotW2 (f : F2) (s : State) : Host.Outcome State Fault Refusal := opBallot 0x93 f s

/-- MATCH (R272). -/
def opMatchGroup (op : Nat) (f : F2) (s : State) : Host.Outcome State Fault Refusal :=
  runCollective { e := .matchGroup op f, f := f } s fun v ms a => collMatch v ms a

def execMatchGroup (f : F1) (s : State) : Host.Outcome State Fault Refusal := opMatchGroup 0x14 f.widen s

def execMatchW2 (f : F2) (s : State) : Host.Outcome State Fault Refusal := opMatchGroup 0x94 f s

/-- LANEGET (R273): an exited source lane reads as zero. -/
def opLaneget (op : Nat) (f : F2) (s : State) : Host.Outcome State Fault Refusal :=
  runLanes { e := .laneget op f, f := f } s fun envs v s =>
    let src := fun (b : Nat) => (v.group envs).find? fun u => u.i == b % v.width
    (s, .ok (((src v.b).map (·.a)).getD 0) (((src v.b').map (·.a')).getD 0) 0 0)

def execLaneget (f : F1) (s : State) : Host.Outcome State Fault Refusal := opLaneget 0x15 f.widen s

def execLanegetW2 (f : F2) (s : State) : Host.Outcome State Fault Refusal := opLaneget 0x95 f s

/-- DRAW (R288). -/
def opDraw (op : Nat) (f : F2) (s : State) : Host.Outcome State Fault Refusal :=
  runDraw { e := .draw op f, f := f } s (fourWords id)

def execDraw (f : F1) (s : State) : Host.Outcome State Fault Refusal := opDraw 0x78 f.widen s

def execDrawW2 (f : F2) (s : State) : Host.Outcome State Fault Refusal := opDraw 0xF8 f s

/-- DRAWF (R288). -/
def opDrawf (op : Nat) (f : F2) (s : State) : Host.Outcome State Fault Refusal :=
  runDraw { e := .drawf op f, f := f } s (fourWords u01)

def execDrawf (f : F1) (s : State) : Host.Outcome State Fault Refusal := opDrawf 0x79 f.widen s

def execDrawfW2 (f : F2) (s : State) : Host.Outcome State Fault Refusal := opDrawf 0xF9 f s

/-- DRAWN (R288). -/
def opDrawn (op : Nat) (f : F2) (s : State) : Host.Outcome State Fault Refusal :=
  runDraw { e := .drawn op f, f := f } s fun x => drawNormal (blockWord x 0) (blockWord x 1)

def execDrawn (f : F1) (s : State) : Host.Outcome State Fault Refusal := opDrawn 0x7A f.widen s

def execDrawnW2 (f : F2) (s : State) : Host.Outcome State Fault Refusal := opDrawn 0xFA f s

/-- SAMPLE (R289). A poisoned granule of the table gives fault 0x0B (R458). -/
def opSample (op : Nat) (f : F2) (s : State) : Host.Outcome State Fault Refusal :=
  runLanes { e := .sample op f, f := f } s fun _ v s =>
    let n := v.b / 2 ^ 16 + 1
    if v.a % 4 ≠ 0 then (s, .fault { code := 0x07, addr := v.a })
    else if (s.launchOf v.t).desc.scratch < v.a + 4 * n then (s, .fault { code := 0x02, addr := v.a, info := 3 })
    else if v.b % 2 ^ 16 = 0xFFFF then (s, .fault .illegal)
    else if s.poisoned (.scratch v.t) v.a (4 * n) then (s, .fault { code := 0x0B, addr := v.a, unit := 2, tier := true })
    else
      let (x, s) := s.millDraw v.who (v.b % 2 ^ 16)
      match sampleIndex ((List.range n).map fun j => ofLe (s.read (.scratch v.t) (v.a + 4 * j) 4)) (blockWord x 0) with
      | some j => (s, .ok j j 0 0)
      | none => (s, .ok allOnes allOnes FlagSet.invalid FlagSet.invalid)

def execSample (f : F1) (s : State) : Host.Outcome State Fault Refusal := opSample 0x7B f.widen s

def execSampleW2 (f : F2) (s : State) : Host.Outcome State Fault Refusal := opSample 0xFB f s

/-- SPLITKEY (R290). -/
def opSplitkey (op : Nat) (f : F2) (s : State) : Host.Outcome State Fault Refusal :=
  runLanes { e := .splitkey op f, f := f } s fun _ v s =>
    let (key, team, lit) := s.millKey v.who
    (s, .ok (deriveKey key v.a team lit) (deriveKey key v.a' team lit) 0 0)

def execSplitkey (f : F1) (s : State) : Host.Outcome State Fault Refusal := opSplitkey 0x7C f.widen s

def execSplitkeyW2 (f : F2) (s : State) : Host.Outcome State Fault Refusal := opSplitkey 0xFC f s


end Sys2Proof.Machine
end

