-- ==== Sys2Proof/Machine/Access.lean ====
section
/-! DEFINITION. Accesses to memory: addresses and checks (R299, R300, R320), atomics and bank operations as functions
(R319, R329, R333), requests to peers (R114, R115, R330), staging (R332, R423, R424), the race detector (R418 to R421), data
watchpoints (R485) and a lane's private memory (R301, R446). -/

namespace Sys2Proof.Machine

/-! Atomics -/

/-- A sum of R328: no flag, round to nearest even. -/
def atomFadd (k : Fmt) (x y : Nat) : Nat := (fused [(decodeNum k x, .one)] (some (decodeNum k y)) k 0 false).1

/-- A function on each 16-bit half. -/
def onHalves (g : Nat → Nat → Nat) (x y : Nat) : Nat :=
  g (x % 2 ^ 16) (y % 2 ^ 16) + 2 ^ 16 * g (x / 2 ^ 16 % 2 ^ 16) (y / 2 ^ 16 % 2 ^ 16)

/-- The new value of R319; 16 and 17 are CAS of 32 and 64 bits (R329). -/
def atomNew (op old b cnew : Nat) : Nat :=
  match op with
  | 0 => (old + b) % 2 ^ 32
  | 1 => if sext 32 b < sext 32 old then b else old
  | 2 => min old b
  | 3 => if sext 32 old < sext 32 b then b else old
  | 4 => max old b
  | 5 => old &&& b
  | 6 => old ||| b
  | 7 => old ^^^ b
  | 8 | 15 => b
  | 9 => atomFadd .f32 old b
  | 10 => (minMax .f32 false old b).1
  | 11 => (minMax .f32 true old b).1
  | 12 => onHalves (atomFadd .bf16) old b
  | 13 => onHalves (atomFadd .f16) old b
  | 14 => (old + b) % 2 ^ 64
  | _ => if old = b then cnew else old

/-- Bytes of an atomic. -/
def atomBytes (op : Nat) : Nat := if op = 14 || op = 15 || op = 17 then 8 else 4

/-- One element of a bank operation (R333). -/
def bankElem (op etype old b c : Nat) : Nat :=
  let k : Fmt := [Fmt.f32, .bf16, .f16].getD etype .f32
  if etype = 3 then
    match op with
    | 2 => (old + b) % 2 ^ 32
    | 3 => if sext 32 b < sext 32 old then b else old
    | 4 => if sext 32 old < sext 32 b then b else old
    | 5 => wrapInt 32 (sext 32 old + sext 32 c * sext 32 b)
    | _ => old * b % 2 ^ 32
  else
    match op with
    | 2 => atomFadd k old b
    | 3 => (minMax k false old b).1
    | 4 => (minMax k true old b).1
    | 5 => (fused [(decodeNum .f32 c, decodeNum k b)] (some (decodeNum k old)) k 0 false).1
    | _ => (fused [(decodeNum k old, decodeNum k b)] none k 0 false).1

/-- The new 16 bytes of a bank operation (R333). -/
def bankNew (op etype old b c : Nat) : Nat :=
  if op = 0 then old else if op = 1 then b else
  let w := if etype = 1 || etype = 2 then 16 else 32
  (List.range (128 / w)).foldr (fun j n => bankElem op etype (bits old (w * j + w - 1) (w * j)) (bits b (w * j + w - 1) (w * j)) c + 2 ^ w * n) 0

/-- How a load reads (R324): at the home bank, or weakly, allocating in the L1 or not. -/
inductive Reading where
  | home | weak | weakNoAlloc
  deriving DecidableEq, Repr

namespace State

/-- The size of a world's bank window (R304). -/
def windowSize (s : State) (w : Nat) : Nat :=
  nodeBanks (s.sliceOf w).node * aluPopc (s.world w).windowMask.toNat * 131072

/-! Save slots (R446) -/

/-- PRIVSZ, CTXMAX, CTXSZ and SLOT of a launch. -/
def privSz (l : Launch) : Nat := roundUp (l.desc.priv * l.lanes) 65536
def ctxMax (l : Launch) : Nat :=
  2304 + 128 * l.desc.groups + 256 * l.lanes + 64 * l.desc.groups * roundUp (4 * l.desc.nregs) 64 + 256 +
    l.desc.scratch + 65536 * l.desc.accum + 2112 * min 512 (6 * l.lanes)
def ctxSz (l : Launch) : Nat := roundUp (ctxMax l) 65536
def slotSz (l : Launch) : Nat := privSz l + ctxSz l * (if l.guarded then 2 else 1)
/-- The VA of a team's slot, and of byte o of a lane's private memory. -/
def slotVa (s : State) (t : Nat) : Nat := (s.launchOf t).record.save + (s.team t).slot * slotSz (s.launchOf t)
def privVa (s : State) (t lit o : Nat) : Nat := s.slotVa t + (s.launchOf t).desc.priv * lit + o

/-- The core whose L1 an agent's accesses use. -/
def coreOf (s : State) (a : Agent) : Option Nat :=
  match a with
  | .lane t _ | .seq t => some (s.team t).core
  | _ => none

/-! Peers -/

/-- Sends a request of an agent (R115); without a tag of the program the device chooses one (R330). -/
def askPeer (s : State) (a : Agent) (accel wpa : Nat) (write : Bool) (op : Nat) (bytes : List Byte) (tag : Option Nat)
    (awaited : Bool) (piece : Option (Nat × Nat) := none) (bad : List Nat := []) : State :=
  let w := s.worldOf a
  let (tg, s) := match tag with
    | some k => (k, s)
    | none => s.nextTag w
  let s := if write then s.meter w 10 bytes.length else s
  let (launch, team, cookie) := s.requestNames a
  s.sendRequest { world := w, tag := tg, who := a, launch := launch, team := team, cookie := cookie, copyPiece := piece,
                  accel := accel, wpa := wpa, write := write, awaited := awaited } op bytes bad

/-- The request that an agent waits for. -/
def awaitedReq (s : State) (a : Agent) : Option Req :=
  s.reqs.find? fun r => r.who == a && r.awaited && r.copyPiece.isNone && r.inner.isNone && r.pass.isNone

/-- Takes the answer of the request that an agent waited for. -/
def takeAnswer (s : State) (a : Agent) : Option ReqSt × State :=
  match s.awaitedReq a with
  | some r => (some r.st, { s with reqs := s.reqs.erase r })
  | none => (none, s)

/-! Global memory -/

/-- Alignment, translation and the route of a global access (R300, R308, R310, R114). -/
def globalPlace (s : State) (a : Agent) (va n : Nat) (need : Need) (flags : Nat) : Except Res Place × State :=
  if va % n ≠ 0 then (.error (.fault { code := 0x07, flags := flags, addr := va % 2 ^ 52 }), s) else
  match s.translate (s.worldOf a) (s.quadOf a) va need false with
  | (.error e, s) => (.error (.trouble e flags va), s)
  | (.ok (p, _), s) =>
    match p.target with
    | .peer accel _ =>
      if s.routeOk (s.worldOf a) accel then (.ok p, s)
      else (.error (.fault { code := 0x12, flags := flags, addr := va % 2 ^ 52 }), s)
    | _ => (.ok p, s)

/-- Reads a store through an agent's L1 or at the home bank; none when the data is poisoned (R458). The L2 may keep a host
line (R106). -/
def loadAt (s : State) (who : Agent) (sp : Space) (a n : Nat) (r : Reading) : Option (List Byte) × State :=
  let held := match s.coreOf who with
    | some c => if r = Reading.home then none else s.l1Find c sp (a / 128)
    | none => none
  match held, s.coreOf who with
  | some l, _ => (some ((l.bytes.drop (a % 128)).take n), s)
  | none, some c =>
    if s.poisoned sp a n then (none, s)
    else if r == Reading.weak && !s.poisoned sp (a / 128 * 128) 128 then
      let (bs, s) := s.l1Read c sp a n true
      (some bs, s.holdHost (s.worldOf who) sp a n false)
    else (some (s.read sp a n), s.holdHost (s.worldOf who) sp a n false)
  | none, none => if s.poisoned sp a n then (none, s) else (some (s.read sp a n), s.holdHost (s.worldOf who) sp a n false)

/-- Writes a store at its point of coherence, after the line has left the issuing core's L1 (R302). -/
def storeAt (s : State) (who : Agent) (sp : Space) (a : Nat) (bs : List Byte) : State :=
  ((match s.coreOf who with | some c => s.l1Drop c sp a | none => s).write sp a bs).holdHost (s.worldOf who) sp a bs.length true

end State

/-! Staging (R332, R423) -/

/-- A place of staged bytes as one number: slice HBM, host I/O addresses, the bank window, peers. -/
def Target.key (t : Target) : Nat :=
  match t with
  | .device a => a
  | .hostIo io => 2 ^ 64 + io
  | .peer n a => 2 ^ 66 + n * 2 ^ 48 + a
def windowKey (o : Nat) : Nat := 2 ^ 65 + o

/-- First byte and length of what a staged entry writes. -/
def Staged.extent (e : Staged) : Nat × Nat :=
  match e.op with
  | .write bs => (e.target.key, bs.length)
  | .atom op _ _ => (e.target.key, atomBytes op)
  | .bank _ _ _ _ => (windowKey e.va, 16)
  | .launch _ _ => (0, 0)

/-- The bytes that a staged entry leaves, from those that stand there. -/
def Staged.result (e : Staged) (old : List Byte) : List Byte :=
  match e.op with
  | .write bs => bs
  | .atom op b cnew => leBytes old.length (atomNew op (ofLe old) b cnew)
  | .bank op etype b c => leBytes 16 (bankNew op etype (ofLe old) b c)
  | .launch _ _ => []

namespace State

/-- One byte of memory behind a staged key; a peer's stands among the bytes read. -/
def keyByte (s : State) (w k : Nat) : Byte :=
  if k < 2 ^ 64 then s.byte .hbm k
  else if k < 2 ^ 65 then
    match s.hostAddr w (k - 2 ^ 64) with
    | some a => s.byte .host a
    | none => 0
  else if k < 2 ^ 66 then s.byte (.window w) (k - 2 ^ 65)
  else 0

/-- The bytes that a team's own load sees: its staged accesses in staging order over the bytes read (R332). Bytes beyond those
read matter only where an atomic reaches beyond them; a load from a peer reads the whole aligned unit (peerUnit). -/
def stagedView (s : State) (t key : Nat) (base : List Byte) : List Byte :=
  let w := (s.launchOf t).world
  let under := fun (laid : SMap Byte) (k : Nat) =>
    match laid.look k with
    | some b => b
    | none => if key ≤ k && k < key + base.length then base.getD (k - key) 0 else s.keyByte w k
  let laid := (s.team t).staged.foldl (fun (laid : SMap Byte) e =>
    let (k, n) := e.extent
    let new := e.result ((List.range n).map fun i => under laid (k + i))
    (new.mapIdx fun i b => (k + i, b)).foldl (fun m p => m.insert p.1 p.2) laid) []
  (List.range base.length).map fun i => under laid (key + i)

/-- The same for any agent: only lanes of a staging launch have staged bytes. -/
def ownView (s : State) (a : Agent) (key : Nat) (base : List Byte) : List Byte :=
  match a with
  | .lane t _ | .seq t => if (s.launchOf t).staging && !(s.team t).staged.isEmpty then s.stagedView t key base else base
  | _ => base

/-- The bytes of a peer that an access of an agent reads (R332): with those that a staged access of its team reaches beside
them, in aligned units of 16. -/
def peerUnit (s : State) (a : Agent) (wpa n : Nat) : Nat × Nat :=
  match a with
  | .lane t _ | .seq t => if (s.launchOf t).staging then (wpa / 16 * 16, roundUp (wpa % 16 + n) 16) else (wpa, n)
  | _ => (wpa, n)

/-- A byte of a team's own view stands poisoned, if the byte in memory does or not (R342). -/
def stagedBad (s : State) (t key : Nat) (under : Bool) : Bool :=
  (s.team t).staged.foldl (fun (bad : Bool) e =>
    let (k, m) := e.extent
    if k ≤ key && key < k + m then
      match e.op with
      | .write _ => e.poison.contains (key - k)
      | _ => bad
    else bad) under

/-- The bytes of a staged access stand poisoned (R342). -/
def stagedPoison (s : State) (a : Agent) (key n : Nat) : Bool :=
  match a with
  | .lane t _ | .seq t => (List.range n).any fun i => s.stagedBad t (key + i) false
  | _ => false

/-- What a copy command of an agent reads of bytes in memory, with the indexes of the poisoned ones: its team's own view (R332,
R343). -/
def ownMarked (s : State) (a : Agent) (key : Nat) (bs : List Byte) (bad : List Nat) : List Byte × List Nat :=
  match a with
  | .lane t _ | .seq t =>
    if (s.team t).staged.isEmpty then (bs, bad)
    else (s.ownView a key bs, (List.range bs.length).filter fun i => s.stagedBad t (key + i) (bad.contains i))
  | _ => (bs, bad)

/-- The accesses of an agent are staged. -/
def stages (s : State) (a : Agent) : Bool :=
  match a with
  | .lane t _ | .seq t => (s.launchOf t).staging
  | _ => false

/-- Charges a team's account; none for fault 0x11 (R424). -/
def charge (s : State) (t n : Nat) : Option State :=
  if (s.launchOf t).desc.stage < (s.team t).account + n then none
  else some (s.modTeam t fun x => { x with account := x.account + n })

/-- Stages an entry (R423, R424). -/
def stage (s : State) (t cost : Nat) (e : Staged) : Except Res State :=
  match s.charge t cost with
  | none => .error (.fault { code := 0x11 })
  | some s => .ok (s.modTeam t fun x => { x with staged := x.staged ++ [e] })

/-- The charge of a store, a copy piece or a drain write of n bytes (R423). -/
def storeCharge (n : Nat) : Nat := 16 + 16 * ceilDiv n 16

/-! The race detector -/

/-- The VA lies in a race range of the launch. -/
def inRace (l : Launch) (va : Nat) : Bool := l.races.any fun r => r.1 ≤ va && va < r.1 + 64 * r.2

/-- The word of a sector after a tracked access by a tag, or none for fault 0x08 (R421). -/
def raceWord (e : BitVec 16) (u g : Nat) (w : Bool) : Option (BitVec 16) :=
  let kind := bits e.toNat 1 0
  let team := bits e.toNat 15 4
  let word := fun (u k : Nat) => BitVec.ofNat 16 (16 * u + 4 * g + k)
  let new := word u (if w then 2 else 1)
  if kind = 0 || bits e.toNat 3 2 ≠ g then some new
  else if kind = 1 && team = u then some new
  else if kind = 2 && team = u then some e
  else if kind = 1 && !w then some (word team 3)
  else if kind = 3 && !w then some e
  else none

/-- Checks and records a tracked access of a lane (R418 to R421). -/
def raceCheck (s : State) (a : Agent) (p : Place) (va : Nat) (w : Bool) : Except Res State :=
  match a, p.target with
  | .lane _ _, .peer _ _ => .ok s
  | .lane t _, _ =>
    let l := s.launchOf t
    let va := va % 2 ^ 52
    if !inRace l va then .ok s else
    let e := l.raceWords.get 0 (va / 64)
    let u := (s.team t).index % 4096
    match raceWord e u (l.g % 4) w with
    | some v => .ok (s.modLaunch (s.team t).launch fun l => { l with raceWords := l.raceWords.put 0 (va / 64) v })
    | none => .error (.fault { code := 0x08, flags := if w then 2 else 0, addr := va,
                               info := e.toNat * 2 ^ 16 + (16 * u + 4 * (l.g % 4) + if w then 2 else 1) })
  | _, _ => .ok s

/-! Watchpoints on data -/

/-- A watchpoint of KIND 1 or 2 matches a scratchpad access of a lane (R485). -/
def watchData (s : State) (t lit o n : Nat) (write : Bool) : Option Nat :=
  let d := (s.world (s.launchOf t).world).dbg
  if (s.lane t lit).skipWatch || !s.debugged t || !d.ctl.getLsbD 3 then none else
  (List.range 4).find? fun k =>
    let w := (d.wp.get 0 k).toNat
    bit w 63 && (bits w 62 61 == 2 || (bits w 62 61 == 1 && write)) &&
      (o ≤ bits w 31 0 + bits w 60 53 && bits w 31 0 < o + n)

/-! Tiers -/

/-- The store and the address of a tier access in a space with a bound (R299, R300): fault 0x07, then fault 0x02. -/
def tierCheck (o n bound flags : Nat) : Option Res :=
  if o % n ≠ 0 then some (.fault { code := 0x07, flags := flags, addr := o })
  else if bound < o + n then some (.fault { code := 0x02, flags := flags, addr := o, info := 3 })
  else none

/-- Where byte o of an agent's private memory lies: the launch's save area, read like global data, or the control core's
own memory (R301, R325). While the lane runs its Primer, a fault of translation there is fault 0x10 (R455). -/
def privatePlace (s : State) (a : Agent) (o n : Nat) (need : Need) (flags : Nat) : Except Res (Space × Nat) × State :=
  match a with
  | .lane t lit =>
    match tierCheck o n (s.launchOf t).desc.priv flags with
    | some r => (.error r, s)
    | none =>
      let stub := (s.lane t lit).primer.isSome
      match s.translate (s.worldOf a) (s.quadOf a) (s.privVa t lit o) need false with
      | (.error e, s) =>
        if stub && e.ask.isNone then (.error (.fault { code := 0x10, addr := s.privVa t lit o % 2 ^ 52 }), s)
        else (.error (.trouble e flags (s.privVa t lit o)), s)
      | (.ok (p, _), s) =>
        match p.at? with
        | some (sp, x) => (.ok (sp, x), s)
        | none =>
          (.error (.fault { code := if stub then 0x10 else 0x12, flags := flags, addr := s.privVa t lit o % 2 ^ 52 }), s)
  | .prog w =>
    match tierCheck o n (s.prog w).privSize flags with
    | some r => (.error r, s)
    | none => (.ok (.priv w, o), s)
  | _ =>
    match tierCheck o n 0 flags with
    | some r => (.error r, s)
    | none => (.ok (.priv 0, o), s)

/-- Loads n bytes of an agent's private memory at o. -/
def loadPrivate (s : State) (a : Agent) (o n : Nat) : Except Res (List Byte) × State :=
  match s.privatePlace a o n .read 0 with
  | (.error r, s) => (.error r, s)
  | (.ok (sp, x), s) =>
    match s.loadAt a sp x n .weak with
    | (some bs, s) => (.ok bs, s)
    | (none, s) => (.error (.fault (match a with
        | .lane t lit =>
          { code := if (s.lane t lit).primer.isSome && !(s.launchOf t).guarded then 0x10 else 0x0B, addr := s.privVa t lit o }
        | _ => { code := 0x0B, addr := o })), s)

/-- In a guarded launch the bytes of private memory that a store changes go into the interval's undo log (R332), by lines of
256 bytes; UNDO of R462 bounds the scratchpad's lines alone (log entry 43). -/
def beforePrivate (s : State) (a : Agent) (sp : Space) (x n : Nat) : State :=
  match a with
  | .lane t _ =>
    if n = 0 || !(s.launchOf t).guarded then s else
    (List.range ((x + n - 1) / 256 + 1 - x / 256)).foldl (fun s i =>
      let line := x / 256 + i
      if (s.team t).undoPriv.any fun u => u.1 == sp && u.2.1 == line then s
      else s.modTeam t fun y => { y with undoPriv := y.undoPriv ++ [(sp, line, s.read sp (line * 256) 256)] }) s
  | _ => s

/-- Stores bytes into an agent's private memory at o. -/
def storePrivate (s : State) (a : Agent) (o : Nat) (bs : List Byte) : Except Res State :=
  match s.privatePlace a o bs.length .write 2 with
  | (.error r, _) => .error r
  | (.ok (sp, x), s) => .ok ((s.beforePrivate a sp x bs.length).storeAt a sp x bs)

/-- A team of the cluster by its rank. -/
def clusterTeam (s : State) (t rank : Nat) : Option Nat :=
  let x := s.team t
  (s.teams.find? fun (_, y) => y.launch == x.launch && y.cluster == x.cluster && y.rank == rank).map (·.1)

end State

end Sys2Proof.Machine
end

