-- ==== Sys2Proof/Machine/MemOps.lean ====
section
/-! DEFINITION. The instructions of class 2: loads, stores, atomics, bank operations, slots, fences, prefetch and monitors
(R317 to R338). -/

namespace Sys2Proof.Machine

/-- Bytes of an access of SIZE, the value a load delivers, the bytes a store writes (R318, R321). -/
def accessBytes (m : BitVec 8) : Nat := [4, 1, 1, 2, 2, 8, 16].getD (mbits m 2 0) 4
def loadValue (m : BitVec 8) (bs : List Byte) : Nat :=
  let x := ofLe bs
  if mbits m 2 0 = 2 then wrapInt 32 (sext 8 x) else if mbits m 2 0 = 4 then wrapInt 32 (sext 16 x) else x
def storeBytes (m : BitVec 8) (v : Nat) : List Byte := leBytes (accessBytes m) v

/-- SEM and SCOPE (R318, R319): an acquire is 1 or 3, a release 2 or 3. -/
def semAcquires (m : BitVec 8) : Bool := mbits m 7 6 == 1 || mbits m 7 6 == 3
def semReleases (m : BitVec 8) : Bool := mbits m 7 6 == 2 || mbits m 7 6 == 3
def scopeOf (m : BitVec 8) : Nat := mbits m 5 4

/-- The global address of R320. -/
def globalAddr (a off : Nat) : Nat := wrapInt 64 (a + sext 32 off)

/-- A load delivers its value to both lanes of a pair (R220). -/
def Res.value (d : Nat) : Res := .ok d d 0 0

/-- The lanes of a protected pair disagree (R220). -/
def Why.pair (addr : Nat) : Why := { code := 0x0A, addr := addr, tier := true }

/-- A release at system scope waits for the agent's earlier peer requests (R331). -/
def releaseReady (v : Env) (s : State) (releases : Bool) (scope : Nat) : Bool := !(releases && scope == 3 && s.peersWait v.who)

/-- Starts the request that an access to peer memory needs, and tells whether the access can go on (R330, R205). One that
would take the lane past SAFE_DIST sends nothing: it faults (R440). -/
def peerReady (v : Env) (s : State) (va n : Nat) (need : Need) (write : Bool) (op : Nat) (bytes : List Byte) (tag : Option Nat) :
    State × Bool :=
  if tooFar s v.who then (s, true) else
  match s.awaitedReq v.who with
  | some r => (s, r.st != .waiting)
  | none =>
    match s.globalPlace v.who va n need 0 with
    | (.ok ⟨.peer accel wpa, _⟩, s1) =>
      if write then (s1.askPeer v.who accel wpa write op bytes tag true, false)
      else
        let (x, m) := s1.peerUnit v.who wpa n
        (s1.askPeer v.who accel x write op (zeros m) tag true, false)
    | _ => (s, true)

/-- The tier address of R320, or its fault. -/
def tierAddr (a off flags : Nat) (k : Nat → State × Res) (s : State) : State × Res :=
  let o : Int := a + sext 32 off
  if o < 0 || (2 ^ 32 : Nat) ≤ o then (s, .fault { code := 0x02, flags := flags, addr := wrapInt 32 o, info := 3 })
  else k o.toNat

/-! Global loads and stores -/

/-- How LD reads by its SEM and HINT (R324). -/
def readingOf (m : BitVec 8) : Reading :=
  if mbits m 7 6 ≠ 0 || mbits m 5 4 = 1 then .home else if mbits m 5 4 = 2 then .weakNoAlloc else .weak

/-- A plain access for race detection (R323). -/
def plainLoad (m : BitVec 8) : Bool := mbits m 7 6 == 0 && mbits m 5 4 != 1
def plainStore (m : BitVec 8) : Bool := mbits m 7 6 == 0

/-- What a load delivers of n bytes at a place that hold these bytes: the team's own view of them (R332), and fault 0x0B where
that view is poisoned (R342). -/
def loadedValue (v : Env) (s : State) (t : Target) (n : Nat) (bs : List Byte) : Res :=
  if s.stagedPoison v.who t.key n then .fault { code := 0x0B, addr := globalAddr v.a v.b % 2 ^ 52 }
  else .value (loadValue v.f.m (s.ownView v.who t.key bs))

/-- The same where a peer answered with its aligned unit. -/
def peerValue (v : Env) (s : State) (accel wpa n : Nat) (bs : List Byte) : Res :=
  let (x, m) := s.peerUnit v.who wpa n
  if s.stagedPoison v.who (Target.peer accel wpa).key n then .fault { code := 0x0B, addr := globalAddr v.a v.b % 2 ^ 52 }
  else .value (loadValue v.f.m (((s.ownView v.who (Target.peer accel x).key ((bs ++ zeros m).take m)).drop (wpa - x)).take n))

/-- LD in one lane (R324). -/
def laneLoad (v : Env) (s : State) : State × Res :=
  let va := globalAddr v.a v.b
  let m := v.f.m
  match s.globalPlace v.who va (accessBytes m) .read 0 with
  | (.error r, s) => (s, r)
  | (.ok p, s) =>
    match p.target, p.at? with
    | .peer accel wpa, _ =>
      match s.takeAnswer v.who with
      | (some (.ok bs), s) =>
        let s := if semAcquires m then s.acquire v.who (scopeOf m) else s
        (s, peerValue v s accel wpa (accessBytes m) bs)
      | (none, s) => (s, .value 0)
      | (_, s) => (s, .fault { code := 0x0B, addr := va % 2 ^ 52 })
    | t, some (sp, x) =>
      match if plainLoad m then s.raceCheck v.who p va false else .ok s with
      | .error r => (s, r)
      | .ok s =>
        match s.loadAt v.who sp x (accessBytes m) (readingOf m) with
        | (none, s) => (s, .fault { code := 0x0B, addr := va % 2 ^ 52 })
        | (some bs, s) =>
          let s := if semAcquires m then s.acquire v.who (scopeOf m) else s
          (s, loadedValue v s t (accessBytes m) bs)
    | _, none => (s, .value 0)

/-- ST in one lane (R324, R332). -/
def laneStore (v : Env) (s : State) : State × Res :=
  let va := globalAddr v.a v.c
  let m := v.f.m
  let bs := storeBytes m v.b
  if v.mismatch then (s, .fault (Why.pair va)) else
  match s.globalPlace v.who va (accessBytes m) .write 2 with
  | (.error r, s) => (s, r)
  | (.ok p, s) =>
    match if plainStore m then s.raceCheck v.who p va true else .ok s with
    | .error r => (s, r)
    | .ok s =>
      let s := if semReleases m then s.release v.who (scopeOf m) else s
      if s.stages v.who then
        match s.stage v.t (State.storeCharge bs.length) { op := .write bs, target := p.target, va := va % 2 ^ 52 } with
        | .error r => (s, r)
        | .ok s => (s, .done)
      else
        match p.target, p.at? with
        | .peer accel wpa, _ => (s.askPeer v.who accel wpa true 32 bs none false, .done)
        | _, some (sp, x) => (s.storeAt v.who sp x bs, .done)
        | _, none => (s, .done)

/-! Tiers -/

/-- LDL and STL in one lane (R325). -/
def laneLoadPrivate (v : Env) (s : State) : State × Res :=
  tierAddr v.a v.b 0 (fun o =>
    match s.loadPrivate v.who o (accessBytes v.f.m) with
    | (.ok bs, s) => (s, .value (loadValue v.f.m bs))
    | (.error r, s) => (s, r)) s
def laneStorePrivate (v : Env) (s : State) : State × Res :=
  if v.mismatch then (s, .fault (Why.pair v.a)) else
  tierAddr v.a v.c 2 (fun o =>
    match s.storePrivate v.who o (storeBytes v.f.m v.b) with
    | .ok s => (s, .done)
    | .error r => (s, r)) s

/-- Team and offset of a cluster-scratchpad address (R320), or its fault. -/
def clusterPlace (v : Env) (s : State) (o n flags : Nat) : Except Res (Nat × Nat) :=
  let l := s.launchOf v.t
  if o % n ≠ 0 then .error (.fault { code := 0x07, flags := flags, addr := o })
  else if bits o 31 27 ≠ 0 || l.clusterSize ≤ bits o 26 23 || l.desc.scratch < bits o 22 0 + n then
    .error (.fault { code := 0x02, flags := flags, addr := o, info := 3 })
  else
    match s.clusterTeam v.t (bits o 26 23) with
    | some t => .ok (t, bits o 22 0)
    | none => .ok (v.t, bits o 22 0)

/-- Team and offset of a scratchpad address (R299), or its fault. -/
def scratchPlace (v : Env) (s : State) (o n flags : Nat) : Except Res (Nat × Nat) :=
  match State.tierCheck o n (s.launchOf v.t).desc.scratch flags with
  | some r => .error r
  | none => .ok (v.t, o)

/-- A load of a scratchpad (R325): watchpoint, poison, value, acquire. -/
def laneLoadScratch (place : Env → State → Nat → Nat → Nat → Except Res (Nat × Nat)) (v : Env) (s : State) : State × Res :=
  let n := accessBytes v.f.m
  tierAddr v.a v.b 0 (fun o =>
    match place v s o n 0 with
    | .error r => (s, r)
    | .ok (t, x) =>
      match s.watchData v.t v.lit x n false with
      | some k => (s, .fault { code := 0x0F, info := k })
      | none =>
        if s.poisoned (.scratch t) x n then (s, .fault { code := 0x0B, addr := o, unit := 2, tier := true })
        else
          let bs := s.read (.scratch t) x n
          (if semAcquires v.f.m then s.acquire v.who (scopeOf v.f.m) else s, .value (loadValue v.f.m bs))) s

/-- A store to a scratchpad (R325). -/
def laneStoreScratch (place : Env → State → Nat → Nat → Nat → Except Res (Nat × Nat)) (v : Env) (s : State) : State × Res :=
  let bs := storeBytes v.f.m v.b
  if v.mismatch then (s, .fault (Why.pair v.a)) else
  tierAddr v.a v.c 2 (fun o =>
    match place v s o bs.length 2 with
    | .error r => (s, r)
    | .ok (t, x) =>
      match s.watchData v.t v.lit x bs.length true with
      | some k => (s, .fault { code := 0x0F, info := k })
      | none =>
        let s := if semReleases v.f.m then s.release v.who (scopeOf v.f.m) else s
        (s.write (.scratch t) x bs, .done)) s

/-- LDA in one lane (R326). -/
def laneLoadAcc (v : Env) (s : State) : State × Res :=
  let n := accessBytes v.f.m
  tierAddr v.a v.b 0 (fun o =>
    match State.tierCheck o n ((s.launchOf v.t).desc.accum * 65536) 0 with
    | some r => (s, r)
    | none =>
      if s.poisoned (.acc v.t) o n then (s, .fault { code := 0x0B, addr := o, unit := 2, tier := true })
      else (s, .value (loadValue v.f.m (s.read (.acc v.t) o n)))) s

/-! Atomics -/

/-- A tagged ATOM: C is not z (R330). -/
def isTagged (v : Env) : Bool := v.e.op % 128 == 0x10 && v.f.c != Opd.z

/-- D of an atomic (R330): a tagged one carries the status above the old value. -/
def atomResult (v : Env) (n old status : Nat) : Res := .value (if isTagged v then old + 2 ^ (8 * n) * status else old)

/-- What an atomic to peer memory sends: operand, and for CAS the new value. -/
def atomRequest (v : Env) (op : Nat) : List Byte := leBytes (atomBytes op) v.b ++ leBytes (if op < 16 then 0 else atomBytes op) v.c

/-- ATOM and CAS in one lane (R327, R329, R330, R332). -/
def laneAtomic (v : Env) (op : Nat) (s : State) : State × Res :=
  let n := atomBytes op
  let m := v.f.m
  let va := v.a
  if v.mismatch then (s, .fault (Why.pair va)) else
  match s.globalPlace v.who va n .both 10 with
  | (.error r, s) => (s, r)
  | (.ok p, s) =>
    if isTagged v && 2 ^ 15 ≤ v.c then (s, .fault .illegal)
    else if s.stages v.who then
      if v.f.d != Opd.z || isTagged v then (s, .fault .illegal)
      else
        let s := if semReleases m then s.release v.who (scopeOf m) else s
        match s.stage v.t 32 { op := .atom op v.b v.c, target := p.target, va := va % 2 ^ 52 } with
        | .error r => (s, r)
        | .ok s => (if semAcquires m then s.acquire v.who (scopeOf m) else s, .done)
    else
      let acq := fun (s : State) => if semAcquires m then s.acquire v.who (scopeOf m) else s
      let rel := fun (s : State) => if semReleases m then s.release v.who (scopeOf m) else s
      match p.target, p.at? with
      | .peer accel wpa, _ =>
        if v.f.d = Opd.z && !isTagged v then (acq ((rel s).askPeer v.who accel wpa true op (atomRequest v op) none false), .done)
        else
          match s.takeAnswer v.who with
          | (some (.ok bs), s) => (acq (rel s), atomResult v n (ofLe bs) 0)
          | (some .poison, s) => (s, .fault { code := 0x0B, flags := 10, addr := va % 2 ^ 52 })
          | (some .mismatch, s) => (acq (rel s), if isTagged v then atomResult v n 0 2 else .fault { code := 0x0B, flags := 10, addr := va % 2 ^ 52 })
          | (none, s) => (s, .value 0)
          | (_, s) => (acq (rel s), if isTagged v then atomResult v n 0 1 else .fault { code := 0x0B, flags := 10, addr := va % 2 ^ 52 })
      | _, some (sp, x) =>
        if s.poisoned sp x n then (s, .fault { code := 0x0B, flags := 10, addr := va % 2 ^ 52 })
        else
          let s := rel s
          let old := ofLe (s.read sp x n)
          let s := (s.storeAt v.who sp x (leBytes n (atomNew op old v.b v.c))).meter v.w 12 1
          (acq s, atomResult v n old 0)
      | _, none => (s, .done)

/-- What an ATOM or CAS waits for before its step. -/
def atomReady (op : Nat) (v : Env) (s : State) : State × Bool :=
  if !releaseReady v s (semReleases v.f.m) (scopeOf v.f.m) then (s, false)
  else if v.mismatch || s.stages v.who || (isTagged v && decide (2 ^ 15 ≤ v.c)) || (v.f.d == Opd.z && !isTagged v) then (s, true)
  else peerReady v s v.a (atomBytes op) .both true op (atomRequest v op) (if isTagged v then some (v.c % 2 ^ 16) else none)

/-- ATOMS in one lane (R327). -/
def laneAtomScratch (v : Env) (op : Nat) (s : State) : State × Res :=
  let n := atomBytes op
  let m := v.f.m
  if v.mismatch then (s, .fault (Why.pair v.a)) else
  match scratchPlace v s v.a n 10 with
  | .error r => (s, r)
  | .ok (t, x) =>
    match s.watchData v.t v.lit x n true with
    | some k => (s, .fault { code := 0x0F, info := k })
    | none =>
      if s.poisoned (.scratch t) x n then (s, .fault { code := 0x0B, flags := 10, addr := v.a, unit := 2, tier := true })
      else
        let s := if semReleases m then s.release v.who (scopeOf m) else s
        let old := ofLe (s.read (.scratch t) x n)
        let s := s.write (.scratch t) x (leBytes n (atomNew op old v.b 0))
        (if semAcquires m then s.acquire v.who (scopeOf m) else s, .value old)

/-! Bank operations and slots -/

/-- BANKOP in one lane (R333, R332). -/
def laneBankop (v : Env) (s : State) : State × Res :=
  let op := mbits v.f.m 7 5
  let et := mbits v.f.m 4 3
  let o := v.a
  let flags := if op = 0 then 0 else 2
  if op ≠ 0 && v.mismatch then (s, .fault (Why.pair o))
  else if o % 16 ≠ 0 then (s, .fault { code := 0x07, flags := flags, addr := o })
  else if s.windowSize v.w < o + 16 then (s, .fault { code := 0x02, flags := flags, addr := o, info := 3 })
  else if op ≠ 0 && s.stages v.who then
    if v.f.d != Opd.z then (s, .fault .illegal)
    else
      match s.stage v.t 32 { op := .bank op et v.b v.c, target := .device o, va := o } with
      | .error r => (s, r)
      | .ok s => (s, .done)
  else if s.poisoned (.window v.w) o 16 then (s, .fault { code := 0x0B, flags := flags, addr := o, tier := true })
  else
    let old := ofLe (s.ownView v.who (windowKey o) (s.read (.window v.w) o 16))
    ((if op = 0 then s else s.write (.window v.w) o (leBytes 16 (bankNew op et old v.b v.c))).meter v.w 12 1, .value old)

/-- Bytes of a REDSLOT operation (R334). -/
def slotBytes (op : Nat) : Nat := if op = 2 then 8 else 4

/-- REDSLOT in one lane (R334, R423). -/
def laneRedslot (v : Env) (s : State) : State × Res :=
  let op := mbits v.f.m 2 0
  let va := v.a
  if v.mismatch then (s, .fault (Why.pair va)) else
  match s.globalPlace v.who va (slotBytes op) .write 2 with
  | (.error r, s) => (s, r)
  | (.ok p, s) =>
    match v.who, p.target with
    | .lane t _, .device a =>
      if !(s.launchOf t).ordered then (s, .fault .illegal) else
      let x := s.team t
      match x.slots.find? fun e => e.va == va % 2 ^ 52 with
      | some e =>
        if e.op ≠ op then (s, .fault .illegal)
        else (s.setTeam t { x with slots := x.slots.map fun q => if q = e then { q with xs := q.xs ++ [v.b] } else q }, .done)
      | none =>
        match s.charge t 64 with
        | none => (s, .fault { code := 0x11 })
        | some s => (s.modTeam t fun x => { x with slots := x.slots ++ [⟨va % 2 ^ 52, .device a, op, [v.b]⟩] }, .done)
    | .lane t _, _ =>
      if (s.launchOf t).ordered then (s, .fault { code := 0x12, flags := 2, addr := va % 2 ^ 52 }) else (s, .fault .illegal)
    | _, _ => (s, .fault .illegal)

/-! Fences, prefetch, monitors -/

/-- FENCE in one lane (R335): KIND 0 .ar, 1 .acq, 2 .rel. -/
def laneFence (v : Env) (s : State) : State × Res :=
  let kind := mbits v.f.m 7 6
  let s := if kind ≠ 1 then s.release v.who (scopeOf v.f.m) else s
  (if kind ≠ 2 then s.acquire v.who (scopeOf v.f.m) else s, .done)

/-- PREFETCH in one lane (R337): it drops what would fault. -/
def lanePrefetch (v : Env) (s : State) : State × Res :=
  match s.translate v.w (s.quadOf v.who) (globalAddr v.a v.b) .read false with
  | (.error _, _) => (s, .done)
  | (.ok (p, _), s1) =>
    match p.at?, s.coreOf v.who with
    | some (sp, x), some c =>
      if v.f.m.getLsbD 0 && (s1.l1Find c sp (x / 128)).isNone && !s1.poisoned sp (x / 128 * 128) 128 then
        ((s1.l1Read c sp x 1 true).2, .done)
      else (s1, .done)
    | some _, none => (s1, .done)
    | none, _ => (s, .done)

/-- MONITOR in one lane (R338). -/
def laneMonitor (v : Env) (s : State) : State × Res :=
  let arm := fun (s : State) (sp : Space) (x : Nat) => s.modLaneOf v.who fun l => { l with armed := some ⟨sp, x / 128, false⟩ }
  if v.f.m.getLsbD 0 then
    match v.who with
    | .lane t _ =>
      tierAddr v.a v.b 0 (fun o =>
        if (s.launchOf t).desc.scratch ≤ o then (s, .fault { code := 0x02, addr := o, info := 3 })
        else (arm s (.scratch t) o, .done)) s
    | _ => (s, .fault .illegal)
  else
    let va := globalAddr v.a v.b
    match s.globalPlace v.who va 1 .read 0 with
    | (.error r, s) => (s, r)
    | (.ok p, s) =>
      match p.at? with
      | some (sp, x) => (arm s sp x, .done)
      | none => (s, .fault { code := 0x02, addr := va % 2 ^ 52 })

/-! The meanings -/


/-- LD (R324). -/
def opLd (op : Nat) (f : F2) (s : State) : Host.Outcome State Fault Refusal :=
  runLanes { e := .ld op f, f := f } s (fun _ => laneLoad)
    fun v s => peerReady v s (globalAddr v.a v.b) (accessBytes v.f.m) .read false 32 (zeros (accessBytes v.f.m)) none
def execLd (f : F1) (s : State) : Host.Outcome State Fault Refusal := opLd 0x00 f.widen s
def execLdW2 (f : F2) (s : State) : Host.Outcome State Fault Refusal := opLd 0x80 f s
/-- ST (R324). -/
def opSt (op : Nat) (f : F2) (s : State) : Host.Outcome State Fault Refusal :=
  runLanes { e := .st op f, f := f } s (fun _ => laneStore) fun v s => (s, releaseReady v s (semReleases v.f.m) (scopeOf v.f.m))
def execSt (f : F1) (s : State) : Host.Outcome State Fault Refusal := opSt 0x01 f.widen s
def execStW2 (f : F2) (s : State) : Host.Outcome State Fault Refusal := opSt 0x81 f s
/-- LDL (R325). -/
def opLdl (op : Nat) (f : F2) (s : State) : Host.Outcome State Fault Refusal :=
  runLanes { e := .ldl op f, f := f } s fun _ => laneLoadPrivate
def execLdl (f : F1) (s : State) : Host.Outcome State Fault Refusal := opLdl 0x02 f.widen s
def execLdlW2 (f : F2) (s : State) : Host.Outcome State Fault Refusal := opLdl 0x82 f s
/-- STL (R325). -/
def opStl (op : Nat) (f : F2) (s : State) : Host.Outcome State Fault Refusal :=
  runLanes { e := .stl op f, f := f } s fun _ => laneStorePrivate
def execStl (f : F1) (s : State) : Host.Outcome State Fault Refusal := opStl 0x03 f.widen s
def execStlW2 (f : F2) (s : State) : Host.Outcome State Fault Refusal := opStl 0x83 f s
/-- LDS (R325). -/
def opLds (op : Nat) (f : F2) (s : State) : Host.Outcome State Fault Refusal :=
  runLanes { e := .lds op f, f := f } s fun _ => laneLoadScratch scratchPlace
def execLds (f : F1) (s : State) : Host.Outcome State Fault Refusal := opLds 0x04 f.widen s
def execLdsW2 (f : F2) (s : State) : Host.Outcome State Fault Refusal := opLds 0x84 f s
/-- STS (R325). -/
def opSts (op : Nat) (f : F2) (s : State) : Host.Outcome State Fault Refusal :=
  runLanes { e := .sts op f, f := f } s (fun _ => laneStoreScratch scratchPlace)
    fun v s => (s, releaseReady v s (semReleases v.f.m) (scopeOf v.f.m))
def execSts (f : F1) (s : State) : Host.Outcome State Fault Refusal := opSts 0x05 f.widen s
def execStsW2 (f : F2) (s : State) : Host.Outcome State Fault Refusal := opSts 0x85 f s
/-- LDC (R325). -/
def opLdc (op : Nat) (f : F2) (s : State) : Host.Outcome State Fault Refusal :=
  runLanes { e := .ldc op f, f := f } s fun _ => laneLoadScratch clusterPlace
def execLdc (f : F1) (s : State) : Host.Outcome State Fault Refusal := opLdc 0x06 f.widen s
def execLdcW2 (f : F2) (s : State) : Host.Outcome State Fault Refusal := opLdc 0x86 f s
/-- STC (R325). -/
def opStc (op : Nat) (f : F2) (s : State) : Host.Outcome State Fault Refusal :=
  runLanes { e := .stc op f, f := f } s (fun _ => laneStoreScratch clusterPlace)
    fun v s => (s, releaseReady v s (semReleases v.f.m) (scopeOf v.f.m))
def execStc (f : F1) (s : State) : Host.Outcome State Fault Refusal := opStc 0x07 f.widen s
def execStcW2 (f : F2) (s : State) : Host.Outcome State Fault Refusal := opStc 0x87 f s
/-- LDA (R326). -/
def opLda (op : Nat) (f : F2) (s : State) : Host.Outcome State Fault Refusal :=
  runLanes { e := .lda op f, f := f } s fun _ => laneLoadAcc
def execLda (f : F1) (s : State) : Host.Outcome State Fault Refusal := opLda 0x08 f.widen s
def execLdaW2 (f : F2) (s : State) : Host.Outcome State Fault Refusal := opLda 0x88 f s
/-- ATOM (R327, R330). -/
def opAtom (op : Nat) (f : F2) (s : State) : Host.Outcome State Fault Refusal :=
  runLanes { e := .atom op f, f := f } s (fun _ v => laneAtomic v (mbits v.f.m 3 0)) fun v s => atomReady (mbits v.f.m 3 0) v s
def execAtom (f : F1) (s : State) : Host.Outcome State Fault Refusal := opAtom 0x10 f.widen s
def execAtomW2 (f : F2) (s : State) : Host.Outcome State Fault Refusal := opAtom 0x90 f s
/-- CAS (R329). -/
def opCas (op : Nat) (f : F2) (s : State) : Host.Outcome State Fault Refusal :=
  runLanes { e := .cas op f, f := f } s (fun _ v => laneAtomic v (16 + mbits v.f.m 0 0)) fun v s => atomReady (16 + mbits v.f.m 0 0) v s
def execCas (f : F2) (s : State) : Host.Outcome State Fault Refusal := opCas 0x91 f s
/-- ATOMS (R327). -/
def opAtoms (op : Nat) (f : F2) (s : State) : Host.Outcome State Fault Refusal :=
  runLanes { e := .atoms op f, f := f } s (fun _ v => laneAtomScratch v (mbits v.f.m 3 0))
    fun v s => (s, releaseReady v s (semReleases v.f.m) (scopeOf v.f.m))
def execAtoms (f : F1) (s : State) : Host.Outcome State Fault Refusal := opAtoms 0x12 f.widen s
def execAtomsW2 (f : F2) (s : State) : Host.Outcome State Fault Refusal := opAtoms 0x92 f s
/-- BANKOP (R333). -/
def opBankop (op : Nat) (f : F2) (s : State) : Host.Outcome State Fault Refusal :=
  runLanes { e := .bankop op f, f := f } s fun _ => laneBankop
def execBankop (f : F2) (s : State) : Host.Outcome State Fault Refusal := opBankop 0x98 f s
/-- REDSLOT (R334). -/
def opRedslot (op : Nat) (f : F2) (s : State) : Host.Outcome State Fault Refusal :=
  runLanes { e := .redslot op f, f := f } s fun _ => laneRedslot
def execRedslot (f : F2) (s : State) : Host.Outcome State Fault Refusal := opRedslot 0x99 f s
/-- PREFETCH (R337). -/
def opPrefetch (op : Nat) (f : F2) (s : State) : Host.Outcome State Fault Refusal :=
  runLanes { e := .prefetch op f, f := f } s fun _ => lanePrefetch
def execPrefetch (f : F1) (s : State) : Host.Outcome State Fault Refusal := opPrefetch 0x20 f.widen s
def execPrefetchW2 (f : F2) (s : State) : Host.Outcome State Fault Refusal := opPrefetch 0xA0 f s
/-- FENCE (R335). -/
def opFence (op : Nat) (f : F2) (s : State) : Host.Outcome State Fault Refusal :=
  runLanes { e := .fence op f, f := f } s (fun _ => laneFence) fun v s => (s, releaseReady v s (mbits v.f.m 7 6 != 1) (scopeOf v.f.m))
def execFence (f : F1) (s : State) : Host.Outcome State Fault Refusal := opFence 0x21 f.widen s
def execFenceW2 (f : F2) (s : State) : Host.Outcome State Fault Refusal := opFence 0xA1 f s
/-- TFENCE (R313, R336): every earlier store of the model is visible to every later walk already (log entry 9). -/
def opTfence (op : Nat) (f : F2) (s : State) : Host.Outcome State Fault Refusal :=
  runLanes { e := .tfence op f, f := f } s fun _ _ s => (s, .done)
def execTfence (f : F1) (s : State) : Host.Outcome State Fault Refusal := opTfence 0x22 f.widen s
def execTfenceW2 (f : F2) (s : State) : Host.Outcome State Fault Refusal := opTfence 0xA2 f s
/-- MONITOR (R338). -/
def opMonitor (op : Nat) (f : F2) (s : State) : Host.Outcome State Fault Refusal :=
  runLanes { e := .monitor op f, f := f } s fun _ => laneMonitor
def execMonitor (f : F1) (s : State) : Host.Outcome State Fault Refusal := opMonitor 0x23 f.widen s
def execMonitorW2 (f : F2) (s : State) : Host.Outcome State Fault Refusal := opMonitor 0xA3 f s

end Sys2Proof.Machine
end

