-- ==== Sys2Proof/Machine/Picker.lean ====
section
/-! DEFINITION. What moves next: the picker of a core (R202 to R210), the sequencers (R372), the turn of the control
programs (R127), the timeouts of JOIN and MWAIT, and the order in which the model tries them (log entry 2). -/

namespace Sys2Proof.Machine

namespace State

/-- A lane is of a gang in flight. -/
def inFlight (s : State) (t lit : Nat) : Bool := s.gangs.any fun (_, g) => g.team == t && g.lanes.contains lit

/-- The group of a lane holds an active slot (R202). -/
def groupActive (s : State) (t lit : Nat) : Bool :=
  (((s.team t).groups[lit / (s.launchOf t).width]?).bind (·.slot)).isSome

/-- Resident teams of a core. -/
def teamsAt (s : State) (c : Nat) : List Nat :=
  (s.teams.filter fun (_, x) => x.core == c && x.st == .resident).map (·.1)

end State

/-- A lane can be taken into a new gang, apart from its group's slot and the gangs in flight (R206). -/
def Lane.runnable (l : Lane) : Bool := l.st == .ready && !l.stopped

/-- Lanes that fuse: same header, whatever clause they come from (R212), or the same place in one clause, the same repeat,
the same displaced word (R205, R206). -/
def Lane.sameSpot (l m : Lane) : Bool :=
  l.inClause == m.inClause && l.pc == m.pc && (!l.inClause || l.hdr == m.hdr) && l.rep == m.rep && l.displaced == m.displaced

/-- The header at which a lane stands, or in whose clause it stands. -/
def Lane.header (l : Lane) : Nat := if l.inClause then l.hdr else l.pc

/-- A rank (R206): acceptance order of the launch, team linear index, lane in team. -/
abbrev Rank := Nat × Nat × Nat

/-- Lexicographic order on triples. -/
def rankLt (a b : Rank) : Bool :=
  a.1 < b.1 || (a.1 == b.1 && (a.2.1 < b.2.1 || (a.2.1 == b.2.1 && a.2.2 < b.2.2)))

namespace State

/-- The rank of a lane. -/
def rank (s : State) (t lit : Nat) : Rank := ((s.team t).launch, (s.team t).index, lit)

/-- The rank pair among lanes of one team linear index: earlier launch first, then the lane of at most 2,048 (R206). -/
def rankKey (s : State) (t lit : Nat) : Nat := (s.team t).launch * 2048 + lit

/-- The lanes of a team in ascending identity, by number, that new gangs can take: READY, in an active group, in no gang, and
without an interlock on a peer's bytes. -/
def freeLanes (s : State) (t : Nat) : List Nat :=
  (List.range (s.team t).lanes.length).filter fun lit =>
    (s.lane t lit).runnable && s.groupActive t lit && !s.inFlight t lit && !s.asking (.lane t lit)

/-- The progress lane of a core (R209). -/
def progressLane (s : State) (c : Nat) : Option (Nat × Nat) :=
  ((s.teamsAt c).flatMap fun t =>
    ((List.range (s.team t).lanes.length).filter fun lit => (s.lane t lit).runnable).map fun lit => (t, lit)).foldl
    (fun best p => match best with
      | none => some p
      | some b => if rankLt (s.rank p.1 p.2) (s.rank b.1 b.2) then some p else some b) none

/-- The groups of a core, as (team, group): those of its resident teams, and of the teams whose restore runs (R202). -/
def groupsAt (s : State) (c : Nat) : List (Nat × Nat) :=
  ((s.teams.filter fun (_, x) => x.core == c && (x.st == .resident || x.st == .restoring)).map (·.1)).flatMap fun t =>
    (List.range (s.team t).groups.length).map fun k => (t, k)

/-- The lanes of a group, by lane in team. -/
def groupLanes (s : State) (t k : Nat) : List Nat :=
  (List.range (s.launchOf t).width).map (k * (s.launchOf t).width + ·)

/-- A group has a READY lane. -/
def groupReady (s : State) (p : Nat × Nat) : Bool :=
  (s.team p.1).st == .resident && (s.groupLanes p.1 p.2).any fun lit => (s.lane p.1 lit).runnable

/-- A group's lanes have all exited (R204). -/
def groupExited (s : State) (p : Nat × Nat) : Bool := (s.groupLanes p.1 p.2).all fun lit => (s.lane p.1 lit).st == .exited

/-- The group of an active slot. -/
def slotGroup (s : State) (c slot : Nat) : Option (Nat × Nat) :=
  (s.groupsAt c).find? fun p => ((s.team p.1).groups.getD p.2 {}).slot == some slot

/-- The group in a slot may leave it: it is swappable (R203), or its lanes have exited (R204); or the slot is empty. -/
def slotOpen (s : State) (c slot : Nat) : Bool :=
  match s.slotGroup c slot with
  | none => true
  | some p => !s.groupReady p && !(s.groupLanes p.1 p.2).any (s.inFlight p.1)

/-- The oldest group of the pending set with a READY lane (R203). -/
def oldestPending (s : State) (c : Nat) : Option (Nat × Nat) :=
  ((s.groupsAt c).filter fun p =>
    ((s.team p.1).groups.getD p.2 {}).slot.isNone && s.groupReady p).foldl
    (fun best p =>
      let key := fun (q : Nat × Nat) => (((s.team q.1).groups.getD q.2 {}).pendingSince, (s.team q.1).index, q.2)
      match best with
      | none => some p
      | some b => if rankLt (key p) (key b) then some p else some b) none

/-- A slot that a pending group can enter now. -/
def swapSlot (s : State) (c : Nat) : Option Nat :=
  if (s.oldestPending c).isSome then (List.range 8).find? (s.slotOpen c) else none

/-- The age of a new gang led by a lane: the earliest ready cycle among the lanes at its spot (R206). -/
def spotAge (s : State) (t lit : Nat) : Nat :=
  (s.freeLanes t).foldl (fun n j => if (s.lane t j).sameSpot (s.lane t lit) then min n (s.lane t j).readyAt else n)
    (s.lane t lit).readyAt

end State

/-- What a core's picker takes. -/
inductive Pick where
  | gang (g : Nat)
  | event (i : Instr)
  deriving DecidableEq, Repr

/-- Smallest age, then team linear index, then rank (R206). -/
def bestOf (l : List (Rank × Pick)) : Option Pick :=
  (l.foldl (fun best p => match best with
    | none => some p
    | some b => if rankLt p.1 b.1 then some p else some b) (none : Option (Rank × Pick))).map (·.2)

namespace State

/-- A gang's next instruction has no interlock: nothing holds it, and none of its lanes waits for a token (R75, R205). -/
def gangFree (s : State) (g : Gang) : Bool := !g.stalled && !g.lanes.any fun lit => (s.lane g.team lit).st == .token

/-- The gangs in flight of a core without an interlock, with what R206 orders them by. -/
def flying (s : State) (c : Nat) : List (Rank × Pick) :=
  (s.gangs.filter fun (_, g) => g.core == c && s.gangFree g).map fun (k, g) =>
    ((g.began, (s.team g.team).index, s.rankKey g.team (g.lanes.headD 0)), Pick.gang k)

/-- The slot whose group the progress override displaces: no lane in a gang in flight, and the highest lowest lane rank
(R210); an empty slot first. -/
def displaceable (s : State) (c : Nat) : Option Nat :=
  match (List.range 8).find? fun k => (s.slotGroup c k).isNone with
  | some k => some k
  | none =>
    ((List.range 8).foldl (fun (best : Option (Nat × Rank)) k =>
      match s.slotGroup c k with
      | none => best
      | some p =>
        if (s.groupLanes p.1 p.2).any (s.inFlight p.1) then best else
        let r := s.rank p.1 (p.2 * (s.launchOf p.1).width)
        match best with
        | none => some (k, r)
        | some b => if rankLt b.2 r then some (k, r) else best) none).map (·.1)

/-- The picker's choice on a core: a swap, the progress override, or the candidate that R206 puts first. -/
def pick (s : State) (c : Nat) : Option Pick :=
  match s.swapSlot c with
  | some slot => some (.event (.groupSwap c slot))
  | none =>
    if 1024 ≤ s.progress.get 0 c then
      match s.progressLane c with
      | none => none
      | some (t, lit) =>
        if !s.override.contains c || (!s.groupActive t lit && (s.displaceable c).isSome) then some (.event (.progressOverride c))
        else if !s.groupActive t lit then bestOf (s.flying c)
        else
          match s.gangs.find? fun (_, g) => g.team == t && g.lanes.contains lit with
          | some (g, x) => if s.gangFree x then some (.gang g) else none
          | none => if s.asking (.lane t lit) then none else some (.event (.clauseFetch c t (s.lane t lit).header))
    else
      let gangs := s.flying c
      let fresh := (s.teamsAt c).flatMap fun t => (s.freeLanes t).map fun lit =>
        ((s.spotAge t lit, (s.team t).index, s.rankKey t lit), Pick.event (.clauseFetch c t (s.lane t lit).header))
      bestOf (gangs ++ fresh)

/-- A gang holds the progress lane of its core (R210). -/
def hasProgress (s : State) (g : Gang) : Bool :=
  match s.progressLane g.core with
  | some (pt, pl) => pt == g.team && g.lanes.contains pl
  | none => false

/-- The counter C of R210 at an issue cycle of a core: zero when the issued gang held the progress lane. -/
def countProgress (s : State) (c : Nat) (held : Bool) : State :=
  if held then { s with progress := s.progress.put 0 c 0, override := s.override.filter (· != c) }
  else { s with progress := s.progress.put 0 c (s.progress.get 0 c + 1) }

/-- A control program runs: its world is RUNNING (R33), and it is neither stopped, parked, faulted nor waiting for an event. One
that waits for its code to start may still come into place while the world is QUIESCED. -/
def progRuns (s : State) (w : Nat) : Bool := ((s.world w).st == .running || (s.prog w).starting) && (s.prog w).st == .running

/-- A control program can move: it runs, and waits neither in MWAIT nor for a token or a peer's bytes. -/
def progReady (s : State) (w : Nat) : Bool :=
  let p := s.prog w
  s.progRuns w && !s.asking (.prog w) &&
    (p.lane.st == .ready || (p.lane.st == .mwait && p.lane.mwLimit != 0 && decide (p.lane.since + p.lane.mwLimit ≤ s.cycle)))

/-- The control program that has the turn on a control core (R127): from the position of the turn on, the first that runs. It
keeps the turn while it waits in MWAIT or for a token, which end no turn. -/
def turnWorld (s : State) (c : Nat) : Option Nat :=
  let sl := s.slice c
  ((List.range 6).map fun k => sl.wlist.getD ((sl.turnPos + k) % 6) 0).find? fun w => w != 0 && s.progRuns w

/-- The program that moves has the turn. -/
def takeTurn (s : State) (w : Nat) : State :=
  let c := (s.world w).ctl
  let k := (s.slice c).wlist.findIdx (· == w) % 6
  if (s.slice c).turnPos = k then s else s.modSlice c fun x => { x with turnPos := k, turnCount := 0 }

/-- A timeout that has run out: JOIN after 64 cycles (R213), MWAIT after its limit (R279). -/
def timeout (s : State) : Option Instr :=
  s.teams.findSome? fun (t, x) =>
    (List.range x.lanes.length).findSome? fun lit =>
      let l := s.lane t lit
      if l.st = .join && l.since + 64 ≤ s.cycle then some (.joinTimeout t lit)
      else if l.st = .mwait && l.mwLimit ≠ 0 && l.since + l.mwLimit ≤ s.cycle then some (.mwaitTimeout t lit)
      else none

/-- The agents that can move, in the order of log entry 2: cores, sequencers, control programs. -/
def movers (s : State) : List Move :=
  ((List.range 128).filter fun c => !(s.teamsAt c).isEmpty && (s.pick c).isSome).map Move.core ++
    ((s.teams.filter fun (t, x) => x.st == .resident && x.rollback.isNone && !s.asking (.seq t) &&
        (x.seq.map fun q => q.st == .running && !q.stopped).getD false).map fun e => Move.seq e.1) ++
    (s.slices.filterMap fun (c, _) => (s.turnWorld c).filter s.progReady).map Move.prog

/-- The words that the executing agent decodes next, with the class of its clause. -/
def wordsAt (s : State) : Option (Nat × List Word) :=
  let of := fun (c : Clause) => (c.cls, c.words.drop c.pos)
  match s.cur with
  | some (.gang g) => (s.gang g).map fun x => of x.clause
  | some (.seq t) => (s.seqOf t).clause.map of
  | some (.prog w) => (s.prog w).clause.map of
  | _ => none

/-- What still happens while the package is frozen (R469) or its bring-up has failed (R52, R65): the management port,
resets and the loss of power. -/
def alive (s : State) (i : Instr) : Bool :=
  match i with
  | .coldReset _ | .powerLoss | .freezeReadout | .lifetimeCounterRead _ | .powerTelemetry => true
  | .firmwareStaging _ _ _ | .stageDone _ | .configurationRequest _ | .powerDown => s.frozen.isNone
  | _ => s.frozen.isNone && s.up

/-- The moves that are no operation: time, the host's translation tables and masks, and an evicted translation. -/
def outside (s : State) (m : Move) : State :=
  match m with
  | .time ns cycles =>
    let clock := s.clock + ns
    let ends := match s.upAt with
      | some t => decide (t ≤ clock)
      | none => false
    { s with
      clock := clock, cycle := if s.frozen.isSome then s.cycle else s.cycle + cycles
      up := s.up || ends, upAt := if ends then none else s.upAt }
  | .ats w pasid page host =>
    let rest := s.atsTable.filter fun e => !(e.1 == (w, pasid) && e.2.1 == page)
    { s with atsTable := match host with
        | some h => rest ++ [((w, pasid), page, h)]
        | none => rest }
  | .flash image bank signed version =>
    let k := 2 * image + bank % 2
    let x := s.banks.get {} k
    { s with banks := s.banks.insert k { x with signed := signed, version := version } }
  | .fuse image version => if s.up then s else { s with fuses := s.fuses.put 0 image version }
  | .tlbEvict q w vpage => { s with tlb := s.tlb.filter fun e => !(e.quad == q && e.world == w && e.vpage == vpage) }
  | .mask w v on =>
    if on then s.modWorld w fun x => { x with unmasked := x.unmasked.filter (· != v) }
    else
      let due := (s.world w).pendingVectors.contains v
      let s := s.modWorld w fun x =>
        { x with unmasked := if x.unmasked.contains v then x.unmasked else x.unmasked ++ [v], pendingVectors := x.pendingVectors.filter (· != v) }
      if due then s.send (.msix w v) else s
  | _ => s

end State

end Sys2Proof.Machine
end

