-- ==== Sys2Proof/Machine/Teams.lean ====
section
/-! DEFINITION. What lanes do together: barriers (R283 to R286), JOIN and CONVERGE (R213, R214), the exit of a lane and
the retirement of a team (R277, R488), and the stopping of a team at its safe points (R217, R373). -/

namespace Sys2Proof.Machine

/-- Barriers by number: 0 TB, 1 CB, 2 + k NBk (R283). -/
def barTb : Nat := 0
def barCb : Nat := 1
def barNb (k : Nat) : Nat := 2 + k

/-- The scope of a barrier's release and acquire (R285): 0 team, 1 cluster. -/
def barScope (x : Nat) : Nat := if x = barCb then 1 else 0

namespace State

/-- P(X) of R283, as the team sees it. -/
def phase (s : State) (t x : Nat) : Nat :=
  if x = barCb then (s.launchOf t).cb.get 0 (s.team t).cluster else (s.team t).phase.get 0 x

/-- The non-exited lanes of a team, by lane in team. -/
def liveLanes (s : State) (t : Nat) : List Nat :=
  (List.range (s.team t).lanes.length).filter fun lit => (s.lane t lit).st != .exited

/-- The team's sequencer runs (R283: from its start until its SQEXIT retires). -/
def seqLive (s : State) (t : Nat) : Bool := ((s.team t).seq.map fun q => q.st != .exited).getD false

/-- The teams that share a barrier: for CB those of the cluster. The lanes of a retired team have all exited, and nobody
expects them (R283). -/
def barTeams (s : State) (t x : Nat) : List Nat :=
  let y := s.team t
  if x = barCb then
    (s.teams.filter fun (_, z) => z.launch == y.launch && z.cluster == y.cluster && z.st != .gone && z.st != .retired).map (·.1)
  else [t]

/-- Every expected party of a team has arrived at barrier X. -/
def teamArrived (s : State) (t x : Nat) : Bool :=
  let n := s.phase t x + 1
  (s.liveLanes t).all (fun lit => (s.lane t lit).arrived.get 0 x == n) &&
    (x < 2 || !s.seqLive t || ((s.seqOf t).arrived.get 0 x == n && !(s.seqOf t).held.any (·.1 == x)))

/-- A team takes part in barriers: it is resident, and no save or rollback of it is pending (R286), nor a snapshot, which stops
its sequencer in BARRIER at once (R373). -/
def barOpen (s : State) (t : Nat) : Bool :=
  let y := s.team t
  y.st == .resident && y.savePending.isNone && y.rollback.isNone && !y.snapshot

/-- The phase of X completes now (R283). -/
def barFull (s : State) (t x : Nat) : Bool :=
  let ts := s.barTeams t x
  ts.all (fun u => s.barOpen u && s.teamArrived u x) &&
    ts.any fun u => !(s.liveLanes u).isEmpty || (2 ≤ x && s.seqLive u)

/-- The lanes that wait at X in a team leave BARRIER; their instruction runs once more and completes. -/
def wakeBar (s : State) (t x p : Nat) : State :=
  s.modTeam t fun y => { y with lanes := y.lanes.map fun l =>
    if l.st = .barrier && l.bar = x then { l with st := .ready, readyAt := s.cycle, woken := some p } else l }

/-- The sequencer leaves BARRIER: its AWAIT writes N and its clause goes on (R398). -/
def wakeSeq (s : State) (t x p : Nat) : State :=
  let q := s.seqOf t
  if q.st = .barrier && q.bar = x then
    match q.clause with
    | some cl =>
      let s := s.modSeq t fun q => { q.writeOpd q.barD 1 p with st := .running, dist := q.dist + 1 }
      seqAdvance s t (cl.advance 1 none) none
    | none => s.modSeq t fun q => { q with st := .running }
  else s

/-- P(X) rises by one and those who wait leave. -/
def completePhase (s : State) (t x : Nat) : State :=
  let p := s.phase t x + 1
  if x = barCb then
    let ts := s.barTeams t x
    let s := s.modLaunch (s.team t).launch fun l => { l with cb := l.cb.put 0 (s.team t).cluster p }
    ts.foldl (fun s u => s.wakeBar u x p) (s.advanceG (s.team t).launch)
  else
    ((s.modTeam t fun y => { y with phase := y.phase.put 0 x p }).wakeBar t x p).wakeSeq t x p

/-- Completes the phases that are full. At TB of a guarded launch the snapshot comes first (R461), except for the
completion that ends a rollback (R463); it finds every lane at its TBAR, so it waits for those that a restore has run their
Primers. -/
def checkBar (s : State) (t x : Nat) : State :=
  if !s.barFull t x then s
  else if x = barTb && (s.launchOf t).guarded then
    if (s.liveLanes t).any fun lit => (s.lane t lit).waits then s
    else if (s.team t).replaying then (s.completePhase t x).modTeam t fun y => { y with replaying := false }
    else s.modTeam t fun y => { y with snapshot := true }
  else s.completePhase t x

/-- Every barrier that the team takes part in. -/
def checkBars (s : State) (t : Nat) : State := (List.range 18).foldl (fun s x => s.checkBar t x) s

/-- Records an arrival of a lane, with its release (R284, R285). -/
def arrive (s : State) (t lit x : Nat) : State :=
  let p := s.phase t x
  (s.modLane t lit fun l => { l with arrived := l.arrived.put 0 x (p + 1) }).release (.lane t lit) (barScope x)

/-! JOIN and CONVERGE -/

/-- The non-exited lanes of a group. -/
def liveOf (s : State) (t k : Nat) : List Nat := (s.groupLanes t k).filter fun lit => (s.lane t lit).st != .exited

/-- Every non-exited lane of the group stands at the header of a lane in JOIN, whatever its state: those in JOIN become READY,
and none waits there any more (R213). -/
def checkJoin (s : State) (t k : Nat) : State :=
  let ls := s.liveOf t k
  match ls.find? fun lit => (s.lane t lit).st == .join with
  | none => s
  | some l0 =>
    if ls.all fun lit => !(s.lane t lit).inClause && (s.lane t lit).pc == (s.lane t l0).pc then
      ls.foldl (fun s lit => s.modLane t lit fun l =>
        if l.st = .join then { l with st := .ready, readyAt := s.cycle, passJ := true } else { l with passJ := true }) s
    else s

/-- Every non-exited lane of the group stands at one header in CONVERGE: they become READY (R214). -/
def checkConverge (s : State) (t k : Nat) : State :=
  let ls := s.liveOf t k
  match ls with
  | [] => s
  | l0 :: _ =>
    if ls.all fun lit => (s.lane t lit).st == .converge && (s.lane t lit).pc == (s.lane t l0).pc then
      ls.foldl (fun s lit => s.modLane t lit fun l => { l with st := .ready, readyAt := s.cycle }) s
    else s

/-! Exit and retirement -/

/-- The team retires (R488): its tiles end, it leaves its cores and its save slot; with staging, what it staged waits for
the Varnish, unless the launch has failed and releases nothing more (R429). -/
def retireTeam (s : State) (t : Nat) : State :=
  let x := s.team t
  let l := x.launch
  let s := s.modLaunch l fun y => { y with retired := y.retired + 1 }
  if (s.launch l).staging && (s.launch l).st != .failing then
    let kept := fun (s : State) => s.modTeam t fun y =>
      { y with st := .retired, staged := x.staged.map fun e => { e with eligible := true }, slots := x.slots, account := x.account }
    (kept (s.removeTeam t)).pushOnce (.varnishRelease l)
  else (s.removeTeam t).pushOnce (.launchComplete l)

/-- A team all of whose lanes have exited, and its sequencer, retires. -/
def checkRetire (s : State) (t : Nat) : State :=
  let x := s.team t
  if x.st = .resident && x.rollback.isNone && (s.liveLanes t).isEmpty && !s.seqLive t then s.retireTeam t else s

/-- A lane's EXIT retires (R277): the exited lane counts nowhere any more (R204, R213, R214, R283). -/
def exitLane (s : State) (t lit : Nat) : State :=
  let k := lit / (s.launchOf t).width
  let s := (s.leaveGang t lit).modLane t lit fun l => { l with st := .exited, armed := none, rep := none, inClause := false }
  ((((s.checkJoin t k).checkConverge t k).checkBars t).checkRetire t).wakeGangs

/-! Stopping -/

/-- A save, or the end of a failed launch, stops the team at its safe points. -/
def stopping (s : State) (t : Nat) : Bool := (s.team t).savePending.isSome || (s.team t).ending

/-- A save, an end or a snapshot of the team is pending (R217, R373). -/
def pausing (s : State) (t : Nat) : Bool := s.stopping t || (s.team t).snapshot

/-- A lane leaves a barrier (R285): the matching acquire. That of NBk matches the sequencer's arrival too, whose drains to
global memory the core's L1 may not hide (R302). -/
def leaveBar (s : State) (a : Agent) (t x : Nat) : State :=
  if 2 ≤ x && (s.team t).drained then s.l1Flush (s.team t).core else s.acquire a (barScope x)

/-- A lane stands where a save takes it (R217). -/
def laneStopped (l : Lane) : Bool :=
  match l.st with
  | .barrier | .mwait | .parked | .halted | .exited | .converge => true
  | .ready => l.stopped
  | .token | .join => false

/-- The sequencer stands where a save takes it, with no pass of the team in flight (R373). -/
def seqStopped (s : State) (t : Nat) : Bool :=
  !s.passes.any (fun (_, p) => p.team == t) &&
    match (s.team t).seq with
    | none => true
    | some q =>
      match q.st with
      | .running => q.stopped
      | .posting => false
      | _ => true

/-- The team's copies stand still: no piece is issued, and no COMBINE runs (R441 step 2). -/
def copiesStopped (s : State) (t : Nat) : Bool :=
  !s.copies.any fun (_, c) => !agentNotOf t c.who && c.pending && (c.op == 5 || c.pieces.contains .issued)

/-- All of a stopping team stands still. -/
def teamStopped (s : State) (t : Nat) : Bool :=
  (s.team t).lanes.all laneStopped && s.seqStopped t && s.copiesStopped t

/-- A pending save of a team can be taken: every rank of its cluster with a pending save has stopped too, so that no running
rank reaches for the scratchpad of a saved one (R325). -/
def clusterStopped (s : State) (t : Nat) : Bool :=
  s.teamStopped t && s.teams.all fun e =>
    e.2.launch != (s.team t).launch || e.2.cluster != (s.team t).cluster || e.2.savePending.isNone ||
      (e.2.st == .resident && s.teamStopped e.1)

/-- A save that stops a team releases its joins (R213) and its waiting sequencer. -/
def releaseJoins (s : State) (t : Nat) : State :=
  s.modTeam t fun y => { y with lanes := y.lanes.map fun l =>
    if l.st = .join then { l with st := .ready, readyAt := s.cycle, passJ := true } else l }

end State

end Sys2Proof.Machine
end

