-- ==== Sys2Proof/Machine/Control.lean ====
section
/-! DEFINITION. The control instructions of class 4 (R274 to R286) and BRK (R179, R282). -/

namespace Sys2Proof.Machine

/-- A code address relative to a clause header (R172); a PC has 52 bits (R72). -/
def codeAt (hdr : Nat) (off : Int) : Nat := wrapInt 52 (hdr + off)
/-- The target of a 24-bit word offset, and of a 32-bit byte offset. -/
def target24 (hdr : Nat) (off : BitVec 24) : Nat := codeAt hdr (4 * off.toInt)
def target32 (hdr : Nat) (off : BitVec 32) : Nat := codeAt hdr off.toInt

/-- A transfer to the PCs that the two lanes of a pair compute (R275): fault 0x0A when they differ. -/
def transfer (v : Env) (s : State) (pc pc' : Nat) : State × Res :=
  if v.prot && pc != pc' then (s, .fault { code := 0x0A, addr := v.pc }) else (s, .jump pc)

/-- A branch on a condition of A and B (R275). -/
def runBranch (op : Nat) (a b : Opd) (off : BitVec 32) (s : State) (c : Nat → Nat → Bool) : Host.Outcome State Fault Refusal :=
  runLanes { e := Entry.compare 4 op, f := F2.cmp a b, lit := off.toNat % 4 == 0 } s fun _ v s =>
    let go := fun (x y : Nat) => if c x y then target32 v.hdr off else v.next
    transfer v s (go v.a v.b) (go v.a' v.b')

def execBeq (a b : Opd) (off : BitVec 32) (s : State) : Host.Outcome State Fault Refusal := runBranch 0x80 a b off s fun x y => x == y
def execBne (a b : Opd) (off : BitVec 32) (s : State) : Host.Outcome State Fault Refusal := runBranch 0x81 a b off s fun x y => x != y
def execBlt (a b : Opd) (off : BitVec 32) (s : State) : Host.Outcome State Fault Refusal :=
  runBranch 0x82 a b off s fun x y => decide (sext 32 x < sext 32 y)
def execBge (a b : Opd) (off : BitVec 32) (s : State) : Host.Outcome State Fault Refusal :=
  runBranch 0x83 a b off s fun x y => decide (sext 32 y ≤ sext 32 x)
def execBltn (a b : Opd) (off : BitVec 32) (s : State) : Host.Outcome State Fault Refusal := runBranch 0x84 a b off s fun x y => decide (x < y)
def execBgen (a b : Opd) (off : BitVec 32) (s : State) : Host.Outcome State Fault Refusal := runBranch 0x85 a b off s fun x y => decide (y ≤ x)

/-- BRA (R275). -/
def execBra (off : BitVec 24) (s : State) : Host.Outcome State Fault Refusal :=
  runLanes { e := Entry.bare 4 0x06, f := F2.none } s fun _ v s => (s, .jump (target24 v.hdr off))
/-- BRA, two words (R275). -/
def execBraW2 (off : BitVec 32) (s : State) : Host.Outcome State Fault Refusal :=
  runLanes { e := Entry.bare 4 0x86, f := F2.none, lit := off.toNat % 4 == 0 } s fun _ v s => (s, .jump (target32 v.hdr off))

/-- A target in a register pair (R172): bits [63:52] are ignored and bits [1:0] must be zero. -/
def registerTarget (v : Env) (s : State) (k : Nat → State × Res) : State × Res :=
  let pc := v.a % 2 ^ 52
  if v.prot && pc != v.a' % 2 ^ 52 then (s, .fault { code := 0x0A, addr := v.pc })
  else if pc % 4 ≠ 0 then (s, .fault { code := 0x07, addr := pc })
  else k pc

/-- BRX (R275). -/
def execBrx (f : F1) (s : State) : Host.Outcome State Fault Refusal :=
  runLanes { e := .brx 0x07 f.widen, f := f.widen } s fun _ v s => registerTarget v s fun pc => (s, .jump pc)

/-- The push of a return address (R77, R276), and the transfer. -/
def callTo (v : Env) (s : State) (pc : Nat) : State × Res :=
  let sp := (s.laneOf v.who).sptr.toNat
  if sp < 8 then (s, .fault { code := 0x02, flags := 2, addr := (sp + 2 ^ 32 - 8) % 2 ^ 32, info := 3 })
  else
    match s.storePrivate v.who (sp - 8) (leBytes 8 v.next) with
    | .error r => (s, r)
    | .ok s => (s.modLaneOf v.who fun l => { l with sptr := BitVec.ofNat 32 (sp - 8) }, .jump pc)

/-- CALL (R276). -/
def execCall (off : BitVec 24) (s : State) : Host.Outcome State Fault Refusal :=
  runLanes { e := Entry.bare 4 0x08, f := F2.none } s fun _ v s => callTo v s (target24 v.hdr off)
/-- CALL, two words (R276). -/
def execCallW2 (off : BitVec 32) (s : State) : Host.Outcome State Fault Refusal :=
  runLanes { e := Entry.bare 4 0x88, f := F2.none, lit := off.toNat % 4 == 0 } s fun _ v s => callTo v s (target32 v.hdr off)
/-- CALLX (R276). -/
def execCallx (f : F1) (s : State) : Host.Outcome State Fault Refusal :=
  runLanes { e := .callx 0x09 f.widen, f := f.widen } s fun _ v s => registerTarget v s (callTo v s)

/-- RET in one lane (R77, R276). -/
def laneRet (v : Env) (s : State) : State × Res :=
  let sp := (s.laneOf v.who).sptr.toNat
  match s.loadPrivate v.who sp 8 with
  | (.error r, s) => (s, r)
  | (.ok bs, s) =>
    let pc := ofLe bs % 2 ^ 52
    if pc % 4 ≠ 0 then (s, .fault { code := 0x07, addr := pc })
    else (s.modLaneOf v.who fun l => { l with sptr := BitVec.ofNat 32 (sp + 8) }, .jump pc)
/-- RET (R276). -/
def execRet (f : F1) (s : State) : Host.Outcome State Fault Refusal :=
  runLanes { e := .ret 0x0A f.widen, f := f.widen } s fun _ => laneRet

/-- A token of the agent is in a state. -/
def anyToken (l : Lane) (st : TokSt) : Bool := (List.range 6).any fun k => (l.tokens.get {} k).st == st

/-- EXIT in one lane (R277); on the control core it stops the program. -/
def laneExit (v : Env) (s : State) : State × Res :=
  if anyToken (s.laneOf v.who) .faulted then (s, .fault .illegal) else
  match v.who with
  | .lane t lit => (s.exitLane t lit, .done)
  | .prog w => (s.modProg w fun p => { p with st := .stopped, clause := none }, .done)
  | _ => (s, .done)
/-- A stall on a PENDING token: the lane waits in TOKEN, and its gang with it (R75, R205, R216). -/
def tokenStall (s : State) (a : Agent) : State × Bool := (s.modLaneOf a fun l => { l with st := .token }, false)

/-- EXIT (R277): it stalls while a token is PENDING. -/
def execExit (f : F1) (s : State) : Host.Outcome State Fault Refusal :=
  runLanes { e := .exit 0x10 f.widen, f := f.widen } s (fun _ => laneExit)
    fun v s => if anyToken (s.laneOf v.who) .pending then tokenStall s v.who else (s, true)

/-- YIELD (R278): the gang yields after the clause. -/
def execYield (f : F1) (s : State) : Host.Outcome State Fault Refusal :=
  runLanes { e := .yield 0x11 f.widen, f := f.widen } s fun _ _ s =>
    match s.cur with
    | some (.gang g) => ({ s with gangs := s.gangs.map fun (k, x) => (k, if k = g then { x with yields := true } else x) }, .done)
    | _ => (s, .done)

/-- MWAIT in one lane (R279). A woken lane runs it once more, and a control program looks again at its turn. -/
def laneMwait (v : Env) (s : State) : State × Res :=
  let l := s.laneOf v.who
  let scope := mbits v.f.m 2 0
  let leave := fun (d : Nat) =>
    let s := s.modLaneOf v.who fun l => { l with st := .ready }
    (if scope = 0 then s else s.acquire v.who (scope - 1), Res.value d)
  match l.woken with
  | some d => leave d
  | none =>
    if l.st = .mwait then
      if l.mwLimit ≠ 0 && l.since + l.mwLimit ≤ s.cycle then leave 1 else (s, .wait)
    else
      match l.armed with
      | none => (s, .value 3)
      | some r =>
        if r.written then (s, .value 0)
        else
          let enter := fun (l : Lane) => { l with st := .mwait, since := s.cycle, mwLimit := v.a, rep := none }
          match v.who with
          | .lane t lit => ((s.leaveGang t lit).modLane t lit enter, .wait)
          | .prog w => (s.modProg w fun p => { p with lane := enter p.lane }, .wait)
          | _ => (s, .value 0)
/-- MWAIT (R279). -/
def opMwait (op : Nat) (f : F2) (s : State) : Host.Outcome State Fault Refusal :=
  runLanes { e := .mwait op f, f := f } s fun _ => laneMwait
def execMwait (f : F1) (s : State) : Host.Outcome State Fault Refusal := opMwait 0x12 f.widen s
def execMwaitW2 (f : F2) (s : State) : Host.Outcome State Fault Refusal := opMwait 0x92 f s

/-- TRAP (R280): fault 0x0C with A and CODE. -/
def opTrap (op : Nat) (f : F2) (s : State) : Host.Outcome State Fault Refusal :=
  runLanes { e := .trap op f, f := f } s fun _ v s => (s, .fault { code := 0x0C, info := v.a, tcode := v.f.m.toNat })
def execTrap (f : F1) (s : State) : Host.Outcome State Fault Refusal := opTrap 0x18 f.widen s
def execTrapW2 (f : F2) (s : State) : Host.Outcome State Fault Refusal := opTrap 0x98 f s

/-- FLAG_EN of an agent's kernel (R80, R124, R281). -/
def flagEnOf (s : State) (a : Agent) : BitVec 5 :=
  match a with
  | .lane t _ => (s.launchOf t).desc.flagEn
  | .prog w => (s.prog w).flagEn
  | _ => 0

/-- TRAPFENCE (R281); in a protected launch the flags are the OR of the two copies (R248). -/
def execTrapfence (f : F1) (s : State) : Host.Outcome State Fault Refusal :=
  runLanes { e := .trapfence 0x19 f.widen, f := f.widen } s fun _ v s =>
    let l := s.laneOf v.who
    let flags := if v.prot then l.flags ||| l.sflags else l.flags
    if flags &&& flagEnOf s v.who ≠ 0 then (s, .fault { code := 0x0D, info := flags.toNat })
    else (s, .ok flags.toNat flags.toNat 0 0)

/-! Barriers -/

/-- TBAR, CBAR and AWAIT in one lane (R284): arrive once, wait in BARRIER, and complete after the phase. Where a restore has
the instruction run again, its arrival is recorded and it only waits, for a phase that may be complete (R286, R463). -/
def laneBar (v : Env) (x : Nat) (s : State) : State × Res :=
  match v.who with
  | .lane t lit =>
    let l := s.lane t lit
    let again := l.waits && l.arrived.get 0 x == s.phase t x
    if l.woken.isSome || again then
      ((s.modLane t lit fun l => { l with waits := false }).leaveBar v.who t x, .value (l.arrived.get 0 x))
    else
      let s := if !l.waits && l.arrived.get 0 x = s.phase t x then s.arrive t lit x else s
      let s := (s.leaveGang t lit).modLane t lit fun l => { l with st := .barrier, bar := x, rep := none, waits := false }
      (s.checkBar t x, .wait)
  | _ => (s, .fault .illegal)

/-- TBAR (R284). -/
def execTbar (f : F1) (s : State) : Host.Outcome State Fault Refusal :=
  runLanes { e := .tbar 0x20 f.widen, f := f.widen } s fun _ v => laneBar v barTb
/-- CBAR (R284). -/
def execCbar (f : F1) (s : State) : Host.Outcome State Fault Refusal :=
  runLanes { e := .cbar 0x21 f.widen, f := f.widen } s fun _ v => laneBar v barCb
/-- AWAIT (R284). -/
def execAwait (f : F1) (s : State) : Host.Outcome State Fault Refusal :=
  runLanes { e := .await 0x23 f.widen, f := f.widen } s fun _ v s =>
    if 16 ≤ v.a then (s, .fault .illegal) else laneBar v (barNb v.a) s
/-- ARRIVE in one lane (R284). -/
def laneArrive (v : Env) (s : State) : State × Res :=
  match v.who with
  | .lane t lit =>
    if 16 ≤ v.a || (s.lane t lit).arrived.get 0 (barNb v.a) = s.phase t (barNb v.a) + 1 then (s, .fault .illegal)
    else ((s.arrive t lit (barNb v.a)).checkBar t (barNb v.a), .done)
  | _ => (s, .fault .illegal)
/-- ARRIVE (R284). -/
def execArrive (f : F1) (s : State) : Host.Outcome State Fault Refusal :=
  runLanes { e := .arrive 0x22 f.widen, f := f.widen } s fun _ => laneArrive

/-- BRK (R179, R282): fault 0x0E with CODE, in a lane, a control program or a sequencer. -/
def execBrk (code : BitVec 16) (skip : Bool) (s : State) : Host.Outcome State Fault Refusal :=
  match s.cur with
  | some (.seq _) => runSeq { e := Entry.bare 7 0x7F, f := F2.none, skip := skip } s fun _ s => (s, .fault { code := 0x0E, info := code.toNat })
  | _ => runLanes { e := Entry.bare 7 0x7F, f := F2.none, skip := skip } s fun _ _ s => (s, .fault { code := 0x0E, info := code.toNat })

end Sys2Proof.Machine
end

