-- ==== Sys2Proof/Machine/Queue.lean ====
section
/-! DEFINITION. What the device reads and writes by VA on a world's behalf, launch records and kernel descriptors (R80,
R81, R128), and the priority queues (R129). -/

namespace Sys2Proof.Machine

namespace State

/-- Reads by VA in chunks that stay within 4 KiB units, k chunks at most; for a peer's bytes the read may have to wait (R303,
log entry 13). -/
def vaReadFrom (s : State) (w quad : Nat) (need : Need) (k va n : Nat) : Except Trouble (List Byte) × State :=
  match k with
  | 0 => (.ok [], s)
  | k + 1 =>
    if n = 0 then (.ok [], s) else
    let m := min n (4096 - va % 4096)
    match s.translate w quad va need false with
    | (.error e, s) => (.error e, s)
    | (.ok (p, _), s) =>
      let here : Except Trouble (List Byte) := match p.at?, p.target with
        | some (sp, x), _ => if s.poisoned sp x m then .error { code := 0x0B } else .ok (s.read sp x m)
        | none, .peer accel x => s.peerBytes w accel x m
        | none, _ => .error { code := 0x0B }
      match here with
      | .error e => (.error e, s)
      | .ok bs =>
        match s.vaReadFrom w quad need k (va + m) (n - m) with
        | (.error e, s) => (.error e, s)
        | (.ok rest, s) => (.ok (bs ++ rest), s)

/-- n bytes at a VA of a world. -/
def vaRead (s : State) (w quad va n : Nat) : Except Trouble (List Byte) × State :=
  s.vaReadFrom w quad .read (n / 4096 + 2) va n

/-- The places of the bytes of a VA range, checked before any is written: one per 4 KiB unit. -/
def vaPlaces (s : State) (w quad : Nat) (need : Need) (k va n : Nat) : Except Trouble (List (Place × Nat)) × State :=
  match k with
  | 0 => (.ok [], s)
  | k + 1 =>
    if n = 0 then (.ok [], s) else
    let m := min n (4096 - va % 4096)
    match s.translate w quad va need false with
    | (.error e, s) => (.error e, s)
    | (.ok (p, _), s) =>
      match s.vaPlaces w quad need k (va + m) (n - m) with
      | (.error e, s) => (.error e, s)
      | (.ok ps, s) => (.ok ((p, m) :: ps), s)

/-- Writes bytes by VA of a world for an agent; nothing is written when a page refuses. What lies at a peer leaves as requests
(R303). -/
def vaWrite (s : State) (who : Agent) (w quad va : Nat) (bs : List Byte) : Except Trouble Unit × State :=
  match s.vaPlaces w quad .write (bs.length / 4096 + 2) va bs.length with
  | (.error e, s) => (.error e, s)
  | (.ok ps, s) =>
    (.ok (), (ps.foldl (fun (acc : State × List Byte) p =>
      match p.1.at?, p.1.target with
      | some (sp, x), _ => (acc.1.write sp x (acc.2.take p.2), acc.2.drop p.2)
      | none, .peer accel x => (acc.1.askPeer who accel x true 32 (acc.2.take p.2) none false, acc.2.drop p.2)
      | none, _ => (acc.1, acc.2.drop p.2)) (s, bs)).1)

end State

/-- A launch record (R128); clean says that every reserved byte and bit is zero. -/
def parseRecord (bs : List Byte) : Record :=
  { kdesc := field bs 0x00 8, args := BitVec.ofNat 64 (field bs 0x08 8), teamsM1 := field bs 0x10 4,
    lflags := BitVec.ofNat 32 (field bs 0x14 4), key := BitVec.ofNat 64 (field bs 0x18 8),
    cookie := BitVec.ofNat 64 (field bs 0x20 8), save := field bs 0x28 8, saveSize := field bs 0x30 4,
    raceTab := field bs 0x38 8,
    clean := field bs 0x34 4 == 0 && field bs 0x40 64 == 0 && field bs 0x14 4 < 4096 }

/-- A kernel descriptor (R80). -/
def parseDesc (bs : List Byte) : Desc :=
  { entry := field bs 0x00 8, stream := field bs 0x08 8, safeTab := field bs 0x10 8, codeBase := field bs 0x18 8,
    safeCount := field bs 0x20 4, codeSize := field bs 0x24 4, shape := BitVec.ofNat 32 (field bs 0x28 4),
    scratch := field bs 0x2C 4, accum := field bs 0x30 4, priv := field bs 0x34 4, stage := field bs 0x38 4,
    undo := field bs 0x3C 4, safeDist := field bs 0x40 4, kflags := BitVec.ofNat 32 (field bs 0x44 4),
    clean := field bs 0x48 56 == 0 && field bs 0xB0 80 == 0 && bits (field bs 0x28 4) 31 25 == 0 &&
      bits (field bs 0x28 4) 7 6 == 0 && bits (field bs 0x44 4) 31 10 == 0 && bits (field bs 0x44 4) 7 5 == 0 }

/-- Registers of the core that a team takes (R71, R221). -/
def Desc.coreRegs (d : Desc) : Nat := d.groups * 64 * roundUp d.nregs 8

/-- Every field of a descriptor keeps its limit and alignment, and one team fits a core (R80, R81, R15). -/
def Desc.ok (d : Desc) : Bool :=
  d.clean && d.entry % 4 == 0 && d.entry < 2 ^ 52 && d.stream < 2 ^ 52 && d.safeTab % 64 == 0 && d.safeTab < 2 ^ 52 && d.codeBase < 2 ^ 52 &&
    1 ≤ d.safeCount && d.safeCount ≤ 2 ^ 20 && d.codeSize ≤ 2 ^ 28 && bits d.shape.toNat 23 16 != 0 &&
    1 ≤ d.nregs && d.nregs ≤ 240 && 1 ≤ d.groups && d.groups ≤ 32 && d.scratch % 4096 == 0 && d.scratch ≤ 2 ^ 23 &&
    d.accum ≤ 64 && d.priv % 64 == 0 && d.priv ≤ 2 ^ 18 && d.stage % 4096 == 0 && d.stage ≤ 2 ^ 26 && d.undo ≤ 32768 &&
    (d.safeDist == 0 || (256 ≤ d.safeDist && d.safeDist ≤ 2 ^ 20)) && (!d.hasSeq || d.stream != 0) &&
    d.coreRegs ≤ 196608

/-- The record against R128: its limits, alignments and reserved bytes; KDESC keeps what R80 says of an address field (log
entry 56). -/
def Record.ok (r : Record) : Bool :=
  r.clean && r.kdesc % 256 == 0 && r.kdesc < 2 ^ 52 && bits r.lflags.toNat 11 8 ≤ 8 && r.save % 65536 == 0 && 1 ≤ r.saveSize

namespace State

/-- A launch still has its place in a priority queue: it is unchecked, or has an unplaced cluster (R129, R137). -/
def inQueue (l : Launch) : Bool := l.st == .queued || (l.st == .active && l.nextCluster < l.teams / l.clusterSize)

/-- Records in queue q of a slice (R129). -/
def queueLength (s : State) (c q : Nat) : Nat := (s.launches.filter fun (_, l) => l.ctl == c && l.prio == q && inQueue l).length

/-- A live activation runs, and LAUNCH stalls (R61, R129). -/
def activating (s : State) : Bool := (s.fw.map fun f => f.op == 2).getD false

/-- Enqueues a record of a world under R129: FULL is 1, OK is 0. -/
def enqueue (s : State) (w : Nat) (bs : List Byte) : Nat × State :=
  let r := parseRecord bs
  let c := (s.world w).ctl
  let q := bits r.lflags.toNat 1 0
  if 1024 ≤ s.queueLength c q then (1, s) else
  let place := 1 + (s.launches.filter fun e => e.2.ctl == c && e.2.prio == q).foldl (fun n e => max n e.2.place) 0
  let l : Launch := { world := w, ctl := c, prio := q, record := r, recBytes := bs, place := place }
  (0, ({ s with launches := s.launches.insert s.nextLaunch l, nextLaunch := s.nextLaunch + 1 }).decide' c)

/-- The record of a launch by a lane, with the derived key of R102. -/
def childRecord (s : State) (t lit : Nat) (bs : List Byte) : List Byte :=
  let (key, team, lit') := s.millKey (.lane t lit)
  patch bs 0x18 (leBytes 8 (deriveKey key (s.lane t lit).spawn.toNat team lit'))

end State

end Sys2Proof.Machine
end

