-- ==== Sys2Proof/Machine/Debug.lean ====
section
/-! DEFINITION. The debug block of a world (R480 to R487): its registers, halts, resumes and steps, and the reports in the
mailbox. -/

namespace Sys2Proof.Machine

namespace State

def modDebug (s : State) (w : Nat) (f : Debug → Debug) : State := s.modWorld w fun x => { x with dbg := f x.dbg }

/-- ERR: a command, a resume or a register access was refused (R480). -/
def dbgErr (s : State) (w : Nat) : State := s.modDebug w fun d => { d with err := true }

/-- The earliest-accepted debugged launch of the world with DBG_CTL's COOKIE (R480). -/
def dbgLaunch (s : State) (w : Nat) : Option Nat :=
  let cookie := (s.world w).dbg.ctl.extractLsb' 32 32
  (s.launches.find? fun (_, l) => l.world == w && l.st != .done && l.record.cookie.extractLsb' 0 32 == cookie).map (·.1)

/-- The target team of DBG_SEL: resident or saved (R480). -/
def dbgTeam (s : State) (w : Nat) : Option Nat :=
  match s.dbgLaunch w with
  | none => none
  | some l =>
    (s.teams.find? fun (_, t) => t.launch == l && t.index % 2 ^ 32 == bits (s.world w).dbg.sel.toNat 63 32 &&
      (t.st == .resident || t.st == .saved || t.st == .restoring)).map (·.1)

/-- GROUP of DBG_SEL. -/
def dbgGroup (s : State) (w : Nat) : Nat := bits (s.world w).dbg.sel.toNat 28 24

/-- Halts a lane at an instruction boundary: at once in READY, TOKEN, JOIN or CONVERGE, else when it leaves its state
(R218, R481). -/
def debugHalt (s : State) (t lit : Nat) : State :=
  let l := s.lane t lit
  match l.st with
  | .ready | .token | .join | .converge =>
    if l.issued then s.modLane t lit fun l => { l with haltReq := true } else
    let rep := (s.gangs.findSome? fun (_, g) => if g.team = t && g.lanes.contains lit then some g.clause.rep else none).getD l.rep
    ((s.leaveGang t lit).modLane t lit fun l =>
      { l with st := .halted, haltFrom := l.st, haltReq := false, stepReq := false, byDebug := true, code := 0, rep := rep }).checkJoin
        t (lit / (s.launchOf t).width)
  | .barrier | .mwait | .parked => s.modLane t lit fun l => { l with haltReq := true }
  | _ => s

/-- Halts the lanes of a group, or every lane and the sequencer of a team. A saved team halts after its restore (R481). -/
def haltTarget (s : State) (t group : Nat) (whole : Bool) : State :=
  let w := (s.launchOf t).world
  if (s.team t).st ≠ .resident then
    s.modDebug w fun d => { d with stops := d.stops ++ [⟨if whole then 4 else 1, t, group, 2, 0, 0⟩] }
  else
    let s := (if whole then s.liveLanes t else s.liveOf t group).foldl (fun s lit => s.debugHalt t lit) s
    if !whole then s else
    s.modSeq t fun q =>
      match q.st with
      | .running => { q with st := .halted, haltFrom := .running, code := 0 }
      | .posting | .barrier | .swait | .parked => { q with haltReq := true }
      | _ => q

/-- Reports that fall due: a line in the held list, written by DBG_REPORT while NEW = 0 (R481). -/
def dbgDue (s : State) (w : Nat) (rs : List Report) : State :=
  (s.modDebug w fun d => { d with held := d.held ++ rs }).pushOnce (.dbgReport w)

/-- Bytes of the context of a saved team, from offset o on (R441, R445); none where it cannot be read. -/
def savedBytes (s : State) (t o n : Nat) : List Byte :=
  let l := s.launchOf t
  match (s.vaRead l.world (s.quadOf (.seq t)) (s.slotVa t + privSz l + o) n).1 with
  | .ok bs => bs
  | .error _ => []

/-- The non-exited lanes of a group: of a saved team, those whose frame has another STATE than 6 (R445, R481). -/
def liveOrSaved (s : State) (t k : Nat) : List Nat :=
  if (s.team t).st ≠ .saved then s.liveOf t k else
  let l := s.launchOf t
  let f := s.savedBytes t (0x900 + 128 * l.desc.groups + 256 * l.width * k) (256 * l.width)
  if f.isEmpty then [] else (s.groupLanes t k).filter fun lit => field f (256 * (lit % l.width) + 0x0E) 1 != 6

/-- The team has a sequencer that has not exited; a saved one's STATE stands in the sequencer's frame (R444). -/
def seqLiveOrSaved (s : State) (t : Nat) : Bool :=
  if (s.team t).st ≠ .saved then s.seqLive t
  else (s.launchOf t).desc.hasSeq && field (s.savedBytes t 0x194 1) 0 1 != 5

/-- The groups of a team that hold a non-exited lane, ascending. -/
def liveGroups (s : State) (t : Nat) : List Nat :=
  (List.range (s.launchOf t).desc.groups).filter fun k => !(s.liveOrSaved t k).isEmpty

/-- A command on a target, refused with ERR while another runs, with no such team, or with no such group (R480, R481). -/
def dbgTarget (s : State) (w : Nat) (whole : Bool) (k : State → Nat → Nat → State) : State :=
  match s.dbgTeam w with
  | none => s.dbgErr w
  | some t =>
    if (s.world w).dbg.busy || (!whole && (s.launchOf t).desc.groups ≤ s.dbgGroup w) then s.dbgErr w
    else k s t (s.dbgGroup w)

/-- HALT group and HALT team: lanes that can be halted are halted now, so the command completes (R481). -/
def dbgHalt (s : State) (w : Nat) (whole : Bool) : State :=
  s.dbgTarget w whole fun s t g =>
    let s := s.haltTarget t g whole
    if whole then
      s.dbgDue w (((s.liveGroups t).map fun k => ⟨t, k, false, 2, 0, 0⟩) ++ if s.seqLiveOrSaved t then [⟨t, 0, true, 2, 0, 0⟩] else [])
    else s.dbgDue w [⟨t, g, false, 2, 0, 0⟩]

/-- The header after the clause in which a lane HALTED (R155, R482): as the lane knows it, or, of a lane restored since, by
the header in memory. -/
def clauseEnd (s : State) (t : Nat) (l : Lane) : Nat :=
  match l.after with
  | some pc => pc
  | none =>
    match (s.vaReadFrom (s.launchOf t).world (s.quadOf (.seq t)) .fetch 2 l.hdr 4).1 with
    | .ok bs => l.hdr + 4 * (1 + bits (ofLe bs) 3 0)
    | .error _ => l.hdr

/-- A HALTED lane goes on (R482): from the next clause header after a TRAP, at the displaced word of a BRK, past a
watchpoint; halted on 0x0E at another PC it stays HALTED and ERR is set. -/
def resumeLane (s : State) (t lit : Nat) (step : Bool) : State :=
  let w := (s.launchOf t).world
  let l := s.lane t lit
  if l.st ≠ .halted then (if step then s else s.modLane t lit fun l => { l with haltReq := false })
  else if l.code = 0x0E && (s.world w).dbg.dispPc.toNat ≠ l.pc then s.dbgErr w
  else
    s.modLane t lit fun l =>
      let l := { l with st := if l.haltFrom = .join then .join else .ready, readyAt := s.cycle, byDebug := false,
                        haltReq := step, stepReq := step, code := 0 }
      if l.st ≠ .ready then l
      else match (s.lane t lit).code with
        | 0x0C => { l with pc := s.clauseEnd t l, inClause := false, rep := none, tcode := 0, after := none, since := s.cycle }
        | 0x0E => { l with displaced := true }
        | 0x0F => { l with skipWatch := true }
        | _ => l

/-- A HALTED sequencer goes on; halted on a BRK it executes the displaced word (R482, R483). -/
def resumeSeq (s : State) (t : Nat) : State :=
  let w := (s.launchOf t).world
  let q := s.seqOf t
  if q.st ≠ .halted then s.modSeq t fun q => { q with haltReq := false }
  else if q.code = 0x0E then
    if (s.world w).dbg.dispPc.toNat ≠ q.pc then s.dbgErr w
    else s.modSeq t fun q => { q with st := .running, code := 0, clause := none, inClause := true, displaced := true }
  else s.modSeq t fun q => { q with st := q.haltFrom, code := 0 }

/-- The HALTED lanes of a group, or of a team with its sequencer, go on. -/
def resumeTarget (s : State) (t g : Nat) (whole : Bool) : State :=
  let s := (if whole then s.liveLanes t else s.liveOf t g).foldl (fun s lit => s.resumeLane t lit false) s
  (if whole then s.resumeSeq t else s).wakeGangs

/-- RESUME group and RESUME team (R482). Of a saved team, it takes back the halts that wait for the restore, and resumes
the lanes that are HALTED then. -/
def dbgResume (s : State) (w : Nat) (whole : Bool) : State :=
  s.dbgTarget w whole fun s t g =>
    if (s.team t).st ≠ .resident then
      s.modDebug w fun d => { d with stops := (d.stops.filter fun c => !(c.team == t && c.op != 0 && (whole || c.group == g))) ++
        [⟨if whole then 5 else 2, t, g, 2, 0, 0⟩] }
    else s.resumeTarget t g whole

/-- Halts and resumes that the debugger asked for while the team was saved take effect after its restore; then each HALTED
lane of a running STEP's group executes its step (R481, R484). -/
def lateDebug (s : State) (t : Nat) : State :=
  let w := (s.launchOf t).world
  let late := (s.world w).dbg.stops.filter fun c => c.team == t && c.op != 0
  let s := s.modDebug w fun d => { d with stops := d.stops.filter fun c => !(c.team == t && c.op != 0) }
  let s := late.foldl (fun s c =>
    if c.op = 1 ∨ c.op = 4 then s.haltTarget t c.group (c.op == 4) else s.resumeTarget t c.group (c.op == 5)) s
  match (s.world w).dbg.running with
  | some c => if c.team = t then (s.liveOf t c.group).foldl (fun s lit => s.resumeLane t lit true) s else s
  | none => s

/-- HALTED, or in a waiting state of R218. -/
def haltedOrWaiting (l : Lane) : Bool := [LaneSt.halted, .barrier, .mwait, .parked].contains l.st

/-- STEP group (R484). -/
def dbgStep (s : State) (w : Nat) : State :=
  s.dbgTarget w false fun s t g =>
    if (s.team t).st = .resident && !(s.liveOf t g).all fun lit => haltedOrWaiting (s.lane t lit) then s.dbgErr w
    else
      let s := s.modDebug w fun d => { d with busy := true, running := some ⟨3, t, g, 3, 0, 0⟩ }
      if (s.team t).st = .resident then ((s.liveOf t g).foldl (fun s lit => s.resumeLane t lit true) s).wakeGangs else s

/-- The lanes of a report that wait (R481): all the non-exited ones of a saved team. -/
def dbgWaiting (s : State) (t group : Nat) : Nat :=
  ((s.liveOrSaved t group).filter fun lit => (s.team t).st == .saved || (s.lane t lit).st != .halted).foldl
    (fun n lit => n ||| 2 ^ (lit % (s.launchOf t).width)) 0

/-- The lane mask of a report. -/
def dbgMask (s : State) (t group : Nat) (p : Lane → Bool) : Nat :=
  (s.groupLanes t group).foldl (fun n lit => if p (s.lane t lit) then n ||| 2 ^ (lit % (s.launchOf t).width) else n) 0

/-- Fills the mailbox with a report (R481). -/
def fillMailbox (s : State) (w : Nat) (r : Report) : State :=
  let cookie := (s.launchOf r.team).record.cookie.toNat % 2 ^ 32
  let halted := (s.groupLanes r.team r.group).filter fun lit => (s.lane r.team lit).st == .halted
  let pc0 := (halted.head?.map fun lit => (s.lane r.team lit).pc).getD 0
  let pc1 := ((halted.find? fun lit => (s.lane r.team lit).pc != pc0).map fun lit => (s.lane r.team lit).pc).getD 0
  let code := if r.cause = 3 then
      ((halted.find? fun lit => (s.lane r.team lit).code != 0).map fun lit => (s.lane r.team lit).code).getD 0
    else r.code
  let on := fun (f : Nat → Bool) => s.dbgMask r.team r.group fun l => l.st == .halted && f l.pc
  let q := s.seqOf r.team
  let box : List Nat :=
    [(s.team r.team).index % 2 ^ 32 * 2 ^ 32 + r.cause * 2 ^ 24 + code * 2 ^ 16 + r.aux,
     cookie * 2 ^ 32 + if r.seq then 256 else r.group] ++
    if r.seq then [if (s.team r.team).st = .saved then field (s.savedBytes r.team 0x180 8) 0 8 else q.pc, if q.st = .halted then 1 else 0, 0, 0, 0, 0]
    else [pc0, on (· == pc0), pc1, if pc1 = 0 then 0 else on fun p => p == pc1 && p != pc0,
          on (fun p => p != pc0 && p != pc1),
          s.dbgWaiting r.team r.group]
  s.modDebug w fun d =>
    { d with mbox := (box.mapIdx fun i v => (i, v)).foldl (fun m p => m.put 0 p.1 (BitVec.ofNat 64 p.2)) d.mbox,
             mseq := d.mseq + 1, new := true }

/-- Group halts of GSTOP take effect at the lanes' boundaries, and their reports fall due (R436, R481). -/
def settleStops (s : State) (w : Nat) : State :=
  ((s.world w).dbg.stops.filter (·.op == 0)).foldl (fun s c =>
    let s := (s.liveOf c.team c.group).foldl (fun s lit => s.debugHalt c.team lit) s
    s.modDebug w fun d => { d with stops := d.stops.filter (· != c), held := d.held ++ [⟨c.team, c.group, false, c.cause, c.code, c.aux⟩] }) s

/-- A STEP completes when every non-exited lane of its group is HALTED or waits, and none still has its step to run
(R481, R484). -/
def settleStep (s : State) (w : Nat) : State :=
  match (s.world w).dbg.running with
  | none => s
  | some c =>
    if (s.team c.team).st = .gone then s.modDebug w fun d => { d with busy := false, running := none }
    else if (s.team c.team).st = .resident && (s.liveOf c.team c.group).all fun lit => haltedOrWaiting (s.lane c.team lit) then
      s.modDebug w fun d => { d with busy := false, running := none, held := d.held ++ [⟨c.team, c.group, false, 3, 0, 0⟩] }
    else s

/-- DBG_REPORT (R481): what is due becomes a report, and the first one held is written while NEW = 0. -/
def dbgReportNow (s : State) (w : Nat) : State :=
  let s := (s.settleStops w).settleStep w
  let d := (s.world w).dbg
  match d.held with
  | r :: rest => if d.new then s else (s.modDebug w fun d => { d with held := rest }).fillMailbox w r
  | [] => s

/-! Registers -/

/-- A write of DBG_STAT: NEW and ERR clear by a written one; a held report may follow (R480, R481). -/
def dbgStatPut (s : State) (w : Nat) (v : BitVec 64) : State :=
  (s.modDebug w fun d => { d with new := d.new && !v.getLsbD 0, err := d.err && !v.getLsbD 2 }).pushOnce (.dbgReport w)

/-- The lane and the operand code of DBG_RSEL, when the lane is HALTED and the code is a register or a latch (R486). -/
def dbgOperand (s : State) (w : Nat) : Option (Nat × Nat × Opd) :=
  let v := (s.world w).dbg.rsel.toNat
  match s.dbgTeam w with
  | none => none
  | some t =>
    let lit := bits v 47 32
    let code := bits v 7 0
    if (s.lane t lit).st ≠ .halted || (s.team t).lanes.length ≤ lit then none
    else if code < (s.launchOf t).desc.nregs then
      if h : code < 240 then some (t, lit, .reg ⟨code, h⟩) else none
    else if h : 0xF8 ≤ code ∧ code < 0x100 then some (t, lit, .latch ⟨code - 0xF8, by omega⟩)
    else none

/-- A read of DBG_RDATA (R486). -/
def dbgDataGet (s : State) (w : Nat) : Nat × State :=
  match s.dbgOperand w with
  | some (t, lit, o) => (s.operand (.lane t lit) (s.lane t lit) false o 1, s)
  | none => (0, s.dbgErr w)

/-- A write of DBG_RDATA: a latch becomes written (R486). -/
def dbgDataPut (s : State) (w : Nat) (v : Nat) : State :=
  match s.dbgOperand w with
  | some (t, lit, o) =>
    (cleanRegs s (.lane t lit) o 1).modLane t lit fun l =>
      let l := l.writeOpd false o 1 (v % 2 ^ 32)
      if (s.launchOf t).prot then l.writeOpd true o 1 (v % 2 ^ 32) else l
  | none => s.dbgErr w

/-- A write of DBG_WPn: KIND 3 sets ERR and clears EN (R485). -/
def dbgWpPut (s : State) (w n : Nat) (v : BitVec 64) : State :=
  let v := v &&& ~~~(1#64 <<< 52)
  if v.extractLsb' 61 2 = 3 then
    (s.dbgErr w).modDebug w fun d => { d with wp := d.wp.put 0 n (v &&& ~~~(1#64 <<< 63)) }
  else s.modDebug w fun d => { d with wp := d.wp.put 0 n v }

/-- A write of DBG_CMD starts its operation; another OP sets ERR (R480). -/
def dbgCommand (s : State) (w : Nat) (v : BitVec 64) : State :=
  let s := s.modDebug w fun d => { d with cmd := v &&& 0xFF }
  match bits v.toNat 7 0 with
  | 1 => s.dbgHalt w false
  | 2 => s.dbgResume w false
  | 3 => s.dbgStep w
  | 4 => s.dbgHalt w true
  | 5 => s.dbgResume w true
  | _ => s.dbgErr w

/-- The debug register of a selector as it reads (R480); DBG_RDATA is read by dbgDataGet. -/
def dbgGet (s : State) (w sel : Nat) : Option Nat :=
  let d := (s.world w).dbg
  match sel with
  | 0x400 => some d.ctl.toNat
  | 0x401 => some (d.mseq.toNat * 2 ^ 32 + d.err.toNat * 4 + d.busy.toNat * 2 + d.new.toNat)
  | 0x402 => some d.sel.toNat
  | 0x403 => some d.cmd.toNat
  | 0x404 => some d.displaced.toNat
  | 0x405 => some d.dispPc.toNat
  | 0x406 => some d.rsel.toNat
  | n =>
    if 0x408 ≤ n && n ≤ 0x40B then some (d.wp.get 0 (n - 0x408)).toNat
    else if 0x440 ≤ n && n ≤ 0x447 then some (d.mbox.get 0 (n - 0x440)).toNat
    else none

/-- A write of a debug register; none for one that is RO or not there, with the code of the fault. -/
def dbgPut (s : State) (w sel : Nat) (v : BitVec 64) : Except Nat State :=
  match sel with
  | 0x400 => .ok (s.modDebug w fun d => { d with ctl := v &&& 0xFFFFFFFF0000030F })
  | 0x401 => .ok (s.dbgStatPut w v)
  | 0x402 => .ok (s.modDebug w fun d => { d with sel := v &&& 0xFFFFFFFF1F000000 })
  | 0x403 => .ok (s.dbgCommand w v)
  | 0x404 => .ok (s.modDebug w fun d => { d with displaced := v })
  | 0x405 => .ok (s.modDebug w fun d => { d with dispPc := v })
  | 0x406 => .ok (s.modDebug w fun d => { d with rsel := v &&& 0x0000FFFF000000FF })
  | 0x407 => .ok (s.dbgDataPut w v.toNat)
  | n =>
    if 0x408 ≤ n && n ≤ 0x40B then .ok (s.dbgWpPut w (n - 0x408) v)
    else if 0x440 ≤ n && n ≤ 0x447 then .error 0x13
    else .error 0x06

end State

/-! The operations -/

/-- HALT_GROUP (R481). -/
def execHaltGroup (w : Nat) (s : State) : Host.Outcome State Fault Refusal := .next (s.dbgHalt w false)
/-- RESUME_GROUP (R482). -/
def execResumeGroup (w : Nat) (s : State) : Host.Outcome State Fault Refusal := .next (s.dbgResume w false)
/-- STEP_GROUP (R484). -/
def execStepGroup (w : Nat) (s : State) : Host.Outcome State Fault Refusal := .next (s.dbgStep w)
/-- HALT_TEAM (R481). -/
def execHaltTeam (w : Nat) (s : State) : Host.Outcome State Fault Refusal := .next (s.dbgHalt w true)
/-- RESUME_TEAM (R482). -/
def execResumeTeam (w : Nat) (s : State) : Host.Outcome State Fault Refusal := .next (s.dbgResume w true)
/-- DBG_REPORT (R481). -/
def execDbgReport (w : Nat) (s : State) : Host.Outcome State Fault Refusal := .next (s.dbgReportNow w)
/-- DBG_STAT_WRITE (R480). -/
def execDbgStatWrite (w : Nat) (v : BitVec 64) (s : State) : Host.Outcome State Fault Refusal := .next (s.dbgStatPut w v)
/-- DBG_RDATA_READ (R486): the value goes back as a reply. -/
def execDbgRdataRead (w : Nat) (s : State) : Host.Outcome State Fault Refusal :=
  let (v, s) := s.dbgDataGet w
  .next (s.send (.reply 0 (leBytes 8 v)))
/-- DBG_RDATA_WRITE (R486). -/
def execDbgRdataWrite (w : Nat) (v : BitVec 64) (s : State) : Host.Outcome State Fault Refusal := .next (s.dbgDataPut w v.toNat)
/-- DBG_WP_WRITE (R485). -/
def execDbgWpWrite (w n : Nat) (v : BitVec 64) (s : State) : Host.Outcome State Fault Refusal :=
  if n < 4 then .next (s.dbgWpPut w n v) else .next s

end Sys2Proof.Machine
end

