-- ==== Sys2Proof/Machine/Fetch.lean ====
section
/-! DEFINITION. Fetching a clause (R155, R156, R158 to R161, R176) and what happens at its header: safe points (R217), joins
(R213), waits on tokens (R160), convergent clauses (R214), the Primer's end (R445), and the forming of a gang (R205 to
R207). -/

namespace Sys2Proof.Machine

/-- The instructions of a clause's words, each with its second word; none when the last one's second word lies beyond the
clause (R164, R176, R179). -/
def splitWords (ws : List Word) : Option (List (Word × Word)) :=
  match ws with
  | [] => some []
  | [w] => if lengthOf w = 2 then none else some [(w, 0xF0000000#32)]
  | w :: v :: rest =>
    if lengthOf w = 2 then (splitWords rest).map ((w, v) :: ·) else (splitWords (v :: rest)).map ((w, 0xF0000000#32) :: ·)

/-- The checks of R176 on a header and its words. -/
def clauseOk (h : Nat) (ws : List Word) (stream : Bool) : Bool :=
  bits h 3 0 != 0 && bits h 6 4 != 7 && bits h 31 20 == 0 && stream == (bits h 6 4 == 5) &&
    match splitWords ws with
    | none => false
    | some is => bits h 6 4 != 4 || is.length ≤ 4

/-- A clause is convergent (R214): it holds a pattern other than own lane, or a collective. -/
def isConvergent (cls : Nat) (ws : List Word) : Bool :=
  cls ≤ 1 && ((splitWords ws).getD []).any fun (w, v) =>
    let op := opOf w
    (cls == 1 && 0x10 ≤ op % 128 && op % 128 ≤ 0x15) ||
      (isTwoWord w && !(cls == 0 && op == 0x83) && (v.extractLsb' 22 2 != 0 || v.extractLsb' 14 2 != 0))

/-- The visible lanes of an ascending list that fit the 32 quartets of a core (R206, R207). -/
def takeQuartets (width : Nat) (lits : List Nat) : List Nat :=
  (lits.foldl (fun (acc : List Nat × List Nat) lit =>
    let q := lit / (width / 16)
    if acc.2.contains q then (acc.1 ++ [lit], acc.2)
    else if acc.2.length < 32 then (acc.1 ++ [lit], acc.2 ++ [q])
    else acc) ([], [])).1

/-- What the safe-point table holds for a clause (R83); none of these where a peer's bytes must be read first. -/
inductive SafeFound where
  | entry (bytes : List Byte) | absent | unreadable | ask (q : Nat × Nat × Nat)
  deriving DecidableEq, Repr

namespace State

/-- CODE_BASE and CODE_SIZE of an agent's kernel. -/
def codeOf (s : State) (a : Agent) : Nat × Nat :=
  match a with
  | .lane t _ | .seq t => ((s.launchOf t).desc.codeBase, (s.launchOf t).desc.codeSize)
  | .prog w => ((s.prog w).codeBase, (s.prog w).codeSize)
  | .firm _ => (0, 0)

/-- Four code bytes of a store as an agent fetches them: a team through its core's instruction cache (R155), with the value
that R79 gives it of a changed word; none where they are poisoned. -/
def fetchLocal (s : State) (a : Agent) (sp : Space) (x : Nat) : Option (List Byte) × State :=
  match a with
  | .lane t _ | .seq t =>
    let core := (s.team t).core
    match s.oldWord t core sp x with
    | some bs => (some bs, s)
    | none =>
      if s.poisoned sp x 4 && !s.icache.any (fun l => l.core == core && l.space == sp && l.line == x / 128) then (none, s)
      else
        let (bs, s) := s.fetchBytes core sp x
        (some bs, s)
  | _ => (if s.poisoned sp x 4 then none else some (s.read sp x 4), s)

/-- One code word (R156). -/
def fetchWord (s : State) (a : Agent) (va : Nat) : Except Res Word × State :=
  let (base, size) := s.codeOf a
  if va % 4 ≠ 0 then (.error (.fault { code := 0x07, flags := 4, addr := va }), s)
  else if va < base || base + size < va + 4 then (.error (.fault { code := 0x02, flags := 4, addr := va }), s) else
  match s.translate (s.worldOf a) (s.quadOf a) va .fetch false with
  | (.error e, s) => (.error (.trouble e 4 va), s)
  | (.ok (p, _), s) =>
    match p.at?, p.target with
    | some (sp, x), _ =>
      match s.fetchLocal a sp x with
      | (none, s) => (.error (.fault { code := 0x0B, flags := 4, addr := va }), s)
      | (some bs, s) => (.ok (BitVec.ofNat 32 (ofLe bs)), s)
    | none, .peer accel x =>
      match s.peerBytes (s.worldOf a) accel x 4 with
      | .ok bs => (.ok (BitVec.ofNat 32 (ofLe bs)), s)
      | .error e => (.error (.trouble e 4 va), s)
    | none, _ => (.error (.fault { code := 0x12, flags := 4, addr := va }), s)

/-- n code words. -/
def fetchWords (s : State) (a : Agent) (va n : Nat) : Except Res (List Word) × State :=
  match n with
  | 0 => (.ok [], s)
  | n + 1 =>
    match s.fetchWord a (va % 2 ^ 52) with
    | (.error r, s) => (.error r, s)
    | (.ok w, s) =>
      match s.fetchWords a (va + 4) n with
      | (.error r, s) => (.error r, s)
      | (.ok ws, s) => (.ok (w :: ws), s)

/-- Header and words of the clause at an address, checked (R156, R176). -/
def fetchClause (s : State) (a : Agent) (hdr : Nat) : Except Res (Nat × List Word) × State :=
  match s.fetchWord a hdr with
  | (.error r, s) => (.error r, s)
  | (.ok hw, s) =>
    let h := hw.toNat
    match s.fetchWords a (hdr + 4) (bits h 3 0) with
    | (.error r, s) => (.error r, s)
    | (.ok ws, s) =>
      let stream := match a with | .seq _ => true | _ => false
      let s := s.dropAnswers a
      if clauseOk h ws stream then (.ok (h, ws), s) else (.error (.fault .illegal), s)

/-- Takes the fault that a step's result names. -/
def takeRes (s : State) (a : Agent) (r : Res) : State :=
  match r with
  | .fault y => s.takeFault a y
  | .trouble e flags va => s.takeTrouble a e flags va
  | _ => s

/-- The lanes of a gang take one fault, until it ends their team or rolls it back. -/
def takeAll (s : State) (t : Nat) (lits : List Nat) (r : Res) : State :=
  lits.foldl (fun s lit => if acting s (.lane t lit) then s.takeRes (.lane t lit) r else s) s

/-- The clause that a header and its words make, at place pos. -/
def clauseOf (hdr h : Nat) (ws : List Word) (pos : Nat) (rep : Option Rep) : Clause :=
  { hdr := hdr, cls := bits h 6 4, words := ws, yield := bit h 19, safe := bit h 7, pos := pos, rep := rep }

/-- Looks for a clause's entry among the k last of n entries of the safe-point table (R83); a table that cannot be read
where the entry may stand is unreadable (R455). -/
def safeScan (s : State) (t target n k : Nat) (bad : Bool) : SafeFound :=
  match k with
  | 0 => if bad then .unreadable else .absent
  | k + 1 =>
    let va := (s.launchOf t).desc.safeTab + 64 * (n - (k + 1))
    match (s.vaRead (s.launchOf t).world (s.quadOf (.seq t)) va 64).1 with
    | .error { ask := some q, .. } => .ask q
    | .error _ => s.safeScan t target n k true
    | .ok bs => if field bs 0 4 = target then .entry bs else s.safeScan t target n k bad

/-- The safe-point entry of a clause of a team's kernel. -/
def safeEntry (s : State) (t hdr : Nat) : SafeFound :=
  let d := (s.launchOf t).desc
  s.safeScan t ((hdr + 2 ^ 52 - d.codeBase) % 2 ^ 52) d.safeCount d.safeCount false

/-- Lanes stop at a safe point (R217); a clause without an entry faults, unless the team only ends (R83). -/
def stopLanes (s : State) (t : Nat) (lits : List Nat) (hdr : Nat) : State :=
  let stop := fun (s : State) => lits.foldl (fun s lit => s.modLane t lit fun l => { l with stopped := true }) s
  if (s.team t).ending then stop s
  else match s.safeEntry t hdr with
    | .absent => s.takeAll t lits (.fault .illegal)
    | .ask q => lits.foldl (fun s lit => s.waitPeer (.lane t lit) q) s
    | _ => stop (lits.foldl (fun s lit => s.dropAnswers (.lane t lit)) s)

/-- A token that a header's WAIT names stands in a state. -/
def waitsOn (l : Lane) (h : Nat) (st : TokSt) : Bool := (List.range 6).any fun k => bit h (9 + k) && (l.tokens.get {} k).st == st

/-- Registers a gang; its lanes stand in the clause, at its place. -/
def startGang (s : State) (core t : Nat) (lits : List Nat) (cl : Clause) (age : Nat) : State :=
  let s := lits.foldl (fun s lit => s.modLane t lit fun l =>
    { l with st := .ready, hdr := cl.hdr, inClause := true, pc := cl.at cl.pos, rep := cl.rep }) s
  { s with
    gangs := s.gangs.insert s.nextGang { core := core, team := t, lanes := lits, clause := cl, age := age, began := s.cycle }
    nextGang := s.nextGang + 1 }

/-- Lanes wait in CONVERGE; the first one's group goes on when it is complete (R214). -/
def converge (s : State) (t : Nat) (lits : List Nat) : List Nat × State :=
  let s := lits.foldl (fun s lit => s.modLane t lit fun l => { l with st := .converge }) s
  match lits with
  | [] => ([], s)
  | l0 :: _ =>
    let W := (s.launchOf t).width
    let live := s.liveOf t (l0 / W)
    let s := lits.foldl (fun s lit => if lit / W = l0 / W then s else s.checkConverge t (lit / W)) s
    if live.all fun lit => (s.lane t lit).st == .converge && (s.lane t lit).pc == (s.lane t l0).pc then (live, s) else ([], s)

/-- JOIN of the groups of some lanes, which may have left its header (R213). -/
def joinGroups (s : State) (t : Nat) (lits : List Nat) : State :=
  (lits.map (· / (s.launchOf t).width)).eraseDups.foldl (fun s k => s.checkJoin t k) s

/-- Lanes at the header of a fetched clause: what R445, R217, R213, R160 and R214 make of them, and the gang of those that
pass (R205). A lane that falls through to the end of its Primer is in it still, and does not stop (R445). The gang of a
convergent clause has the cycle in which its lanes leave CONVERGE as its age (R208). -/
def enterClause (s : State) (core t : Nat) (lits : List Nat) (hdr h : Nat) (ws : List Word) (age : Nat) : State :=
  let safe := bit h 7
  let stray := lits.filter fun lit => safe && ((s.lane t lit).primer.any (· != hdr))
  let s := s.takeAll t stray (.fault .illegal)
  let lits := lits.filter fun lit => !stray.contains lit && acting s (.lane t lit)
  let stops := if safe && s.pausing t then lits.filter fun lit => (s.lane t lit).primer.isNone else []
  let s := if stops.isEmpty then s else s.stopLanes t stops hdr
  let lits := lits.filter fun lit => !stops.contains lit
  let joins := if bit h 8 && !s.pausing t then lits.filter fun lit => !(s.lane t lit).passJ else []
  let s := joins.foldl (fun s lit => s.modLane t lit fun l => { l with st := .join }) s
  let s := s.joinGroups t joins
  let lits := lits.filter fun lit => !joins.contains lit
  let waits := lits.filter fun lit => waitsOn (s.lane t lit) h .pending
  let s := waits.foldl (fun s lit => s.modLane t lit fun l => { l with st := .token }) s
  let lits := lits.filter fun lit => !waits.contains lit
  if lits.isEmpty then s else
  let s := if lits.any fun lit => waitsOn (s.lane t lit) h .done then s.l1Flush core else s
  let conv := isConvergent (bits h 6 4) ws
  let (go, s) := if conv then s.converge t lits else (lits, s)
  if go.isEmpty then s else
  let s := go.foldl (fun s lit => s.modLane t lit fun l =>
    { l with latches := [], slatches := [], dist := if safe then 0 else l.dist, passJ := false, displaced := false }) s
  s.startGang core t go (clauseOf hdr h ws 0 none) (if conv then s.cycle else age)

/-- The words with the debugger's displaced word in place of the BRK at pos; none for fault 0x06: bit 31 disagrees with
SKIP, or a breach of R175 (R175, R483). -/
def displace (s : State) (w : Nat) (hdr h : Nat) (ws : List Word) (pos : Nat) (rep : Option Rep) : Option (List Word) :=
  let d := (s.world w).dbg.displaced.extractLsb' 0 32
  let old := ws.getD pos 0
  let new := ws.set pos d
  if opOf old = 0x7F && old.getLsbD 0 != d.getLsbD 31 then none
  else match rep with
    | some r =>
      if r.idx = 0 && repBreach (clauseOf hdr h new (pos - 1) none) [r.sd, r.sa, r.sb, r.sc] then none else some new
    | none => some new

/-- The repeats of a lane that a restore has put into a repeat: count, steps and stride stand in the REP before the
instruction (R173, R452). -/
def repOf (ws : List Word) (pos : Nat) (r : Option Rep) : Option Rep :=
  match r with
  | none => none
  | some r =>
    if r.count ≠ 0 then some r
    else
      let w := ws.getD (pos - 1) 0
      some ⟨r.idx, (w.extractLsb' 18 6).toNat + 1, w.getLsbD 17, w.getLsbD 16, w.getLsbD 15, w.getLsbD 14,
        2 ^ (w.extractLsb' 12 2).toNat⟩

/-- Lanes that stand inside a clause go on in a new gang, with the clause fetched again (R205, R437, R482). -/
def reenterClause (s : State) (core t : Nat) (lits : List Nat) (l0 : Lane) (h : Nat) (ws : List Word) (age : Nat) : State :=
  let pos := (l0.pc - l0.hdr - 4) / 4
  let rep := repOf ws pos l0.rep
  match if l0.displaced then s.displace (s.launchOf t).world l0.hdr h ws pos rep else some ws with
  | none => s.takeAll t lits (.fault .illegal)
  | some ws =>
    let conv := isConvergent (bits h 6 4) ws
    let (go, s) := if conv then s.converge t lits else (lits, s)
    if go.isEmpty then s else s.startGang core t go (clauseOf l0.hdr h ws pos rep) (if conv then s.cycle else age)

/-- The lane that leads the next gang at a header: the progress lane under the override of R210, else the one that R206
puts first. -/
def leaderAt (s : State) (core t hdr : Nat) : Option Nat :=
  let ls := (s.freeLanes t).filter fun lit => (s.lane t lit).header == hdr
  match if 1024 ≤ s.progress.get 0 core then s.progressLane core else none with
  | some (u, lit) => if u = t && ls.contains lit then some lit else ls.head?
  | none =>
    (ls.foldl (fun (best : Option (Nat × Nat)) lit =>
      let a := s.spotAge t lit
      match best with
      | none => some (a, lit)
      | some b => if a < b.1 then some (a, lit) else some b) none).map (·.2)

/-- A core forms a gang of a team's lanes at a header. -/
def fetchGang (s : State) (core t hdr : Nat) : State :=
  let x := s.team t
  if x.core ≠ core || x.st ≠ .resident || x.rollback.isSome then s else
  let here := (s.freeLanes t).filter fun lit => (s.lane t lit).header == hdr

  let s := here.foldl (fun s lit => haltAtBoundary s (.lane t lit)) s
  match s.leaderAt core t hdr with
  | none => s.joinGroups t here
  | some lead =>
    let l0 := s.lane t lead
    let lits := takeQuartets (s.launchOf t).width ((s.freeLanes t).filter fun lit => (s.lane t lit).sameSpot l0)
    let age := s.spotAge t lead
    match s.fetchClause (.lane t lead) hdr with
    | (.error r, s) => (s.takeAll t lits r).joinGroups t lits
    | (.ok (h, ws), s) => if l0.inClause then s.reenterClause core t lits l0 h ws age else s.enterClause core t lits hdr h ws age

/-- A sequencer fetches its clause (R371, R373). -/
def fetchSeq (s : State) (t : Nat) : State :=
  let q := s.seqOf t
  if q.haltReq then
    (s.modSeq t fun q => { q with st := .halted, haltFrom := .running, haltReq := false, code := 0 }).pushOnce
      (.dbgReport (s.launchOf t).world)
  else
    let hdr := if q.inClause then q.hdr else q.pc
    match s.fetchClause (.seq t) hdr with
    | (.error r, s) => s.takeRes (.seq t) r
    | (.ok (h, ws), s) =>
      if q.inClause then
        let pos := (q.pc - hdr - 4) / 4
        match if q.displaced then s.displace (s.launchOf t).world hdr h ws pos none else some ws with
        | none => s.takeFault (.seq t) .illegal
        | some ws => s.modSeq t fun q => { q with clause := some (clauseOf hdr h ws pos none) }
      else if bit h 7 && s.pausing t then
        match if (s.team t).ending then SafeFound.unreadable else s.safeEntry t hdr with
        | .absent => s.takeFault (.seq t) .illegal
        | .ask q => s.waitPeer (.seq t) q
        | _ => (s.dropAnswers (.seq t)).modSeq t fun q => { q with stopped := true }
      else
        s.modSeq t fun q => { q with clause := some (clauseOf hdr h ws 0 none), hdr := hdr, pc := hdr + 4, inClause := true,
                                     dist := if bit h 7 then 0 else q.dist }

/-- A control program fetches its clause (R124, R125). -/
def fetchProg (s : State) (w : Nat) : State :=
  let hdr := (s.prog w).lane.pc
  match s.fetchClause (.prog w) hdr with
  | (.error r, s) => s.takeRes (.prog w) r
  | (.ok (h, ws), s) =>
    if waitsOn (s.prog w).lane h .pending then s.modProg w fun p => { p with lane := { p.lane with st := .token } }
    else s.modProg w fun p =>
      { p with clause := some (clauseOf hdr h ws 0 none),
               lane := { p.lane with hdr := hdr, pc := hdr + 4, latches := [] } }

end State

/-- CLAUSE_FETCH (R155): of the executing sequencer or control program, else of a core for lanes of a team at a header. -/
def execClauseFetch (core t hdr : Nat) (s : State) : Host.Outcome State Fault Refusal :=
  match s.cur with
  | some (.seq u) => .next (s.fetchSeq u)
  | some (.prog w) => .next (s.fetchProg w)
  | _ => .next (s.fetchGang core t hdr)

end Sys2Proof.Machine
end

