-- ==== Sys2Proof/Machine/Geometry.lean ====
section
/-! DEFINITION. What a copy command moves: the descriptor set (R346), the checks at issue (R339), the elements and the
pieces (R340, R349), and the conversion of a piece's bytes. -/

namespace Sys2Proof.Machine

/-- The fields of DS0 to DS4 (R346). -/
structure Geo where
  sfmt : Nat
  dfmt : Nat
  x : Nat
  y : Nat
  z : Nat
  ssy : Int
  ssz : Int
  dsy : Int
  dsz : Int
  mode : Nat
  sat : Bool
  rel : Nat
  acq : Nat
  event : Bool

/-- Register k of a descriptor set. -/
def dsAt (ds : List (BitVec 64)) (k : Nat) : Nat := (ds.getD k 0).toNat

def geoOf (ds : List (BitVec 64)) : Geo :=
  let d0 := dsAt ds 0
  let d4 := dsAt ds 4
  { sfmt := bits d0 51 48, dfmt := bits d0 55 52, x := bits d0 15 0, y := bits d0 31 16, z := bits d0 47 32,
    ssy := sext 32 (dsAt ds 1), ssz := sext 32 (dsAt ds 1 / 2 ^ 32), dsy := sext 32 (dsAt ds 2),
    dsz := sext 32 (dsAt ds 2 / 2 ^ 32), mode := bits d4 10 8, sat := bit d4 11, rel := bits d4 6 4, acq := bits d4 2 0,
    event := bit d4 15 }

/-- DS4 and the unused registers keep R346; every command reads them. -/
def controlOk (ds : List (BitVec 64)) : Bool :=
  let d4 := dsAt ds 4
  let g := geoOf ds
  d4 < 2 ^ 16 && bits d4 14 12 == 0 && !bit d4 7 && !bit d4 3 && g.mode ≤ 3 && g.rel ≤ 4 && g.acq ≤ 4 &&
    dsAt ds 5 == 0 && dsAt ds 6 == 0 && dsAt ds 7 == 0

/-- The set describes a legal transfer (R346). -/
def geoOk (ds : List (BitVec 64)) : Bool :=
  let g := geoOf ds
  controlOk ds && dsAt ds 0 < 2 ^ 56 && g.sfmt ≤ 7 && g.dfmt ≤ 7 && 1 ≤ g.x && 1 ≤ g.y && 1 ≤ g.z &&
    (g.sfmt == g.dfmt || (1 ≤ g.sfmt && 1 ≤ g.dfmt)) && (g.x % 2 == 0 || (g.sfmt != 6 && g.dfmt != 6)) &&
    decide (g.x * g.y * g.z * max (formatBits g.sfmt) (formatBits g.dfmt) ≤ 2 ^ 29)

/-- The number format of a descriptor code from 1 to 7. -/
def copyFmt (f : Nat) : Fmt := [Fmt.f32, .f32, .bf16, .f16, .e4m3, .e5m2, .e2m1, .f64].getD f .f32

/-- Where a side of a command lies (R347). -/
inductive Side where
  | global | scratch | acc
  deriving DecidableEq, Repr

namespace Copy

def srcSide (c : Copy) : Side :=
  if c.op = 2 then .acc else if c.op = 8 then .global else if c.m.getLsbD 3 then .scratch else .global
def dstSide (c : Copy) : Side :=
  if c.op = 7 then .global else if c.m.getLsbD 4 then .scratch else .global
/-- COPY.ro (R352). -/
def ro (c : Copy) : Bool := c.op == 1 && c.m.getLsbD 5
/-- An operand as an address of its side: a tier uses bits 31 to 0 (R347). -/
def base (side : Side) (x : Nat) : Nat := if side = .global then x else x % 2 ^ 32
/-- Channel and length of a bounce-channel command (R360). -/
def channel (c : Copy) : Nat := bits c.c 25 24
def length (c : Copy) : Nat := bits c.c 15 0 + 1

end Copy

/-- A run of elements of one row: bases of the row on both sides, first element, count. -/
structure Seg where
  s : Int
  d : Int
  x : Nat
  n : Nat
  deriving DecidableEq, Repr

/-- First byte and bytes of a run on a side whose elements have w bits. -/
def runBytes (base : Int) (w x n : Nat) : Int × Nat :=
  (base + (x * w / 8 : Nat), ((x + n) * w + 7) / 8 - x * w / 8)
def Seg.src (g : Geo) (r : Seg) : Int × Nat := runBytes r.s (formatBits g.sfmt) r.x r.n
def Seg.dst (g : Geo) (r : Seg) : Int × Nat := runBytes r.d (formatBits g.dfmt) r.x r.n

/-- The index of the first element of a row that lies beyond the 4 KiB unit of element x. -/
def unitEnd (base : Int) (w x : Nat) : Nat :=
  ((((base + (x * w / 8 : Nat)) / 4096 + 1) * 4096 - base) * 8 + (w - 1 : Nat) : Int).toNat / w

/-- The runs of a row from element x on, each within one 4 KiB unit of both sides (R340). -/
def rowRuns (fuel : Nat) (s d : Int) (sw dw xn x : Nat) : List Seg :=
  match fuel with
  | 0 => []
  | k + 1 =>
    if xn ≤ x then []
    else
      let x1 := min xn (min (unitEnd s sw x) (unitEnd d dw x))
      ⟨s, d, x, x1 - x⟩ :: rowRuns k s d sw dw xn x1

/-- Joins runs of one pair of units into pieces, in element order (R340). -/
def joinRuns (g : Geo) (rs : List Seg) : List (List Seg) :=
  let key := fun (r : Seg) => ((r.src g).1 / 4096, (r.dst g).1 / 4096)
  let acc := rs.foldl (fun (acc : List ((Int × Int) × List Seg)) r =>
    match acc with
    | (k, gs) :: rest => if k = key r then (k, r :: gs) :: rest else (key r, [r]) :: acc
    | [] => [(key r, [r])]) []
  (acc.map fun p => p.2.reverse).reverse

/-- The bases of the rows of a command, z slowest (R349). -/
def Copy.rows (c : Copy) (g : Geo) : List (Int × Int) :=
  let ys := List.range g.y
  (List.range g.z).flatMap fun (z : Nat) => ys.map fun (y : Nat) =>
    let sy := if c.op = 3 then c.idx.getD y 0 else y
    let dy := if c.op = 4 then c.idx.getD y 0 else y
    ((Copy.base c.srcSide c.a : Nat) + (sy : Int) * g.ssy + (z : Int) * g.ssz,
     (Copy.base c.dstSide c.b : Nat) + (dy : Int) * g.dsy + (z : Int) * g.dsz)

/-- The pieces of a transfer, in ascending element order. -/
def Copy.runs (c : Copy) : List (List Seg) :=
  let g := geoOf c.ds
  let sw := formatBits g.sfmt
  let dw := formatBits g.dfmt
  joinRuns g ((c.rows g).flatMap fun (s, d) => rowRuns (g.x * (sw + dw) / 32768 + 4) s d sw dw g.x 0)

/-- The units of a COMBINE: aligned 4 KiB parts of its range (R350). -/
def Copy.units (c : Copy) : List (Nat × Nat) :=
  let lo := c.a % 2 ^ 52
  let hi := lo + c.b % 2 ^ 32
  if lo = hi then [] else
  (List.range ((hi - 1) / 4096 + 1 - lo / 4096)).map fun i =>
    (max lo ((lo / 4096 + i) * 4096), min hi ((lo / 4096 + i + 1) * 4096))

/-- Destination bytes of each piece. A unit of a COMBINE gets its 4,096 when it has folded an address (R350). -/
def Copy.pieceBytes (c : Copy) : List Nat :=
  match c.op with
  | 5 => c.units.map fun _ => 0
  | 7 => [c.length + 16]
  | 8 => [c.length]
  | _ =>
    let g := geoOf c.ds
    let w := formatBits g.dfmt
    c.runs.map fun p => p.foldl (fun n r => n + ((r.x + r.n) * w / 8 - r.x * w / 8)) 0

/-- First byte of a side of a transfer, and the byte after its last. -/
def Copy.extent (c : Copy) (g : Geo) (src : Bool) : Int × Int :=
  let n : Int := ((g.x * formatBits (if src then g.sfmt else g.dfmt) + 7) / 8 : Nat)
  match (c.rows g).map fun r => if src then r.1 else r.2 with
  | [] => (0, 0)
  | r :: rs => (rs.foldl min r, rs.foldl max r + n)

/-! The checks at issue (R339) -/

namespace State

/-- SCRATCH and ACCUM × 65,536 of an agent. -/
def scratchOf (s : State) (a : Agent) : Nat := match a with | .lane t _ => (s.launchOf t).desc.scratch | _ => 0
def accOf (s : State) (a : Agent) : Nat := match a with | .lane t _ => (s.launchOf t).desc.accum * 65536 | _ => 0

/-- A range of a tier that a command names lies in its bound; the control core's scratchpad kinds end later (R125). -/
def sideFault (s : State) (c : Copy) (side : Side) (ext : Int × Int) (flags : Nat) : Option Why :=
  let bound := match side with
    | .global => none
    | .scratch => (match c.who with | .lane _ _ => some (s.scratchOf c.who) | _ => none)
    | .acc => some (s.accOf c.who)
  match bound with
  | none => none
  | some n =>
    if ext.1 < 0 || (n : Int) < ext.2 then some { code := 0x02, flags := flags, addr := wrapInt 32 ext.1, info := 3 } else none

/-- The index table of a GATHER or SCATTER (R349). -/
def indexTable (s : State) (c : Copy) (n : Nat) : List Nat :=
  match c.who with
  | .lane t _ => (List.range n).map fun y => ofLe (s.read (.scratch t) (c.c % 2 ^ 32 + 4 * y) 4)
  | _ => []

/-- The checks of a transfer, with the index table read. -/
def checkTransfer (s : State) (c : Copy) : Except Why Copy :=
  let g := geoOf c.ds
  let moves := c.op == 3 || c.op == 4
  let es := max 1 (formatBits g.sfmt / 8)
  let ed := max 1 (formatBits g.dfmt / 8)
  let w := formatBits g.dfmt
  if !geoOk c.ds || (c.op == 2 && 1 < g.sfmt) || (moves && g.z != 1) then .error .illegal
  else if c.ro && (c.srcSide != .global || c.dstSide != .scratch || g.dsy * 8 != (g.x * w : Nat) ||
      g.dsz * 8 != (g.x * g.y * w : Nat)) then .error .illegal
  else if Copy.base c.srcSide c.a % es ≠ 0 || g.ssy % es ≠ 0 || g.ssz % es ≠ 0 then
    .error { code := 0x07, addr := c.a % 2 ^ 52 }
  else if Copy.base c.dstSide c.b % ed ≠ 0 || g.dsy % ed ≠ 0 || g.dsz % ed ≠ 0 then
    .error { code := 0x07, flags := 2, addr := c.b % 2 ^ 52 }
  else if moves && c.c % 4 ≠ 0 then .error { code := 0x07, addr := c.c % 2 ^ 32 }
  else if moves && s.scratchOf c.who < c.c % 2 ^ 32 + 4 * g.y then
    .error { code := 0x02, addr := c.c % 2 ^ 32, info := 3 }
  else
    let c := { c with idx := if moves then s.indexTable c g.y else [] }
    match s.sideFault c c.srcSide (c.extent g true) 0, s.sideFault c c.dstSide (c.extent g false) 2 with
    | some y, _ => .error y
    | none, some y => .error y
    | none, none => .ok c

/-- The checks of a bounce-channel command (R360). -/
def checkChannel (s : State) (c : Copy) : Except Why Copy :=
  let host := if c.op = 7 then c.b else c.a
  let n : Int := (c.length : Nat)
  if !controlOk c.ds || c.c % 2 ^ 32 / 2 ^ 26 ≠ 0 || bits c.c 23 16 ≠ 0 then .error .illegal
  else if host % 16 ≠ 0 then .error { code := 0x07, flags := if c.op = 7 then 2 else 0, addr := host % 2 ^ 52 }
  else
    let src : Int := (Copy.base c.srcSide c.a : Nat)
    let dst : Int := (Copy.base c.dstSide c.b : Nat)
    match (if c.op = 7 then s.sideFault c c.srcSide (src, src + n) 0 else s.sideFault c c.dstSide (dst, dst + n) 2) with
    | some y => .error y
    | none => .ok c

/-- The checks of a command, which yield it with its pieces. -/
def checkCopy (s : State) (c : Copy) : Except Why Copy :=
  let r : Except Why Copy := match c.op with
    | 5 => if !controlOk c.ds || c.b % 4 ≠ 0 then .error .illegal else .ok c
    | 7 | 8 => s.checkChannel c
    | _ => s.checkTransfer c
  r.map fun c => { c with bytes := c.pieceBytes, pieces := c.pieceBytes.map fun _ => PieceSt.todo }

end State

/-! The bytes of a run -/

/-- Element j of a run from the bytes that hold it. -/
def runElem (w x j : Nat) (bs : List Byte) : Nat :=
  if w = 4 then ((bs.getD ((x + j) / 2 - x / 2) 0).toNat / 2 ^ (4 * ((x + j) % 2))) % 16 else field bs (j * w / 8) (w / 8)

/-- The bytes that elements make from the first byte of a run on; old gives the other nibble of a shared byte. -/
def packElems (w x : Nat) (es : List Nat) (old : List Byte) : List Byte :=
  if w = 4 then
    (List.range ((x + es.length + 1) / 2 - x / 2)).map fun b =>
      let nib := fun (k : Nat) =>
        let j := 2 * (x / 2 + b) + k
        if x ≤ j && j < x + es.length then es.getD (j - x) 0 % 16 else (old.getD b 0).toNat / 2 ^ (4 * k) % 16
      BitVec.ofNat 8 (nib 0 + 16 * nib 1)
  else es.flatMap fun e => leBytes (w / 8) e

/-- The destination bytes of a run (R349): no flag is set (R93). -/
def Geo.convert (g : Geo) (r : Seg) (bs old : List Byte) : List Byte :=
  if g.sfmt = g.dfmt then bs else
  packElems (formatBits g.dfmt) r.x
    ((List.range r.n).map fun j =>
      (toFloat (copyFmt g.dfmt) g.mode g.sat 0 (decodeNum (copyFmt g.sfmt) (runElem (formatBits g.sfmt) r.x j bs))).1) old

end Sys2Proof.Machine
end

