-- ==== Sys2Proof/Machine/Sealed.lean ====
section
/-! DEFINITION. Sealed pages (R355, R356) and the messages of the bounce channels (R360). The cipher itself is the opaque key
stream and tag of Config (log entry 10); keys are serial numbers (log entry 11). -/

namespace Sys2Proof.Machine

/-- AES-256-GCM in counter mode, both ways. -/
def gcmStream (key : Nat) (nonce bs : List Byte) : List Byte := bs.mapIdx fun i b => b ^^^ Config.keystream key nonce i
/-- The 16-byte tag as a number. -/
def gcmCheck (key : Nat) (nonce aad ct : List Byte) : Nat := Config.gcmTag key nonce aad ct % 2 ^ 128

/-- Nonce and additional data of sealed block k of a world (R355). -/
def sealNonce (ctr : Nat) : List Byte := leBytes 8 ctr ++ zeros 4
def sealAad (w k : Nat) : List Byte := BitVec.ofNat 8 w :: zeros 7 ++ leBytes 8 (512 * k)

/-- KEY_TAGBASE.VALID, and the WPA of a block's tag entry (R355, R362). -/
def World.tagValid (x : World) : Bool := x.tagBase.getLsbD 0
def World.tagEntry (x : World) (k : Nat) : Nat := bits x.tagBase.toNat 47 16 * 65536 + 32 * k

namespace State

/-- Package address of the first byte of a world's region (R30). -/
def regionBase (s : State) (w : Nat) : Nat := ctlBase (s.world w).ctl + (s.world w).base * giB

/-- The plaintext of sealed block k, and whether it is poisoned; none when the check fails (R355, R356). -/
def readBlock (s : State) (w k : Nat) : Option (List Byte × Bool) :=
  let x := s.world w
  let a := s.regionBase w + 512 * k
  if s.fresh (a / 65536) then some (zeros 512, false)
  else if !x.tagValid then none
  else
    match x.sealKey, s.wpaRead w (x.tagEntry k) 32 with
    | some key, some e =>
      let ct := s.read .hbm a 512
      let nonce := sealNonce (field e 0x10 8)
      if s.poisoned .hbm a 512 then some (gcmStream key nonce ct, true)
      else if gcmCheck key nonce (sealAad w k) ct = field e 0 16 then some (gcmStream key nonce ct, false)
      else none
    | _, _ => none

/-- Seals a block: ciphertext, tag entry, and the counter moves on (R355). -/
def sealBlock (s : State) (w k : Nat) (plain : List Byte) : Option State :=
  let x := s.world w
  match x.sealKey with
  | none => none
  | some key =>
    let nonce := sealNonce x.sealCtr
    let ct := gcmStream key nonce plain
    let s := s.write .hbm (s.regionBase w + 512 * k) ct
    let s := s.modWorld w fun x => { x with sealCtr := (x.sealCtr + 1) % 2 ^ 64 }
    s.wpaWrite w (x.tagEntry k) (leBytes 16 (gcmCheck key nonce (sealAad w k) ct) ++ leBytes 8 x.sealCtr ++ zeros 8)

/-- Reads a range of a sealed page by its package address: bytes, and whether a block of it is poisoned. -/
def sealedRead (s : State) (w a n : Nat) : Option (List Byte × Bool) :=
  let o := a - s.regionBase w
  let ks := (List.range ((o + n - 1) / 512 + 1 - o / 512)).map (o / 512 + ·)
  match ks.foldl (fun acc k => match acc, s.readBlock w k with
    | some (bs, p), some (b, q) => some (bs ++ b, p || q)
    | _, _ => none) (some (([] : List Byte), false)) with
  | some (bs, p) => some ((bs.drop (o % 512)).take n, p)
  | none => none

/-- The blocks that a write to a range of a sealed page touches in part pass their checks (R356). -/
def sealedOk (s : State) (w a n : Nat) : Bool :=
  let o := a - s.regionBase w
  (List.range ((o + n - 1) / 512 + 1 - o / 512)).all fun i =>
    let k := o / 512 + i
    (o ≤ 512 * k && 512 * (k + 1) ≤ o + n) || (s.readBlock w k).isSome

/-- Writes a range of a sealed page: each block it touches is sealed again; the first write to a fresh page seals all 128
blocks of it (R356). A block of which a part stays and was poisoned stays poisoned (R458). -/
def sealedWrite (s : State) (w a : Nat) (bs : List Byte) : Option State :=
  let o := a - s.regionBase w
  let n := bs.length
  let touched := (List.range ((o + n - 1) / 512 + 1 - o / 512)).map (o / 512 + ·)
  let ks := if s.fresh (a / 65536) then (List.range 128).map (o / 65536 * 128 + ·) else touched
  let new := ks.foldl (fun (acc : Option (List (Nat × List Byte × Bool))) k =>
    match acc with
    | none => none
    | some l =>
      if o ≤ 512 * k && 512 * (k + 1) ≤ o + n then some (l ++ [(k, (bs.drop (512 * k - o)).take 512, false)])
      else match s.readBlock w k with
        | none => none
        | some (old, bad) =>
          let lo := max o (512 * k)
          let hi := min (o + n) (512 * (k + 1))
          some (l ++ [(k, if lo < hi then patch old (lo - 512 * k) ((bs.drop (lo - o)).take (hi - lo)) else old, bad)])) (some [])
  let put := fun (s : State) (p : Nat × List Byte × Bool) =>
    (s.sealBlock w p.1 p.2.1).map fun s => if p.2.2 then s.poisonRange .hbm (s.regionBase w + 512 * p.1) 512 else s
  match new with
  | none => none
  | some l => l.foldl (fun acc p => acc.bind fun s => put s p) (some s)

end State

/-! Bounce-channel messages -/

/-- Nonce and additional data of a message (R360): direction 0 is CHSEND. -/
def chanNonce (ch dir ctr : Nat) : List Byte := [BitVec.ofNat 8 ch, BitVec.ofNat 8 dir, 0, 0] ++ leBytes 8 ctr
def chanAad (ch dir len : Nat) : List Byte := [BitVec.ofNat 8 ch, BitVec.ofNat 8 dir, 0, 0] ++ leBytes 4 len

/-- Ciphertext and tag of a plaintext. -/
def chanSeal (key ch dir ctr : Nat) (plain : List Byte) : List Byte :=
  let ct := gcmStream key (chanNonce ch dir ctr) plain
  ct ++ leBytes 16 (gcmCheck key (chanNonce ch dir ctr) (chanAad ch dir plain.length) ct)

/-- The plaintext of a message, when its tag passes. -/
def chanOpen (key ch dir ctr : Nat) (msg : List Byte) : Option (List Byte) :=
  let n := msg.length - 16
  let ct := msg.take n
  if gcmCheck key (chanNonce ch dir ctr) (chanAad ch dir n) ct = field msg n 16 then
    some (gcmStream key (chanNonce ch dir ctr) ct)
  else none

end Sys2Proof.Machine
end

