-- ==== Sys2Proof/Machine/Copy.lean ====
section
/-! DEFINITION. The tensor copy unit (R339 to R351, R356, R360, R361): commands and pieces, tokens, COMBINE's folds, and the
instructions of class 3. -/

namespace Sys2Proof.Machine

namespace State

/-! Tokens -/

def tokenOf (s : State) (a : Agent) (k : Nat) : Token := (s.laneOf a).tokens.get {} k
def setToken (s : State) (a : Agent) (k : Nat) (t : Token) : State :=
  s.modLaneOf a fun l => { l with tokens := l.tokens.put {} k t }

/-- A lane in TOKEN looks at its header again; stalled gangs too (R205, R216). -/
def wakeToken (s : State) (a : Agent) : State :=
  (s.modLaneOf a fun l => if l.st = .token then { l with st := .ready, readyAt := s.cycle } else l).wakeGangs

def modChannel (s : State) (w n : Nat) (f : Channel → Channel) : State :=
  s.modWorld w fun x => { x with channels := x.channels.put {} n (f (x.channels.get {} n)) }

def modCopy (s : State) (c : Nat) (f : Copy → Copy) : State :=
  match s.copies.look c with
  | some x => { s with copies := s.copies.insert c (f x) }
  | none => s

/-- The unit issues no piece of the command: its team's lanes and sequencer have stopped for a save or an end (R345, R441
step 2), or it rolls back (R463). A COMBINE runs to its end. -/
def copyHeld (s : State) (c : Copy) : Bool :=
  match c.who with
  | .lane t _ =>
    (s.team t).st != .resident || (s.team t).rollback.isSome ||
      (c.op != 5 && s.stopping t && (s.team t).lanes.all laneStopped && s.seqStopped t)
  | _ => false

/-- TEAM and COOKIE of a command's fault records, and the team of its event. -/
def copyNames (s : State) (c : Copy) : Nat × Nat × Nat :=
  match c.who with
  | .lane t _ => ((s.team t).index % 2 ^ 32, (s.launchOf t).record.cookie.toNat % 2 ^ 32, (s.team t).index % 2 ^ 32)
  | _ => (0, 0, 0xFFFFFFFF)

/-- A fault of a piece is reported once for each page and code of a command (R340, R315); so is the fault 0x06 that ends a
command of the control core (R347, R125; log entry 57). -/
def copyRecord (s : State) (c : Nat) (e : Trouble) (flags va : Nat) : State :=
  match s.copies.look c with
  | none => s
  | some x =>
    let va := va % 2 ^ 52
    let s := if e.ats then s.pageRequest x.world (va / 65536) else s
    if !(recordedCode e.code || e.code == 6) || x.reported.contains (va / 65536, e.code) then s else
    let s := s.modCopy c fun x => { x with reported := x.reported ++ [(va / 65536, e.code)] }
    let (team, cookie, _) := s.copyNames x
    let y : Why := { code := e.code, flags := flags + 16 * e.level + (if e.ats then 64 else 0), addr := va, info := e.info }
    match s.queueRecord x.world fun seq => faultBytes y x.world seq team 0xFFFF 2 x.token cookie with
    | (s, .full) => s.countLost x.world
    | (s, _) => s

/-- The event of a command that is done (R344). -/
def copyEvent (s : State) (x : Copy) (bytes : Nat) : State :=
  if !(geoOf x.ds).event then s else
  s.postEvent x.world { type := if x.op = 5 then 4 else 3, world := x.world, cookie := BitVec.ofNat 64 (dsAt x.ds 3),
                        count := ceilDiv bytes 4096, team := (s.copyNames x).2.2 }

/-- The scope of the release at a command's end (R343), as release counts scopes. -/
def Copy.relScope (x : Copy) : Nat := if (geoOf x.ds).event then 3 else (geoOf x.ds).rel - 1

/-- A command none of whose pieces is due or issued ends (R341, R343, R344, R361). -/
def endCopy (s : State) (c : Nat) : State :=
  match s.copies.look c with
  | none => s
  | some x =>
    if x.pieces.any fun p => p == PieceSt.todo || p == PieceSt.issued then s
    else if x.pieces.contains .missing then
      ((s.modCopy c fun x => { x with pending := false }).setToken x.who x.token { s.tokenOf x.who x.token with st := .faulted }).wakeToken x.who
    else
      let s := s.release x.who (Copy.relScope x)
      let s := s.setToken x.who x.token { s.tokenOf x.who x.token with st := .done }
      let s := if x.op = 7 || x.op = 8 then
          s.modChannel x.world x.channel fun ch =>
            if x.op = 7 then { ch with send := (ch.send + 1) % 2 ^ 64 } else { ch with recv := (ch.recv + 1) % 2 ^ 64 }
        else s
      let s := s.copyEvent x (if x.op = 5 then (s.tokenOf x.who x.token).count else x.bytes.foldl (· + ·) 0)
      let s := ({ s with copies := s.copies.erase c }).wakeToken x.who
      if x.op = 7 || x.op = 8 then s.wakeStalled x.world else s

/-- The next piece that is due, or the end of the command. -/
def nextPiece (s : State) (c : Nat) : State :=
  match s.copies.look c with
  | none => s
  | some x =>
    match x.pieces.findIdx? (· == .todo) with
    | some i => if s.copyHeld x then s else s.pushOnce (.copyPieceComplete c i)
    | none => s.endCopy c

/-- A piece waits for the peer's bytes that a walk of its needs (R303), and is carried out from its start when they are here. -/
def pieceAsk (s : State) (c i : Nat) (x : Copy) (q : Nat × Nat × Nat) : State :=
  if s.reqs.any fun r => innerFor x.world q r && r.copyPiece == some (c, i) then s else
  let s := { s with reqs := s.reqs.filter fun r => !(r.copyPiece == some (c, i) && r.inner.isNone) }
  let s := s.modCopy c fun x => { x with pieces := x.pieces.set i .todo }
  let (tag, s) := s.nextTag x.world
  let (launch, team, cookie) := s.requestNames x.who
  s.sendRequest { world := x.world, tag := tag, who := x.who, launch := launch, team := team, cookie := cookie, inner := some q.2.2,
                  copyPiece := some (c, i), accel := q.1, wpa := q.2.1, write := false, awaited := true } 32 (zeros q.2.2)

/-- The answers that a piece's walks have got go with the piece. -/
def dropWalks (s : State) (c i : Nat) : State :=
  { s with reqs := s.reqs.filter fun r => !(r.inner.isSome && r.copyPiece == some (c, i)) }

/-- A piece has moved (R340). -/
def pieceDone (s : State) (c i : Nat) : State :=
  let s := s.dropWalks c i
  match s.copies.look c with
  | none => s
  | some x =>
    let k := s.tokenOf x.who x.token
    let n := x.bytes.getD i 0
    let s := s.setToken x.who x.token { k with count := (k.count + n) % 2 ^ 32 }
    ((s.meter x.world 7 (if x.op = 5 then 0 else n)).modCopy c fun x => { x with pieces := x.pieces.set i .done }).nextPiece c

/-- A piece meets a fault (R341): 0x01 marks it missing, any other fault the later ones too. -/
def pieceFault (s : State) (c i : Nat) (e : Trouble) (flags va : Nat) : State :=
  match e.ask, s.copies.look c with
  | some q, some x => s.pieceAsk c i x q
  | _, _ =>
  let s := (s.dropWalks c i).copyRecord c e flags va
  (s.modCopy c fun x => { x with
    pieces := (x.pieces.set i .missing).map fun p => if e.code ≠ 1 && p = .todo then .missing else p }).nextPiece c

/-! Places -/

end State

/-- A run of global bytes with its place. -/
structure Spot where
  place : Place
  sealed : Bool
  va : Nat
  n : Nat
  deriving DecidableEq, Repr

def Spot.peer (p : Spot) : Bool := p.place.at?.isNone

/-- n bytes of a run with its place, from byte o on. -/
def Spot.part (p : Spot) (o n : Nat) : Spot :=
  let target := match p.place.target with
    | .device a => Target.device (a + o)
    | .hostIo a => .hostIo (a + o)
    | .peer k a => .peer k (a + o)
  { p with place := ⟨target, p.place.at?.map fun q => (q.1, q.2 + o)⟩, va := p.va + o, n := n }

/-- A fault of a piece: what R315 records of it. -/
structure PieceFault where
  e : Trouble
  flags : Nat := 0
  va : Nat := 0

namespace State

/-- Translates runs of global bytes for the copy unit, each within 4 KiB (R340, R114). -/
def placeRuns (s : State) (w quad : Nat) (need : Need) (flags : Nat) (rs : List (Nat × Nat)) : Except PieceFault (List Spot) × State :=
  match rs with
  | [] => (.ok [], s)
  | (va, n) :: rs =>
    match s.translate w quad va need true with
    | (.error e, s) => (.error ⟨e, flags, va⟩, s)
    | (.ok (p, sealed), s) =>
      let routed := match p.target with | .peer accel _ => s.routeOk w accel | _ => true
      if !routed then (.error ⟨{ code := 0x12 }, flags, va⟩, s) else
      match s.placeRuns w quad need flags rs with
      | (.error e, s) => (.error e, s)
      | (.ok ps, s) => (.ok (⟨p, sealed, va, n⟩ :: ps), s)

/-- Parts of a range of global bytes that stay within 4 KiB, k at most. -/
def chunks (k va n : Nat) : List (Nat × Nat) :=
  match k with
  | 0 => []
  | k + 1 => if n = 0 then [] else (va, min n (4096 - va % 4096)) :: chunks k (va + min n (4096 - va % 4096)) (n - min n (4096 - va % 4096))

/-- The team of a command. -/
def copyTeam (x : Copy) : Nat := match x.who with | .lane t _ => t | _ => 0

/-- Bytes of a store, with the indexes of the poisoned ones. -/
def readMarked (s : State) (sp : Space) (a n : Nat) : List Byte × List Nat :=
  (s.read sp a n, if s.poisoned sp a n then (List.range n).filter fun i => s.poisoned sp (a + i) 1 else [])

/-- The bytes of a peer's answer that a run names, in the view of the agent's team. -/
def answerBytes (s : State) (a : Agent) (p : Spot) (answer : List Byte) : List Byte × List Nat :=
  match p.place.target with
  | .peer accel wpa =>
    let (y, m) := s.peerUnit a wpa p.n
    let (bs, bad) := s.ownMarked a (Target.peer accel y).key ((answer ++ zeros m).take m) []
    ((bs.drop (wpa - y)).take p.n, (bad.filter fun i => wpa - y ≤ i && i < wpa - y + p.n).map (· - (wpa - y)))
  | _ => (answer, [])

/-- The source bytes of a run: tier, memory, sealed block or a peer's answer, in the view of the issuer's team (R343); poisoned
indexes (all of a sealed run). -/
def runSource (s : State) (x : Copy) (side : Side) (a : Int) (n : Nat) (p : Option Spot) (answer : List Byte) :
    Except PieceFault (List Byte × List Nat) :=
  match side, p with
  | .scratch, _ => .ok (s.readMarked (.scratch (copyTeam x)) a.toNat n)
  | .acc, _ => .ok (s.readMarked (.acc (copyTeam x)) a.toNat n)
  | .global, none => .ok (answer, [])
  | .global, some p =>
    match p.place.at? with
    | none => .ok (s.answerBytes x.who p answer)
    | some (sp, y) =>
      if p.sealed then
        match s.sealedRead x.world y n with
        | none => .error ⟨{ code := 0x04 }, 0, p.va⟩
        | some (bs, bad) => .ok (s.ownMarked x.who p.place.target.key bs (if bad then List.range n else []))
      else
        let (bs, bad) := s.readMarked sp y n
        .ok (s.ownMarked x.who p.place.target.key bs bad)

/-! Writing -/

/-- The key by which a staged entry of a reissued piece is found (R453). -/
def stageKey (x : Copy) : Nat := match x.who with | .lane _ lit => lit * 8 + x.token | _ => 0

/-- An earlier command of the same token is not reissued any more. -/
def forgetPiece (key : Nat) (e : Staged) : Staged :=
  match e.copyPiece with
  | some p => if p.1 = key then { e with copyPiece := none } else e
  | none => e

/-- Stages the entries of a piece; a reissued piece replaces its earlier ones (R345, R453). -/
def stagePiece (s : State) (t key i : Nat) (es : List Staged) : State :=
  let es := es.map fun e => { e with copyPiece := some (key, i) }
  s.modTeam t fun y =>
    match y.staged.findIdx? fun e => e.copyPiece == some (key, i) with
    | none => { y with staged := y.staged ++ es }
    | some k =>
      { y with staged := y.staged.take k ++ es ++ (y.staged.drop k).filter fun e => e.copyPiece != some (key, i) }

/-- Marks single bytes poisoned. -/
def poisonAt (s : State) (sp : Space) (a : Nat) (is : List Nat) : State := is.foldl (fun s i => s.poisonRange sp (a + i) 1) s

/-- A write of the team's scratchpad by a copy: its own staged-tile record stands (R353). -/
def copyScratch (s : State) (x : Copy) (o : Nat) (bs : List Byte) (bad : List Nat) : State :=
  let t := copyTeam x
  let own := fun (r : Tile) => x.ro && r.src == x.a && r.dst == x.b % 2 ^ 32
  let old := (s.team t).tiles
  let s := s.write (.scratch t) o bs
  let s := s.modTeam t fun y => { y with tiles := old.filter fun r => own r || y.tiles.contains r }
  s.poisonAt (.scratch t) o bad

/-- Writes the bytes of a run to global memory at its point of coherence, or asks the peer. -/
def copyWrite (s : State) (x : Copy) (piece : Option (Nat × Nat)) (p : Spot) (bs : List Byte) (bad : List Nat) : Except PieceFault State :=
  match p.place.target, p.place.at? with
  | .peer accel wpa, _ => .ok (s.askPeer x.who accel wpa true 32 bs none false piece)
  | _, none => .ok s
  | _, some (sp, y) =>
    if p.sealed then
      match s.sealedWrite x.world y bs with
      | none => .error ⟨{ code := 0x04 }, 2, p.va⟩
      | some s => .ok (if bad.isEmpty then s else s.poisonRange sp y bs.length)
    else .ok ((s.write sp y bs).poisonAt sp y bad)

/-- The old bytes of a run's destination, for a nibble that a run leaves (R349). -/
def oldBytes (s : State) (x : Copy) (side : Side) (a : Int) (n : Nat) (p : Option Spot) (answer : List Byte) : List Byte :=
  match side, p with
  | .global, some p =>
    match p.place.at? with
    | some (sp, y) => s.ownView x.who p.place.target.key (s.read sp y n)
    | none => (s.answerBytes x.who p answer).1
  | _, _ => s.read (.scratch (copyTeam x)) a.toNat n

/-- Writes the runs of a piece. Nothing is written when one of them faults. -/
def writeRuns (s : State) (x : Copy) (c i : Nat) (ws : List (Int × Option Spot × List Byte × List Nat)) : Except PieceFault State :=
  if x.dstSide ≠ .global then .ok (ws.foldl (fun s w => s.copyScratch x w.1.toNat w.2.2.1 w.2.2.2) s)
  else
    match ws.find? fun w => !w.2.2.2.isEmpty && (match w.2.1 with | some p => (match p.place.target with | .device _ => false | _ => true) | none => false) with
    | some w => .error ⟨{ code := 0x0B }, 2, w.1.toNat⟩
    | none =>
      if s.stages x.who then
        match ws.find? fun w => match w.2.1 with
          | some p => p.sealed && (match p.place.at? with | some (_, y) => !s.sealedOk x.world y w.2.2.1.length | none => false)
          | none => false with
        | some w => .error ⟨{ code := 0x04 }, 2, w.1.toNat⟩
        | none => .ok (s.stagePiece (copyTeam x) (stageKey x) i (ws.filterMap fun w => w.2.1.map fun p =>
          { op := .write w.2.2.1, target := p.place.target, va := p.va % 2 ^ 52, sealed := p.sealed, poison := w.2.2.2 }))
      else ws.foldl (fun (acc : Except PieceFault State) w => acc.bind fun s => match w.2.1 with
        | some p => s.copyWrite x (some (c, i)) p w.2.2.1 w.2.2.2
        | none => .ok s) (.ok s)

/-! A piece of a transfer -/

/-- Pairs runs with their spots; a tier run has none. -/
def zipSpots (rs : List Seg) (ps : List Spot) : List (Seg × Option Spot) := rs.mapIdx fun k r => (r, ps[k]?)

/-- Requests of a piece that read, and that write. -/
def pieceReqs (s : State) (c i : Nat) : List Req := s.reqs.filter fun r => r.copyPiece == some (c, i) && r.inner.isNone

/-- The destination and the source places of a piece, under R356 for sealed pages. -/
def pieceSpots (s : State) (x : Copy) (rs : List Seg) : Except PieceFault (List Spot × List Spot) × State :=
  let g := geoOf x.ds
  let at' := fun (r : Int × Nat) => (wrapInt 64 r.1, r.2)
  match if x.srcSide = .global then s.placeRuns x.world x.quad .read 0 (rs.map fun r => at' (r.src g)) else (.ok [], s) with
  | (.error e, s) => (.error e, s)
  | (.ok src, s) =>
    match if x.dstSide = .global then s.placeRuns x.world x.quad .write 2 (rs.map fun r => at' (r.dst g)) else (.ok [], s) with
    | (.error e, s) => (.error e, s)
    | (.ok dst, s) =>
      match src.find? (·.sealed), dst.find? (·.sealed) with
      | some p, _ =>
        if x.dstSide = .global then (.error ⟨{ code := 0x03 }, 0, p.va⟩, s) else (.ok (src, dst), s)
      | none, some p =>
        if (s.world x.world).tagValid then (.ok (src, dst), s) else (.error ⟨{ code := 0x04 }, 2, p.va⟩, s)
      | none, none => (.ok (src, dst), s)

/-- A conversion into half-bytes reads the bytes that hold the other halves (R349). -/
def readsOld (g : Geo) : Bool := g.sfmt != g.dfmt && formatBits g.dfmt == 4

/-- What a piece reads of peers, in order: its source, then the old bytes of its destination. -/
def pieceReads (s : State) (x : Copy) (src dst : List Spot) : List (Nat × Nat × Nat) :=
  (src ++ if readsOld (geoOf x.ds) then dst else []).filterMap fun p =>
    match p.place.target with
    | .peer accel wpa =>
      let (y, m) := s.peerUnit x.who wpa p.n
      some (accel, y, m)
    | _ => none

/-- Gives each peer's run its answer, in order. -/
def giveAnswers (ps : List Spot) (answers : List (List Byte)) : List (List Byte) × List (List Byte) :=
  ps.foldl (fun (acc : List (List Byte) × List (List Byte)) p =>
    if p.peer then (acc.1 ++ [acc.2.headD []], acc.2.drop 1) else (acc.1 ++ [[]], acc.2)) ([], answers)

/-- The first half-byte that a run writes, and how many. -/
def Seg.halves (g : Geo) (r : Seg) : Int × Nat := (2 * r.d + (r.x * formatBits g.dfmt / 4 : Nat), r.n * formatBits g.dfmt / 4)

/-- A later piece of the command has written a half-byte: its elements come later, and what they wrote stays (R349; log entry
58). -/
def laterHalf (x : Copy) (i : Nat) (h : Int) : Bool :=
  (x.runs.mapIdx fun j rs => (j, rs)).any fun (j, rs) =>
    i < j && x.pieces.getD j .todo == .done && rs.any fun r =>
      let (a, n) := Seg.halves (geoOf x.ds) r
      a ≤ h && h < a + n

/-- What a piece still writes of a run of bytes from a on: the parts that no later piece has written, each by its offset. -/
def keptParts (x : Copy) (i : Nat) (a : Int) (out old : List Byte) (bad : List Nat) : List (Nat × List Byte × List Nat) :=
  if !(x.pieces.drop (i + 1)).contains .done then [(0, out, bad)] else
  (List.range out.length).foldl (fun (acc : List (Nat × List Byte × List Nat)) (k : Nat) =>
    let lo := laterHalf x i (2 * (a + k))
    let hi := laterHalf x i (2 * (a + k) + 1)
    let new := (out.getD k 0).toNat
    let was := (old.getD k 0).toNat
    let b : Byte := BitVec.ofNat 8 ((if lo then was else new) % 16 + 16 * ((if hi then was else new) / 16))
    if lo && hi then acc else
    match acc.getLast? with
    | some (o, bs, is) =>
      if o + bs.length = k then acc.dropLast ++ [(o, bs ++ [b], if bad.contains k then is ++ [k - o] else is)]
      else acc ++ [(k, [b], if bad.contains k then [0] else [])]
    | none => [(k, [b], if bad.contains k then [0] else [])]) []

/-- Moves a piece whose peer answers are here. -/
def movePiece (s : State) (c i : Nat) (x : Copy) (rs : List Seg) (src dst : List Spot) (answers : List (List Byte)) : State :=
  let g := geoOf x.ds
  let (froms, rest) := giveAnswers src answers
  let (olds, _) := giveAnswers dst rest
  match ((zipSpots rs src).mapIdx fun k e => (k, e)).mapM fun (k, r, p) =>
      s.runSource x x.srcSide (r.src g).1 (r.src g).2 p (froms.getD k []) with
  | .error f => s.pieceFault c i f.e f.flags f.va
  | .ok got =>
    let spread := g.sfmt != g.dfmt || src.any (·.sealed) || dst.any (·.sealed)
    let whole := spread && got.any fun b => !b.2.isEmpty
    let ws := ((zipSpots rs dst).mapIdx fun k (r, p) =>
      let b := got.getD k ([], [])
      let (a, n) := r.dst g
      let old := s.oldBytes x x.dstSide a n p (olds.getD k [])
      let out := g.convert r b.1 old
      (keptParts x i a out old (if whole then List.range out.length else if spread then [] else b.2)).map fun (o, bs, bad) =>
        (a + o, p.map fun p => p.part o bs.length, bs, bad)).flatten
    let s := if x.ro && src.any (·.sealed) then
        s.modTeam (copyTeam x) fun y => { y with tiles := y.tiles.map fun r => if r.src = x.a && r.dst = x.b % 2 ^ 32 then { r with sealed := true } else r }
      else s
    match s.writeRuns x c i ws with
    | .error f => s.pieceFault c i f.e f.flags f.va
    | .ok s =>
      if (s.pieceReqs c i).isEmpty then s.pieceDone c i
      else s.modCopy c fun x => { x with pieces := x.pieces.set i .issued }

/-- Issues a piece of a transfer: places, peer reads, or the move at once. -/
def issueRuns (s : State) (c i : Nat) (x : Copy) : State :=
  let rs := x.runs.getD i []
  match s.pieceSpots x rs with
  | (.error f, s) => s.pieceFault c i f.e f.flags f.va
  | (.ok (src, dst), s) =>
    let reads := s.pieceReads x src dst
    if reads.isEmpty then s.movePiece c i x rs src dst []
    else
      let s := reads.foldl (fun s q => s.askPeer x.who q.1 q.2.1 false 32 (zeros q.2.2) none false (some (c, i))) s
      s.modCopy c fun x => { x with pieces := x.pieces.set i .issued }

/-- An issued piece whose requests have all been answered goes on (R115, R331). -/
def resumeRuns (s : State) (c i : Nat) (x : Copy) : State :=
  let rq := s.pieceReqs c i
  if rq.any (·.st == .waiting) then s else
  let s := { s with reqs := s.reqs.filter fun r => !(r.copyPiece == some (c, i) && r.inner.isNone) }
  if rq.all (·.write) then
    let s := rq.foldl (fun s r => match r.st with
      | .indeterminate => s.errorRecord 8 5 x.world r.wpa x.quad 0 0 (s.copyNames x).2.2 0 1 0
      | _ => s) s
    s.pieceDone c i
  else
    let answers := rq.map fun r => match r.st with | .ok bs => some bs | _ => none
    let rs := x.runs.getD i []
    match s.pieceSpots x rs with
    | (.error f, s) => s.pieceFault c i f.e f.flags f.va
    | (.ok (src, dst), s) =>
      if answers.any Option.isNone then s.pieceFault c i { code := 0x0B } 0 ((src.find? (·.peer)).map (·.va) |>.getD 0)
      else s.movePiece c i x rs src dst (answers.map (·.getD []))

/-! COMBINE (R350, R431) -/

end State

/-- Staging bytes of a team (R425, R462), in units of 4 KiB. -/
def stageUnits (l : Launch) : Nat :=
  if l.staging then ceilDiv (l.desc.stage + if l.guarded then 256 * l.desc.undo else 0) 4096 else 0

/-- One team's fold of a slot entry (R334). -/
def foldSlot (op old : Nat) (xs : List Nat) : Nat :=
  let fadd := fun (k : Fmt) (old : Nat) (xs : List Nat) =>
    (fused ((old :: xs).map fun x => (decodeNum k x, Num.one)) none k 0 false).1
  match op with
  | 0 => fadd .f32 old xs
  | 1 => (xs.foldl (· + ·) old) % 2 ^ 32
  | 2 => (xs.foldl (· + ·) old) % 2 ^ 64
  | 3 => xs.foldl (fun m x => if sext 32 x < sext 32 m then x else m) old
  | 4 => xs.foldl (fun m x => if sext 32 m < sext 32 x then x else m) old
  | 5 => xs.foldl (fun m x => (minMax .f32 false m x).1) old
  | 6 => xs.foldl (fun m x => (minMax .f32 true m x).1) old
  | _ => fadd .bf16 (old % 2 ^ 16) (xs.map (· % 2 ^ 16)) +
      2 ^ 16 * fadd .bf16 (old / 2 ^ 16 % 2 ^ 16) (xs.map (· / 2 ^ 16 % 2 ^ 16))

namespace State

/-- The teams of a world's completed launches that hold slots, launch by launch in the order of their events, within a
launch by index (R431). -/
def slotTeams (s : State) (w : Nat) : List Nat :=
  let ts := s.teams.filter fun (_, t) => (s.launch t.launch).world == w && (s.launch t.launch).st == .done && !t.slots.isEmpty
  let key := fun (t : Team) => (s.launch t.launch).doneSeq * 2 ^ 40 + t.index
  ((ts.map fun (k, t) => (key t, k)).foldl (fun (l : SMap Nat) p => l.insert p.1 p.2) []).map (·.2)

/-- Addresses of a range that such slots hold, ascending. -/
def slotAddrs (s : State) (ts : List Nat) (lo hi : Nat) : List Nat :=
  ((ts.flatMap fun t => (s.team t).slots.map (·.va)).foldl (fun (l : SMap Unit) a =>
    if lo ≤ a && a < hi then l.insert a () else l) []).map (·.1)

/-- Folds every slot entry at an address whose place is known, and frees them. -/
def foldAddr (s : State) (ts : List Nat) (va : Nat) (sp : Space) (x : Nat) : State :=
  ts.foldl (fun s t =>
    match (s.team t).slots.find? (·.va == va) with
    | none => s
    | some e =>
      let n := slotBytes e.op
      let s := s.write sp x (leBytes n (foldSlot e.op (ofLe (s.read sp x n)) e.xs))
      s.modTeam t fun y => { y with slots := y.slots.filter (·.va != va) }) s

/-- The places of the addresses of a unit, before any is folded. -/
def slotPlaces (s : State) (x : Copy) (as : List Nat) : Except PieceFault (List (Nat × Space × Nat)) × State :=
  match as with
  | [] => (.ok [], s)
  | va :: as =>
    match s.translate x.world x.quad va .both false with
    | (.error e, s) => (.error ⟨e, 10, va⟩, s)
    | (.ok (p, _), s) =>
      match p.at? with
      | none => (.error ⟨{ code := 0x12 }, 10, va⟩, s)
      | some (sp, y) =>
        if s.poisoned sp y 4 then (.error ⟨{ code := 0x0B }, 10, va⟩, s) else
        match s.slotPlaces x as with
        | (.error e, s) => (.error e, s)
        | (.ok l, s) => (.ok ((va, sp, y) :: l), s)

/-- Units of the staging region that a slice has given out (R425, R426). -/
def stagingUsed (s : State) (c : Nat) : Nat :=
  s.teams.foldl (fun n (_, x) =>
    let l := s.launch x.launch
    if x.region ≠ c then n
    else if x.st = .gone then n + ceilDiv (64 * x.slots.length) 4096
    else n + stageUnits l) 0

/-- Sectors of the race-tag region that a slice has given out (R417). -/
def racesUsed (s : State) (c : Nat) : Nat :=
  s.launches.foldl (fun n (_, l) => if l.raceRegion = c && l.raceHeld then n + l.races.foldl (fun m r => m + r.2) 0 else n) 0

/-- The kept private region of an absorbed child passes to the slice as fresh memory of no world, once its last allocation
is freed (R41). -/
def freeOldPrivate (s : State) (c : Nat) : State :=
  (s.slice c).oldPrivate.foldl (fun s o =>
    if s.stagingUsed o.1 = 0 && s.racesUsed o.1 = 0 then
      (s.freshen (ctlBase o.1) giB).modSlice c fun x => { x with oldPrivate := x.oldPrivate.filter (· != o) }
    else s) s

/-- A unit of a COMBINE; its count grows by 4,096 when it holds a folded address. The slots it frees may have been the last in
a kept private region. -/
def combineUnit (s : State) (c i : Nat) (x : Copy) : State :=
  let (lo, hi) := x.units.getD i (0, 0)
  let ts := s.slotTeams x.world
  let as := s.slotAddrs ts lo hi
  match s.slotPlaces x as with
  | (.error f, s) => s.pieceFault c i f.e f.flags f.va
  | (.ok ps, s) =>
    let s := ((ps.foldl (fun s p => s.foldAddr ts p.1 p.2.1 p.2.2) s).freeOldPrivate (s.world x.world).ctl).meter x.world 12 ps.length
    (s.modCopy c fun x => { x with bytes := x.bytes.set i (if as.isEmpty then 0 else 4096) }).pieceDone c i

/-! Bounce channels (R360, R361) -/

/-- The host side of a message: every part reaches a segment of host kind (R360). -/
def hostSpots (s : State) (x : Copy) (need : Need) (flags va : Nat) : Except PieceFault (List Spot) × State :=
  match s.placeRuns x.world x.quad need flags (chunks 20 va (x.length + 16)) with
  | (.error e, s) => (.error e, s)
  | (.ok ps, s) =>
    match ps.find? fun p => match p.place.target with | .hostIo _ => false | _ => true with
    | some p => (.error ⟨{ code := if p.sealed then 0x03 else 0x12 }, flags, p.va⟩, s)
    | none => (.ok ps, s)

/-- The world side of a message as runs. -/
def localSpots (s : State) (x : Copy) (need : Need) (flags : Nat) (side : Side) (va : Nat) : Except PieceFault (List Spot) × State :=
  if side ≠ .global then (.ok [], s) else
  match s.placeRuns x.world x.quad need flags (chunks 20 va x.length) with
  | (.error e, s) => (.error e, s)
  | (.ok ps, s) =>
    match ps.find? (·.sealed) with
    | some p => (.error ⟨{ code := 0x03 }, flags, p.va⟩, s)
    | none => (.ok ps, s)

/-- CHSEND's message: the source is read, from a peer by requests, then host memory is written. -/
def chanSend (s : State) (c : Nat) (x : Copy) (ch : Channel) (answers : Option (List (List Byte))) : State :=
  match s.localSpots x .read 0 x.srcSide x.a with
  | (.error f, s) => s.pieceFault c 0 f.e f.flags f.va
  | (.ok src, s) =>
    match s.hostSpots x .write 2 x.b with
    | (.error f, s) => s.pieceFault c 0 f.e f.flags f.va
    | (.ok dst, s) =>
      let reads := src.filterMap fun p => match p.place.target with
        | .peer accel wpa =>
          let (y, m) := s.peerUnit x.who wpa p.n
          some (accel, y, m)
        | _ => none
      if !reads.isEmpty && answers.isNone then
        let s := reads.foldl (fun s q => s.askPeer x.who q.1 q.2.1 false 32 (zeros q.2.2) none false (some (c, 0))) s
        s.modCopy c fun x => { x with pieces := x.pieces.set 0 .issued }
      else
      let froms := (giveAnswers src (answers.getD [])).1
      let got := if x.srcSide = .global then
          src.mapIdx fun k p => match s.runSource x .global 0 p.n (some p) (froms.getD k []) with
            | .ok b => b
            | .error _ => ([], [0])
        else [s.readMarked (.scratch (copyTeam x)) (x.a % 2 ^ 32) x.length]
      if got.any fun b => !b.2.isEmpty then s.pieceFault c 0 { code := 0x0B } 0 x.a
      else
        let msg := chanSeal ch.key x.channel 0 x.ctr (got.flatMap (·.1))
        let parts := (dst.foldl (fun (acc : List (Spot × List Byte) × List Byte) p =>
          (acc.1 ++ [(p, acc.2.take p.n)], acc.2.drop p.n)) ([], msg)).1
        let s := s.modCopy c fun y => { y with touched := y.touched || !s.stages x.who }
        let s := if s.stages x.who then
            s.stagePiece (copyTeam x) (stageKey x) 0 (parts.map fun p =>
              { op := .write p.2, target := p.1.place.target, va := p.1.va % 2 ^ 52 })
          else parts.foldl (fun s p => match p.1.place.at? with | some (sp, y) => s.write sp y p.2 | none => s) s
        s.pieceDone c 0

/-- CHRECV's message: plaintext is released only after the check. -/
def chanReceive (s : State) (c : Nat) (x : Copy) (ch : Channel) : State :=
  match s.hostSpots x .read 0 x.a with
  | (.error f, s) => s.pieceFault c 0 f.e f.flags f.va
  | (.ok src, s) =>
    match s.localSpots x .write 2 x.dstSide x.b with
    | (.error f, s) => s.pieceFault c 0 f.e f.flags f.va
    | (.ok dst, s) =>
      let msg := src.flatMap fun p => match p.place.at? with | some (sp, y) => s.read sp y p.n | none => []
      match chanOpen ch.key x.channel 1 x.ctr msg with
      | none => (s.modChannel x.world x.channel fun ch => { ch with st := 2 }).pieceFault c 0 { code := 0x04 } 0 x.a
      | some plain =>
        if x.dstSide ≠ .global then (s.copyScratch x (x.b % 2 ^ 32) plain []).pieceDone c 0
        else
          let parts := (dst.foldl (fun (acc : List (Int × Option Spot × List Byte × List Nat) × List Byte) p =>
            (acc.1 ++ [((p.va : Int), some p, acc.2.take p.n, [])], acc.2.drop p.n)) ([], plain)).1
          match s.writeRuns x c 0 parts with
          | .error f => s.pieceFault c 0 f.e f.flags f.va
          | .ok s =>
            if (s.pieceReqs c 0).isEmpty then s.pieceDone c 0 else s.modCopy c fun x => { x with pieces := x.pieces.set 0 .issued }

/-- The one piece of a bounce-channel command. -/
def channelPiece (s : State) (c : Nat) (x : Copy) : State :=
  let ch := (s.world x.world).channels.get {} x.channel
  if ch.st ≠ 1 || x.keyed ≠ ch.keyCount then s.pieceFault c 0 { code := 0x04 } (if x.op = 7 then 2 else 0) (if x.op = 7 then x.b else x.a)
  else if x.op = 7 then s.chanSend c x ch none else s.chanReceive c x ch

/-- An issued CHSEND whose source has been read from the peer. -/
def resumeSend (s : State) (c : Nat) (x : Copy) : State :=
  let rq := s.pieceReqs c 0
  if rq.any (·.st == .waiting) then s else
  let s := { s with reqs := s.reqs.filter fun r => !(r.copyPiece == some (c, 0) && r.inner.isNone) }
  let answers := rq.map fun r => match r.st with | .ok bs => some bs | _ => none
  if answers.any Option.isNone then s.pieceFault c 0 { code := 0x0B } 0 x.a
  else s.chanSend c x ((s.world x.world).channels.get {} x.channel) (some (answers.map (·.getD [])))

/-- A scratchpad side on the control core ends the command (R125, R347). -/
def progSide (x : Copy) : Bool :=
  (match x.who with | .lane _ _ => false | _ => true) && x.op != 5 && (x.srcSide == .scratch || x.dstSide == .scratch)

/-- The unit carries out piece i of a command: its issue, or its end when requests were out. -/
def pieceEvent (s : State) (c i : Nat) : State :=
  match s.copies.look c with
  | none => s
  | some x =>
    if !x.pending then s else
    match x.pieces[i]? with
    | none => s.endCopy c
    | some .todo =>
      if x.pieces.findIdx? (· == .todo) ≠ some i || s.copyHeld x then s
      else if progSide x then s.pieceFault c i { code := 0x06 } 0 0
      else
        match x.op with
        | 5 => s.combineUnit c i x
        | 7 | 8 => s.channelPiece c x
        | _ => s.issueRuns c i x
    | some .issued => if x.op = 7 then s.resumeSend c x else s.resumeRuns c i x
    | _ => s

/-! Issue -/

/-- Commands of a unit that have not ended (R339). -/
def unitLoad (s : State) (quad : Nat) : Nat := (s.copies.filter fun (_, x) => x.quad == quad && x.pending).length

/-- A command of the channel's direction is PENDING or FAULTED (R361). -/
def channelBusy (s : State) (w ch op : Nat) : Bool := s.copies.any fun (_, x) => x.world == w && x.op == op && x.channel == ch

/-- The descriptor set of an agent (R346). -/
def dsOf (s : State) (a : Agent) : List (BitVec 64) :=
  let m : SMap (BitVec 64) := match a with
    | .lane t lit => (((s.team t).groups[lit / (s.launchOf t).width]?).map (·.ds)).getD []
    | .prog w => (s.prog w).ds
    | _ => []
  (List.range 8).map fun k => m.get 0 k

/-- Gives a token its command: it becomes PENDING, and the first piece is due. -/
def startCopy (s : State) (x : Copy) : State :=
  let id := s.nextCopy
  let s := { s with copies := s.copies.insert id x, nextCopy := id + 1 }
  (s.setToken x.who x.token { st := .pending, count := 0 }).pushOnce (.copyPieceComplete id 0)

/-- The staged-tile record of a COPY.ro (R352, R353). -/
def tileOf (x : Copy) : Tile :=
  let g := geoOf x.ds
  { src := x.a, dst := x.b % 2 ^ 32, x := g.x, y := g.y, z := g.z, sfmt := g.sfmt, dfmt := g.dfmt, sat := g.sat, mode := g.mode,
    sealed := false, sstrideY := (x.ds.getD 1 0).extractLsb' 0 32, sstrideZ := (x.ds.getD 1 0).extractLsb' 32 32 }

/-- Records that a new tile replaces (R353). -/
def tileMeets (r q : Tile) : Bool := r.dst < q.dst + q.bytes && q.dst < r.dst + r.bytes

/-- Adds the record, or raises fault 0x06 for the 33rd. -/
def addTile (s : State) (x : Copy) : Except Why State :=
  let r := tileOf x
  let keep := (s.team (copyTeam x)).tiles.filter fun q => !tileMeets r q
  if 32 ≤ keep.length then .error .illegal
  else .ok (s.modTeam (copyTeam x) fun y => { y with tiles := keep ++ [r] })

/-- What a command's writes charge at its issue (R423). A COMBINE folds at memory and charges nothing. -/
def copyCharge (x : Copy) : Nat :=
  if x.op = 5 || x.dstSide ≠ .global then 0 else x.bytes.foldl (fun n b => n + storeCharge b) 0

end State

/-- COPY, COPYW, GATHER, SCATTER, COMBINE, CHSEND and CHRECV in one lane (R339, R75, R423). -/
def laneCopy (op : Nat) (v : Env) (s : State) : State × Res :=
  let tk := mbits v.f.m 2 0
  if v.mismatch then (s, .fault (Why.pair v.a))
  else if (s.tokenOf v.who tk).st = .faulted then (s, .fault .illegal) else
  let x : Copy := { quad := s.quadOf v.who, who := v.who, world := v.w, op := op, m := v.f.m, a := v.a, b := v.b, c := v.c,
                    ds := s.dsOf v.who, token := tk, pieces := [], bytes := [] }
  match s.checkCopy x with
  | .error y => (s, .fault y)
  | .ok x =>
    if (op = 7 || op = 8) && s.channelBusy v.w x.channel op then (s.modLaneOf v.who fun l => { l with st := .token }, .wait)
    else
      match if s.stages v.who then s.charge v.t (State.copyCharge x) else some s with
      | none => (s, .fault { code := 0x11 })
      | some s =>
        match if x.ro then s.addTile x else .ok s with
        | .error y => (s, .fault y)
        | .ok s =>
          let ch := (s.world v.w).channels.get {} x.channel
          let x := { x with ctr := if op = 7 then ch.send else if op = 8 then ch.recv else 0, keyed := if op = 7 || op = 8 then ch.keyCount else 0 }
          let s := if s.stages v.who then
              s.modTeam v.t fun y => { y with staged := y.staged.map (State.forgetPiece (State.stageKey x)) }
            else s
          let s := if (s.tokenOf v.who tk).st = .done then (match s.coreOf v.who with | some c => s.l1Flush c | none => s) else s
          let s := s.startCopy x
          (match v.who with
            | .lane t lit => if op = 7 || op = 8 then s.modLane t lit fun l => { l with issued := true } else s
            | _ => s, .done)

/-- The lanes of the executing gang. -/
def gangSize (s : State) : Nat :=
  match s.cur with
  | some (.gang g) => ((s.gang g).map (·.lanes.length)).getD 1
  | _ => 1

/-- A command waits in TOKEN for its token and for its channel, and it waits for room in the unit (R75, R339, R361). On a
FAULTED token it does not wait: fault 0x06 comes first. Of the lanes of a gang that name one channel, each issues when the
command of the one before has ended (log entry 59). -/
def copyReady (op : Nat) (v : Env) (s : State) : State × Bool :=
  let k := (s.tokenOf v.who (mbits v.f.m 2 0)).st
  if k = .pending then tokenStall s v.who
  else if k = .faulted then (s, true)
  else if (op == 7 || op == 8) && s.channelBusy v.w (bits v.c 25 24) op then tokenStall s v.who
  else (s, decide (s.unitLoad (s.quadOf v.who) + gangSize s ≤ 512))

/-- TDSET in one lane (R348). -/
def laneTdset (v : Env) (s : State) : State × Res :=
  if v.mismatch then (s, .fault (Why.pair v.a))
  else if 8 ≤ v.b then (s, .fault .illegal)
  else
    let put := fun (m : SMap (BitVec 64)) => m.put 0 v.b (BitVec.ofNat 64 v.a)
    match v.who with
    | .lane t lit => (s.modTeam t fun y => { y with groups := y.groups.mapIdx fun k g => if k = lit / v.width then { g with ds := put g.ds } else g }, .done)
    | .prog w => (s.modProg w fun p => { p with ds := put p.ds }, .done)
    | _ => (s, .done)

/-- REPLAY in one lane (R351, R361). -/
def laneReplay (v : Env) (s : State) : State × Res :=
  let tk := mbits v.f.m 2 0
  let k := s.tokenOf v.who tk
  if k.st ≠ .faulted then (s, .fault .illegal) else
  let found := (s.copies.find? fun (_, x) => x.who == v.who && x.token == tk && !x.pending).map (·.1)
  if v.f.m.getLsbD 6 then
    let s := s.setToken v.who tk { k with st := .idle }
    match found.bind fun c => (s.copies.look c).map fun x => (c, x) with
    | none => (s, .done)
    | some (c, x) =>
      let s := ({ s with copies := s.copies.erase c }).wakeGangs
      let s := if x.op = 7 || x.op = 8 then s.wakeStalled x.world else s
      (if x.op = 7 && x.touched then s.modChannel x.world x.channel fun ch => { ch with st := 2 } else s, .done)
  else
    let s := s.setToken v.who tk { k with st := .pending }
    match found with
    | none => (s.setToken v.who tk { k with st := .done }, .done)
    | some c =>
      let s := s.modCopy c fun x => { x with
        pending := true, reported := [], pieces := x.pieces.map fun p => if p = .missing then .todo else p }
      (s.nextPiece c, .done)

/-! The meanings -/

/-- COPY_PIECE_COMPLETE (R340): the unit carries out a piece. -/
def execCopyPieceComplete (c i : Nat) (s : State) : Host.Outcome State Fault Refusal := .next (s.pieceEvent c i)

/-- TDSET (R348). -/
def opTdset (op : Nat) (f : F2) (s : State) : Host.Outcome State Fault Refusal :=
  runLanes { e := .tdset op f, f := f } s fun _ => laneTdset
def execTdset (f : F1) (s : State) : Host.Outcome State Fault Refusal := opTdset 0x00 f.widen s
def execTdsetW2 (f : F2) (s : State) : Host.Outcome State Fault Refusal := opTdset 0x80 f s
/-- COPY (R349, R352). -/
def opCopy (op : Nat) (f : F2) (s : State) : Host.Outcome State Fault Refusal :=
  runLanes { e := .copy op f, f := f } s (fun _ => laneCopy 1) (copyReady 1)
def execCopy (f : F1) (s : State) : Host.Outcome State Fault Refusal := opCopy 0x01 f.widen s
def execCopyW2 (f : F2) (s : State) : Host.Outcome State Fault Refusal := opCopy 0x81 f s
/-- COPYW (R349). -/
def opCopyw (op : Nat) (f : F2) (s : State) : Host.Outcome State Fault Refusal :=
  runLanes { e := .copyw op f, f := f } s (fun _ => laneCopy 2) (copyReady 2)
def execCopyw (f : F1) (s : State) : Host.Outcome State Fault Refusal := opCopyw 0x02 f.widen s
def execCopywW2 (f : F2) (s : State) : Host.Outcome State Fault Refusal := opCopyw 0x82 f s
/-- GATHER (R349). -/
def opGather (op : Nat) (f : F2) (s : State) : Host.Outcome State Fault Refusal :=
  runLanes { e := .gather op f, f := f } s (fun _ => laneCopy 3) (copyReady 3)
def execGather (f : F1) (s : State) : Host.Outcome State Fault Refusal := opGather 0x03 f.widen s
def execGatherW2 (f : F2) (s : State) : Host.Outcome State Fault Refusal := opGather 0x83 f s
/-- SCATTER (R349). -/
def opScatter (op : Nat) (f : F2) (s : State) : Host.Outcome State Fault Refusal :=
  runLanes { e := .scatter op f, f := f } s (fun _ => laneCopy 4) (copyReady 4)
def execScatter (f : F1) (s : State) : Host.Outcome State Fault Refusal := opScatter 0x04 f.widen s
def execScatterW2 (f : F2) (s : State) : Host.Outcome State Fault Refusal := opScatter 0x84 f s
/-- COMBINE (R350). -/
def opCombine (op : Nat) (f : F2) (s : State) : Host.Outcome State Fault Refusal :=
  runLanes { e := .combine op f, f := f } s (fun _ => laneCopy 5) (copyReady 5)
def execCombine (f : F1) (s : State) : Host.Outcome State Fault Refusal := opCombine 0x05 f.widen s
def execCombineW2 (f : F2) (s : State) : Host.Outcome State Fault Refusal := opCombine 0x85 f s
/-- REPLAY (R351). -/
def opReplay (op : Nat) (f : F2) (s : State) : Host.Outcome State Fault Refusal :=
  runLanes { e := .replay op f, f := f } s (fun _ => laneReplay)
    fun v s => (s, v.f.m.getLsbD 6 || s.unitLoad (s.quadOf v.who) + gangSize s ≤ 512)
def execReplay (f : F1) (s : State) : Host.Outcome State Fault Refusal := opReplay 0x06 f.widen s
def execReplayW2 (f : F2) (s : State) : Host.Outcome State Fault Refusal := opReplay 0x86 f s
/-- CHSEND (R360). -/
def opChsend (op : Nat) (f : F2) (s : State) : Host.Outcome State Fault Refusal :=
  runLanes { e := .chsend op f, f := f } s (fun _ => laneCopy 7) (copyReady 7)
def execChsend (f : F1) (s : State) : Host.Outcome State Fault Refusal := opChsend 0x07 f.widen s
def execChsendW2 (f : F2) (s : State) : Host.Outcome State Fault Refusal := opChsend 0x87 f s
/-- CHRECV (R360). -/
def opChrecv (op : Nat) (f : F2) (s : State) : Host.Outcome State Fault Refusal :=
  runLanes { e := .chrecv op f, f := f } s (fun _ => laneCopy 8) (copyReady 8)
def execChrecv (f : F1) (s : State) : Host.Outcome State Fault Refusal := opChrecv 0x08 f.widen s
def execChrecvW2 (f : F2) (s : State) : Host.Outcome State Fault Refusal := opChrecv 0x88 f s

end Sys2Proof.Machine
end

