-- ==== Sys2Proof/Machine/Issuing.lean ====
section
/-! DEFINITION. The operations and events of issue: swapping groups (R202 to R204), the progress override (R210), the end
of STALL (R158), the timeouts of JOIN and MWAIT (R213, R279), and a word that decodes to no instruction (R177, R178). -/

namespace Sys2Proof.Machine

namespace State

/-- Gives group k of team t an active slot, or puts it into the pending set. -/
def setSlot (s : State) (p : Nat × Nat) (slot : Option Nat) : State :=
  s.modTeam p.1 fun x => { x with groups := x.groups.mapIdx fun k g =>
    if k = p.2 then { g with slot := slot, pendingSince := if slot.isNone then s.cycle else g.pendingSince } else g }

/-- Exchanges the group of a slot with a pending group. A group whose lanes have all exited holds no place any more. -/
def swapIn (s : State) (c slot : Nat) (p : Nat × Nat) : State :=
  let s := match s.slotGroup c slot with
    | some q => s.setSlot q none
    | none => s
  s.setSlot p (some slot)

end State

/-- GROUP_SWAP (R203, R204). The four cycles of a swap are timing (log entry 5). -/
def execGroupSwap (core slot : Nat) (s : State) : Host.Outcome State Fault Refusal :=
  match s.oldestPending core with
  | some p => if slot < 8 && s.slotOpen core slot then .next (s.swapIn core slot p) else .next s
  | none => .next s

/-- PROGRESS_OVERRIDE (R210): while C is 1,024 or more, only the progress lane's gang issues; its group is swapped in. -/
def execProgressOverride (core : Nat) (s : State) : Host.Outcome State Fault Refusal :=
  if s.progress.get 0 core < 1024 then .next s else
  let s := { s with override := if s.override.contains core then s.override else s.override ++ [core] }
  match s.progressLane core with
  | none => .next s
  | some (t, lit) =>
    if s.groupActive t lit then .next s else
    match s.displaceable core with
    | some slot => .next (s.swapIn core slot (t, lit / (s.launchOf t).width))
    | none => .next s

/-- STALL_END (R158, R160): STALL is timing only; the gang's next instruction may issue. -/
def execStallEnd (core g : Nat) (s : State) : Host.Outcome State Fault Refusal :=
  match s.gang g with
  | some x => if x.core = core then .next { s with gangs := s.gangs.insert g { x with stalled := false } } else .next s
  | none => .next s

/-- JOIN_TIMEOUT (R213): 64 cycles after its arrival at the header the lane becomes READY. -/
def execJoinTimeout (t lit : Nat) (s : State) : Host.Outcome State Fault Refusal :=
  let l := s.lane t lit
  if l.st = .join && l.since + 64 ≤ s.cycle then
    .next (s.modLane t lit fun l => { l with st := .ready, readyAt := s.cycle, passJ := true })
  else .next s

/-- MWAIT_TIMEOUT (R279): D := 1 and the lane leaves MWAIT. -/
def execMwaitTimeout (t lit : Nat) (s : State) : Host.Outcome State Fault Refusal :=
  let l := s.lane t lit
  if l.st = .mwait && l.mwLimit ≠ 0 && l.since + l.mwLimit ≤ s.cycle then
    .next (s.modLane t lit fun l => { l with st := .ready, readyAt := s.cycle, woken := some 1 })
  else .next s

/-- UNASSIGNED_OPCODE (R177 row 2, R178): fault 0x06 at the instruction, in every agent that executes it. Fields of no
legal instruction fault alike. -/
def execUnassignedOpcode (_op : BitVec 8) (s : State) : Host.Outcome State Fault Refusal :=
  match s.cur with
  | some (.seq t) => .next (s.takeFault (.seq t) .illegal)
  | _ =>
    match agentsOf s with
    | none => .next s
    | some (as, _) =>
      let s := as.foldl haltAtBoundary s
      .next ((as.filter (acting s)).foldl (fun s a => if acting s a then s.takeFault a .illegal else s) s)

end Sys2Proof.Machine
end

