-- ==== Sys2Proof/Machine/Engine.lean ====
section
/-! DEFINITION. The arithmetic of the matrix engine (R98, R365, R369, R370, R378, R379, R386): operands, cells, the epilogue
and the selection of MTOPK. -/

namespace Sys2Proof.Machine

/-! Operands -/

/-- The operand formats of R385 by FMT. -/
def engFmt (f : Nat) : Fmt := [Fmt.e4m3, .e5m2, .e2m1, .i8, .bf16, .f16].getD f .e4m3
/-- Bits of an element, and the limit of K (R385). -/
def engBits (f : Nat) : Nat := [8, 8, 4, 8, 16, 16].getD f 8
def engLimit (f : Nat) : Nat := if f = 2 then 1024 else 512
/-- Bytes of a run of K elements (R386). -/
def engRun (f k : Nat) : Nat := k * engBits f / 8
/-- Formats that may meet (R385). -/
def engMatch (f g : Nat) : Bool := f == g || (f ≤ 1 && g ≤ 1)

/-- Bytes that a pass reads, by offset, and which of them are poisoned. -/
structure Source where
  byte : Nat → Byte
  bad : Nat → Bool

/-- Element k of the run at an offset (R386). -/
def Source.elem (x : Source) (f o k : Nat) : Nat :=
  match engBits f with
  | 4 => (x.byte (o + k / 2)).toNat / 2 ^ (4 * (k % 2)) % 16
  | 16 => (x.byte (o + 2 * k)).toNat + 256 * (x.byte (o + 2 * k + 1)).toNat
  | _ => (x.byte (o + k)).toNat

/-- A run of K elements with the offsets of its elements and of its block scales. -/
structure Run where
  src : Source
  f : Nat
  o : Nat
  sc : Bool
  so : Nat

/-- The value of an element under its block scale (R90). -/
def Run.value (r : Run) (k : Nat) : Num :=
  let x := decodeNum (engFmt r.f) (r.src.elem r.f r.o k)
  if !r.sc then x
  else
    let e := (r.src.byte (r.so + k / 32)).toNat
    if e = 255 then .nan false else x.scale ((e : Int) - 127)
/-- An .i8 element. -/
def Run.int (r : Run) (k : Nat) : Int := sext 8 (r.src.elem r.f r.o k)
/-- Some byte of a run of K elements, or of its scales, is poisoned. -/
def Run.poisoned (r : Run) (K : Nat) : Bool :=
  (List.range (engRun r.f K)).any (fun i => r.src.bad (r.o + i)) ||
    (r.sc && (List.range (K / 32)).any fun i => r.src.bad (r.so + i))

/-! Cells -/

/-- The exact difference of R369. -/
def diffNum (a w : Num) : Num :=
  match a, w with
  | .nan _, _ | _, .nan _ => .nan false
  | .inf p, .inf q => if p = q then .nan false else .inf p
  | .inf p, _ => .inf p
  | _, .inf q => .inf (!q)
  | a, w =>
    let (n, u) := exactSum [a, w.negate]
    .fin (decide (n < 0)) n.natAbs u

/-- The factor pairs of a chunk: products, or squares of differences. -/
def chunkPair (dist : Bool) (a w : Num) : Num × Num := if dist then (diffNum a w, diffNum a w) else (a, w)

/-- acc + s, rounded once to .f32. -/
def addCell (acc : Nat) (s : Num) : Nat := roundNe .f32 (fusedNum [(decodeNum .f32 acc, .one)] (some s) false).1

/-- One chunk of 16 elements from k0 on, K in all (R98, R369). -/
def accChunk (dist : Bool) (a w : Run) (K acc k0 : Nat) : Nat :=
  let ks := (List.range (min 16 (K - k0))).map (k0 + ·)
  if a.f = 3 then
    satInt 32 false (sext 32 acc + ks.foldl (fun (n : Int) k =>
      n + (if dist then (a.int k - w.int k) * (a.int k - w.int k) else a.int k * w.int k)) 0)
  else addCell acc (fusedNum (ks.map fun k => chunkPair dist (a.value k) (w.value k)) none false).1

/-- A cell after one pass over K elements (R98). -/
def accCell (dist : Bool) (a w : Run) (K acc : Nat) : Nat :=
  (List.range (ceilDiv K 16)).foldl (fun acc c => accChunk dist a w K acc (16 * c)) acc

/-! The activation functions (R378), taken to 320 fraction bits (log entry 14) -/

/-- e^y for fixed-point y. -/
def expAny (y : Nat) : Nat := expFx (y - y / ln2Fx * ln2Fx) * 2 ^ (y / ln2Fx)

/-- 1 / (1 + e^∓y) as mantissa and exponent. -/
def logistic (neg : Bool) (y : Nat) : Nat × Int :=
  let ex := expAny y
  if neg then (2 ^ 1152 / (ex + fxOne), -832) else (ex * 2 ^ 320 / (ex + fxOne), -320)

/-- Just above, or just below, a magnitude. -/
def above (neg : Bool) (m : Nat) (e : Int) : Approx := ⟨neg, m * 2 ^ 64, e - 64, true⟩
def below (neg : Bool) (m : Nat) (e : Int) : Approx := ⟨neg, m * 2 ^ 64 - 1, e - 64, true⟩
/-- A magnitude far below every .f32. -/
def vanishing (neg : Bool) : Approx := ⟨neg, 1, -1000, true⟩

/-- sigmoid of a nonzero number. -/
def sigmoidApprox (neg : Bool) (m : Nat) (e : Int) : Approx :=
  let lg : Int := (Nat.log2 m : Int) + e
  if lg < -45 then (if neg then below false 1 (-1) else above false 1 (-1))
  else if 7 ≤ lg then (if neg then vanishing false else below false 1 0)
  else
    let (q, g) := logistic neg (toFx m e)
    ⟨false, q, g, true⟩

/-- x times the logistic function of a number of x's sign: a small x gives about x / 2, a large one x or nothing. -/
def gated (neg : Bool) (m : Nat) (e : Int) (large : Int) (arg : Nat → Nat) : Approx :=
  let lg : Int := (Nat.log2 m : Int) + e
  if lg < -45 then (if neg then below true m (e - 1) else above false m (e - 1))
  else if large ≤ lg then (if neg then vanishing true else below false m e)
  else
    let (q, g) := logistic neg (arg (toFx m e))
    ⟨neg, m * q, e + g, true⟩

/-- 2 √(2/π) (x + 0.044715 x³) in fixed point. -/
def geluArg (x : Nat) : Nat := fxMul (isqrt (4 * 2 ^ 1120 / halfPi480)) (x + 44715 * x ^ 3 / (10 ^ 6 * 2 ^ 640))

/-- ACT 2 to 5 of a nonzero number: gelu, silu, tanh, sigmoid. -/
def actApprox (act : Nat) (neg : Bool) (m : Nat) (e : Int) : Approx :=
  match act with
  | 2 => gated neg m e 4 geluArg
  | 3 => gated neg m e 7 id
  | 4 => tanhApprox neg m e
  | _ => sigmoidApprox neg m e

/-- act(x) rounded once to .f32; ACT 0 leaves x. -/
def actFn (act x : Nat) : Nat :=
  if act = 0 then x else
  match decodeNum .f32 x with
  | .nan _ => 0x7FC00000
  | .inf neg =>
    match act with
    | 4 => signCode .f32 neg 0x3F800000
    | 5 => if neg then 0 else 0x3F800000
    | _ => if neg then 0 else x
  | .fin neg m e =>
    if act = 1 then (if m ≠ 0 && !neg then x else 0)
    else if m = 0 then (if act = 5 then 0x3F000000 else x)
    else (actApprox act neg m e).round 0 false |>.1

/-! The epilogue (R377, R378) -/

def epiScaleKind (e : BitVec 64) : Nat := bits e.toNat 63 62
def epiBiasKind (e : BitVec 64) : Nat := bits e.toNat 61 60
def epiAct (e : BitVec 64) : Nat := bits e.toNat 59 57
def epiClamp (e : BitVec 64) : Bool := e.getLsbD 56
/-- The bounds as .f32 codes. -/
def epiHi (e : BitVec 64) : Nat := bits e.toNat 55 40 * 2 ^ 16
def epiLo (e : BitVec 64) : Nat := bits e.toNat 39 24 * 2 ^ 16
def epiIcell (e : BitVec 64) : Bool := e.getLsbD 23
def epiCvt (e : BitVec 64) : Nat := bits e.toNat 22 20
def epiSat (e : BitVec 64) : Bool := e.getLsbD 19
def epiMode (e : BitVec 64) : Nat := bits e.toNat 18 16
def epiStream (e : BitVec 64) : Nat := bits e.toNat 15 0
/-- Bits of a drained element (R394), and its format. -/
def cvtBits (c : Nat) : Nat := [32, 32, 16, 16, 8, 8, 4].getD c 32
def cvtFmt (c : Nat) : Fmt := [Fmt.f32, .f32, .bf16, .f16, .e4m3, .e5m2, .e2m1].getD c .f32

/-- The words that MEPI refuses (R377). -/
def epiOk (e : BitVec 64) : Bool :=
  epiScaleKind e != 3 && epiBiasKind e != 3 && epiAct e ≤ 5 && epiCvt e != 7 && epiMode e ≤ 4 &&
    !(epiCvt e == 0 && (epiScaleKind e != 0 || epiBiasKind e != 0 || epiAct e != 0 || epiClamp e || epiIcell e)) &&
    !(epiClamp e && ((decodeNum .f32 (epiHi e)).isNan || (decodeNum .f32 (epiLo e)).isNan ||
      decide (orderKey .f32 (epiHi e) < orderKey .f32 (epiLo e)))) &&
    !(epiMode e == 4 && epiStream e == 0xFFFF)

/-- SCALE, BIAS, ACT and CLAMP of R378 on an .f32 code; sv and bv are the vectors' elements. -/
def epiStages (e : BitVec 64) (x sv bv : Nat) : Nat :=
  let x := if epiScaleKind e = 0 then x else (fused [(decodeNum .f32 x, decodeNum .f32 sv)] none .f32 0 false).1
  let x := if epiBiasKind e = 0 then x else (fused [(decodeNum .f32 x, .one)] (some (decodeNum .f32 bv)) .f32 0 false).1
  let x := actFn (epiAct e) x
  if epiClamp e && !(decodeNum .f32 x).isNan then (minMax .f32 false (minMax .f32 true x (epiLo e)).1 (epiHi e)).1 else x

/-- The .f32 code of an .i32 cell. -/
def intCell (c : Nat) : Nat := roundNe .f32 (.ofInt (sext 32 c))

/-- R378: the drained code of a cell; r is the element's random word. -/
def drainCell (e : BitVec 64) (c sv bv r : Nat) : Nat :=
  if epiCvt e = 0 then c else
  let x := epiStages e (if epiIcell e then intCell c else c) sv bv
  (roundNum (cvtFmt (epiCvt e)) (epiMode e) (epiSat e) r (decodeNum .f32 x)).1

/-- The element of a scale or bias vector for row r and column c, by kind 1 per column, 2 per row: its offset. -/
def vecOffset (kind base r c : Nat) : Nat := base + 4 * (if kind = 1 then c else r)

/-- A 32-bit word of a source. -/
def Source.word (x : Source) (o : Nat) : Nat := ofLe ((List.range 4).map fun i => x.byte (o + i))
def Source.wordBad (x : Source) (o : Nat) : Bool := (List.range 4).any fun i => x.bad (o + i)

/-- Scale and bias of a row and a column, and whether one of them is poisoned. -/
def epiVectors (e : BitVec 64) (scale bias : Nat) (x : Source) (r c : Nat) : Nat × Nat × Bool :=
  let so := vecOffset (epiScaleKind e) scale r c
  let bo := vecOffset (epiBiasKind e) bias r c
  (x.word so, x.word bo,
   (epiScaleKind e != 0 && x.wordBad so) || (epiBiasKind e != 0 && x.wordBad bo))

/-! Selection (R392) -/

/-- A value and its index. -/
abbrev Pick2 := Nat × Nat

/-- Pair p is better than pair q. -/
def betterPair (min' : Bool) (p q : Pick2) : Bool :=
  let x := orderKey .f32 p.1
  let y := orderKey .f32 q.1
  if min' then decide (x < y) || (x == y && decide (p.2 < q.2)) else decide (y < x) || (x == y && decide (p.2 < q.2))

/-- Puts a pair before the first that is worse than it. -/
def insertPair (min' : Bool) (p : Pick2) (l : List Pick2) : List Pick2 :=
  match l with
  | [] => [p]
  | q :: l => if betterPair min' p q then p :: q :: l else q :: insertPair min' p l

/-- The k best pairs, best first. -/
def bestPairs (min' : Bool) (k : Nat) (ps : List Pick2) : List Pick2 :=
  ps.foldl (fun l p => (insertPair min' p l).take k) []

/-- The pairs as bytes, padded to k. -/
def pairBytes (k : Nat) (ps : List Pick2) : List Byte :=
  (ps ++ List.replicate (k - ps.length) ((0x7FC00000, 0xFFFFFFFF) : Pick2)).flatMap fun p => leBytes 4 p.1 ++ leBytes 4 p.2

end Sys2Proof.Machine
end

