-- ==== Sys2Proof/Machine/Matrix.lean ====
section
/-! DEFINITION. Passes of the matrix engine (R363 to R368, R374 to R379, R382, R387 to R395): the checks and the posting of a pass
instruction, the reservation table of a quad, the grant of a pass with its effect, and its completion. -/

namespace Sys2Proof.Machine

/-- Opcodes of the passes in Pass.op. -/
def opMload : Nat := 0
def opMswap : Nat := 1
def opMstream : Nat := 2
def opMvstream : Nat := 3
def opMdist : Nat := 4
def opMtopk : Nat := 5
def opMdrain : Nat := 7
def opMclear : Nat := 8

/-! Fields of pass operands -/

/-- FMT and SC of a modifier. -/
def passFmt (m : BitVec 8) : Nat := mbits m 2 0
def passSc (m : BitVec 8) : Bool := m.getLsbD 3
/-- MTOPK in vector-stream form (R392). -/
def topkVs (m : BitVec 8) : Bool := m.getLsbD 7

namespace Pass

/-- The pass streams columns from global memory (R368). -/
def vector (p : Pass) : Bool := p.op == opMvstream || (p.op == opMtopk && topkVs p.m)
/-- Activation rows of a stationary pass, streamed columns of a vector one. -/
def rows (p : Pass) : Nat := (if p.op = opMtopk then bits p.c 10 0 else p.c) + 1
def cols (p : Pass) : Nat := (if p.op = opMtopk then bits p.c 15 0 else p.c) + 1
def rec' (p : Pass) : Plane := p.plane.getD { off := 0, fmt := 0, sc := false, k := 0, n := 0, soff := 0 }
/-- Output rows and the width W of R386. -/
def outRows (p : Pass) : Nat := if p.vector then p.rec'.n else p.rows
def width (p : Pass) : Nat := if p.vector then p.cols else p.rec'.n
/-- k of MTOPK. -/
def k (p : Pass) : Nat := bits p.c 21 16 + 1
/-- Rows and columns of a drained tile (R394). -/
def tileRows (p : Pass) : Nat := bits p.c 15 0 + 1
def tileCols (p : Pass) : Nat := bits p.c 31 16 + 1
/-- MDRAIN to global memory. -/
def toGlobal (p : Pass) : Bool := p.op == opMdrain && p.m.getLsbD 0
/-- Bytes of a drained tile. -/
def tileBytes (p : Pass) : Nat := p.tileRows * p.tileCols * cvtBits (epiCvt p.epi) / 8
/-- Bytes of rows runs of the plane's K with their scales (R386). -/
def runsBytes (p : Pass) (n : Nat) : Nat := n * engRun (passFmt p.m) p.rec'.k + if passSc p.m then n * (p.rec'.k / 32) else 0
/-- Bytes of the global operand; a drain's destination. -/
def globalBytes (p : Pass) : Nat := if p.vector then p.runsBytes p.cols else if p.toGlobal then p.tileBytes else 0
/-- The cells that a pass reads or writes in the accumulator store: offset and count. -/
def cells (p : Pass) : Nat × Nat :=
  if p.op = opMdrain then (p.a, p.tileRows * p.tileCols)
  else if p.op = opMclear then (p.a, p.b)
  else if p.op = opMtopk || p.op = opMload || p.op = opMswap then (0, 0)
  else (p.b, p.outRows * p.width)

/-! The checks of R387 -/

/-- Fault 0x06 (R385, R389 to R395). -/
def legal (p : Pass) : Bool :=
  let pl := p.rec'
  let compute := p.plane.isSome && engMatch (passFmt p.m) pl.fmt && passSc p.m == pl.sc &&
    (!p.vector || (pl.n ≤ 8 && p.globalBytes ≤ 2 ^ 24))
  if p.op = opMload then
    let k := bits p.b 9 0 + 1
    p.b < 2 ^ 25 && bits p.b 15 10 == 0 && k ≤ engLimit (passFmt p.m) && (passFmt p.m != 2 || k % 2 == 0) &&
      (!passSc p.m || k % 32 == 0)
  else if p.op = opMswap then true
  else if p.op = opMstream || p.op = opMdist then compute && p.c < 2 ^ 11
  else if p.op = opMvstream then compute && p.c < 2 ^ 16
  else if p.op = opMtopk then compute && (topkVs p.m || bits p.c 15 11 == 0)
  else if p.op = opMdrain then epiCvt p.epi != 6 || p.tileCols % 2 == 0
  else p.b < 2 ^ 20

/-- The record that MLOAD gives the shadow plane. -/
def loaded (p : Pass) : Plane :=
  { off := p.a, fmt := passFmt p.m, sc := passSc p.m, k := bits p.b 9 0 + 1, n := bits p.b 24 16 + 1, soff := p.c }

/-- Fault 0x07: the origins and offsets with their alignments and R315's FLAGS. -/
def origins (p : Pass) : List (Nat × Nat × Nat) :=
  if p.op = opMload then [(p.a, 32, 0)]
  else if p.op = opMswap then []
  else if p.op = opMtopk then [(p.a, 32, 0), (p.b, 8, 2)]
  else if p.op = opMdrain then [(p.a, 4, 0), (p.b, max 1 (cvtBits (epiCvt p.epi) / 8), 2)]
  else if p.op = opMclear then [(p.a, 4, 2)]
  else [(p.a, 32, 0), (p.b, 4, 2)]

/-- The epilogue's vectors as ranges, for rows and columns of the output. -/
def vectors (p : Pass) (rows cols : Nat) : List (Nat × Nat × Nat) :=
  let len := fun (kind : Nat) => 4 * (if kind = 1 then cols else rows)
  (if epiScaleKind p.epi = 0 then [] else [(p.epiScale, len (epiScaleKind p.epi), 0)]) ++
    (if epiBiasKind p.epi = 0 then [] else [(p.epiBias, len (epiBiasKind p.epi), 0)])

/-- Fault 0x02: the ranges of the scratchpad, with FLAGS. -/
def ranges (p : Pass) : List (Nat × Nat × Nat) :=
  if p.op = opMload then
    let r := p.loaded
    [(r.off, r.n * engRun r.fmt r.k, 0)] ++ if r.sc then [(r.soff, r.n * (r.k / 32), 0)] else []
  else if p.op = opMstream || p.op = opMdist then [(p.a, p.runsBytes p.rows, 0)]
  else if p.op = opMtopk then
    (if p.vector then [] else [(p.a, p.runsBytes p.rows, 0)]) ++ [(p.b, 8 * p.k * p.outRows, 2)] ++ p.vectors p.outRows p.width
  else if p.op = opMdrain then
    (if p.toGlobal then [] else [(p.b, p.tileBytes, 2)]) ++ p.vectors p.tileRows p.tileCols
  else []

/-- The checks of R387 before translation, in their order, against SCRATCH and the accumulator bytes. -/
def check (p : Pass) (scratch acc : Nat) : Option Why :=
  if !p.legal then some .illegal
  else
    match p.origins.find? fun o => o.1 % o.2.1 != 0 with
    | some o => some { code := 0x07, flags := o.2.2, addr := o.1 % 2 ^ 52 }
    | none =>
      match p.ranges.find? fun r => scratch < r.1 + r.2.1 with
      | some r => some { code := 0x02, flags := r.2.2, addr := r.1, info := 3 }
      | none =>
        let (o, n) := p.cells
        if acc < o + 4 * n then some { code := 0x02, flags := if p.op = opMdrain then 0 else 2, addr := o, info := 3 } else none

/-- The address of the global operand. -/
def globalVa (p : Pass) : Nat := (if p.toGlobal then p.b else p.a) % 2 ^ 52

/-- The draw counter after the pass (R379). -/
def drawAfter (p : Pass) : BitVec 64 :=
  if p.op = opMdrain && epiMode p.epi == 4 then p.draw + BitVec.ofNat 64 (ceilDiv (p.tileRows * p.tileCols) 8)
  else p.draw

end Pass

namespace State

/-- The passes of a team, and of a quad. -/
def passesOf (s : State) (t : Nat) : List Nat := (s.passes.filter fun (_, p) => p.team == t).map (·.1)
def quadPasses (s : State) (q : Nat) : List (Nat × Pass) := s.passes.filter fun (_, p) => coreQuad (s.team p.team).core == q

/-- The team's queue or the quad's table has no free entry (R372, R374). -/
def tableFull (s : State) (t : Nat) : Bool :=
  8 ≤ (s.passesOf t).length || 16 ≤ (s.quadPasses (coreQuad (s.team t).core)).length

/-- The pages of a pass's global operand (R382): every one is translated before the pass retires. -/
def passPages (s : State) (t : Nat) (p : Pass) : Except Res (List (Target × Option (Space × Nat))) × State :=
  let w := (s.launchOf t).world
  let n := p.globalBytes
  let flags := if p.toGlobal then 2 else 0
  if n = 0 then (.ok [], s) else
  match s.vaPlaces w (s.quadOf (.seq t)) (if p.toGlobal then .write else .read) (n / 4096 + 2) p.globalVa n with
  | (.error e, s) =>
    let bad := (chunks (n / 4096 + 2) p.globalVa n).find? fun c =>
      match (s.translate w (s.quadOf (.seq t)) c.1 (if p.toGlobal then .write else .read) false).1 with
      | .error _ => true
      | .ok _ => false
    (.error (.trouble e flags ((bad.map (·.1)).getD p.globalVa)), s)
  | (.ok ps, s) =>
    match ps.find? fun x => match x.1.target with | .peer accel _ => !s.routeOk w accel | _ => false with
    | some _ => (.error (.fault { code := 0x12, flags := flags, addr := p.globalVa }), s)
    | none => (.ok (ps.map fun x => (x.1.target, x.1.at?)), s)

/-- What a drain to global memory charges (R376, R423). -/
def drainCharge (p : Pass) : Nat :=
  if !p.toGlobal then 0 else (chunks (p.tileBytes / 4096 + 2) p.globalVa p.tileBytes).foldl (fun n c => n + storeCharge c.2) 0

/-- The next grant of a quad is due (R374). -/
def grantNext (s : State) (q : Nat) : State :=
  let ps := s.quadPasses q
  if ps.isEmpty || ps.any fun (_, p) => p.granted then s else s.pushOnce (.passGrant q)

/-- Puts a checked pass into the table; the records of the sequencer change at once (R366, R389). -/
def insertPass (s : State) (t : Nat) (p : Pass) : State :=
  let s := s.modSeq t fun q =>
    let q := { q with draw := p.drawAfter }
    if p.op = opMload then { q with shadow := some { p.loaded with load := s.nextPass + 1 } }
    else if p.op = opMswap then { q with active := q.shadow, shadow := q.active }
    else q
  ({ s with passes := s.passes.insert s.nextPass p, nextPass := s.nextPass + 1 }).grantNext (coreQuad (s.team t).core)

end State

/-- A pass instruction at its issue (R387): the checks, the wait of POSTING, the posting. -/
def postPass (op : Nat) (v : SeqEnv) (s : State) : State × Res :=
  let t := v.t
  let q := s.seqOf t
  let d := (s.launchOf t).desc
  let p : Pass := { team := t, op := op, m := v.f.m, a := v.a, b := v.b, c := v.c, plane := q.active, epi := q.epi,
                    epiScale := q.epiScale, epiBias := q.epiBias, draw := q.draw, va := 0, pages := [], posted := s.cycle,
                    prio := (s.launchOf t).prio }
  match p.check d.scratch (d.accum * 65536) with
  | some y => (s, .fault y)
  | none =>
    match s.passPages t p with
    | (.error r, s) => (s, r)
    | (.ok pages, s) =>
      let cost := State.drainCharge p
      match if s.stages (.seq t) && cost != 0 then s.charge t cost else some s with
      | none => (s, .fault { code := 0x11 })
      | some s1 =>
        if s.tableFull t then (s.modSeq t fun q => { q with st := .posting }, .wait)
        else ((s1.dropAnswers (.seq t)).insertPass t { p with va := p.globalVa, pages := pages }, .done)

/-! The effect of a pass -/

namespace State

/-- The team's scratchpad as what a pass reads: of the values that each byte has held after a cycle, one (R367, R376; log entry
54). -/
def scratchSource (s : State) (t since : Nat) : Source :=
  let past := (s.team t).past.filter fun e => since < e.1
  ⟨fun i =>
    let vs := ((past.filter fun e => e.2.1 == i).map (·.2.2)) ++ [s.byte (.scratch t) i]
    vs.getD (Config.scratchChoice s.freeCtr i % vs.length) 0,
   fun i => s.poison.contains (.scratch t, i / 32)⟩
/-- The accumulator store likewise; passes alone write it. -/
def accSource (s : State) (t : Nat) : Source :=
  ⟨fun i => s.byte (.acc t) i, fun i => s.poison.contains (.acc t, i / 32)⟩

/-- The place of byte i of a pass's global operand. -/
def operandPlace (p : Pass) (i : Nat) : Target × Option (Space × Nat) × Nat :=
  let o := p.va % 4096 + i
  let u := o / 4096
  let (tg, at') := p.pages.getD u (.device 0, none)
  (tg, at', if u = 0 then i else o % 4096)

/-- The requests that read a granted pass's operand, and their answers. -/
def passReqs (s : State) (i : Nat) : List Req := s.reqs.filter fun r => r.pass == some i

/-- A byte of a peer's memory among the answers that a pass has; a read that failed leaves it poisoned (R331, R382). -/
def answerByte (rs : List Req) (accel wpa : Nat) : Option Byte :=
  rs.findSome? fun r => match r.st with
    | .ok bs => if r.accel = accel && r.wpa ≤ wpa && wpa < r.wpa + bs.length then bs[wpa - r.wpa]? else none
    | _ => none

/-- The global operand of a pass, read at the home banks, or by the answers of peers. -/
def globalSource (s : State) (p : Pass) (rs : List Req) : Source :=
  let peer := fun (tg : Target) (o : Nat) => match tg with
    | .peer accel wpa => answerByte rs accel (wpa + o)
    | _ => none
  ⟨fun i => match operandPlace p i with
    | (_, some (sp, a), o) => s.byte sp (a + o)
    | (tg, none, o) => (peer tg o).getD 0,
   fun i => match operandPlace p i with
    | (_, some (sp, a), o) => s.poison.contains (sp, (a + o) / granule sp)
    | (tg, none, o) => (peer tg o).isNone⟩

/-- What a pass reads: its plane's bytes, the other bytes of the scratchpad, and its streamed operand. -/
structure PassSources where
  plane : Source
  pad : Source
  stream : Source

/-- The sources of a pass under the answers it has: the weights as they stood at some moment since the grant of their MLOAD, and
the rest since the posting (R367, R376). -/
def passSources (s : State) (p : Pass) (rs : List Req) : PassSources :=
  let pad := s.scratchSource p.team p.posted
  { plane := s.scratchSource p.team p.rec'.since, pad := pad, stream := if p.vector then s.globalSource p rs else pad }

/-- Column or resident vector j of the plane (R386). -/
def planeRun (x : PassSources) (p : Pass) (j : Nat) : Run :=
  let r := p.rec'
  ⟨x.plane, r.fmt, r.off + j * engRun r.fmt r.k, r.sc, r.soff + j * (r.k / 32)⟩

/-- Activation row m, or streamed column n (R386). -/
def streamRun (x : PassSources) (p : Pass) (j : Nat) : Run :=
  let rb := engRun (passFmt p.m) p.rec'.k
  let base := if p.vector then 0 else p.a
  let n := if p.vector then p.cols else p.rows
  ⟨x.stream, passFmt p.m, base + j * rb, passSc p.m, base + n * rb + j * (p.rec'.k / 32)⟩

/-- The runs of output cell (r, c): streamed against stationary. -/
def cellRuns (x : PassSources) (p : Pass) (r c : Nat) : Run × Run :=
  if p.vector then (planeRun x p r, streamRun x p c) else (streamRun x p r, planeRun x p c)

/-- Writes bytes of a tier, then marks the poisoned ones. -/
def writeMarked (s : State) (sp : Space) (a : Nat) (bs : List Byte) (bad : List Nat) : State :=
  bad.foldl (fun s i => s.poisonRange sp (a + i) 1) (s.write sp a bs)

/-- Indexes of the bytes of the poisoned ones among cells of n bytes. -/
def badBytes (n : Nat) (l : List Bool) : List Nat :=
  ((l.mapIdx fun i b => (i, b)).filter (·.2)).map fun e => e.1 * n

/-- MSTREAM, MVSTREAM and MDIST (R390, R391). -/
def runCells (s : State) (p : Pass) (src : PassSources) : State :=
  let W := p.width
  let K := p.rec'.k
  let acc := s.accSource p.team
  let out := (List.range (p.outRows * W)).map fun i =>
    let (x, y) := cellRuns src p (i / W) (i % W)
    let o := p.b + 4 * i
    (accCell (p.op == opMdist) x y K (acc.word o), acc.wordBad o || x.poisoned K || y.poisoned K)
  s.writeMarked (.acc p.team) p.b (out.flatMap fun e => leBytes 4 e.1) (badBytes 4 (out.map (·.2)))

/-- One output row of MTOPK: its k pairs and whether they are poisoned (R392). -/
def topkRow (p : Pass) (src : PassSources) (r : Nat) : List Pick2 × Bool :=
  let K := p.rec'.k
  let pad := src.pad
  let cand := (List.range p.width).map fun n =>
    let (x, y) := cellRuns src p r n
    let (sv, bv, bad) := epiVectors p.epi p.epiScale p.epiBias pad r n
    let c := accCell false x y K 0
    let c := if passFmt p.m = 3 then intCell c else c
    ((epiStages p.epi c sv bv, 512 * bits p.c 31 22 + n), bad || x.poisoned K || y.poisoned K)
  let held := if p.m.getLsbD 5 then [] else (List.range p.k).map fun j =>
    let o := p.b + 8 * (r * p.k + j)
    ((pad.word o, pad.word (o + 4)), pad.wordBad o || pad.wordBad (o + 4))
  let all := held ++ cand
  (bestPairs (p.m.getLsbD 6) p.k ((all.map (·.1)).filter fun q => !(decodeNum .f32 q.1).isNan), all.any (·.2))

/-- MTOPK. -/
def runTopk (s : State) (p : Pass) (src : PassSources) : State :=
  let rows := (List.range p.outRows).map (topkRow p src)
  s.writeMarked (.scratch p.team) p.b (rows.flatMap fun r => pairBytes p.k r.1)
    ((rows.mapIdx fun i r => if r.2 then (List.range (8 * p.k)).map (8 * p.k * i + ·) else []).flatten)

/-- The drained codes of a tile, row-major, and which are poisoned (R378, R379). -/
def drainedCells (s : State) (p : Pass) : List (Nat × Bool) :=
  let C := p.tileCols
  let acc := s.accSource p.team
  let pad := s.scratchSource p.team p.posted
  let key := (s.launchOf p.team).record.key.toNat
  let block := fun (b : Nat) =>
    millBlock key ((p.draw.toNat + b) % 2 ^ 64) ((s.team p.team).index % 2 ^ 32) (epiStream p.epi) 0xFFFE
  (List.range (p.tileRows * C)).map fun i =>
    let o := p.a + 4 * i
    let (sv, bv, bad) := epiVectors p.epi p.epiScale p.epiBias pad (i / C) (i % C)
    let r := if epiMode p.epi = 4 then srBits (block (i / 8)) i else 0
    (drainCell p.epi (acc.word o) sv bv r, bad || acc.wordBad o)

/-- The bytes of drained codes: .e2m1 packs two in a byte, the even column low (R386, R394). -/
def packCells (w : Nat) (xs : List Nat) : List Byte :=
  match xs with
  | [] => []
  | [x] => leBytes (max 1 (w / 8)) x
  | x :: y :: rest => if w = 4 then BitVec.ofNat 8 (x + 16 * y) :: packCells w rest else leBytes (w / 8) x ++ packCells w (y :: rest)

/-- A drain's writes to global memory, unit by unit: staged, at the point of coherence, or to a peer with the marks of the
poisoned bytes (R376, R382; log entry 60). -/
def drainGlobal (s : State) (p : Pass) (bs : List Byte) (bad : List Nat) : State :=
  let t := p.team
  let parts := (chunks (bs.length / 4096 + 2) p.va bs.length).mapIdx fun u c => (c.1, c.2, p.pages.getD u (.device 0, none))
  (parts.foldl (fun (acc : State × Nat) c =>
    let (s, o) := acc
    let (va, n, tg, at') := c
    let piece := (bs.drop o).take n
    let marks := (bad.filter fun i => o ≤ i && i < o + n).map (· - o)
    let s := if s.stages (.seq t) then
        s.modTeam t fun x => { x with staged := x.staged ++ [{ op := .write piece, target := tg, va := va, poison := marks }] }
      else match tg, at' with
        | _, some (sp, a) => s.writeMarked sp a piece marks
        | .peer accel wpa, none => s.askPeer (.seq t) accel wpa true 32 piece none false none marks
        | _, none => s
    (s, o + n)) (s.modTeam t fun x => { x with drained := true }, 0)).1

/-- MDRAIN (R394). -/
def runDrain (s : State) (p : Pass) : State :=
  let cells := s.drainedCells p
  let w := cvtBits (epiCvt p.epi)
  let bs := packCells w (cells.map (·.1))
  let bad := ((cells.mapIdx fun i e => (i * w / 8, e.2)).filter (·.2)).map (·.1)
  if p.toGlobal then s.drainGlobal p bs bad else s.writeMarked (.scratch p.team) p.b bs bad

/-- The counter of a format (R491): MX_E2M1, MX_FP8, MX_I8, MX_16. -/
def passCounter (p : Pass) : Nat := [2, 2, 1, 3, 4, 4].getD (passFmt (if p.op = opMload then p.m else BitVec.ofNat 8 p.rec'.fmt)) 2

/-- A granted pass counts 262,144 for each cycle in which it occupies the array. The spec gives no number of cycles, so it
is a free value (R491; log entry 31). -/
def meterPass (s : State) (p : Pass) : State :=
  let (n, s) := s.free
  s.meter (s.launchOf p.team).world (passCounter p) (262144 * n)

/-- The effect of a pass, which the model places at its grant, or, where its operand lies in a peer's memory, at its completion
(R364, R376; log entry 30). -/
def runPass (s : State) (p : Pass) (rs : List Req) : State :=
  if p.op = opMload || p.op = opMswap then s
  else if p.op = opMtopk then s.runTopk p (s.passSources p rs)
  else if p.op = opMdrain then s.runDrain p
  else if p.op = opMclear then s.write (.acc p.team) p.a (zeros (4 * p.b))
  else s.runCells p (s.passSources p rs)

/-- The reads of a pass's global operand in peer memory, unit by unit (R303). -/
def passReads (p : Pass) : List (Nat × Nat × Nat) :=
  if p.toGlobal then [] else
  ((chunks (p.globalBytes / 4096 + 2) p.va p.globalBytes).mapIdx fun u c => (c.2, p.pages.getD u (.device 0, none))).filterMap
    fun (n, tg, _) => match tg with
      | .peer accel wpa => some (accel, wpa, n)
      | _ => none

/-- The engine asks for them. -/
def askPass (s : State) (i : Nat) (p : Pass) : State :=
  let w := (s.launchOf p.team).world
  (passReads p).foldl (fun s q =>
    let (tag, s) := s.nextTag w
    let (launch, team, cookie) := s.requestNames (.seq p.team)
    s.sendRequest { world := w, tag := tag, who := .seq p.team, launch := launch, team := team, cookie := cookie, pass := some i,
                    accel := q.1, wpa := q.2.1, write := false, awaited := true } 32 (zeros q.2.2)) s

/-- The grant of an MLOAD is the first moment at which its weights may be read (R367). -/
def markLoad (s : State) (t i : Nat) : State :=
  let mark := fun (r : Option Plane) => r.map fun r => if r.load = i + 1 then { r with since := s.cycle } else r
  let s := s.modSeq t fun q => { q with active := mark q.active, shadow := mark q.shadow }
  { s with passes := s.passes.map fun (k, p) => (k, if p.team = t then { p with plane := mark p.plane } else p) }

/-! The table -/

/-- PRIO of an entry, with its age (R374). -/
def passPrio (s : State) (p : Pass) : Nat := if p.posted + 65536 ≤ s.cycle then 0 else p.prio

/-- The heads of the queues of a quad; a team that is about to roll back has none (R374, R463). -/
def heads (s : State) (q : Nat) : List (Nat × Pass) :=
  (s.quadPasses q).filter fun (i, p) =>
    !p.granted && (s.team p.team).rollback.isNone && !(s.quadPasses q).any fun (j, r) => r.team == p.team && j < i

/-- The entry that the arbiter grants: PRIO, posting cycle, core, team index (R374). -/
def arbiter (s : State) (q : Nat) : Option (Nat × Pass) :=
  let key := fun (p : Pass) => (s.passPrio p, p.posted, (s.team p.team).core * 2 ^ 34 + (s.team p.team).index)
  (s.heads q).foldl (fun best e => match best with
    | none => some e
    | some b => if rankLt (key e.2) (key b.2) then some e else some b) none

/-- Grants the head of one queue, unless a granted pass still runs. -/
def grantPass (s : State) (q : Nat) : State :=
  if (s.quadPasses q).any fun (_, p) => p.granted then s else
  match s.arbiter q with
  | none => s
  | some (i, p) =>
    let s := { s with passes := s.passes.insert i { p with granted := true } }.meterPass p
    if (passReads p).isEmpty then
      ((if p.op = opMload then s.markLoad p.team i else s).runPass p []).pushOnce (.passComplete q)
    else s.askPass i p

/-- Held arrivals stop waiting for a pass; those that wait for none count from now on (R375, R398). -/
def releaseHeld (s : State) (t i : Nat) : State :=
  let s := s.modSeq t fun q => { q with held := (q.held.map fun h => (h.1, h.2.filter (· != i))).filter fun h => !h.2.isEmpty }
  s.checkBars t

/-- A sequencer in POSTING runs its instruction again when an entry is free for it; one in SWAIT when its last pass has
completed, unless a save or a snapshot stops it there (R372, R373, R398). -/
def wakePosters (s : State) (q : Nat) : State :=
  s.teams.foldl (fun s (t, x) =>
    if x.st ≠ .resident || coreQuad x.core ≠ q then s else
    let y := s.seqOf t
    if y.st = .posting && !s.tableFull t then s.modSeq t fun y => { y with st := .running }
    else if y.st = .swait && (s.passesOf t).isEmpty && (y.exiting || !s.pausing t) then
      s.modSeq t fun y => { y with st := .running, exiting := false }
    else s) s

/-- Earlier values that no later pass can read go (R367, R376). -/
def trimPast (s : State) (t : Nat) : State :=
  let q := s.seqOf t
  if (s.passesOf t).isEmpty && q.active.isNone && q.shadow.isNone then s.modTeam t fun x => { x with past := [] } else s

/-- The granted pass of a quad completes and frees its entry, once the answers that it waits for are here. -/
def completePass (s : State) (q : Nat) : State :=
  match (s.quadPasses q).find? fun (_, p) => p.granted with
  | none => s
  | some (i, p) =>
    let rs := s.passReqs i
    let live := (s.team p.team).st != .gone
    if live && rs.any (·.st == .waiting) then s else
    let s := if live && !(passReads p).isEmpty then s.runPass p rs else s
    let s := { s with passes := s.passes.erase i, reqs := s.reqs.filter fun r => r.pass != some i }
    let s := if live then (s.releaseHeld p.team i).trimPast p.team else s.decide' (s.launchOf p.team).ctl
    ((s.wakePosters q).grantNext q).wakeGangs

end State

/-- PASS_GRANT (R374). -/
def execPassGrant (q : Nat) (s : State) : Host.Outcome State Fault Refusal := .next (s.grantPass q)
/-- PASS_COMPLETE (R374, R375). -/
def execPassComplete (q : Nat) (s : State) : Host.Outcome State Fault Refusal := .next (s.completePass q)
/-- ENTRY_AGE (R374): an entry that has waited 65,536 cycles counts as PRIO 0. -/
def execEntryAge (q e : Nat) (s : State) : Host.Outcome State Fault Refusal :=
  match (s.quadPasses q).find? fun (i, p) => i == e && !p.granted && decide (p.posted + 65536 ≤ s.cycle) with
  | some (i, p) => .next { s with passes := s.passes.insert i { p with prio := 0 } }
  | none => .next s

/-! The pass instructions -/

/-- MLOAD (R389). -/
def opsMload (op : Nat) (f : F2) (s : State) : Host.Outcome State Fault Refusal := runSeq { e := .mload op f, f := f } s (postPass opMload)
def execMload (f : F1) (s : State) : Host.Outcome State Fault Refusal := opsMload 0x00 f.widen s
def execMloadW2 (f : F2) (s : State) : Host.Outcome State Fault Refusal := opsMload 0x80 f s
/-- MSWAP (R389). -/
def opsMswap (op : Nat) (f : F2) (s : State) : Host.Outcome State Fault Refusal := runSeq { e := .mswap op f, f := f } s (postPass opMswap)
def execMswap (f : F1) (s : State) : Host.Outcome State Fault Refusal := opsMswap 0x01 f.widen s
def execMswapW2 (f : F2) (s : State) : Host.Outcome State Fault Refusal := opsMswap 0x81 f s
/-- MSTREAM (R390). -/
def opsMstream (op : Nat) (f : F2) (s : State) : Host.Outcome State Fault Refusal := runSeq { e := .mstream op f, f := f } s (postPass opMstream)
def execMstream (f : F1) (s : State) : Host.Outcome State Fault Refusal := opsMstream 0x02 f.widen s
def execMstreamW2 (f : F2) (s : State) : Host.Outcome State Fault Refusal := opsMstream 0x82 f s
/-- MVSTREAM (R391). -/
def opsMvstream (op : Nat) (f : F2) (s : State) : Host.Outcome State Fault Refusal := runSeq { e := .mvstream op f, f := f } s (postPass opMvstream)
def execMvstream (f : F1) (s : State) : Host.Outcome State Fault Refusal := opsMvstream 0x03 f.widen s
def execMvstreamW2 (f : F2) (s : State) : Host.Outcome State Fault Refusal := opsMvstream 0x83 f s
/-- MDIST (R369, R390). -/
def opsMdist (op : Nat) (f : F2) (s : State) : Host.Outcome State Fault Refusal := runSeq { e := .mdist op f, f := f } s (postPass opMdist)
def execMdist (f : F1) (s : State) : Host.Outcome State Fault Refusal := opsMdist 0x04 f.widen s
def execMdistW2 (f : F2) (s : State) : Host.Outcome State Fault Refusal := opsMdist 0x84 f s
/-- MTOPK (R392). -/
def opsMtopk (op : Nat) (f : F2) (s : State) : Host.Outcome State Fault Refusal := runSeq { e := .mtopk op f, f := f } s (postPass opMtopk)
def execMtopk (f : F1) (s : State) : Host.Outcome State Fault Refusal := opsMtopk 0x05 f.widen s
def execMtopkW2 (f : F2) (s : State) : Host.Outcome State Fault Refusal := opsMtopk 0x85 f s
/-- MDRAIN (R394). -/
def opsMdrain (op : Nat) (f : F2) (s : State) : Host.Outcome State Fault Refusal := runSeq { e := .mdrain op f, f := f } s (postPass opMdrain)
def execMdrain (f : F1) (s : State) : Host.Outcome State Fault Refusal := opsMdrain 0x07 f.widen s
def execMdrainW2 (f : F2) (s : State) : Host.Outcome State Fault Refusal := opsMdrain 0x87 f s
/-- MCLEAR (R395). -/
def opsMclear (op : Nat) (f : F2) (s : State) : Host.Outcome State Fault Refusal := runSeq { e := .mclear op f, f := f } s (postPass opMclear)
def execMclear (f : F1) (s : State) : Host.Outcome State Fault Refusal := opsMclear 0x08 f.widen s
def execMclearW2 (f : F2) (s : State) : Host.Outcome State Fault Refusal := opsMclear 0x88 f s

/-- MEPI takes effect at once (R377, R393). -/
def seqMepi (v : SeqEnv) (s : State) : State × Res :=
  let e := BitVec.ofNat 64 v.a
  if !epiOk e then (s, .fault .illegal)
  else if v.b % 4 ≠ 0 then (s, .fault { code := 0x07, addr := v.b })
  else if v.c % 4 ≠ 0 then (s, .fault { code := 0x07, addr := v.c })
  else (s.modSeq v.t fun q => { q with epi := e, epiScale := v.b, epiBias := v.c }, .done)
/-- MEPI (R393). -/
def opsMepi (op : Nat) (f : F2) (s : State) : Host.Outcome State Fault Refusal := runSeq { e := .mepi op f, f := f } s seqMepi
def execMepi (f : F1) (s : State) : Host.Outcome State Fault Refusal := opsMepi 0x06 f.widen s
def execMepiW2 (f : F2) (s : State) : Host.Outcome State Fault Refusal := opsMepi 0x86 f s

end Sys2Proof.Machine
end

