-- ==== Sys2Proof/Machine/System.lean ====
section
/-! DEFINITION. The system instructions of class 6 (R291 to R298): SREAD, SWRITE, LAUNCH, QREAD, EVREAD, EVWAIT, SIGNAL,
TLBINV and KEYOP. -/

namespace Sys2Proof.Machine

/-- The state of a token as SREAD reports it (R292). -/
def TokSt.code (k : TokSt) : Nat :=
  match k with
  | .idle => 0 | .pending => 1 | .done => 2 | .faulted => 3

/-- TOKSTATE (R292). -/
def tokState (l : Lane) : Nat := (List.range 6).foldr (fun k n => (l.tokens.get {} k).st.code + 4 * n) 0

/-- The sticky flags of a lane where they are read, saved or tested: the OR of the two copies of a protected pair (R248). -/
def Lane.allFlags (l : Lane) (prot : Bool) : BitVec 5 := if prot then l.flags ||| l.sflags else l.flags

/-- A selector of SREAD in the table of R292, for a lane or a control program. -/
def selectorGet (s : State) (a : Agent) (sel : Nat) : Option Nat :=
  let l := s.laneOf a
  match sel with
  | 0x000 => some (l.allFlags (protOf s a)).toNat
  | 0x001 => some l.draw.toNat
  | 0x002 => some l.spawn.toNat
  | 0x003 => some l.sptr.toNat
  | 0x004 => some l.dist
  | 0x005 => some (tokState l)
  | 0x010 => some (s.millKey a).1
  | 0x018 => some (s.worldOf a)
  | 0x019 => some (match a with | .firm c => (s.slice c).node | _ => s.nodeOf (s.worldOf a))
  | 0x01A => some (s.clock % 2 ^ 64)
  | n => if 0x008 ≤ n && n ≤ 0x00D then some (l.tokens.get {} (n - 8)).count else none

/-- The privilege of a selector (R292): 0x800 to 0xFFF are the firmware's, the debug block is not a lane's. -/
def selectorFault (a : Agent) (sel : Nat) : Option Why :=
  if 0x1000 ≤ sel then some .illegal
  else if 0x800 ≤ sel then (match a with | .firm _ => some .illegal | _ => some { code := 0x13 })
  else if 0x400 ≤ sel && sel ≤ 0x4FF then (match a with | .lane _ _ => some { code := 0x13 } | _ => none)
  else none

/-- SREAD in one lane (R292). -/
def laneSread (v : Env) (s : State) : State × Res :=
  match selectorFault v.who v.a with
  | some y => (s, .fault y)
  | none =>
    if v.a = 0x407 then
      let (x, s) := s.dbgDataGet v.w
      (s, .value x)
    else if 0x400 ≤ v.a then
      match s.dbgGet v.w v.a with
      | some x => (s, .value x)
      | none => (s, .fault .illegal)
    else
      match selectorGet s v.who v.a with
      | some x => (s, .value x)
      | none => (s, .fault .illegal)

/-- SWRITE in one lane (R292). -/
def laneSwrite (v : Env) (s : State) : State × Res :=
  match selectorFault v.who v.a with
  | some y => (s, .fault y)
  | none =>
    if 0x400 ≤ v.a then
      match s.dbgPut v.w v.a (BitVec.ofNat 64 v.b) with
      | .ok s => (s, .done)
      | .error c => (s, .fault { code := c })
    else if v.a = 0 then
      (s.modLaneOf v.who fun l => { l with flags := BitVec.ofNat 5 v.b, sflags := BitVec.ofNat 5 (if v.prot then v.b' else 0) }, .done)
    else if v.a = 3 then (s.modLaneOf v.who fun l => { l with sptr := BitVec.ofNat 32 v.b }, .done)
    else if (selectorGet s v.who v.a).isSome then (s, .fault { code := 0x13 })
    else (s, .fault .illegal)

/-- LAUNCH in one lane (R293, R129, R131, R132). -/
def laneLaunch (v : Env) (s : State) : State × Res :=
  if v.mismatch then (s, .fault (Why.pair v.a)) else
  match s.globalPlace v.who v.a 128 .read 0 with
  | (.error r, s) => (s, r)
  | (.ok p, s) =>
    let got : Option (List Byte) × State := match p.at? with
      | none => match s.takeAnswer v.who with
        | (some (.ok bs), s) => (some bs, s)
        | (_, s) => (none, s)
      | some (sp, x) => s.loadAt v.who sp x 128 .weak
    match if s.stagedPoison v.who p.target.key 128 then (none, s) else got with
    | (none, s) => (s, .fault { code := 0x0B, addr := v.a % 2 ^ 52 })
    | (some raw, s) =>
      let bs := s.ownView v.who p.target.key raw
      match v.who with
      | .lane t lit =>
        let sys := v.f.m.getLsbD 0
        let rec' := s.childRecord t lit bs
        let spawned := fun (s : State) => s.modLane t lit fun l => { l with spawn := l.spawn + 1 }
        let s := s.release v.who (if sys then 3 else 2)
        if s.stages v.who then
          match s.stage t 144 { op := .launch rec' sys, target := .device 0, va := v.a % 2 ^ 52 } with
          | .error r => (s, r)
          | .ok s => (spawned s, .value 0)
        else
          let (d, s) := s.enqueue v.w rec'
          (spawned s, .value d)
      | _ =>
        let (d, s) := s.enqueue v.w bs
        (s, .value d)

/-- LAUNCH waits for an activation to end, for peer requests at system scope, and for a record in peer memory. -/
def launchReady (v : Env) (s : State) : State × Bool :=
  let sys := match v.who with | .lane _ _ => v.f.m.getLsbD 0 | _ => true
  if s.activating || !releaseReady v s sys 3 then (s, false)
  else if v.mismatch then (s, true)
  else peerReady v s v.a 128 .read false 32 (zeros 128) none

/-- A ring is enabled: LOG2N is 4 to 12 (R119). -/
def Ring.log (r : Ring) : Nat := bits r.base.toNat 3 0
def Ring.enabled (r : Ring) : Bool := 4 ≤ r.log && r.log ≤ 12
/-- VA of the record with index i (R118). -/
def Ring.recordVa (r : Ring) (i : Nat) : Nat := bits r.base.toNat 51 12 * 4096 + 128 * (i % 2 ^ r.log)

/-- The faults of QREAD that need no record (R294). -/
def qreadFault (v : Env) (s : State) : Option Why :=
  let r := State.ring (s.world v.w) v.a
  if 8 ≤ v.a || !r.enabled then some .illegal
  else if v.b % 128 ≠ 0 then some { code := 0x07, addr := v.b }
  else if (s.prog v.w).privSize < v.b + 128 then some { code := 0x02, addr := v.b, info := 3 }
  else none

/-- QREAD (R294). On an empty ring the upper half of D keeps its value. -/
def laneQread (v : Env) (s : State) : State × Res :=
  let r := State.ring (s.world v.w) v.a
  match qreadFault v s with
  | some y => (s, .fault y)
  | none =>
  if r.head = r.tail then
    (s, .value (s.operand v.who (s.laneOf v.who) false v.f.d 2 / 2 ^ 32 * 2 ^ 32 + 1))
  else
    let va := r.recordVa r.head.toNat
    match s.globalPlace v.who va 128 .read 0 with
    | (.error e, s) => (s, e)
    | (.ok p, s) =>
      let got : Option (List Byte) × State := match p.at? with
        | none => match s.takeAnswer v.who with
          | (some (.ok bs), s) => (some bs, s)
          | (_, s) => (none, s)
        | some (sp, x) => s.loadAt v.who sp x 128 .home
      match got with
      | (none, s) => (s, .fault { code := 0x0B, addr := va })
      | (some bs, s) =>
        let s := s.write (.priv v.w) v.b bs
        (s.modWorld v.w fun x => { x with rings := x.rings.insert v.a { r with head := r.head + 1 } }, .value (r.head.toNat * 2 ^ 32))

/-- A QREAD that takes a record in peer memory waits for it; one that faults or finds the ring empty asks for nothing. -/
def qreadReady (v : Env) (s : State) : State × Bool :=
  let r := State.ring (s.world v.w) v.a
  if (qreadFault v s).isSome || r.head = r.tail then (s, true)
  else peerReady v s (r.recordVa r.head.toNat) 128 .read false 32 (zeros 128) none

/-- The 32 bytes of an event record (R133). -/
def Event.bytes (e : Event) : List Byte :=
  [BitVec.ofNat 8 e.type, BitVec.ofNat 8 e.status, BitVec.ofNat 8 e.world, BitVec.ofNat 8 e.aux] ++ leBytes 4 e.seq ++
    leBytes 8 e.cookie.toNat ++ leBytes 4 e.count ++ leBytes 4 e.team ++ leBytes 8 e.time

/-- Takes a world's oldest unread event out of the queue; delivery pauses during an activation (R133, R61). -/
def State.takeEvent (s : State) (w : Nat) : Option Event × State :=
  if s.activating then (none, s) else
  let c := (s.world w).ctl
  match (s.slice c).events.find? fun e => e.world == w with
  | none => (none, s)
  | some e => (some e, (s.modSlice c fun sl => { sl with events := sl.events.erase e }).flushEvents c)

/-- EVREAD and EVWAIT (R295). -/
def laneEvent (wait : Bool) (v : Env) (s : State) : State × Res :=
  if v.a % 32 ≠ 0 then (s, .fault { code := 0x07, addr := v.a })
  else if (s.prog v.w).privSize < v.a + 32 then (s, .fault { code := 0x02, addr := v.a, info := 3 })
  else
    match s.takeEvent v.w with
    | (some e, s) => (s.write (.priv v.w) v.a e.bytes, .value 0)
    | (none, s) =>
      if wait then ((s.modProg v.w fun p => { p with st := .waiting }).pushOnce (.turnEnd (s.world v.w).ctl), .wait)
      else (s, .value 1)

/-- SIGNAL (R296). -/
def laneSignal (v : Env) (s : State) : State × Res :=
  if 64 ≤ v.a then (s, .fault .illegal) else (s.signal v.w v.a, .done)

/-- TLBINV (R297); table entries that walks have read of peers go too. -/
def laneTlbinv (v : Env) (s : State) : State × Res :=
  let s := { s with reqs := s.reqs.filter fun r => !(r.inner.isSome && r.world == v.w && r.st != ReqSt.waiting) }
  (if v.f.m.getLsbD 0 then s.tlbDropAll v.w else s.tlbDropPage v.w (v.a % 2 ^ 52 / 65536), .done)

/-- TLBINV retires once no posted pass of the world holds a translation (R382), and no walk of it waits for a peer's entry
(R297). -/
def tlbinvReady (v : Env) (s : State) : State × Bool :=
  (s, !(s.passes.any fun (_, p) => (s.launchOf p.team).world == v.w) &&
    !s.reqs.any fun r => r.inner.isSome && r.world == v.w && r.st == ReqSt.waiting)

/-! KEYOP -/

namespace State

/-- What stands in units lo to hi - 1 of a world's region is read under another key than it was written under: its
written pages hold unspecified bytes (R8, R357). -/
def scramble (s : State) (w lo hi : Nat) : State :=
  let x := s.world w
  let p0 := (ctlBase x.ctl + x.base * giB) / 65536
  ((keepRange s.written (p0 + lo) (hi - lo)).map (·.1)).foldl (fun s p =>
    { s with
      hbm := putBytes s.hbm (p * 65536) ((List.range 65536).map fun i => BitVec.ofNat 8 (Config.freeValue (s.freeCtr + i)))
      freeCtr := s.freeCtr + 65536 }) s

/-- Units of 64 KiB of a world's region. -/
def units (x : World) : Nat := x.size * (giB / 65536)

/-- A rotation starts (R358): the new key goes into the second slot and the boundary to a unit; BUSY while one runs, or
while the world is tracked (R472). -/
def startRotation (s : State) (w p : Nat) : Nat × State :=
  if (s.world w).rotation.isSome || (s.world w).tracking then (1, s) else
  let (k, s) := s.drawKey
  let s := s.scramble w 0 (min p (units (s.world w)))
  (0, s.modWorld w fun x => { x with secondKey := some k, rotation := some p })

/-- KEYOP's operation A on a world of the slice (R298): the value of D. The code that reports the slot state is not given:
Config.slotState (log entry 15). -/
def keyOp (s : State) (c a b : Nat) : Nat × State :=
  let w := bits a 23 16
  let kind := bits a 15 8
  if bits a 7 0 ≠ 0 || !(s.slice c).worlds.contains w || (bits a 31 24 ≤ 2 && 1 < kind) then (2, s) else
  match bits a 31 24 with
  | 1 =>
    let (k, s) := s.drawKey
    if kind = 0 then (0, (s.scramble w 0 (units (s.world w))).modWorld w fun x => { x with key := some k })
    else (0, s.modWorld w fun x => { x with sealKey := some k, sealCtr := 0 })
  | 2 =>
    if kind = 0 then (0, (s.scramble w 0 (units (s.world w))).modWorld w fun x => { x with key := none })
    else (0, s.modWorld w fun x => { x with sealKey := none })
  | 3 => s.startRotation w b
  | 4 =>
    let x := s.world w
    (Config.slotState kind x.key.isSome x.secondKey.isSome x.rotation.isSome x.sealKey.isSome (x.rotation.getD 0) % 2 ^ 32, s)
  | _ => (2, s)

end State

/-- KEYOP in the SLICE firmware (R298). -/
def laneKeyop (v : Env) (s : State) : State × Res :=
  match v.who with
  | .firm c =>
    let (d, s) := s.keyOp c v.a v.b
    (s, .value d)
  | _ => (s, .fault { code := 0x13 })

/-! The meanings -/


/-- SREAD (R292). -/
def opSread (op : Nat) (f : F2) (s : State) : Host.Outcome State Fault Refusal :=
  runLanes { e := .sread op f, f := f } s fun _ => laneSread
def execSread (f : F1) (s : State) : Host.Outcome State Fault Refusal := opSread 0x00 f.widen s
def execSreadW2 (f : F2) (s : State) : Host.Outcome State Fault Refusal := opSread 0x80 f s
/-- SWRITE (R292). -/
def opSwrite (op : Nat) (f : F2) (s : State) : Host.Outcome State Fault Refusal :=
  runLanes { e := .swrite op f, f := f } s fun _ => laneSwrite
def execSwrite (f : F1) (s : State) : Host.Outcome State Fault Refusal := opSwrite 0x01 f.widen s
def execSwriteW2 (f : F2) (s : State) : Host.Outcome State Fault Refusal := opSwrite 0x81 f s
/-- LAUNCH (R293). -/
def opLaunch (op : Nat) (f : F2) (s : State) : Host.Outcome State Fault Refusal :=
  runLanes { e := .launch op f, f := f } s (fun _ => laneLaunch) launchReady
def execLaunch (f : F1) (s : State) : Host.Outcome State Fault Refusal := opLaunch 0x02 f.widen s
def execLaunchW2 (f : F2) (s : State) : Host.Outcome State Fault Refusal := opLaunch 0x82 f s
/-- QREAD (R294). -/
def opQread (op : Nat) (f : F2) (s : State) : Host.Outcome State Fault Refusal :=
  runLanes { e := .qread op f, f := f } s (fun _ => laneQread) qreadReady
def execQread (f : F1) (s : State) : Host.Outcome State Fault Refusal := opQread 0x03 f.widen s
def execQreadW2 (f : F2) (s : State) : Host.Outcome State Fault Refusal := opQread 0x83 f s
/-- EVREAD (R295). -/
def opEvread (op : Nat) (f : F2) (s : State) : Host.Outcome State Fault Refusal :=
  runLanes { e := .evread op f, f := f } s fun _ => laneEvent false
def execEvread (f : F1) (s : State) : Host.Outcome State Fault Refusal := opEvread 0x04 f.widen s
def execEvreadW2 (f : F2) (s : State) : Host.Outcome State Fault Refusal := opEvread 0x84 f s
/-- EVWAIT (R295). -/
def opEvwait (op : Nat) (f : F2) (s : State) : Host.Outcome State Fault Refusal :=
  runLanes { e := .evwait op f, f := f } s fun _ => laneEvent true
def execEvwait (f : F1) (s : State) : Host.Outcome State Fault Refusal := opEvwait 0x05 f.widen s
/-- SIGNAL (R296): a release at system scope comes first. -/
def opSignal (op : Nat) (f : F2) (s : State) : Host.Outcome State Fault Refusal :=
  runLanes { e := .signal op f, f := f } s (fun _ => laneSignal) fun v s => (s, releaseReady v s true 3)
def execSignal (f : F1) (s : State) : Host.Outcome State Fault Refusal := opSignal 0x06 f.widen s
def execSignalW2 (f : F2) (s : State) : Host.Outcome State Fault Refusal := opSignal 0x86 f s
/-- TLBINV (R297). -/
def opTlbinv (op : Nat) (f : F2) (s : State) : Host.Outcome State Fault Refusal :=
  runLanes { e := .tlbinv op f, f := f } s (fun _ => laneTlbinv) tlbinvReady
def execTlbinv (f : F1) (s : State) : Host.Outcome State Fault Refusal := opTlbinv 0x07 f.widen s
def execTlbinvW2 (f : F2) (s : State) : Host.Outcome State Fault Refusal := opTlbinv 0x87 f s
/-- KEYOP (R298). -/
def opKeyop (op : Nat) (f : F2) (s : State) : Host.Outcome State Fault Refusal :=
  runLanes { e := .keyop op f, f := f } s fun _ => laneKeyop
def execKeyop (f : F1) (s : State) : Host.Outcome State Fault Refusal := opKeyop 0x08 f.widen s
def execKeyopW2 (f : F2) (s : State) : Host.Outcome State Fault Refusal := opKeyop 0x88 f s

end Sys2Proof.Machine
end

