-- ==== Sys2Proof/Machine/Sequencer.lean ====
section
/-! DEFINITION. The sequencer's own control (R380, R396 to R400): walks, barriers, SWAIT, SQEXIT, the integer subset and the
branches. -/

namespace Sys2Proof.Machine

/-! Walks (R380, R396) -/

/-- How many tuples a walk has, and the tuple of a row-major index. -/
def Walk.size (w : Walk) : Nat := w.e0 * w.e1 * w.e2
def Walk.tuple (w : Walk) (i : Nat) : Nat × Nat × Nat := (i / (w.e1 * w.e2), i / w.e2 % w.e1, i % w.e2)

/-- The three registers of a walk take the tuple of an index. -/
def Seq.setTuple (q : Seq) (w : Walk) (i : Nat) : Seq :=
  let (x, y, z) := w.tuple i
  let put := fun (m : SMap Word) (k v : Nat) => m.put 0 (w.d + k) (BitVec.ofNat 32 v)
  { q with s := put (put (put q.s 0 x) 1 y) 2 z, walk := some { w with current := i } }

/-- The next tuple to visit: the row-major one, or the walker's choice among those not visited (R380; log entry 15). -/
def State.nextTuple (s : State) (w : Walk) : Nat × State :=
  let left := (List.range w.size).filter fun i => !w.visited.contains i
  if w.order then (left.headD 0, s)
  else (left.getD (Config.walkChoice s.freeCtr % left.length) 0, { s with freeCtr := s.freeCtr + 1 })

/-- WALK (R396). -/
def seqWalk (v : SeqEnv) (s : State) : State × Res :=
  let d := match v.f.d with | .reg n => n.val | _ => 240
  let w : Walk := { e0 := bits v.a 27 16 + 1, e1 := bits v.a 11 0 + 1, e2 := bits v.b 11 0 + 1, d := d,
                    order := v.f.m.getLsbD 0 || (s.launchOf v.t).ordered, body := v.next, visited := [], current := 0 }
  if 2 ^ 28 ≤ v.a || bits v.a 15 12 ≠ 0 || 2 ^ 12 ≤ v.b || (s.seqOf v.t).walk.isSome || 29 < d || 4096 < w.size then
    (s, .fault .illegal)
  else
    let (i, s) := s.nextTuple w
    (s.modSeq v.t fun q => q.setTuple w i, .value (w.tuple i).1)

/-- ENDWALK (R396). -/
def seqEndwalk (v : SeqEnv) (s : State) : State × Res :=
  match (s.seqOf v.t).walk with
  | none => (s, .fault .illegal)
  | some w =>
    let w := { w with visited := if w.visited.contains w.current then w.visited else w.visited ++ [w.current] }
    if w.visited.length = w.size then (s.modSeq v.t fun q => { q with walk := none }, .done)
    else
      let (i, s) := s.nextTuple w
      (s.modSeq v.t fun q => q.setTuple w i, .jump w.body)

def opsWalk (op : Nat) (f : F2) (s : State) : Host.Outcome State Fault Refusal := runSeq { e := .walk op f, f := f } s seqWalk
def execWalk (f : F1) (s : State) : Host.Outcome State Fault Refusal := opsWalk 0x10 f.widen s
def execWalkW2 (f : F2) (s : State) : Host.Outcome State Fault Refusal := opsWalk 0x90 f s
def opsEndwalk (op : Nat) (f : F2) (s : State) : Host.Outcome State Fault Refusal := runSeq { e := .endwalk op f, f := f } s seqEndwalk
def execEndwalk (f : F1) (s : State) : Host.Outcome State Fault Refusal := opsEndwalk 0x11 f.widen s
def execEndwalkW2 (f : F2) (s : State) : Host.Outcome State Fault Refusal := opsEndwalk 0x91 f s

/-! Barriers, waits and exit (R398) -/

/-- The sequencer's arrival at NBk: it is recorded now, and counts once the passes posted before it have completed. -/
def State.seqArrival (s : State) (t x : Nat) : State :=
  let p := s.phase t x
  let ids := s.passesOf t
  (s.modSeq t fun q => { q with arrived := q.arrived.put 0 x (p + 1), held := if ids.isEmpty then q.held else q.held ++ [(x, ids)] }).release (.seq t) 0

/-- ARRIVE (R398). -/
def seqArrive (v : SeqEnv) (s : State) : State × Res :=
  let x := barNb v.a
  if 16 ≤ v.a || (s.seqOf v.t).arrived.get 0 x = s.phase v.t x + 1 then (s, .fault .illegal)
  else ((s.seqArrival v.t x).checkBar v.t x, .done)
def execSeqArrive (f : F1) (s : State) : Host.Outcome State Fault Refusal := runSeq { e := .seqArrive 0x18 f.widen, f := f.widen } s seqArrive

/-- AWAIT (R398): the phase's completion writes D and moves the sequencer on. Where a restore has it run again, its arrival is
recorded and it only waits, for a phase that may be complete (R286, R373). -/
def seqAwait (v : SeqEnv) (s : State) : State × Res :=
  let x := barNb v.a
  if 16 ≤ v.a then (s, .fault .illegal) else
  let q := s.seqOf v.t
  if q.waits && q.arrived.get 0 x == s.phase v.t x then
    (s.modSeq v.t fun q => { q with waits := false }, .value (q.arrived.get 0 x))
  else
    let s := if !q.waits && q.arrived.get 0 x = s.phase v.t x then s.seqArrival v.t x else s
    let s := s.modSeq v.t fun q => { q with st := .barrier, bar := x, barD := v.f.d, waits := false }
    (s.checkBar v.t x, .wait)
def execSeqAwait (f : F1) (s : State) : Host.Outcome State Fault Refusal := runSeq { e := .seqAwait 0x19 f.widen, f := f.widen } s seqAwait

/-- SWAIT (R398): it runs again, and completes, when no pass of the team is left. -/
def seqSwait (v : SeqEnv) (s : State) : State × Res :=
  if (s.passesOf v.t).isEmpty then (s, .done) else (s.modSeq v.t fun q => { q with st := .swait }, .wait)
def execSwait (f : F1) (s : State) : Host.Outcome State Fault Refusal := runSeq { e := .swait 0x1A f.widen, f := f.widen } s seqSwait

/-- SQEXIT (R396, R398, R372). -/
def seqExit (v : SeqEnv) (s : State) : State × Res :=
  if (s.seqOf v.t).walk.isSome then (s, .fault .illegal)
  else if !(s.passesOf v.t).isEmpty then (s.modSeq v.t fun q => { q with st := .swait, exiting := true }, .wait)
  else
    let s := s.modSeq v.t fun q => { q with st := .exited, held := [] }
    (((s.checkBars v.t).checkRetire v.t).wakeGangs, .done)
def execSqexit (f : F1) (s : State) : Host.Outcome State Fault Refusal := runSeq { e := .sqexit 0x1B f.widen, f := f.widen } s seqExit

/-! The integer subset (R399) -/

/-- An instruction that only computes. -/
def runSeqAlu (e : Entry) (f : F2) (s : State) (g : BitVec 8 → Nat → Nat → Nat) : Host.Outcome State Fault Refusal :=
  runSeq { e := e, f := f } s fun v s => (s, .value (g v.f.m v.a v.b))

/-- IADD of the sequencer (R399). -/
def opsSeqIadd (op : Nat) (f : F2) (s : State) : Host.Outcome State Fault Refusal := runSeqAlu (.seqIadd op f) f s aluIadd
def execSeqIadd (f : F1) (s : State) : Host.Outcome State Fault Refusal := opsSeqIadd 0x20 f.widen s
def execSeqIaddW2 (f : F2) (s : State) : Host.Outcome State Fault Refusal := opsSeqIadd 0xA0 f s
/-- ISUB of the sequencer (R399). -/
def opsSeqIsub (op : Nat) (f : F2) (s : State) : Host.Outcome State Fault Refusal := runSeqAlu (.seqIsub op f) f s aluIsub
def execSeqIsub (f : F1) (s : State) : Host.Outcome State Fault Refusal := opsSeqIsub 0x21 f.widen s
def execSeqIsubW2 (f : F2) (s : State) : Host.Outcome State Fault Refusal := opsSeqIsub 0xA1 f s
/-- IMUL of the sequencer (R399). -/
def opsSeqImul (op : Nat) (f : F2) (s : State) : Host.Outcome State Fault Refusal := runSeqAlu (.seqImul op f) f s aluImul
def execSeqImul (f : F1) (s : State) : Host.Outcome State Fault Refusal := opsSeqImul 0x22 f.widen s
def execSeqImulW2 (f : F2) (s : State) : Host.Outcome State Fault Refusal := opsSeqImul 0xA2 f s
/-- IMIN of the sequencer (R399). -/
def opsSeqImin (op : Nat) (f : F2) (s : State) : Host.Outcome State Fault Refusal := runSeqAlu (.seqImin op f) f s aluImin
def execSeqImin (f : F1) (s : State) : Host.Outcome State Fault Refusal := opsSeqImin 0x23 f.widen s
def execSeqIminW2 (f : F2) (s : State) : Host.Outcome State Fault Refusal := opsSeqImin 0xA3 f s
/-- IMAX of the sequencer (R399). -/
def opsSeqImax (op : Nat) (f : F2) (s : State) : Host.Outcome State Fault Refusal := runSeqAlu (.seqImax op f) f s aluImax
def execSeqImax (f : F1) (s : State) : Host.Outcome State Fault Refusal := opsSeqImax 0x24 f.widen s
def execSeqImaxW2 (f : F2) (s : State) : Host.Outcome State Fault Refusal := opsSeqImax 0xA4 f s
/-- AND of the sequencer (R399). -/
def opsSeqAnd (op : Nat) (f : F2) (s : State) : Host.Outcome State Fault Refusal := runSeqAlu (.seqAnd op f) f s (fun _ a b => a &&& b)
def execSeqAnd (f : F1) (s : State) : Host.Outcome State Fault Refusal := opsSeqAnd 0x25 f.widen s
def execSeqAndW2 (f : F2) (s : State) : Host.Outcome State Fault Refusal := opsSeqAnd 0xA5 f s
/-- OR of the sequencer (R399). -/
def opsSeqOr (op : Nat) (f : F2) (s : State) : Host.Outcome State Fault Refusal := runSeqAlu (.seqOr op f) f s (fun _ a b => a ||| b)
def execSeqOr (f : F1) (s : State) : Host.Outcome State Fault Refusal := opsSeqOr 0x26 f.widen s
def execSeqOrW2 (f : F2) (s : State) : Host.Outcome State Fault Refusal := opsSeqOr 0xA6 f s
/-- XOR of the sequencer (R399). -/
def opsSeqXor (op : Nat) (f : F2) (s : State) : Host.Outcome State Fault Refusal := runSeqAlu (.seqXor op f) f s (fun _ a b => a ^^^ b)
def execSeqXor (f : F1) (s : State) : Host.Outcome State Fault Refusal := opsSeqXor 0x27 f.widen s
def execSeqXorW2 (f : F2) (s : State) : Host.Outcome State Fault Refusal := opsSeqXor 0xA7 f s
/-- SHL of the sequencer (R399). -/
def opsSeqShl (op : Nat) (f : F2) (s : State) : Host.Outcome State Fault Refusal := runSeqAlu (.seqShl op f) f s (fun m a b => aluShl 32 (m.getLsbD 0) a b)
def execSeqShl (f : F1) (s : State) : Host.Outcome State Fault Refusal := opsSeqShl 0x28 f.widen s
def execSeqShlW2 (f : F2) (s : State) : Host.Outcome State Fault Refusal := opsSeqShl 0xA8 f s
/-- SHR of the sequencer (R399). -/
def opsSeqShr (op : Nat) (f : F2) (s : State) : Host.Outcome State Fault Refusal := runSeqAlu (.seqShr op f) f s (fun m a b => aluShr 32 (m.getLsbD 0) a b)
def execSeqShr (f : F1) (s : State) : Host.Outcome State Fault Refusal := opsSeqShr 0x29 f.widen s
def execSeqShrW2 (f : F2) (s : State) : Host.Outcome State Fault Refusal := opsSeqShr 0xA9 f s
/-- MOV of the sequencer (R399). -/
def opsSeqMov (op : Nat) (f : F2) (s : State) : Host.Outcome State Fault Refusal := runSeqAlu (.seqMov op f) f s (fun _ a _ => a)
def execSeqMov (f : F1) (s : State) : Host.Outcome State Fault Refusal := opsSeqMov 0x2A f.widen s
def execSeqMovW2 (f : F2) (s : State) : Host.Outcome State Fault Refusal := opsSeqMov 0xAA f s
/-- MOVI of the sequencer (R231, R399): a sign-extended literal, or 32 bits. -/
def execSeqMovi (d : Opd) (imm : BitVec 16) (s : State) : Host.Outcome State Fault Refusal :=
  runSeq { e := Entry.literal 5 0x2B, f := F2.dst d } s fun _ s => (s, .value (imm.signExtend 32).toNat)
def execSeqMoviW2 (d : Opd) (imm : BitVec 32) (s : State) : Host.Outcome State Fault Refusal :=
  runSeq { e := Entry.literal 5 0xAB, f := F2.dst d } s fun _ s => (s, .value imm.toNat)

/-! Branches (R400) -/

def runSeqBranch (op : Nat) (a b : Opd) (off : BitVec 32) (s : State) (c : Nat → Nat → Bool) : Host.Outcome State Fault Refusal :=
  runSeq { e := Entry.compare 5 op, f := F2.cmp a b, lit := off.toNat % 4 == 0 } s fun v s =>
    (s, .jump (if c v.a v.b then target32 v.hdr off else v.next))
def execSeqBeq (a b : Opd) (off : BitVec 32) (s : State) : Host.Outcome State Fault Refusal := runSeqBranch 0xB0 a b off s fun x y => x == y
def execSeqBne (a b : Opd) (off : BitVec 32) (s : State) : Host.Outcome State Fault Refusal := runSeqBranch 0xB1 a b off s fun x y => x != y
def execSeqBlt (a b : Opd) (off : BitVec 32) (s : State) : Host.Outcome State Fault Refusal :=
  runSeqBranch 0xB2 a b off s fun x y => decide (sext 32 x < sext 32 y)
def execSeqBge (a b : Opd) (off : BitVec 32) (s : State) : Host.Outcome State Fault Refusal :=
  runSeqBranch 0xB3 a b off s fun x y => decide (sext 32 y ≤ sext 32 x)
def execSeqBra (off : BitVec 24) (s : State) : Host.Outcome State Fault Refusal :=
  runSeq { e := Entry.bare 5 0x34, f := F2.none } s fun v s => (s, .jump (target24 v.hdr off))
def execSeqBraW2 (off : BitVec 32) (s : State) : Host.Outcome State Fault Refusal :=
  runSeq { e := Entry.bare 5 0xB4, f := F2.none, lit := off.toNat % 4 == 0 } s fun v s => (s, .jump (target32 v.hdr off))

end Sys2Proof.Machine
end

