-- ==== Sys2Proof/Machine/Context.lean ====
section
/-! DEFINITION. The context of a team (R441 to R455, R461): its bytes in the save slot, the save that writes them, and the
restore that reads them back. -/

namespace Sys2Proof.Machine

/-! Where lanes and sequencers stand in a frame (R217, R449, R451) -/

/-- A lane that a save takes with a fault frame (R442). -/
def Lane.framed (l : Lane) : Bool := l.st == .converge || l.st == .parked || l.st == .halted
/-- A lane that waits at its blocking clause stands at that clause's header (R217). -/
def Lane.savedPc (l : Lane) : Nat := if l.st = .barrier || l.st = .mwait then l.hdr else l.pc
/-- STATE of R451. -/
def Lane.savedState (l : Lane) : Nat :=
  match l.st with
  | .ready | .token | .join => 0
  | .barrier => 1 | .mwait => 2 | .converge => 3 | .parked => 4 | .halted => 5 | .exited => 6
/-- Likewise for a sequencer (R373, R449). -/
def Seq.framed (q : Seq) : Bool := q.st == .parked || q.st == .halted
def Seq.savedPc (q : Seq) : Nat := if q.st = .barrier || q.st = .swait then q.hdr else q.pc
def Seq.savedState (q : Seq) : Nat :=
  match q.st with
  | .running | .posting => 0
  | .barrier => 1 | .swait => 2 | .parked => 3 | .halted => 4 | .exited => 5

/-- Bytes padded to a multiple of 64. -/
def pad64 (bs : List Byte) : List Byte := bs ++ zeros (roundUp bs.length 64 - bs.length)

/-- A set of small numbers as bits. -/
def bitSet (l : List Nat) : Nat := l.eraseDups.foldl (fun n i => n + 2 ^ i) 0

/-! Live state (R83, R442) -/

/-- Why no context can be written or read: a clause without an entry (R83), a table that cannot be read (R455), or a peer's
bytes that must be read first (R303). -/
inductive SaveFail where
  | noEntry | unreadable | ask (q : Nat × Nat × Nat)
  deriving DecidableEq, Repr

/-- Registers that an entry of the safe-point table names live. -/
def liveRegs (e : List Byte) (n : Nat) : List Nat := (List.range n).filter fun j => bit (field e 0x08 32) j

/-- A range of SCR_LIVE and of the range list: start and length in units of 256 bytes. -/
def rangeOf (w : Nat) : Nat × Nat := (bits w 31 16, bits w 15 0)

/-- Units of 256 bytes that entries name live, clipped at SCRATCH, without those inside a staged tile (R83, R354). -/
def liveUnits (es : List (List Byte)) (tiles : List Tile) (scratch : Nat) : List Nat :=
  let rs := es.flatMap fun e => (List.range 4).map fun i => rangeOf (field e (0x30 + 4 * i) 4)
  (List.range (scratch / 256)).filter fun u =>
    rs.any (fun r => r.1 ≤ u && u < r.1 + r.2) && !tiles.any fun q => q.dst ≤ 256 * u && 256 * (u + 1) ≤ q.dst + q.bytes

/-- Ascending units as runs. -/
def runsOf (us : List Nat) : List (Nat × Nat) :=
  (us.foldl (fun (acc : List (Nat × Nat)) u => match acc with
    | (a, n) :: rest => if a + n = u then (a, n + 1) :: rest else (u, 1) :: acc
    | [] => [(u, 1)]) []).reverse

namespace State

/-- The safe-point entry that a save or a restore needs. -/
def needEntry (s : State) (t hdr : Nat) : Except SaveFail (List Byte) :=
  match s.safeEntry t hdr with
  | .entry e => .ok e
  | .absent => .error .noEntry
  | .unreadable => .error .unreadable
  | .ask q => .error (.ask q)

/-- Registers that a save takes of a lane, and its entry; the first snapshot takes all of them (R461). -/
def liveOfLane (s : State) (t : Nat) (first : Bool) (l : Lane) : Except SaveFail (List Nat × List (List Byte)) :=
  let n := (s.launchOf t).desc.nregs
  if l.st = .exited then .ok ([], [])
  else if first || l.framed then .ok (List.range n, [])
  else (s.needEntry t l.savedPc).map fun e => (liveRegs e n, [e])

/-- The entry of the sequencer's stop. -/
def liveOfSeq (s : State) (t : Nat) (first : Bool) : Except SaveFail (List (List Byte)) :=
  match (s.team t).seq with
  | none => .ok []
  | some q => if first || q.framed || q.st = .exited then .ok [] else (s.needEntry t q.savedPc).map fun e => [e]

end State

/-! Frames -/

/-- Arrivals as bits: bit x is set when N of barrier x is P + 1. -/
def arrivedBits (m : SMap Nat) (phase : Nat → Nat) (xs : List Nat) : Nat :=
  bitSet ((List.range xs.length).filter fun i => m.get 0 (xs.getD i 0) == phase (xs.getD i 0) + 1)

/-- The fault extension (R452). -/
def fxBytes (l : Lane) : List Byte :=
  ((List.range 8).flatMap fun k => leBytes 4 ((l.latches.get none k).getD 0).toNat) ++
    leBytes 1 (bitSet ((List.range 8).filter fun k => (l.latches.get none k).isSome)) ++
    leBytes 1 (if l.st = .converge then 0 else l.code) ++ leBytes 1 ((l.rep.map (·.idx)).getD 0) ++
    leBytes 1 (l.rep.isSome.toNat + if l.st = .halted && l.byDebug then 2 else 0) ++ leBytes 4 l.info ++ leBytes 8 l.header ++
    leBytes 1 l.tcode ++ zeros 15

/-- A plane record of R449. -/
def planeBytes (p : Option Plane) : List Byte :=
  match p with
  | none => zeros 16
  | some p => leBytes 4 p.off ++ leBytes 1 (0x80 + 8 * p.sc.toNat + p.fmt) ++ zeros 1 ++ leBytes 2 p.k ++ leBytes 2 p.n ++
      zeros 2 ++ leBytes 4 p.soff

/-- The WALK word, BODY and VISITED of R449. -/
def walkWord (w : Option Walk) : Nat :=
  match w with
  | none => 0
  | some w => (w.e0 - 1) + 2 ^ 12 * (w.e1 - 1) + 2 ^ 24 * (w.e2 - 1) + 2 ^ 36 * w.d + 2 ^ 42 + 2 ^ 43 * w.order.toNat

/-- The sequencer frame (R449). -/
def seqFrame (q : Seq) (phase : Nat → Nat) : List Byte :=
  ((List.range 32).flatMap fun k => leBytes 4 (q.s.get 0 k).toNat) ++ leBytes 8 q.savedPc ++ leBytes 8 q.draw.toNat ++
    leBytes 4 q.dist ++ leBytes 1 q.savedState ++ leBytes 1 (if q.framed then q.code else 0) ++
    leBytes 2 (arrivedBits q.arrived phase ((List.range 16).map barNb)) ++ planeBytes q.active ++ planeBytes q.shadow ++
    leBytes 8 q.epi.toNat ++ leBytes 4 q.epiScale ++ leBytes 4 q.epiBias ++ leBytes 8 (walkWord q.walk) ++
    leBytes 8 ((q.walk.map (·.body)).getD 0) ++ zeros 296 ++ leBytes 512 (bitSet ((q.walk.map (·.visited)).getD []))

/-- A staged-tile record (R352). -/
def tileRecord (r : Tile) : List Byte :=
  leBytes 8 r.src ++ leBytes 4 r.dst ++ leBytes 2 r.x ++ leBytes 2 r.y ++ leBytes 2 r.z ++ leBytes 1 (16 * r.dfmt + r.sfmt) ++
    leBytes 1 (8 * r.sat.toNat + 2 * r.mode + r.sealed.toNat) ++ leBytes 4 r.sstrideY.toNat ++ leBytes 4 r.sstrideZ.toNat ++ zeros 4

/-- Reads one back. -/
def parseTile (bs : List Byte) : Tile :=
  let fl := field bs 0x13 1
  { src := field bs 0 8, dst := field bs 8 4, x := field bs 0x0C 2, y := field bs 0x0E 2, z := field bs 0x10 2,
    sfmt := bits (field bs 0x12 1) 3 0, dfmt := bits (field bs 0x12 1) 7 4, sat := bit fl 3, mode := bits fl 2 1,
    sealed := bit fl 0, sstrideY := BitVec.ofNat 32 (field bs 0x14 4), sstrideZ := BitVec.ofNat 32 (field bs 0x18 4) }

/-- Bytes of a tile's copy, as its token counts them. -/
def roTotal (x : Copy) : Nat := x.bytes.foldl (· + ·) 0

/-- GRAN of a command (R453). -/
def copyGran (n : Nat) : Nat := ceilDiv n 15872
/-- A MAP bit: some piece that it covers is missing. -/
def copyMapBit (ps : List PieceSt) (i : Nat) : Bool :=
  ((ps.drop (i * copyGran ps.length)).take (copyGran ps.length)).any (· != .done)

/-- The copy record of a command (R453). -/
def copyRecordBytes (x : Copy) : List Byte :=
  let n := x.pieces.length
  let g := copyGran n
  let map := (List.range (ceilDiv n (max 1 g))).filter (copyMapBit x.pieces)
  let count := ((x.bytes.mapIdx fun i b => if map.contains (i / g) then 0 else b).foldl (· + ·) 0) % 2 ^ 32
  leBytes 8 x.a ++ leBytes 8 x.b ++ leBytes 4 x.c ++ leBytes 1 x.op ++ leBytes 1 x.m.toNat ++
    leBytes 2 (match x.who with | .lane _ lit => lit | _ => 0) ++ ((List.range 5).flatMap fun i => leBytes 8 (dsAt x.ds i)) ++
    leBytes 8 x.ctr ++ leBytes 4 n ++ leBytes 2 g ++ leBytes 1 (if x.pending then 1 else 3) ++ leBytes 1 x.token ++
    leBytes 4 count ++ zeros 44 ++ leBytes 1984 (bitSet map)

namespace State

/-- A lane's tokens as its frame holds them: one that names a read-only command reads DONE after the restore (R354). -/
def savedTokens (s : State) (t lit : Nat) : SMap Token :=
  (s.copies.filter fun (_, x) => x.who == .lane t lit && x.ro).foldl
    (fun m e => m.put {} e.2.token { st := .done, count := roTotal e.2 % 2 ^ 32 }) (s.lane t lit).tokens

/-- The lane frame (R451); FLAGS is the OR of a pair's copies (R248). -/
def laneFrame (s : State) (t lit off n : Nat) : List Byte :=
  let l := { s.lane t lit with tokens := s.savedTokens t lit }
  leBytes 8 l.savedPc ++ leBytes 4 l.sptr.toNat ++ leBytes 2 lit ++ leBytes 1 l.savedState ++
    leBytes 1 (l.allFlags (s.launchOf t).prot).toNat ++
    leBytes 8 l.draw.toNat ++ leBytes 8 l.spawn.toNat ++ leBytes 4 (l.dist % 2 ^ 21) ++ leBytes 2 (tokState l) ++
    leBytes 1 l.sflags.toNat ++ leBytes 1 l.framed.toNat ++
    ((List.range 6).flatMap fun k => leBytes 4 (l.tokens.get {} k).count) ++
    leBytes 4 (arrivedBits l.arrived (s.phase t) (List.range 18)) ++ leBytes 4 off ++ leBytes 2 n ++ zeros 118 ++
    if l.framed then fxBytes l else zeros 64

/-- The group frame (R450). -/
def groupFrame (s : State) (t k : Nat) : List Byte :=
  let W := (s.launchOf t).width
  ((List.range 8).flatMap fun i => leBytes 8 ((((s.team t).groups.getD k {}).ds).get 0 i).toNat) ++ leBytes 8 k ++
    leBytes 8 (bitSet ((List.range W).filter fun i => (s.lane t (k * W + i)).st == .exited)) ++ zeros 48

/-- The commands of a team that leave copy records, in issue order (R453). -/
def recordedCopies (s : State) (t : Nat) : List Copy :=
  (s.copies.filter fun (_, x) => !agentNotOf t x.who && !x.ro).map (·.2)

/-- The copy that fetches a tile again (R354): DS4 at zero but for the record's MODE and SAT. -/
def tileCopy (s : State) (t : Nat) (r : Tile) : Copy :=
  let w := formatBits r.dfmt
  { quad := s.quadOf (.seq t), who := .lane t 0, world := (s.launchOf t).world, op := 1, m := 0x30#8, a := r.src, b := r.dst, c := 0,
    ds := [BitVec.ofNat 64 (r.x + 2 ^ 16 * r.y + 2 ^ 32 * r.z + 2 ^ 48 * r.sfmt + 2 ^ 52 * r.dfmt),
           BitVec.ofNat 64 (r.sstrideY.toNat + 2 ^ 32 * r.sstrideZ.toNat),
           BitVec.ofNat 64 (r.x * w / 8 % 2 ^ 32 + 2 ^ 32 * (r.x * r.y * w / 8 % 2 ^ 32)), 0,
           BitVec.ofNat 64 (2 ^ 11 * r.sat.toNat + 2 ^ 8 * r.mode), 0, 0, 0],
    token := 0, pieces := [], bytes := [] }

/-- The record of a tile as a save writes it: SEALED is set when any source page is sealed (R352), whether or not its piece
has moved. -/
def markTile (s : State) (t : Nat) (r : Tile) : Except SaveFail Tile :=
  let x := s.tileCopy t r
  x.runs.flatten.foldl (fun (acc : Except SaveFail Tile) g => acc.bind fun r =>
    if r.sealed then .ok r else
    match (s.translate x.world x.quad (wrapInt 64 (g.src (geoOf x.ds)).1) .read true).1 with
    | .ok (_, sealed) => .ok { r with sealed := sealed }
    | .error { ask := some q, .. } => .error (.ask q)
    | .error _ => .ok r) (.ok r)

/-- Bytes of the scratchpad as a save writes them: those of a standing record's tile are not saved, and zeros keep their places
(R354; log entry 61). -/
def savedScratch (s : State) (t a n : Nat) : List Byte :=
  (s.read (.scratch t) a n).mapIdx fun i b => if (s.team t).tiles.any fun r => r.dst ≤ a + i && a + i < r.dst + r.bytes then 0 else b

/-- The context of a team (R447 to R453), STATUS 0. -/
def contextBytes (s : State) (t kind : Nat) (first : Bool) : Except SaveFail (List Byte) :=
  let x := s.team t
  let l := s.launchOf t
  let d := l.desc
  match x.lanes.mapM (s.liveOfLane t first), s.liveOfSeq t first, x.tiles.mapM (s.markTile t) with
  | .error e, _, _ | _, .error e, _ | _, _, .error e => .error e
  | .ok lives, .ok seqE, .ok tiles =>
    let es := lives.flatMap (·.2) ++ seqE
    let frame := x.lanes.any Lane.framed || (x.seq.map Seq.framed).getD false
    let blocks := (List.range d.accum).filter fun b => frame || es.any fun e => bit (field e 0x28 8) b
    let runs := runsOf (liveUnits es x.tiles d.scratch)
    let whole := kind ≠ 5 && (frame || 16 < runs.length)
    let ranges := if kind = 5 then [] else if whole then (if d.scratch = 0 then [] else [(0, d.scratch / 256)]) else runs
    let regs := x.lanes.mapIdx fun lit r =>
      let rs := (lives.getD lit ([], [])).1
      let block := fun (m : SMap Word) => pad64 (rs.flatMap fun j => leBytes 4 (m.get 0 j).toNat)
      (rs.length, block r.regs ++ if l.prot then block r.shadow else [])
    let offRegs := 0x900 + 128 * d.groups + 256 * x.lanes.length
    let frames := ((List.range x.lanes.length).foldl (fun (acc : List Byte × Nat) lit =>
      let (n, bs) := regs.getD lit (0, [])
      (acc.1 ++ s.laneFrame t lit acc.2 n, acc.2 + bs.length)) ([], offRegs)).1
    let regBytes := regs.flatMap (·.2)
    let accBytes := blocks.flatMap fun b => s.read (.acc t) (65536 * b) 65536
    let scrBytes := leBytes 64 (ofLe (ranges.flatMap fun r => leBytes 4 (r.1 * 2 ^ 16 + r.2))) ++
      ranges.flatMap fun r => s.savedScratch t (256 * r.1) (256 * r.2)
    let copies := s.recordedCopies t
    let copyBytes := copies.flatMap copyRecordBytes
    let offAcc := offRegs + regBytes.length
    let offScr := offAcc + accBytes.length
    let offCopy := offScr + scrBytes.length
    let header := [0x47#8, 0x43#8, 0x54#8, 0x58#8] ++ leBytes 1 kind ++ zeros 1 ++ leBytes 1 x.rank ++
      leBytes 1 (whole.toNat + 2 * d.hasSeq.toNat + 4 * l.prot.toNat + 8 * l.guarded.toNat + 16 * l.ordered.toNat) ++
      leBytes 4 x.index ++ leBytes 4 x.cluster ++ leBytes 8 l.record.kdesc ++ leBytes 2 x.lanes.length ++ leBytes 1 d.groups ++
      leBytes 1 x.tiles.length ++ leBytes 2 copies.length ++ zeros 2 ++ leBytes 4 offRegs ++ leBytes 4 offAcc ++
      leBytes 4 offScr ++ leBytes 4 offCopy ++ leBytes 8 (bitSet blocks) ++ leBytes 4 (offCopy + copyBytes.length) ++
      leBytes 4 ranges.length ++ ((List.range 18).flatMap fun b => leBytes 4 (s.phase t b)) ++ leBytes 4 x.account ++ zeros 116
    .ok (header ++ (match x.seq with | some q => seqFrame q (s.phase t) | none => zeros 1024) ++
      leBytes 1024 (ofLe (tiles.flatMap tileRecord)) ++ ((List.range d.groups).flatMap (s.groupFrame t)) ++ frames ++
      regBytes ++ accBytes ++ scrBytes ++ copyBytes)

/-! Writing (R441, R446, R455) -/

/-- The base of a team's first context region, and of its snapshot region. -/
def ctxVa (s : State) (t : Nat) (snapshot : Bool) : Nat :=
  s.slotVa t + privSz (s.launchOf t) + if snapshot then ctxSz (s.launchOf t) else 0

/-- The save or restore is abandoned (R455). -/
def saveAreaFail (s : State) (t : Nat) : State :=
  (s.teamRecord 0x06 7 t (s.slotVa t) (s.team t).core 0x10 1 1).endTeam t 0x10

/-- A save or a restore meets a fault of translation: it waits for the peer's bytes that a walk needs, or is abandoned. -/
def saveTrouble (s : State) (t : Nat) (e : Trouble) : State :=
  match e.ask with
  | some q => s.waitPeer (.seq t) q
  | none => s.saveAreaFail t

/-- What became of a context: written, waiting for a peer's bytes (R303), or the team has ended over it. -/
inductive Wrote where
  | done | waits | ended
  deriving DecidableEq, Repr

/-- What a fault of translation makes of it. -/
def Wrote.of (e : Trouble) : Wrote := if e.ask.isSome then .waits else .ended

/-- What the team keeps beside its snapshot, and what every save ends: the armed ranges (R338). -/
def keepSnapshot (s : State) (t : Nat) : State :=
  let keys := (s.recordedCopies t).filterMap fun x => match x.who with
    | .lane _ lit => if x.op = 7 || x.op = 8 then some (lit, x.token, x.keyed) else none
    | _ => none
  s.modTeam t fun x => { x with badKept := x.bad, keysKept := keys, lanes := x.lanes.map fun l => { l with armed := none } }

/-- Writes a context, STATUS last. -/
def writeContext (s : State) (t kind : Nat) (first : Bool) : State × Wrote :=
  let w := (s.launchOf t).world
  let q := s.quadOf (.seq t)
  let va := s.ctxVa t (kind == 5)
  match s.contextBytes t kind first with
  | .error .noEntry => (s.endTeam t 0x06, .ended)
  | .error .unreadable => (s.saveAreaFail t, .ended)
  | .error (.ask a) => (s.waitPeer (.seq t) a, .waits)
  | .ok bs =>
    match s.vaWrite (.seq t) w q va bs with
    | (.error e, s) => (s.saveTrouble t e, Wrote.of e)
    | (.ok (), s) =>
      match s.vaWrite (.seq t) w q (va + 5) [1#8] with
      | (.error e, s) => (s.saveTrouble t e, Wrote.of e)
      | (.ok (), s) =>
        let s := s.dropAnswers (.seq t)
        (if kind = 5 then s.keepSnapshot t else s, .done)

/-- A command of a saved team: no unit holds it, and its unfinished pieces are missing or due (R345). -/
def parkCopy (t : Nat) (x : Copy) : Copy := if agentNotOf t x.who then x else { x with quad := 128 }

/-- The saved team leaves its cores (R140); with the last of its cluster, the cluster returns (R141). -/
def leaveCores (s : State) (t : Nat) : State :=
  let x := s.team t
  let s := (s.dropGangs t).dropRecords t
  let s := { s with
    copies := (s.copies.filter fun (e : Nat × Copy) => agentNotOf t e.2.who || !e.2.ro).map fun (e : Nat × Copy) => (e.1, parkCopy t e.2)
    reqs := s.reqs.filter fun r => agentNotOf t r.who || r.inner.isNone }
  let stubs := if x.lanes.isEmpty then x.stubs else
    ((x.lanes.mapIdx fun lit l => (lit, l)).filterMap fun (lit, l) =>
      if l.framed then l.primer.map fun h => (lit, h, l.woken == some 2) else none)
  let s := s.setTeam t { x with
    st := .saved, lanes := [], groups := [], seq := none, scratch := [], acc := [], tiles := [], past := [], savePending := none,
    snapshot := false, tileWait := none, stubs := stubs,
    seqHdr := if x.lanes.isEmpty then x.seqHdr else (x.seq.map fun (q : Seq) => if q.inClause then q.hdr else q.pc) }
  let here := s.teams.any fun (e : Nat × Team) => e.2.launch == x.launch && e.2.cluster == x.cluster && (e.2.st == TeamSt.resident || e.2.st == TeamSt.restoring)
  let s := if here then s else s.modLaunch x.launch fun l =>
    { l with part := 0, returning := if l.returning.contains x.cluster then l.returning
        else l.returning.filter (· < x.cluster) ++ [x.cluster] ++ l.returning.filter (x.cluster < ·) }
  (s.wakeGangs).decide' (s.launch x.launch).ctl

/-- Steps 3 and 4 of R441. -/
def saveTeam (s : State) (t kind : Nat) : State :=
  match s.writeContext t kind false with
  | (s, .done) => s.leaveCores t
  | (s, _) => s

/-- A team waits for its first snapshot, and has no context yet. -/
def unsaved (x : Team) : Bool := x.st == .restoring && x.rollback.isNone && x.tileWait.isNone && !x.lanes.isEmpty

/-- Asks for a save of every team of a cluster (R441). A restore that has not ended is given up: its context stands. -/
def requestSave (s : State) (l cluster kind : Nat) : State :=
  ((s.teams.filter fun (_, x) => x.launch == l && x.cluster == cluster).map (·.1)).foldl (fun s t =>
    match (s.team t).st with
    | .resident => (s.modTeam t fun x => { x with savePending := some kind, snapshot := false }).releaseJoins t
    | .restoring =>
      if (s.team t).rollback.isSome || unsaved (s.team t) then s.modTeam t fun x => { x with savePending := some kind }
      else s.leaveCores t
    | _ => s) s

/-- Gives a pending save of a team up: its lanes, its sequencer and its copies go on. -/
def cancelSave (s : State) (t : Nat) : State :=
  if (s.team t).savePending.isNone then s else
  let s := s.modTeam t fun x => { x with
    savePending := none, lanes := x.lanes.map fun l => { l with stopped := false },
    seq := x.seq.map fun q =>
      if q.st = .swait && (s.passesOf t).isEmpty then { q with st := .running, stopped := false } else { q with stopped := false } }
  let s := (s.copies.filter fun (_, c) => !agentNotOf t c.who && c.pending).foldl (fun s e => s.nextPiece e.1) s
  (s.checkBars t).wakeGangs

end State

/-! A team's start (R73, R82, R131) -/

/-- A lane at its first instruction, READY from a cycle on. -/
def startLane (l : Launch) (cycle : Nat) : Lane :=
  let regs : SMap Word := regsPut [] 0 2 l.record.args.toNat
  { regs := regs, shadow := if l.prot then regs else [], pc := l.desc.entry, sptr := BitVec.ofNat 32 l.desc.priv,
    readyAt := cycle, since := cycle }
/-- The sequencer at its first instruction. -/
def startSeq (l : Launch) (index : Nat) : Option Seq :=
  if l.desc.hasSeq then some { s := SMap.put 0 [] 0 (BitVec.ofNat 32 index), pc := l.desc.stream } else none

namespace State

/-- The groups of a team fill the core's free active slots in ascending order, the rest its pending set (R202). -/
def fillSlots (s : State) (t : Nat) : State :=
  let c := (s.team t).core
  (List.range (s.team t).groups.length).foldl (fun s k =>
    let free := (List.range 8).find? fun n => (s.slotGroup c n).isNone
    s.modTeam t fun x => { x with groups := x.groups.mapIdx fun j g =>
      if j = k then { g with slot := free, pendingSince := s.cycle } else g }) s

end State

/-! Reading back (R443) -/

/-- The bytes of the saved ranges of a context. -/
def ctxRanges (c : List Byte) : List (Nat × Nat) :=
  let o := field c 0x28 4
  (List.range (field c 0x3C 4)).map fun i => rangeOf (field c (o + 4 * i) 4)

/-- Step 1 of R443, for what the header alone tells. -/
def headerOk (l : Launch) (x : Team) (h : List Byte) : Bool :=
  let size := field h 0x38 4
  field h 5 1 == 1 && field h 0x10 8 == l.record.kdesc && field h 8 4 == x.index && field h 0x18 2 == l.lanes &&
    field h 0x1A 1 == l.desc.groups && decide (size ≤ State.ctxSz l) && decide (256 ≤ size)

/-- Step 1 of R443, for the parts that the header's offsets and counts describe. -/
def partsOk (l : Launch) (c : List Byte) : Bool :=
  let size := field c 0x38 4
  let blocks := ((List.range 64).filter fun b => bit (field c 0x30 8) b).length
  decide (0x900 + 128 * l.desc.groups + 256 * l.lanes ≤ size) && decide (field c 0x20 4 ≤ size) &&
    decide (0x500 + 32 * field c 0x1B 1 ≤ size) && decide (field c 0x24 4 + 65536 * blocks ≤ size) &&
    decide (field c 0x28 4 + max 64 (4 * field c 0x3C 4) ≤ size) &&
    decide (field c 0x28 4 + 64 + (ctxRanges c).foldl (fun n r => n + 256 * r.2) 0 ≤ size) &&
    decide (field c 0x2C 4 + 2112 * field c 0x1C 2 ≤ size)

/-- A plane record read back in a cycle: the team's first pass loads the plane from it (R373). -/
def parsePlane (bs : List Byte) (cycle : Nat) : Option Plane :=
  let f := field bs 4 1
  if bit f 7 then
    some { off := field bs 0 4, fmt := bits f 2 0, sc := bit f 3, k := field bs 6 2, n := field bs 8 2, soff := field bs 12 4,
           since := cycle }
  else none

/-- The walk of a sequencer frame. In row-major order the tuple under way is the first one not visited (R380); else it stands in
the walk's registers (log entry 47). -/
def parseWalk (f : List Byte) : Option Walk :=
  let v := field f 0xC8 8
  if !bit v 42 then none else
  let e0 := bits v 11 0 + 1
  let e1 := bits v 23 12 + 1
  let e2 := bits v 35 24 + 1
  let d := bits v 41 36
  let visited := (List.range (e0 * e1 * e2)).filter fun i => bit (field f 0x200 512) i
  let r := fun (k : Nat) => if d + k < 32 then field f (4 * (d + k)) 4 else 0
  let cur := (r 0 * e1 + r 1) * e2 + r 2
  let here := !bit v 43 && decide (r 0 < e0) && decide (r 1 < e1) && decide (r 2 < e2) && !visited.contains cur
  some { e0 := e0, e1 := e1, e2 := e2, d := d, order := bit v 43, body := field f 0xD0 8, visited := visited,
         current := if here then cur else ((List.range (e0 * e1 * e2)).find? fun i => !visited.contains i).getD 0 }

/-- N of a party from its bit and the phase. -/
def arrivedFrom (word : Nat) (phase : Nat → Nat) (xs : List Nat) : SMap Nat :=
  (List.range xs.length).foldl (fun m i => m.put 0 (xs.getD i 0) (phase (xs.getD i 0) + (bit word i).toNat)) []

/-- The sequencer of a frame. A framed one stands in the clause of hdr; one in BARRIER or SWAIT runs its instruction
again (R373). -/
def parseSeq (f : List Byte) (phase : Nat → Nat) (hdr cycle : Nat) : Seq :=
  let pc := field f 0x80 8
  let st := field f 0x94 1
  let frame := st == 3 || st == 4
  { s := (List.range 32).foldl (fun m k => m.put 0 k (BitVec.ofNat 32 (field f (4 * k) 4))) [], pc := pc,
    draw := BitVec.ofNat 64 (field f 0x88 8), dist := field f 0x90 4,
    arrived := arrivedFrom (field f 0x96 2) phase ((List.range 16).map barNb),
    active := parsePlane (f.drop 0x98) cycle, shadow := parsePlane (f.drop 0xA8) cycle, epi := BitVec.ofNat 64 (field f 0xB8 8),
    epiScale := field f 0xC0 4, epiBias := field f 0xC4 4, walk := parseWalk f,
    st := if st = 4 then .halted else if st = 5 then .exited else .running,
    waits := st == 1, hdr := if frame then hdr else pc, inClause := frame && pc != hdr, code := if st = 4 then field f 0x95 1 else 0 }

/-- A copy record as a command of a team: no unit holds it until the restore ends. The bytes of a COMBINE's folded units stand
in COUNT alone, which the first of them takes. -/
def parseCopy (t w : Nat) (r : List Byte) : Copy :=
  let n := field r 0x48 4
  let g := max 1 (field r 0x4C 2)
  let again := if field r 0x4E 1 = 1 then PieceSt.todo else .missing
  let ps := (List.range n).map fun i => if bit (field r 0x80 1984) (i / g) then again else .done
  let folded := if field r 0x14 1 = 5 then (List.replicate n 0).set (ps.findIdx (· == .done)) (field r 0x50 4) else []
  { quad := 128, who := .lane t (field r 0x16 2), world := w, op := field r 0x14 1, m := BitVec.ofNat 8 (field r 0x15 1),
    a := field r 0 8, b := field r 8 8, c := field r 0x10 4,
    ds := (List.range 8).map fun i => if i < 5 then BitVec.ofNat 64 (field r (0x18 + 8 * i) 8) else 0,
    token := field r 0x4F 1, pieces := ps, bytes := folded, ctr := field r 0x40 8, pending := field r 0x4E 1 == 1 }

/-- The copy records of a context. -/
def ctxCopies (c : List Byte) : List (List Byte) :=
  (List.range (field c 0x1C 2)).map fun i => (c.drop (field c 0x2C 4 + 2112 * i)).take 2112

/-- A token after the restore: that of its copy record, else with no command left DONE (R453, R354). -/
def restoredToken (c f : List Byte) (lit k : Nat) : Token :=
  let st := bits (field f 0x24 2) (2 * k + 1) (2 * k)
  let count := field f (0x28 + 4 * k) 4
  match (ctxCopies c).find? fun r => field r 0x16 2 == lit && field r 0x4F 1 == k with
  | some r => { st := if field r 0x4E 1 = 1 then .pending else .faulted, count := field r 0x50 4 }
  | none => { st := if st = 0 then .idle else .done, count := count }

namespace State

/-- The lane of a frame (R443 steps 4 and 7, R444, R445). -/
def restoreLane (s : State) (t : Nat) (c : List Byte) (phase : Nat → Nat) (lit : Nat) : Except SaveFail Lane :=
  let l := s.launchOf t
  let d := l.desc
  let f := c.drop (0x900 + 128 * d.groups + 256 * lit)
  let st := field f 0x0E 1
  let pc := field f 0 8
  let frame := bit (field f 0x27 1) 0
  if st = 6 then .ok { st := .exited } else
  match if frame then .ok none else (s.needEntry t pc).map some with
  | .error e => .error e
  | .ok entry =>
    let rs := ((match entry with | some e => liveRegs e d.nregs | none => List.range d.nregs)).take (field f 0x48 2)
    let off := field f 0x44 4
    let load := fun (o : Nat) => (rs.mapIdx fun i j => (i, j)).foldl (fun (m : SMap Word) p =>
      m.put 0 p.2 (BitVec.ofNat 32 (field c (o + 4 * p.1) 4))) []
    let hdr := field f 0xE8 8
    let latches := (List.range 8).foldl (fun (m : SMap (Option Word)) k =>
      if bit (field f 0xE0 1) k then m.insert k (some (BitVec.ofNat 32 (field f (0xC0 + 4 * k) 4))) else m) []
    let base : Lane :=
      { regs := load off, shadow := if l.prot then load (off + roundUp (4 * rs.length) 64) else [],
        pc := pc, sptr := BitVec.ofNat 32 (field f 8 4),
        tokens := (List.range 6).foldl (fun m k => m.put {} k (restoredToken c f lit k)) [],
        flags := BitVec.ofNat 5 (field f 0x0F 1), sflags := BitVec.ofNat 5 (field f 0x26 1),
        draw := BitVec.ofNat 64 (field f 0x10 8), spawn := BitVec.ofNat 64 (field f 0x18 8), dist := bits (field f 0x20 4) 20 0,
        arrived := arrivedFrom (field f 0x40 4) phase (List.range 18), readyAt := s.cycle, since := s.cycle }
    match entry with
    | some e =>
      let base := { base with woken := if st = 2 then some 2 else none, waits := st == 1 }
      if field e 4 4 = 0xFFFFFFFF then .ok base
      else .ok { base with pc := (d.codeBase + field e 4 4) % 2 ^ 52, primer := some pc, dist := 0 }
    | none =>
      let stub := (s.team t).stubs.find? (·.1 == lit)
      .ok { base with
        st := if st = 3 then .converge else if st = 5 then .halted else .ready
        latches := latches, slatches := if l.prot then latches else [], hdr := hdr, inClause := pc != hdr, passJ := st == 3
        rep := if bit (field f 0xE3 1) 0 then some ⟨field f 0xE2 1, 0, false, false, false, false, 0⟩ else none
        code := if st = 5 then field f 0xE1 1 else 0, info := field f 0xE4 4, tcode := field f 0xF0 1
        byDebug := st == 5 && bit (field f 0xE3 1) 1
        primer := stub.map (·.2.1), woken := stub.bind fun b => if b.2.2 then some 2 else none }

/-- The header of the clause that holds an address of a stream, walking from a header (log entry 47). -/
def streamHeader (s : State) (t target hdr k : Nat) : Nat :=
  match k with
  | 0 => target
  | k + 1 =>
    if target ≤ hdr then target
    else
      let next := s.clauseEnd t { hdr := hdr }
      if hdr < next && next ≤ target then s.streamHeader t target next k else hdr

/-! The staged tiles (R354) -/

/-- The bytes of a run of a tile's source in a peer's memory, which the restore waits for (R303). -/
def tilePeer (s : State) (x : Copy) (p : Spot) : Except PieceFault (List Byte) :=
  match p.place.target with
  | .peer accel wpa =>
    let (y, m) := s.peerUnit x.who wpa p.n
    (s.peerBytes x.world accel y m).mapError fun e => ⟨e, 0, p.va⟩
  | _ => .ok []

/-- One piece of a tile (R354). The undo log of a guarded team does not see the refetch. -/
def tilePiece (s : State) (i : Nat) (x : Copy) (rs : List Seg) : Except PieceFault State × State :=
  let g := geoOf x.ds
  let t := copyTeam x
  let undo := (s.team t).undo
  let ovf := (s.team t).overflow
  match s.pieceSpots x rs with
  | (.error f, s) => (.error f, s)
  | (.ok (src, _), s) =>
    match (zipSpots rs src).mapM fun (r, p) =>
      (match p with | some p => s.tilePeer x p | none => .ok []).bind fun peer =>
        s.runSource x .global (r.src g).1 (r.src g).2 p peer with
    | .error f => (.error f, s)
    | .ok got =>
      let sealed := src.any (·.sealed)
      let spread := g.sfmt != g.dfmt || sealed
      let whole := spread && got.any fun b => !b.2.isEmpty
      let s := (rs.mapIdx fun k r => (k, r)).foldl (fun s (k, r) =>
        let b := got.getD k ([], [])
        let (a, n) := r.dst g
        let out := g.convert r b.1 (s.oldBytes x .scratch a n none [])
        s.copyScratch x a.toNat out (if whole then List.range out.length else if spread then [] else b.2)) s
      let mark := fun (j : Nat) (r : Tile) => if sealed && j == i then { r with sealed := true } else r
      (.ok ((s.modTeam t fun y => { y with undo := undo, overflow := ovf, tiles := y.tiles.mapIdx mark }).dropAnswers (.seq t)), s)

/-- The pieces of all staged tiles of a team, each by its tile and its number. -/
def tilePieces (s : State) (t : Nat) : List (Nat × Nat × Copy × List Seg) :=
  ((s.team t).tiles.mapIdx fun i r => (s.tileCopy t r).runs.mapIdx fun j rs => (i, j, s.tileCopy t r, rs)).flatten

/-- A fault of a refetch writes a record with SRC 4; a replayable one holds the restore at its piece, any other ends the
team. -/
def tileFault (s : State) (t i j : Nat) (f : PieceFault) : State :=
  let s := s.modTeam t fun x => { x with tileWait := some (i, j) }
  match f.e.ask with
  | some q => s.waitPeer (.seq t) q
  | none =>
  let w := (s.launchOf t).world
  let va := f.va % 2 ^ 52
  let s := if f.e.ats then s.pageRequest w (va / 65536) else s
  let y : Why := { code := f.e.code, flags := f.flags + 16 * f.e.level + (if f.e.ats then 64 else 0), addr := va, info := f.e.info }
  let mk := fun seq => faultBytes y w seq (s.team t).index 0xFFFF 4 i ((s.launchOf t).record.cookie.toNat % 2 ^ 32)
  if f.e.code ≠ 1 then
    let s := if !recordedCode f.e.code then s else match s.queueRecord w mk with
      | (s, .full) => s.countLost w
      | (s, _) => s
    s.endTeam t f.e.code
  else
    let keep := fun (s : State) (seq : Nat) (queued : Bool) =>
      let r : FaultRec := ⟨seq, [.seq t], va / 65536, 4, s.cycle, f.e.ats, queued, if queued then mk 0 else []⟩
      s.modWorld w fun x => { x with records := x.records ++ [r] }
    match s.queueRecord w mk with
    | (s, .written seq) => keep s seq false
    | (s, .full) => keep s 0 true
    | (s, .broken) => s.endTeam t 1

/-! The end of a restore -/

/-- The commands of a restored team go back to their unit: a GATHER or SCATTER reads its index table again (R453). -/
def reissueCopies (s : State) (t : Nat) : State :=
  ((s.copies.filter fun (_, x) => !agentNotOf t x.who && x.quad == 128).map (·.1)).foldl (fun s c =>
    match s.copies.look c with
    | none => s
    | some x =>
      let x := { x with quad := s.quadOf x.who, idx := if x.op = 3 || x.op = 4 then s.indexTable x (geoOf x.ds).y else x.idx }
      let x := { x with bytes := if x.op = 5 then x.bytes else x.pieceBytes }
      let s := { s with copies := s.copies.insert c x }
      if x.pending then s.nextPiece c else s) s

/-- Steps 5 to 7 of R443. A barrier may be full at once; its waiting instructions run again and find its phase over (R286). -/
def finishRestore (s : State) (t : Nat) : State :=
  let back := (s.team t).rollback.isSome
  let s := s.modTeam t fun x => { x with st := .resident, tileWait := none, rollback := none, stubs := [], seqHdr := none }
  let s := if back then s else s.fillSlots t
  let s := (s.reissueCopies t).l1Flush (s.team t).core
  ((s.lateDebug t).checkBars t).wakeGangs

/-- Step 3: the pieces of the tiles that are left, then the end of the restore. -/
def restoreTiles (s : State) (t : Nat) (ps : List (Nat × Nat × Copy × List Seg)) : State :=
  match ps with
  | [] => s.finishRestore t
  | (i, j, x, rs) :: ps =>
    match s.tilePiece i x rs with
    | (.error f, s) => s.tileFault t i j f
    | (.ok s, _) => s.restoreTiles t ps

/-- The contents of a context's tiers. -/
def restoredScratch (s : State) (t : Nat) (c : List Byte) : SMap Byte :=
  let n := (s.launchOf t).desc.scratch
  ((ctxRanges c).foldl (fun (acc : SMap Byte × Nat) r =>
    (putBytes acc.1 (256 * r.1) (((c.drop acc.2).take (256 * r.2)).take (n - 256 * r.1)), acc.2 + 256 * r.2))
    ([], field c 0x28 4 + 64)).1
def restoredAcc (s : State) (t : Nat) (c : List Byte) : SMap Byte :=
  ((List.range 64).foldl (fun (acc : SMap Byte × Nat) b =>
    if bit (field c 0x30 8) b then
      (if b < (s.launchOf t).desc.accum then putBytes acc.1 (65536 * b) ((c.drop acc.2).take 65536) else acc.1, acc.2 + 65536)
    else acc) ([], field c 0x24 4)).1

/-- Poison of a tier that a restore keeps: that of the ranges and blocks it writes back (log entry 46). -/
def keepsPoison (t : Nat) (c : List Byte) (back : Bool) (p : Space × Nat) : Bool :=
  match p with
  | (.scratch u, g) => u != t || back || (ctxRanges c).any fun r => 256 * r.1 ≤ 32 * g && 32 * g < 256 * (r.1 + r.2)
  | (.acc u, g) => u != t || bit (field c 0x30 8) (32 * g / 65536)
  | _ => true

/-- Loads a checked context into a team (R443 steps 2 to 5), and goes on with its tiles. A bounce-channel command keeps the key
count of its issue; one that another package issued has none (R359). -/
def loadContext (s : State) (t : Nat) (c : List Byte) (back : Bool) : State :=
  let x := s.team t
  let l := s.launchOf t
  let phase := fun b => field c (0x40 + 4 * b) 4
  let f := (c.drop 0x100).take 1024
  let hdr := x.seqHdr.getD (s.streamHeader t (field f 0x80 8) l.desc.stream (l.desc.codeSize / 4))
  match (List.range l.lanes).mapM (s.restoreLane t c phase) with
  | .error (.ask q) => s.waitPeer (.seq t) q
  | .error _ => s.saveAreaFail t
  | .ok lanes =>
    let s := s.dropAnswers (.seq t)
    let old := s.copies.filter fun (_, k) => !agentNotOf t k.who
    let key := fun (k : Copy) => ((x.keysKept.find? fun e => k.who == .lane t e.1 && k.token == e.2.1).map (·.2.2)).getD 0
    let copies := (ctxCopies c).map fun r =>
      let k := parseCopy t l.world r
      match if back then none else old.find? fun (_, o) => o.who == k.who && o.token == k.token && o.op == k.op with
      | some (n, o) => (some n, { k with keyed := o.keyed, touched := o.touched })
      | none => (none, { k with keyed := if back then key k else 0 })
    let s := { s with
      poison := s.poison.filter (keepsPoison t c back)
      copies := s.copies.filter fun e => agentNotOf t e.2.who }
    let s := copies.foldl (fun s (n, k) => match n with
      | some n => { s with copies := s.copies.insert n k }
      | none => { s with copies := s.copies.insert s.nextCopy k, nextCopy := s.nextCopy + 1 }) s
    let s := s.modLaunch x.launch fun l => { l with cb := l.cb.put 0 x.cluster (phase barCb) }
    let s := s.modTeam t fun y => { y with
      st := .restoring, lanes := lanes
      groups := (List.range l.desc.groups).map fun k =>
        let old := y.groups.getD k {}
        { old with ds := (List.range 8).foldl (fun m i => m.put 0 i (BitVec.ofNat 64 (field c (0x900 + 128 * k + 8 * i) 8))) [] }
      seq := if l.desc.hasSeq then some (parseSeq f phase hdr s.cycle) else none
      scratch := if back then y.scratch else s.restoredScratch t c, acc := s.restoredAcc t c
      phase := (List.range 18).foldl (fun m b => if b = barCb then m else m.put 0 b (phase b)) []
      tiles := (List.range (min 32 (field c 0x1B 1))).map fun i => parseTile ((c.drop (0x500 + 32 * i)).take 32)
      account := field c 0x88 4, tileWait := some (0, 0), past := [], bad := if back then y.badKept else y.bad }
    s.restoreTiles t (s.tilePieces t)

/-- A restore (R443): the context of the first region, or for a rollback the snapshot of the second (R463). -/
def restoreTeam (s : State) (t : Nat) (back : Bool) : State :=
  let l := s.launchOf t
  let q := s.quadOf (.seq t)
  let va := s.ctxVa t back
  match s.vaRead l.world q va 256 with
  | (.error e, s) => s.saveTrouble t e
  | (.ok h, s) =>
    if !headerOk l (s.team t) h then s.endTeam t 0x10 else
    match s.vaRead l.world q va (field h 0x38 4) with
    | (.error e, s) => s.saveTrouble t e
    | (.ok c, s) => if partsOk l c then s.loadContext t c back else s.endTeam t 0x10

/-- The team as it was before its first instruction; its scratchpad is as the undo log restored it (R463). -/
def restartTeam (s : State) (t : Nat) : State :=
  let l := s.launchOf t
  let s := s.modLaunch (s.team t).launch fun l => { l with cb := l.cb.put 0 (s.team t).cluster 0 }
  let s := s.modTeam t fun x => { x with
    st := .restoring, lanes := List.replicate l.lanes (startLane l s.cycle), seq := startSeq l x.index,
    groups := x.groups.map fun g => { g with ds := [] },
    acc := [], phase := [], tiles := [], past := [], account := 0, bad := [] }
  let s := { s with copies := s.copies.filter fun e => agentNotOf t e.2.who }
  { s with poison := s.poison.filter fun p => p.1 != Space.acc t }.finishRestore t

/-- Step 4 of R463: the team goes back to its snapshot, or to its start. -/
def loadSnapshot (s : State) (t : Nat) : State :=
  if (s.team t).firstInterval then
    match s.vaRead (s.launchOf t).world (s.quadOf (.seq t)) (s.ctxVa t true) 256 with
    | (.error e, s) => s.saveTrouble t e
    | (.ok h, s) =>
      if headerOk (s.launchOf t) (s.team t) h then (s.dropAnswers (.seq t)).restartTeam t else s.endTeam t 0x10
  else s.restoreTeam t true

/-- The first snapshot of a guarded team comes before its first instruction (R461), which waits for it. -/
def firstSnapshot (s : State) (t : Nat) : State :=
  match s.writeContext t 5 true with
  | (s, .done) => (s.modTeam t fun x => { x with st := .resident }).wakeGangs
  | (s, .waits) => s.modTeam t fun x => { x with st := .restoring }
  | (s, .ended) => s

/-- A restore goes on: from the piece of a staged tile that it waits for (R316, R354), or, once a peer has answered, with its
context, its snapshot, or the team's first snapshot. -/
def resumeRestore (s : State) (t : Nat) : State :=
  let x := s.team t
  if x.st ≠ .restoring || s.asking (.seq t) then s else
  match x.tileWait with
  | some (i, j) => s.restoreTiles t ((s.tilePieces t).filter fun p => i < p.1 || (i == p.1 && j ≤ p.2.1))
  | none =>
    if x.rollback.isSome then s.loadSnapshot t
    else if x.lanes.isEmpty then s.restoreTeam t false
    else s.firstSnapshot t

end State

end Sys2Proof.Machine
end

