-- ==== Sys2Proof/Machine/Release.lean ====
section
/-! DEFINITION. Writing staged entries out: the commit of a guarded interval with its snapshot (R461), the rollback (R463), the
Varnish (R427 to R430, R510), and the save of a team that has stopped (R441). -/

namespace Sys2Proof.Machine

/-- What became of a staged entry at its release. -/
inductive Performed where
  | done | full
  /-- it cannot be performed: the code of the fault that the access would have raised (R510) -/
  | failed (code : Nat)
  deriving DecidableEq, Repr

/-- UALink operation and data of a staged entry. -/
def Staged.request (e : Staged) : Nat × List Byte :=
  match e.op with
  | .write bs => (32, bs)
  | .atom op b c => (op, leBytes (atomBytes op) b ++ leBytes (if op < 16 then 0 else atomBytes op) c)
  | .bank _ _ _ _ | .launch _ _ => (32, [])

namespace State

/-- Performs an entry of a team in a store (R427), after its lines have left its core's L1 (R302); an atomic or a bank update
counts for the Mortar units (R491). -/
def performAt (s : State) (t : Nat) (e : Staged) (sp : Space) (a : Nat) : State :=
  let w := (s.launchOf t).world
  let n := (e.extent).2
  let s := (s.l1DropRange (s.team t).core sp a n).holdHost w sp a n true
  match e.op with
  | .write bs => (s.write sp a bs).poisonAt sp a e.poison
  | _ => (s.write sp a (e.result (s.read sp a n))).meter w 12 1

/-- Performs one staged entry of a team at its target, without translating its VA again (R510). -/
def perform (s : State) (t : Nat) (e : Staged) : State × Performed :=
  let w := (s.launchOf t).world
  match e.op, e.target with
  | .launch rec' _, _ =>
    if s.activating then (s, .full) else
    let (d, s) := s.enqueue w rec'
    (s, if d = 0 then .done else .full)
  | .bank _ _ _ _, _ => (s.performAt t e (.window w) e.va, .done)
  | _, .device a =>
    match e.op, e.sealed with
    | .write bs, true =>
      match s.sealedWrite w a bs with
      | none => (s, .failed 0x04)
      | some s => (if e.poison.isEmpty then s else s.poisonRange .hbm a bs.length, .done)
    | _, _ => (s.performAt t e .hbm a, .done)
  | _, .hostIo io =>
    match s.hostAddr w io with
    | some a => ((s.atsHold w (io / 4096)).performAt t e .host a, .done)
    | none => (s, .failed 0x01)
  | _, .peer accel wpa =>
    if s.routeOk w accel then
      let (op, bs) := e.request
      (s.askPeer (.seq t) accel wpa true op bs none false none e.poison, .done)
    else (s, .failed 0x12)

/-- An entry is lost: its error record of class RELEASE (R510). -/
def releaseRecord (s : State) (t : Nat) (e : Staged) (code : Nat) : State :=
  s.teamRecord 0x0C 7 t e.va (s.team t).core code 1 1

/-- Writes entries out in order. A full queue holds the rest; the first lost entry ends the release, and no later one is
performed (R429, R510). The answer is the entries left, and the code of the lost one. -/
def performAll (s : State) (t : Nat) (es : List Staged) : State × List Staged × Option Nat :=
  match es with
  | [] => (s, [], none)
  | e :: es =>
    match s.perform t e with
    | (s, .done) => s.performAll t es
    | (s, .full) => (s, e :: es, none)
    | (s, .failed c) => (s.releaseRecord t e c, es, some c)

/-! The Gesso (R461) -/

/-- Steps 4 and 5: a new interval, and the phase completes; the sequencer goes on, and so do the barriers that it waits at. -/
def nextInterval (s : State) (t : Nat) : State :=
  let ordered := (s.launchOf t).ordered
  let s := s.modTeam t fun x => { x with
    undo := [], undoPriv := [], overflow := false, rollbacks := 0, snapshot := false, firstInterval := false, slotsKept := x.slots,
    account := if ordered then x.account else 0,
    seq := x.seq.map fun q =>
      if q.st = .swait then { q with st := .running, stopped := false, exiting := false } else { q with stopped := false } }
  ((s.completePhase t barTb).checkBars t).wakeGangs

/-- The snapshot and the commit at the completion of a TB phase. -/
def commitInterval (s : State) (t : Nat) : State :=
  match s.writeContext t 5 false with
  | (s, .waits) | (s, .ended) => s
  | (s, .done) =>
    if (s.launchOf t).ordered then
      (s.modTeam t fun x => { x with staged := x.staged.map fun e => { e with eligible := true } }).nextInterval t
    else
      let index := (s.team t).index
      let l := (s.team t).launch
      match s.performAll t (s.team t).staged with
      | (s, _, some c) => (s.failLaunch l 4 c index).removeTeam t
      | (s, rest, none) =>
        let s := s.modTeam t fun x => { x with staged := rest }
        if rest.isEmpty then s.nextInterval t else s

/-! The rollback (R463) -/

/-- Nothing that a rollback waits for is in flight: a granted pass, an issued piece. -/
def rollbackReady (s : State) (t : Nat) : Bool :=
  !s.passes.any (fun (_, p) => p.team == t && p.granted) &&
    !s.copies.any fun (_, c) => !agentNotOf t c.who && c.pending && c.pieces.contains .issued

/-- Steps 3 to 5; what the interval changed in lane-private memory goes back too (R332). A request that nobody waits for goes on
(R331). -/
def rollBack (s : State) (t : Nat) : State :=
  let x := s.team t
  let s := { s.dropGangs t with
    passes := s.passes.filter fun e => e.2.team != t
    reqs := s.reqs.filter fun r => agentNotOf t r.who || orphan r }
  let s := s.dropRecords t
  let s := x.undo.foldl (fun s u => (s.restoreBytes (.scratch t) (u.1 * 256) u.2).cleanPoison (.scratch t) (u.1 * 256) 256) s
  let s := x.undoPriv.foldl (fun s u => (s.restoreBytes u.1 (u.2.1 * 256) u.2.2).cleanPoison u.1 (u.2.1 * 256) 256) s
  let s := s.modTeam t fun x => { x with
    st := .restoring, tileWait := none, staged := x.staged.filter (·.eligible), slots := x.slotsKept, rollbacks := x.rollbacks + 1,
    replaying := !x.firstInterval, snapshot := false, undoPriv := [] }
  let s := match x.rollback with
    | some (code, addr, unit, tier) => s.faultErrorRecord 0x04 t (x.rollbacks + 1) code addr (if code = 0x0A then 3 else unit) tier
    | none => s
  s.loadSnapshot t

/-- A rollback, or the end of a team that can roll back no more. -/
def rollbackTeam (s : State) (t : Nat) : State :=
  let x := s.team t
  match x.rollback with
  | none => s
  | some (code, addr, unit, tier) =>
    if x.st ≠ .resident || !s.rollbackReady t then s
    else if x.overflow || x.rollbacks = 2 then
      (s.faultErrorRecord 0x05 t 1 code addr (if code = 0x0A then 3 else unit) tier).endTeam t code
    else s.rollBack t

/-! The Varnish -/

/-- The team that the Varnish releases next: in an ordered launch the lowest team not yet released, else any retired one. -/
def varnishTeam (s : State) (l : Nat) : Option Nat :=
  let x := s.launch l
  (s.teams.find? fun (_, t) => t.launch == l && t.st == .retired && (t.releasing || x.st == .active) &&
    (!x.ordered || t.index == x.released)).map (·.1)

/-- Releases one retired team. -/
def releaseTeam (s : State) (l t : Nat) : State :=
  let x := s.team t
  match s.performAll t x.staged with
  | (s, rest, lost) =>
    if lost.isNone && !rest.isEmpty then s.modTeam t fun y => { y with staged := rest, releasing := true }
    else
      let s := s.modTeam t fun y => { y with st := .gone, staged := [], releasing := false }
      let s := s.modLaunch l fun y => { y with released := y.released + 1 }
      let s := match lost with
        | some c => s.failLaunch l 4 c x.index
        | none => s
      ((s.pushOnce (.varnishRelease l)).pushOnce (.launchComplete l)).decide' (s.launch l).ctl

end State

/-- VARNISH_RELEASE (R427). -/
def execVarnishRelease (l : Nat) (s : State) : Host.Outcome State Fault Refusal :=
  match s.varnishTeam l with
  | some t => .next (s.releaseTeam l t)
  | none => .next s

/-- ROLLBACK (R463). -/
def execRollback (t : Nat) (s : State) : Host.Outcome State Fault Refusal := .next (s.rollbackTeam t)

/-- CONTEXT_SAVE (R441, R461, R134): a team that has stopped ends, is saved, or takes its snapshot. -/
def execContextSave (t : Nat) (s : State) : Host.Outcome State Fault Refusal :=
  let x := s.team t
  if x.st ≠ .resident || x.rollback.isSome then .next s
  else if x.ending then
    if s.teamStopped t then .next ((s.removeTeam t).pushOnce (.launchComplete x.launch)) else .next s
  else
    match x.savePending with
    | some k => if s.clusterStopped t then .next (s.saveTeam t k) else .next s
    | none => if x.snapshot && s.seqStopped t then .next (s.commitInterval t) else .next s

end Sys2Proof.Machine
end

