-- ==== Sys2Proof/Machine/Placement.lean ====
section
/-! DEFINITION. The dispatcher of a slice (R130, R137 to R146, R425, R456): the checks of a record, where a cluster fits, the
decision step, the start of a team, the switching of worlds, and the completion of a launch (R134). -/

namespace Sys2Proof.Machine

/-! The checks of R130 -/

/-- The core mesh of a node: its lowest core column and row, and the columns and rows (R13, R27). -/
def nodeMesh (n : Nat) : Nat × Nat × Nat × Nat :=
  let xs := (nodeCores n).map coreX
  let ys := (nodeCores n).map coreY
  let x0 := xs.foldl min (xs.headD 0)
  let y0 := ys.foldl min (ys.headD 0)
  (x0, y0, xs.foldl max 0 + 1 - x0, ys.foldl max 0 + 1 - y0)

/-- A race range (R416): base and sectors; none when the entry breaks its limits. -/
def parseRace (bs : List Byte) : Option (Nat × Nat) :=
  let a := field bs 0 8
  let n := field bs 8 4
  if a % 64 = 0 && a < 2 ^ 52 && 1 ≤ n && n ≤ 2 ^ 27 && field bs 12 4 = 0 then some (a, n) else none

/-- Two race ranges overlap. -/
def raceMeets (p q : Nat × Nat) : Bool := p.1 < q.1 + 64 * q.2 && q.1 < p.1 + 64 * p.2

/-- Some range overlaps a later one of the list. -/
def racesMeet (l : List (Nat × Nat)) : Bool :=
  match l with
  | [] => false
  | r :: rs => rs.any (raceMeets r) || racesMeet rs

/-- RACE_N of a record. -/
def Record.raceN (r : Record) : Nat := bits r.lflags.toNat 11 8

/-- Save slots of a launch (R446). -/
def slotCount (l : Launch) : Nat := l.record.saveSize * 65536 / State.slotSz l

/-- PROT and GUARD of a descriptor, and its rectangles (R81). -/
def Desc.serves (d : Desc) (l : Launch) : Bool :=
  (!l.prot || d.shape.getLsbD 24) && (!l.guarded || d.kflags.getLsbD 9) && d.shape.getLsbD (16 + l.rect)

/-- Why a launch is not checked yet, or refused: the STATUS of its end, or a peer's bytes that must be read first (R303). -/
inductive Refused where
  | status (n : Nat) | ask (q : Nat × Nat × Nat)
  deriving DecidableEq, Repr

/-- A read of the checks that meets a fault of translation. -/
def Refused.of (e : Trouble) (status : Nat) : Refused :=
  match e.ask with
  | some q => .ask q
  | none => .status status

namespace State

/-- The race ranges of a record. -/
def readRaces (s : State) (l : Launch) : Except Refused (List (Nat × Nat)) :=
  let n := l.record.raceN
  if n = 0 then .ok []
  else if l.record.raceTab % 16 ≠ 0 then .error (.status 0x02)
  else
    match (s.vaRead l.world (lowestQuad l.ctl) l.record.raceTab (16 * n)).1 with
    | .error e => .error (.of e 0x02)
    | .ok bs =>
      match (List.range n).mapM fun i => parseRace ((bs.drop (16 * i)).take 16) with
      | none => .error (.status 0x02)
      | some rs => if racesMeet rs || 2 ^ 27 < rs.foldl (fun n r => n + r.2) 0 then .error (.status 0x02) else .ok rs

/-- Every page of the save area translates to device memory with R and W, and is not sealed. -/
def checkSaveArea (s : State) (l : Launch) : Except Refused Unit :=
  (List.range l.record.saveSize).foldl (fun acc i => acc.bind fun _ =>
    match (s.translate l.world (lowestQuad l.ctl) (l.record.save + 65536 * i) .both false).1 with
    | .ok (p, _) => (match p.target with | .device _ => .ok () | _ => .error (.status 0x06))
    | .error e => .error (.of e 0x06)) (.ok ())

/-- The checks of R130 in their order: the launch with its descriptor and races, or why it ends or waits. -/
def checkLaunch (s : State) (l : Launch) : Except Refused Launch :=
  if !l.record.ok then .error (.status 0x02) else
  match (s.vaRead l.world (lowestQuad l.ctl) l.record.kdesc 256).1 with
  | .error e => .error (.of e 0x01)
  | .ok bs =>
    let l := { l with desc := parseDesc bs, descBytes := bs }
    if !l.desc.ok || !l.desc.serves l then .error (.status 0x01)
    else if l.guarded && l.rect ≠ 0 then .error (.status 0x02)
    else
      match s.readRaces l with
      | .error e => .error e
      | .ok races =>
        let (w, h) := rectShape l.rect
        let (_, _, cols, rows) := nodeMesh (s.slice l.ctl).node
        if l.teams % l.clusterSize ≠ 0 || cols < w || rows < h || 196608 < l.clusterSize * stageUnits l then .error (.status 0x03)
        else if slotCount l < l.clusterSize then .error (.status 0x02)
        else match s.checkSaveArea l with
          | .error e => .error e
          | .ok _ => .ok { l with races := races, st := .active }

/-! Queues and worlds -/

/-- A world has queued launches or saved clusters (R456). -/
def hasWork (s : State) (w : Nat) : Bool :=
  ((s.world w).st == .running || (s.world w).st == .attached) && s.launches.any fun (_, l) => l.world == w && l.ctl == (s.world w).ctl &&
    (inQueue l || (l.st == .active && !l.returning.isEmpty))

/-- The first world with work from position k of SLC_WLIST on. -/
def nextWorld (s : State) (c k : Nat) : Option Nat :=
  ((List.range 6).map fun i => (s.slice c).wlist.getD ((k + i) % 6) 0).find? fun w => w != 0 && s.hasWork w

/-- Makes a world eligible; its quantum starts (R456). -/
def setEligible (s : State) (c : Nat) (w : Option Nat) : State :=
  if (s.slice c).eligible = w then s
  else s.modSlice c fun sl => { sl with eligible := w, eligibleSince := s.clock }

/-- The eligible world keeps its place while it has work; else the next one with work takes it. -/
def electWorld (s : State) (c : Nat) : State :=
  match (s.slice c).eligible with
  | some w =>
    if s.hasWork w && (s.world w).ctl = c then s
    else s.setEligible c (s.nextWorld c ((s.slice c).wlist.findIdx (· == w)))
  | none => s.setEligible c (s.nextWorld c 0)

/-- A queue's head (R137, R141): launch, cluster, and whether the cluster returns. -/
structure Head where
  launch : Nat
  cluster : Nat
  back : Bool
  deriving DecidableEq, Repr

/-- A cluster all of whose remaining teams are saved returns (R141), also when its last resident team has retired. -/
def gatherReturning (s : State) (c : Nat) : State :=
  (s.teams.filter fun (_, x) => x.st == .saved && (s.launch x.launch).ctl == c).foldl (fun s (_, x) =>
    let l := s.launch x.launch
    let here := s.teams.any fun (e : Nat × Team) => e.2.launch == x.launch && e.2.cluster == x.cluster && (e.2.st == .resident || e.2.st == .restoring)
    if here || l.returning.contains x.cluster then s
    else s.setLaunch x.launch { l with part := 0, returning := l.returning.filter (· < x.cluster) ++ [x.cluster] ++ l.returning.filter (x.cluster < ·) }) s

/-- The head of queue q: the entry that stands first, a returning cluster by its part and an unplaced one by its record. -/
def headOf (s : State) (c q : Nat) : Option Head :=
  match (s.slice c).eligible with
  | none => none
  | some w =>
    let ls := s.launches.filter fun (_, l) => l.ctl == c && l.prio == q && l.world == w && (l.st == .queued || l.st == .active)
    let back := ls.filterMap fun (k, l) => l.returning.head?.map fun cl => ((l.part, l.place, 0), State.Head.mk k cl true)
    let new := (ls.filter fun e => inQueue e.2).map fun (k, l) => ((l.place, l.place, 1), State.Head.mk k l.nextCluster false)
    ((back ++ new).foldl (fun (best : Option ((Nat × Nat × Nat) × State.Head)) e => match best with
      | none => some e
      | some b => if rankLt e.1 b.1 then some e else some b) none).map (·.2)

/-- Checks the records that become heads; one that fails leaves its queue with its event (R143). A check that needs a peer's
bytes asks for them, and the answer brings the next step. -/
def checkHeads (s : State) (c q k : Nat) : State :=
  match k with
  | 0 => s
  | k + 1 =>
    match s.headOf c q with
    | none => s
    | some h =>
      let l := s.launch h.launch
      if l.st ≠ .queued then s else
      match s.checkLaunch l with
      | .ok l => (s.dropAnswers (.firm c)).setLaunch h.launch l
      | .error (.ask q) => s.askInner (.firm c) l.world q
      | .error (.status st) => (((s.dropAnswers (.firm c)).setLaunch h.launch { l with st := .failing, fail := some (st, 0, 0xFFFFFFFF) }).pushOnce (.launchComplete h.launch)).checkHeads c q k

/-! Fitting (R138, R139) -/

/-- The teams that hold resources of a core (R140, R374). -/
def holders (s : State) (core : Nat) : List Team :=
  (s.teams.filter fun (k, x) => x.core == core &&
    (x.st == .resident || x.st == .restoring || s.passes.any fun e => e.2.team == k && e.2.granted)).map (·.2)

/-- The lowest base at which n free units lie in a row among lim, beside the ranges taken. -/
def lowestFree (taken : List (Nat × Nat)) (n lim : Nat) : Option Nat :=
  let bases := 0 :: taken.map fun r => r.1 + r.2
  (bases.filter fun b => b + n ≤ lim && taken.all fun r => r.1 + r.2 ≤ b || b + n ≤ r.1).foldl
    (fun best b => match best with | none => some b | some a => some (min a b)) none

/-- Scratchpad and accumulator bases that a core can give one more team of a launch. -/
def roomAt (s : State) (core : Nat) (l : Launch) : Option (Nat × Nat) :=
  let hs := s.holders core
  let sum := fun (f : Desc → Nat) => (hs.map fun x => f (s.launch x.launch).desc).foldl (· + ·) (f l.desc)
  if 4 ≤ hs.length || 32 < sum Desc.groups || 196608 < sum Desc.coreRegs then none else
  match lowestFree ((hs.map fun x => (x.scrBase, (s.launch x.launch).desc.scratch)).filter (·.2 != 0)) l.desc.scratch (2 ^ 23),
    lowestFree ((hs.map fun x => (x.accBase, (s.launch x.launch).desc.accum * 65536)).filter (·.2 != 0)) (l.desc.accum * 65536) (2 ^ 22) with
  | some a, some b => some (a, b)
  | _, _ => none

/-- Saved teams of a cluster. -/
def savedTeams (s : State) (h : Head) : List (Nat × Team) :=
  s.teams.filter fun (_, x) => x.launch == h.launch && x.cluster == h.cluster && x.st == .saved

/-- Ranks of the cluster that need a core. -/
def headRanks (s : State) (h : Head) : List Nat :=
  if h.back then (s.savedTeams h).map (·.2.rank) else List.range (s.launch h.launch).clusterSize

/-- The core of a rank in a rectangle at an origin. -/
def rankCore (l : Launch) (o : Nat × Nat) (r : Nat) : Nat :=
  let w := (rectShape l.rect).1
  coreAt (o.1 + r % w) (o.2 + r / w)

/-- Origins of a slice for a rectangle in the order of R139, under R68. -/
def origins (s : State) (l : Launch) : List (Nat × Nat) :=
  let (x0, y0, cols, rows) := nodeMesh (s.slice l.ctl).node
  let (w, h) := rectShape l.rect
  ((List.range rows).flatMap fun j => (List.range cols).map fun i => (x0 + i, y0 + j)).filter fun (x, y) =>
    x + w ≤ x0 + cols && y + h ≤ y0 + rows && (l.rect = 0 || l.rect = 1 || x % 2 == 0) && (l.rect = 0 || l.rect = 2 || y % 2 == 0)

/-- Where the head fits; none while a save of its world runs (R441), nor before its record has passed the checks. -/
def fits (s : State) (h : Head) : Option (Nat × Nat) :=
  let l := s.launch h.launch
  if l.st ≠ .active then none
  else if s.teams.any fun (_, x) => x.savePending.isSome && (s.launch x.launch).world == l.world then none
  else if !h.back && (slotCount l < l.slotsUsed.length + l.clusterSize ||
      196608 < s.stagingUsed l.ctl + l.clusterSize * stageUnits l ||
      (!l.raceHeld && 2 ^ 27 < s.racesUsed l.ctl + l.races.foldl (fun n r => n + r.2) 0)) then none
  else (s.origins l).find? fun o => (s.headRanks h).all fun r => (s.roomAt (rankCore l o r) l).isSome

/-! Placing -/

/-- A new team of a cluster at a core (R69, R73, R82, R202, R446). -/
def newTeam (s : State) (li cluster rank core : Nat) : State :=
  let l := s.launch li
  let (a, b) := (s.roomAt core l).getD (0, 0)
  let slot := ((List.range (slotCount l)).find? fun k => !l.slotsUsed.contains k).getD 0
  let t := s.nextTeam
  let index := cluster * l.clusterSize + rank
  let x : Team :=
    { launch := li, index := index, rank := rank, cluster := cluster, core := core, scrBase := a, accBase := b, slot := slot,
      region := l.ctl, lanes := List.replicate l.lanes (startLane l s.cycle), groups := List.replicate l.desc.groups {},
      seq := startSeq l index }
  let s := s.setLaunch li { l with slotsUsed := l.slotsUsed ++ [slot] }
  let s := { s with teams := s.teams.insert t x, nextTeam := t + 1 }
  let s := (s.fillSlots t).l1Flush core
  if l.guarded then s.firstSnapshot t else s

/-- A saved team takes a core again (R443). -/
def backTeam (s : State) (t core : Nat) : State :=
  let (a, b) := (s.roomAt core (s.launchOf t)).getD (0, 0)
  (s.modTeam t fun x => { x with core := core, scrBase := a, accBase := b, st := .restoring }).restoreTeam t false

/-- Places a head at an origin. -/
def place (s : State) (h : Head) (o : Nat × Nat) : State :=
  let l := s.launch h.launch
  if h.back then
    let ts := s.savedTeams h
    let s := s.modLaunch h.launch fun l => { l with returning := l.returning.filter (· != h.cluster) }
    ts.foldl (fun s e => if (s.team e.1).st = .saved then s.backTeam e.1 (rankCore l o e.2.rank) else s) s
  else
    let s := s.setLaunch h.launch { l with nextCluster := h.cluster + 1, raceHeld := true, raceRegion := if l.raceHeld then l.raceRegion else l.ctl }
    (List.range l.clusterSize).foldl (fun s r => if (s.launch h.launch).st = .active then s.newTeam h.launch h.cluster r (rankCore l o r) else s) s

/-! The decision step (R144) -/

/-- Clears the blocked head. -/
def unblock (s : State) (c : Nat) : State := s.modSlice c fun x => { x with blocked := none, age := 0, draining := false }

/-- A placement, and the step that follows it (R143). -/
def placeNext (s : State) (c : Nat) (h : Head) (o : Nat × Nat) : State := (s.place h o).decide' c

/-- The queues in turn, other than the blocked head's: a back-fill counts against that head. -/
def backFill (s : State) (c : Nat) (h : Head) (qs : List Nat) : State :=
  match qs with
  | [] => s
  | q :: qs =>
    match if q = (s.launch h.launch).prio then none else (s.headOf c q).bind fun g => (s.fits g).map fun o => (g, o) with
    | none => s.backFill c h qs
    | some (g, o) =>
      (s.modSlice c fun x => { x with age := x.age + 1, draining := x.draining || x.ageLimit ≤ x.age + 1 }).placeNext c g o

/-- One decision step. -/
def decideHead (s : State) (c : Nat) : State :=
  let heads := (List.range 4).filterMap (s.headOf c)
  match heads.find? (·.back) with
  | some h => (match s.fits h with | some o => s.placeNext c h o | none => s)
  | none =>
    let gone := match (s.slice c).blocked with
      | none => false
      | some b => !heads.any fun h => h.launch == b.1 && h.cluster == b.2
    let s := if gone then s.unblock c else s
    let sl := s.slice c
    let s := if sl.blocked.isSome && sl.ageLimit ≤ sl.age then s.modSlice c fun x => { x with draining := true } else s
    let h? := if (s.slice c).draining then heads.find? fun h => sl.blocked == some (h.launch, h.cluster) else heads.head?
    match h? with
    | none => s
    | some h =>
      let s := if sl.blocked = some (h.launch, h.cluster) then s
        else s.modSlice c fun x => { x with blocked := some (h.launch, h.cluster), age := 0, draining := false }
      match s.fits h with
      | some o => (s.unblock c).placeNext c h o
      | none =>
        let s := if (s.slice c).ageLimit = 0 then s.modSlice c fun x => { x with draining := true } else s
        if (s.slice c).draining then s else s.backFill c h (List.range 4)

/-- The eligible world with its heads checked, among k worlds: where every record of it fails, the next one takes its place, and
its heads are checked too (R143, R456). -/
def electChecked (s : State) (c k : Nat) : State :=
  match k with
  | 0 => s
  | k + 1 =>
    let s := s.electWorld c
    let s := (List.range 4).foldl (fun s q => s.checkHeads c q (s.launches.length + 1)) s
    match (s.slice c).eligible with
    | some w => if s.hasWork w then s else s.electChecked c k
    | none => s

/-- DECISION_STEP of a slice: none while a SPLIT stops placement (R143), or while a check waits for a peer's bytes. -/
def decisionStep (s : State) (c : Nat) : State :=
  let sl := s.slice c
  if sl.splitting || !(sl.st == .ready || sl.st == .busy) then s else
  let s := ((s.freeOldPrivate c).gatherReturning c).electChecked c 7
  if s.asking (.firm c) then s else s.decideHead c

/-! Completion (R134) -/

/-- The event of a launch. -/
def launchEvent (l : Launch) : Event :=
  match l.fail with
  | some (st, code, team) =>
    { type := 2, status := st, world := l.world, aux := code, cookie := l.record.cookie, count := l.retired % 2 ^ 32, team := team % 2 ^ 32 }
  | none => { type := 1, world := l.world, cookie := l.record.cookie, count := l.retired % 2 ^ 32 }

/-- The launch has nothing left to do but its event: its teams are gone, and every write of theirs to a peer has been answered,
for its completion is a release at system scope (R134, R331). -/
def finished (s : State) (l : Nat) : Bool :=
  let x := s.launch l
  !(s.reqs.any fun r => r.launch == some l && r.st == .waiting) &&
  match x.st with
  | .active => x.retired == x.teams && (!x.staging || x.released == x.teams)
  | .failing => (s.teamsOf l).isEmpty
  | .holding => true
  | _ => false

/-- The launch completes when its event enters the queue; a full queue holds it. -/
def completeLaunch (s : State) (l : Nat) : State :=
  if !s.finished l then s else
  let x := s.launch l
  let held := (s.slice x.ctl).heldEvents.any fun e => e.world == x.world
  if s.eventRoom x.world && !held then
    let last := s.launches.foldl (fun n e => max n e.2.doneSeq) 0
    let s := s.setLaunch l { x with st := .done, doneSeq := last + 1, raceHeld := false, raceWords := [], returning := [] }
    (s.enterEvent x.world (launchEvent x)).decide' x.ctl
  else if x.st = .holding then s
  else (s.setLaunch l { x with st := .holding }).decide' x.ctl

/-! World switching (R456) -/

/-- Clusters of a world that have a resident or restoring team. -/
def residentClusters (s : State) (w : Nat) : List (Nat × Nat) :=
  ((s.teams.filter fun (_, x) => (x.st == .resident || x.st == .restoring) && (s.launch x.launch).world == w).map
    fun (_, x) => (x.launch, x.cluster)).eraseDups

/-- Asks for a save of every resident cluster of a world. -/
def saveWorld (s : State) (w kind : Nat) : State :=
  (s.residentClusters w).foldl (fun s p => if (s.launch p.1).st = .active then s.requestSave p.1 p.2 kind else s) s

/-- The quantum of the eligible world has ended and another world has work. -/
def quantumOver (s : State) (c : Nat) : Option (Nat × Nat) :=
  let sl := s.slice c
  match sl.eligible with
  | none => none
  | some w =>
    if sl.quantum = 0 || s.clock < sl.eligibleSince + sl.quantum * 1000000 then none
    else
      match s.nextWorld c (sl.wlist.findIdx (· == w) + 1) with
      | some v => if v = w then none else some (w, v)
      | none => none

/-- QUANTUM_EXPIRY. -/
def switchWorld (s : State) (c : Nat) : State :=
  match s.quantumOver c with
  | none => s
  | some (w, v) => (((s.setEligible c (some v)).saveWorld w 1)).decide' c

end State

/-- DECISION_STEP (R143, R144). -/
def execDecisionStep (c : Nat) (s : State) : Host.Outcome State Fault Refusal := .next (s.decisionStep c)
/-- LAUNCH_COMPLETE (R134, R490). -/
def execLaunchComplete (l : Nat) (s : State) : Host.Outcome State Fault Refusal := .next (s.completeLaunch l)
/-- QUANTUM_EXPIRY (R456). -/
def execQuantumExpiry (c : Nat) (s : State) : Host.Outcome State Fault Refusal := .next (s.switchWorld c)
/-- TURN_END (R127): the turn goes on behind the program that had it. -/
def execTurnEnd (c : Nat) (s : State) : Host.Outcome State Fault Refusal :=
  .next (s.modSlice c fun x => { x with turnPos := (x.turnPos + 1) % 6, turnCount := 0 })

end Sys2Proof.Machine
end

