-- ==== Sys2Proof/Machine/Meter.lean ====
section
/-! DEFINITION. Metering (R491 to R493) and the signed usage records (R494 to R498): the counters as they read, a cut of a
world's block, the held records and the ring. -/

namespace Sys2Proof.Machine

namespace State

/-- Microseconds since a time of the secure clock. -/
def microsSince (s : State) (t : Nat) : Nat := (s.clock - t) / 1000

/-- A world's counter (R491); RESID counts while the world is not FREE, 14 and 15 are zero. -/
def counter (s : State) (w k : Nat) : Nat :=
  let x := s.world w
  if k = 13 then (x.meter.get 0 13 + if x.st = .free then 0 else s.microsSince x.residSince) % 2 ^ 64
  else if 14 ≤ k then 0 else x.meter.get 0 k

/-- What the worlds of a slice have counted since they came to it, and the slice's own part (R492). -/
def sliceCounter (s : State) (c k : Nat) : Nat :=
  let sl := s.slice c
  let own := sl.meter.get 0 k + if k = 13 && sl.st != .empty then s.microsSince sl.residSince else 0
  if 14 ≤ k then 0
  else sl.worlds.foldl (fun n w => (n + (s.counter w k + 2 ^ 64 - (s.world w).meterBase.get 0 k)) % 2 ^ 64) (own % 2 ^ 64)

/-- The 16 counters of a world. -/
def totals (s : State) (w : Nat) : SMap Nat := (List.range 16).foldl (fun m k => m.put 0 k (s.counter w k)) []

/-- Bytes that the memory controllers and the CXL port moved for a world since the counters were last seen. The spec fixes
no number of such bytes for an access, since caching is not architectural: free values (log entry 31). -/
def countBytes (s : State) (w : Nat) : State :=
  if (s.world w).st = .free then s else
  [5, 6, 8, 9].foldl (fun s k =>
    let (v, s) := s.free
    s.meter w k v) s

/-- What a world has counted on a slice goes into the slice's own part, when the world leaves it (R492). -/
def leaveMeter (s : State) (w : Nat) : State :=
  let x := s.world w
  let s := (List.range 14).foldl (fun s k => s.meterSlice x.ctl k ((s.counter w k + 2 ^ 64 - x.meterBase.get 0 k) % 2 ^ 64)) s
  let now := s.totals w
  s.modWorld w fun x => { x with meterBase := now }

/-! Records -/

end State

/-- FLAGS of a record (R497). -/
def HeldRec.flags (h : HeldRec) : Nat :=
  (if h.at'.seq = 0 then 1 else 0) + (if h.last then 2 else 0) + (if h.at'.changed then 4 else 0) +
    (if h.at'.imported then 8 else 0) + if h.again then 16 else 0

/-- Increases of the counters since START, modulo 2^64. -/
def HeldRec.delta (h : HeldRec) (k : Nat) : Nat := (h.totals.get 0 k + 2 ^ 64 - h.at'.totals.get 0 k) % 2 ^ 64

/-- The bytes of a record up to its signature (R497). -/
def HeldRec.body (h : HeldRec) (w activations : Nat) : List Byte :=
  [0x44#8, 0x46#8, 0x54#8, 0x4B#8, 0x01#8, 0x00#8, BitVec.ofNat 8 w, BitVec.ofNat 8 h.node] ++ leBytes 8 h.at'.seq ++
    leBytes 8 h.at'.chain ++ leBytes 8 h.at'.start ++ leBytes 8 h.finish ++ leBytes 4 activations ++ leBytes 4 h.flags ++
    leBytes 16 Config.serial ++ ((List.range 16).flatMap fun k => leBytes 8 (h.delta k)) ++
    ((List.range 16).flatMap fun k => leBytes 8 (h.totals.get 0 k)) ++
    leBytes 48 (if h.at'.seq = 0 then 0 else h.at'.prev) ++ zeros 48

/-- The whole record, signed under the Alias key (R53, R497). -/
def HeldRec.bytes (h : HeldRec) (w key activations : Nat) : List Byte :=
  h.body w activations ++ leBytes 96 (Config.sign key (h.body w activations))

namespace State

def modUsage (s : State) (w : Nat) (f : Usage → Usage) : State := s.modWorld w fun x => { x with usage := f x.usage }

/-- LOG2N of MET_BASE, and whether the ring has room (R493, R496). -/
def metLog (s : State) : Nat := bits s.metBase.toNat 4 0
def metRoom (s : State) : Bool := 4 ≤ s.metLog && s.metLog ≤ 16 && decide ((s.metTail - s.metHead).toNat < 2 ^ s.metLog)

/-- Emits a world's held record, if the ring has room and no activation runs (R63, R496). -/
def emitHeld (s : State) (w : Nat) : State :=
  match (s.world w).usage.held with
  | none => s
  | some h =>
    if !s.metRoom || s.activating then s else
    let bs := h.bytes w s.aliasKey s.activations
    match s.hostWrite 0 (bits s.metBase.toNat 63 12 * 4096 + 512 * (s.metTail.toNat % 2 ^ s.metLog)) bs with
    | none => s
    | some s1 =>
      let s1 := { s1 with metTail := s1.metTail + 1 }
      let s1 := s1.modUsage w fun u =>
        { held := none, chain := u.chain.map fun c =>
            if c.chain = h.at'.chain && c.seq = h.at'.seq + 1 then { c with prev := Config.sha384 bs } else c }
      if s.metTail = s.metHead then s1.signal 0 3 else s1

/-- A cut of one world's block: a record of the time since the last cut, held until it is emitted. While a record of the
same chain is held, one that begins where it began replaces it (R495, R496). While the last record of an earlier chain is
held, or any of an earlier chain, the open chain's next record goes on growing (log entry 32). -/
def cutWorld (s : State) (w : Nat) (last : Bool) : State :=
  match (s.world w).usage.chain with
  | none => s
  | some c =>
    let s := s.countBytes w
    let now := s.totals w
    let node := if last then 0 else s.nodeOf w
    let rec' := match (s.world w).usage.held with
      | none => some (HeldRec.mk c s.clock now node last false)
      | some h => if h.last || h.at'.chain ≠ c.chain then none
        else some (HeldRec.mk { h.at' with changed := h.at'.changed || c.changed, imported := h.at'.imported || c.imported }
          s.clock now node last true)
    match rec' with
    | none => s
    | some h =>
      let s := s.modUsage w fun _ =>
        { held := some h,
          chain := if last then none
            else some { seq := h.at'.seq + 1, chain := h.at'.chain, start := s.clock, totals := now, prev := h.at'.prev } }
      s.emitHeld w

/-- A chain opens (R495): ATTACH with its cleared counters, or an IMPORT. -/
def openChain (s : State) (w start : Nat) (imported : Bool) : State :=
  s.modUsage w fun u => { u with chain := some { chain := start, start := start, imported := imported } }

/-- A MERGE or a SPLIT of the world's slice, for FLAGS[2]. -/
def markChanged (s : State) (w : Nat) : State :=
  s.modUsage w fun u => { u with chain := u.chain.map fun c => { c with changed := true } }

/-- Held records go out once the ring has room. -/
def emitAll (s : State) : State := (s.worlds.map (·.1)).foldl (fun s w => s.emitHeld w) s

/-- A period boundary (R495): a multiple of PERIOD ms has passed on the secure clock. -/
def periodCut (s : State) : State :=
  if s.clock < s.metNext * 1000000 then s else
  let s := (s.worlds.map (·.1)).foldl (fun s w => if w ≠ 0 && (s.world w).st ≠ .free then s.cutWorld w false else s) s
  { s with metNext := (s.clock / 1000000 / s.metPeriod + 1) * s.metPeriod }

end State

/-- PERIOD_BOUNDARY (R495). -/
def execPeriodBoundary (s : State) : Host.Outcome State Fault Refusal := .next s.periodCut
/-- MET_PERIOD_WRITE (R493): a value outside 100 to 60,000 is ignored; it counts from the next boundary on. -/
def execMetPeriodWrite (v : BitVec 32) (s : State) : Host.Outcome State Fault Refusal :=
  let p := bits v.toNat 16 0
  .next (if 100 ≤ p && p ≤ 60000 then { s with metPeriod := p } else s)

end Sys2Proof.Machine
end

