-- ==== Sys2Proof/Machine/Worlds.lean ====
section
/-! DEFINITION. The life of a world: the translation context and the control program at a change of WLD_CTL.EN (R33, R124, R126,
R311, R511), the end of a world's work (R134, R135), resets (R33, R36), and the TDI's fall into ERROR (R59, R60). -/

namespace Sys2Proof.Machine

namespace State

/-! What measurements 7 and 8 hold (R57, R59) -/

/-- WLD_MEM and WLD_L2MASK as they read (R51). -/
def wldMem (x : World) : Nat := x.base % 1024 + 2 ^ 16 * (x.size % 1024) + if x.adopted then 2 ^ 31 else 0
def wldL2mask (x : World) : Nat := x.cacheMask.toNat + 2 ^ 16 * x.windowMask.toNat

/-- The SLC_LEND bits that touch a slice: those it holds, and the slices that lend to it. -/
def lendBits (s : State) (c : Nat) : Nat :=
  (s.slice c).lend.toNat + 2 ^ 16 * bitSet ((List.range 16).filter fun k => (s.slice k).lend.getLsbD c)

/-- The contents of measurement 7, and of measurement 8. R57 names the contents of 7; that they are six 32-bit words in this
order, SLC_LEND of the slice in the low half of the last and the slices that lend to it in its high half, is a DESIGN CHOICE
(log entry 68). -/
def measurement7 (s : State) (w : Nat) : List Nat :=
  let x := s.world w
  let sl := s.slice x.ctl
  [sl.node, sl.owner, sl.winWays, wldMem x, wldL2mask x, s.lendBits x.ctl]
def measurements (s : State) (w : Nat) : List Nat := s.measurement7 w ++ [(s.world w).progDigest]

/-! The end of work -/

/-- The launches and the teams of a world. -/
def launchesOf (s : State) (w : Nat) : List Nat := (s.launches.filter fun e => e.2.world == w).map (·.1)
def worldTeams (s : State) (w : Nat) : List Nat := (s.teams.filter fun e => (s.launch e.2.launch).world == w).map (·.1)

/-- A store belongs to one of the teams. -/
def ofTeams (ts : List Nat) (sp : Space) : Bool :=
  match sp with
  | .scratch t | .acc t => ts.contains t
  | _ => false

/-- A world's control program stops between two instructions (R126). -/
def stopProg (s : State) (w : Nat) : State :=
  ({ s with reqs := s.reqs.filter fun r => r.who != Agent.prog w || orphan r } : State).modWorld w fun (x : World) =>
    { x with
      prog := { x.prog with st := .stopped, starting := false, clause := none }
      records := (x.records.map fun r => { r with who := r.who.filter fun a => a != Agent.prog w }).filter fun r => !r.who.isEmpty }

/-- Every launch, team, copy, pass and event of a world ends, and no event is posted (R135, R489). -/
def dropWorld (s : State) (w : Nat) : State :=
  let ts := s.worldTeams w
  let c := (s.world w).ctl
  let s := { s with
    reqs := s.reqs.filter fun r => r.world != w
    gangs := s.gangs.filter fun e => !ts.contains e.2.team
    passes := s.passes.filter fun e => !ts.contains e.2.team
    copies := s.copies.filter fun e => e.2.world != w
    poison := s.poison.filter fun p => !ofTeams ts p.1
    teams := s.teams.filter fun e => !ts.contains e.1
    launches := s.launches.filter fun e => e.2.world != w }
  let s := s.modSlice c fun x => { x with
    events := x.events.filter fun e => e.world != w, heldEvents := x.heldEvents.filter fun e => e.world != w,
    eligible := if x.eligible = some w then none else x.eligible }
  let s := s.modWorld w fun x => { x with records := [] }
  ((s.stopProg w).wakeGangs).decide' c

/-- Every unfinished launch of a world ends at once with STATUS 0x05, ABORTED, and one event each (R134, R59); each leaves its
queue, which is a decision point (R143). -/
def abortWorld (s : State) (w : Nat) : State :=
  let ls := (s.launches.filter fun (_, l) => l.world == w && (l.st == .queued || l.st == .active || l.st == .failing)).map (·.1)
  let s := ls.foldl (fun s l =>
    let s := s.modLaunch l fun x => { x with st := .failing, fail := some (x.fail.getD (5, 0, 0xFFFFFFFF)), returning := [] }
    let s := (s.teamsOf l).foldl (fun s t => s.removeTeam t) s
    s.pushOnce (.launchComplete l)) s
  if ls.isEmpty then s else s.decide' (s.world w).ctl

/-- The TDI of a bound world enters ERROR (R59). -/
def tdiError (s : State) (w : Nat) : State :=
  if (s.world w).tdi = .locked || (s.world w).tdi = .run then
    (s.modWorld w fun x => { x with tdi := .error }).abortWorld w
  else s

/-- A change of what measurements 7 and 8 hold (R59). -/
def checkMeasured (s : State) (w : Nat) : State :=
  if (s.world w).measured ≠ s.measurements w then s.tdiError w else s

/-! Starting -/

/-- A translation context whose fields keep their limits (R311). -/
def parseContext (bs : List Byte) : Option Context :=
  let c : Context := ⟨field bs 0 8, field bs 8 4, field bs 0x0C 1, field bs 0x0D 1, field bs 0x10 8⟩
  if c.root % 32768 = 0 && c.root < 2 ^ 48 && c.pasid < 2 ^ 20 && 6 ≤ c.fqLog2 && c.fqLog2 ≤ 12 && c.fqVector < 64 &&
    field bs 0x0E 2 = 0 && c.fqBase % 4096 = 0 && c.fqBase < 2 ^ 48 && field bs 0x24 28 = 0 then some c else none

/-- The world's program ends in FAULTED with code 0x06 at its start (R124). -/
def refuseProg (s : State) (w : Nat) : State :=
  (s.modProg w fun p => { p with st := .faulted, starting := false, fault := 6, faultPc := 0, clause := none }).signal w 1

/-- The fields that the control core uses of a descriptor keep the limits of R80 (R124). -/
def progDescOk (d : Desc) : Bool :=
  d.entry % 4 == 0 && d.entry < 2 ^ 52 && d.codeBase < 2 ^ 52 && d.codeSize ≤ 2 ^ 28 && 1 ≤ d.nregs && d.nregs ≤ 240 &&
    d.priv % 64 == 0 && d.priv ≤ 2 ^ 18

/-- SHA-384 of the default FIFO program (R57). -/
def defaultDigest (s : State) : Nat := Config.sha384 (s.imageBody 6)

/-- The program that WLD_CPROG selects, as the control core reads it (R124): none for the default FIFO program, else its
descriptor and its code. -/
def selectedProg (s : State) (w : Nat) : Except Trouble (Option (Desc × List Byte)) × State :=
  let x := s.world w
  if !x.cprog.getLsbD 0 then (.ok none, s) else
  match s.vaRead w (lowestQuad x.ctl) (bits x.cprog.toNat 51 8 * 256) 256 with
  | (.error e, s) => (.error e, s)
  | (.ok bs, s) =>
    let d := parseDesc bs
    if !progDescOk d then (.error { code := 6 }, s) else
    match s.vaRead w (lowestQuad x.ctl) d.codeBase d.codeSize with
    | (.error e, s) => (.error e, s)
    | (.ok code, s) => (.ok (some (d, code)), s)

/-- The control program starts at ENTRY, with fresh registers (R124 to R126); where the code or its descriptor lies at a peer
the start waits for the bytes (R303). -/
def startProg (s : State) (w : Nat) : State :=
  let s := { s with
    copies := s.copies.filter fun e => e.2.who != Agent.prog w
    reqs := s.reqs.filter fun r => r.who != Agent.prog w || orphan r || r.inner.isSome }
  match s.selectedProg w with
  | (.error e, s) =>
    match e.ask with
    | some q => (s.askInner (.prog w) w q).modProg w fun p => { p with st := .running, starting := true }
    | none => (s.dropAnswers (.prog w)).refuseProg w
  | (.ok none, s) =>
    (s.modWorld w fun x => { x with
      progDigest := s.defaultDigest
      prog := { st := .running, priv := x.prog.priv, privSize := 4096, nregs := 240 } }).checkMeasured w
  | (.ok (some (d, code)), s) =>
    ((s.dropAnswers (.prog w)).modWorld w fun x => { x with
      progDigest := Config.sha384 code
      prog := { st := .running, custom := true, priv := x.prog.priv, entry := d.entry, codeBase := d.codeBase,
                codeSize := d.codeSize, nregs := d.nregs, privSize := d.priv, flagEn := d.flagEn,
                lane := { regs := SMap.put 0 (SMap.put 0 [] 0 (BitVec.ofNat 32 w)) 1 (BitVec.ofNat 32 x.ctl), pc := d.entry,
                          sptr := BitVec.ofNat 32 d.priv } } }).checkMeasured w

/-- The 64-byte context is read (R311), and a broken fault queue is whole again (R315). -/
def readContext (s : State) (w : Nat) : State :=
  let c := (s.wpaRead w (contextAddr (s.world w)) 64).bind parseContext
  (s.tlbDropAll w).modWorld w fun x => { x with context := c, fqBroken := false }

/-- Measurement 8 of a world whose program has not started yet, for LOCK_INTERFACE_REQUEST (R57, R59): that of the program that
WLD_CPROG selects now, read through the context that WLD_TCTX names; one that cannot be read leaves the measurement as it
is. DESIGN CHOICE (log entry 62): the spec computes it at the start of a custom program, which a locked world has not seen. -/
def lockDigest (s : State) (w : Nat) : Nat :=
  match ((s.readContext w).selectedProg w).1 with
  | .ok none => s.defaultDigest
  | .ok (some (_, code)) => Config.sha384 code
  | .error _ => (s.world w).progDigest

/-- EN goes from 0 to 1 in ATTACHED: the context is read, the program starts, notify writes are accepted (R33, R311). -/
def startWorld (s : State) (w : Nat) : State :=
  let s := (s.modWorld w fun x => { x with st := .running, en := true, enDropped := false, eventSeq := 0 }).readContext w
  (s.startProg w).decide' (s.world w).ctl

/-- A write of WLD_CTL with EN = 1 (R33, R511). -/
def setEn (s : State) (w : Nat) : State :=
  match (s.world w).st with
  | .attached => s.startWorld w
  | .quiesced => s.modWorld w fun x => { x with en := true }
  | _ => s

/-- A write of WLD_CTL with EN = 0 (R33, R126, R511). -/
def clearEn (s : State) (w : Nat) : State :=
  match (s.world w).st with
  | .running =>
    ((s.stopProg w).tlbDropAll w).modWorld w fun x => { x with st := .attached, en := false }
  | .quiesced => s.modWorld w fun x => { x with en := false, enDropped := true }
  | _ => s

/-! Resets -/

/-- The HBM range of a world's region, as package addresses. -/
def regionRange (x : World) : Nat × Nat := (ctlBase x.ctl + x.base * giB, x.size * giB)

/-- The world's HDM decoders are disabled (R108). -/
def dropDecoders (s : State) (w : Nat) : State :=
  { s with decoders := s.decoders.map fun (k, d) => (k, if d.world = w then { d with committed := false } else d) }

/-- A world reset begins: all work ends; rings, fault queue and events are emptied (R33). -/
def beginReset (s : State) (w cause : Nat) : State :=
  let s := ((s.tdiError w).dropWorld w).dropDecoders w
  (s.tlbDropAll w).modWorld w fun (x : World) => { x with
    st := .resetting, lastReset := cause, en := false, enDropped := false
    rings := x.rings.map fun (k, r) => (k, { r with head := 0, tail := 0, badNotify := false })
    context := none, fqBroken := false, eventSeq := 0, dbg := {}, tracking := false, dirty := []
    secondKey := none, rotation := none, sealKey := none, sealCtr := 0 }

/-- A world reset ends: new world key and sealing key (log entry 11), region fresh, window zero, EN = 0 (R33, R304). -/
def endReset (s : State) (w : Nat) (fresh : Bool) : State :=
  let x := s.world w
  let (a, n) := regionRange x
  let (k, s) := s.drawKey
  let (sk, s) := s.drawKey
  let s := if fresh then s.freshen a n else s
  ({ s with poison := s.poison.filter fun p => p.1 != Space.window w } : State).modWorld w fun (x : World) => { x with
    st := .attached, en := false, key := some k, sealKey := some sk, window := [], prog := { x.prog with st := .stopped, priv := [] } }

/-- A world that leaves its slice: its work ends, its caches go, its last cut is taken (R495), its counters stop. -/
def closeWorld (s : State) (w : Nat) : State :=
  let s := (((s.tdiError w).dropWorld w).dropDecoders w).tlbDropAll w
  let s := { s with
    poison := s.poison.filter fun p => p.1 != Space.window w
    hostLines := s.hostLines.filter fun e => e.world != w
    atsHeld := s.atsHeld.filter fun e => e.1.1 != w }
  let s := (s.cutWorld w true).leaveMeter w
  s.modWorld w fun x =>
    { x with meter := x.meter.put 0 13 ((x.meter.get 0 13 + s.microsSince x.residSince) % 2 ^ 64) }

/-- What is left of a world that is FREE: keys discarded, and what belongs to its function. -/
def freedWorld (x : World) : World :=
  { lastReset := x.lastReset, tdi := x.tdi, lockSession := x.lockSession, measured := x.measured, spdm := x.spdm,
    unmasked := x.unmasked, pendingVectors := x.pendingVectors, priGroups := x.priGroups, meter := x.meter, usage := x.usage,
    migCmd := x.migCmd, migStatus := x.migStatus, migElapsed := x.migElapsed, migBuf := x.migBuf, migSize := x.migSize,
    migLen := x.migLen, tagBase := x.tagBase }

/-- A world leaves its slice (R33, R36): its position of SLC_WLIST is empty. -/
def detachWorld (s : State) (w : Nat) : State :=
  ((s.closeWorld w).modSlice (s.world w).ctl fun sl => { sl with
    wlist := sl.wlist.map fun v => if v = w then 0 else v, adopter := sl.adopter.filter (· != w) }).modWorld w freedWorld

/-- Every world from 1 to 96 that stands on a slice. -/
def slotted (s : State) (c w : Nat) : Bool := w != 0 && (s.slice c).worlds.contains w

/-! The commands on one world, once their checks have passed -/

/-- QUIESCE of a RUNNING world (R33): its program stops, its resident clusters are saved with a KIND (R441). An EXPORT of an
ATTACHED world quiesces it too, with EN = 0, which R511 remembers. -/
def quiesceWorld (s : State) (w kind : Nat) : State :=
  ((s.modWorld w fun x => { x with st := .quiesced, enDropped := !x.en }).saveWorld w kind).decide' (s.world w).ctl

/-- A world whose quiesce has ended: no save of it is unfinished. -/
def quiesceDone (s : State) (w : Nat) : Bool :=
  !s.teams.any fun (_, x) => (s.launch x.launch).world == w && (x.savePending.isSome || x.ending)

/-- RESUME of a QUIESCED world (R33, R511): EXPORTED clears and the drop of inbound writes ends (R474). Where EN was 0 while the
world was QUIESCED and is 1 again, the change from 0 to 1 takes effect here: the context is read again (R311) and the program
starts again at ENTRY. That the read happens at the RESUME, not at the write of EN, is DEDUCED (log entry 63). -/
def resumeWorld (s : State) (w : Nat) : State :=
  let x := s.world w
  let s := s.modWorld w fun x => { x with
    st := if x.en then .running else .attached, enDropped := false, exported := false, dropWrites := false }
  let s := if !x.en then (s.stopProg w).tlbDropAll w else if x.enDropped then (s.readContext w).startProg w else s
  s.wakeGangs.decide' x.ctl

/-- The bits of a world's segment 0 at ATTACH (R310). -/
def segZero (base size : Nat) : BitVec 128 :=
  BitVec.ofNat 128 (2 ^ 127 + base * 16384 * 2 ^ 64 + size * 16384 * 2 ^ 32)

end State

/-- WLD_CTL_EN_SET (R33, R511). -/
def execWldCtlEnSet (w : Nat) (s : State) : Host.Outcome State Fault Refusal := .next (s.setEn w)
/-- WLD_CTL_EN_CLEAR (R33, R511). -/
def execWldCtlEnClear (w : Nat) (s : State) : Host.Outcome State Fault Refusal := .next (s.clearEn w)

end Sys2Proof.Machine
end

