-- ==== Sys2Proof/Machine/Slices.lean ====
section
/-! DEFINITION. The slice commands (R32 to R51, R511): SLC_CMD and its completion, creation with its template, the commands on a
world, RESET and DESTROY (R44, R499), MERGE and SPLIT (R38 to R41, R146), a fatal slice error (R43), function level reset, and the
switch of the Palette calendars (R148). -/

namespace Sys2Proof.Machine

/-- The events that start a command of R42: a slice command or a migration command. -/
def isCommand (i : Instr) : Bool :=
  match i with
  | .create _ | .destroy _ | .merge _ | .split _ | .attach _ | .detach _ | .quiesce _ | .resume _ | .reset _ | .worldReset _
  | .track _ | .harvest _ | .exportWorld _ | .importWorld _ | .untrack _ => true
  | .badcmd reg _ _ => reg == 0 || reg == 2
  | _ => false

/-- Fields of SLC_CMD and SLC_CMD_ARG (R48). -/
def cmdOp (v : BitVec 32) : Nat := bits v.toNat 31 24
def cmdWorld (v : BitVec 32) : Nat := bits v.toNat 23 16
def cmdNode (v : BitVec 32) : Nat := bits v.toNat 15 11
def cmdOwner (v : BitVec 32) : Nat := bits v.toNat 7 4
/-- The bits of SLC_CMD_ARG that an operation names. -/
def argMask (op : Nat) : BitVec 64 :=
  if op = 1 then 0xF else if op = 4 then 0x3F else if op = 5 then 0xFFFFFFFF003FF7FF else 0

namespace State

/-! Starting and ending -/

/-- The running command ends with a status; its completion is due. -/
def endCommand (s : State) (status : Nat) : State :=
  ({ s with command := s.command.map fun c => { c with ended := some status } } : State).pushOnce .commandDone

/-- Status of the checks of R48 that precede those of each command. -/
def commandCheck (s : State) (c : Command) : Option Nat :=
  let sl := s.slice (nodeCtl c.node)
  if c.node = 0 || c.arg &&& ~~~argMask c.op ≠ 0 then some 2
  else if 5 ≤ c.op && 96 < c.world then some 2
  else if (c.op = 5 || c.op = 6) && c.world = 0 then some 2
  else if c.op ≠ 1 && c.op ≠ 3 && (sl.st = .empty || sl.node ≠ c.node) then some 4
  else none

/-- A write of SLC_CMD with GO = 1 (R42, R48, R63). The word must carry the operation that the event names. One that was held
comes here again: GO reads 1 then, and the time of the write stands. -/
def slcWrite (s : State) (op : Nat) (v : BitVec 32) (i : Instr) (run : State → Command → State) : State :=
  if cmdOp v ≠ op || !v.getLsbD 0 || s.command.isSome || s.held.any isCommand then s else
  let s : State := { s with slcCmd := v &&& 0xFFFFF8F1, cmdWritten := if s.slcCmd.getLsbD 0 then s.cmdWritten else s.clock }
  if s.activating then { s with held := s.held ++ [i] } else
  let c : Command := { op := op, world := cmdWorld v, node := cmdNode v, owner := cmdOwner v, arg := s.slcArg,
                       start := s.cmdWritten, bound := s.clock }
  let s : State := { s with command := some c }
  match s.commandCheck c with
  | some st => s.endCommand st
  | none => run s c

/-- The slice changes under a command: the calendars are written again and switch at the next frame boundary (R148). -/
def stageCalendar (s : State) : State :=
  { s with
    calendarNext := (s.slices.filter fun e => e.2.st != .empty && e.2.st != .destroying).map fun e => (e.1, e.2.node)
    palPend := some (s.cycle / 512 + 1) }

/-- A staged rewrite takes effect at its frame boundary. -/
def switchCalendar (s : State) : State :=
  match s.palPend with
  | none => s
  | some f => if f ≤ s.cycle / 512 then { s with calendar := s.calendarNext, palPend := none } else s

/-- Measurement 7 of every attached world is looked at again (R59). -/
def checkAll (s : State) : State :=
  (s.worlds.map (·.1)).foldl (fun s w => if (s.world w).st = .free then s else s.checkMeasured w) s

/-! Creation (R34 to R37) -/

/-- The template area of a slice's registers; none when there is no template. -/
def tmplArea (sl : Slice) : Option (Nat × Nat) := if sl.tmplSize = 0 then none else some (sl.tmplDest.toNat, sl.tmplSize.toNat)

/-- The template registers keep R37 and R47 on a node. -/
def tmplOk (sl : Slice) (n : Nat) : Bool :=
  match tmplArea sl with
  | none => true
  | some (d, size) => size % 4096 == 0 && size ≤ 2 ^ 26 && sl.tmplAddr.toNat % 4096 == 0 && d % 65536 == 0 && giB ≤ d && d + size ≤ nodeBytes n

/-- A bound of a command has passed, in ns from its start, or from the end of an activation that ran meanwhile (R63). -/
def late (s : State) (d : Command) (ns : Nat) : Bool := !s.activating && decide (d.bound + ns ≤ s.clock)

/-- The I/O address of page k of a slice's template. The registers are read at every page: a write to them changes a load in
progress. DESIGN CHOICE (log entry 65). -/
def tmplPage (sl : Slice) (k : Nat) : Nat := sl.tmplAddr.toNat + 4096 * k

/-- The copy unit moves page k of the template; none when world 0's host pages do not map it. -/
def loadPage (s : State) (c k : Nat) : Option State :=
  let sl := s.slice c
  let io := tmplPage sl k
  (s.hostRead 0 io 4096).map fun bs =>
    ((s.atsHold 0 (io / 4096)).write .hbm (ctlBase c + sl.tmplDest.toNat + 4096 * k) bs).meterSlice c 7 4096

/-- Page i of the template, when it is the one that is due; a page that is not mapped stays due. The pages move strictly in
order, and only the first one missing has a Page Request group outstanding. DESIGN CHOICE (log entry 65). -/
def loadStep (s : State) (c i : Nat) : State :=
  if (s.slice c).template ≠ some i then s
  else match s.loadPage c i with
    | none => s.pageRequest 0 (tmplPage (s.slice c) i / 65536)
    | some s => s.modSlice c fun x => { x with template := some (i + 1) }

/-- Step 7 of R34, from the page that is due; the slice is ready when the last one is in place. -/
def loadTemplate (s : State) (c : Nat) : State :=
  let n := (s.slice c).tmplSize.toNat / 4096
  let s := (List.range n).foldl (fun s i => s.loadStep c i) s
  if (s.slice c).template = some n then (s.modSlice c fun x => { x with template := none }).pushOnce (.sliceReady c) else s

/-- The fields of a slice that belong to its control core's registers and outlive the slice. -/
def keptRegisters (sl : Slice) : Slice :=
  { tmplAddr := sl.tmplAddr, tmplSize := sl.tmplSize, tmplDest := sl.tmplDest, ageLimit := sl.ageLimit, lend := sl.lend,
    quantum := sl.quantum, routes := sl.routes, meter := sl.meter, firm := sl.firm }

/-- CREATE (R34). -/
def createSlice (s : State) (c : Command) : State :=
  let k := nodeCtl c.node
  let sl := s.slice k
  let ways := bits c.arg.toNat 3 0
  if s.slices.any fun e => e.2.st != .empty && (isAncestor e.2.node c.node || isAncestor c.node e.2.node) then s.endCommand 3
  else if 8 < ways || !tmplOk sl c.node then s.endCommand 5
  else
    let (key, s) := s.drawKey
    let s := s.freshen (ctlBase k) (nodeBytes c.node)
    let s : State := s.setSlice k { keptRegisters sl with
      st := .creating, node := c.node, owner := c.owner, winWays := ways, key := some key, area := tmplArea sl,
      meter := [], residSince := s.clock, template := some 0 }
    s.stageCalendar.loadTemplate k

/-- A slice RESET runs on control core c. -/
def resetting (s : State) (c : Nat) : Bool :=
  match s.command with
  | some d => d.op == 9 && d.world == 0 && nodeCtl d.node == c && d.ended.isNone && (s.slice c).st == .busy
  | none => false

/-- The worlds of a slice come back from its RESET (R44): each one has a new key; the adopter adopts again. -/
def worldsBack (s : State) (c : Nat) : State :=
  (s.slice c).worlds.foldl (fun s w =>
    (s.endReset w false).modWorld w fun x => { x with adopted := (s.slice c).adopter == some w && (s.slice c).area.isSome }) s

/-- Step 8 of R34: the slice is READY. -/
def sliceReadyNow (s : State) (c : Nat) : State :=
  let sl := s.slice c
  if sl.template.isSome then s
  else if sl.st = .creating then (s.modSlice c fun x => { x with st := .ready }).endCommand 0
  else if s.resetting c then ((s.worldsBack c).modSlice c fun x => { x with cause := 0 }).endCommand 0
  else s

/-- The template is refused, or not loaded in time (R32, R34). A slice RESET ends without the template (log entry 34). -/
def templateFail (s : State) (c : Nat) : State :=
  let sl := s.slice c
  if sl.st = .creating then
    (s.setSlice c (keptRegisters sl)).stageCalendar.endCommand 7
  else if s.resetting c then
    let s := s.modSlice c fun x => { x with template := none, area := none, adopter := none, cause := 0 }
    (s.worldsBack c).endCommand 7
  else s

/-- TEMPLATE_TIMEOUT: 49 ms after the start (R34). -/
def templateLate (s : State) (c : Nat) : State :=
  match s.command with
  | some d => if (s.slice c).template.isSome && nodeCtl d.node = c && s.late d 49000000 then s.templateFail c else s
  | none => s

/-! Destroying, resetting -/

/-- DESTROY (R32, R499). -/
def destroySlice (s : State) (c : Command) : State :=
  let k := nodeCtl c.node
  if (s.slice k).st ≠ .ready && (s.slice k).st ≠ .failed then s.endCommand 4 else
  let s := (s.slice k).worlds.foldl (fun s w => s.detachWorld w) s
  (s.modSlice k fun x => { x with st := .destroying, key := none, oldPrivate := [], events := [], heldEvents := [] }).pushOnce (.destroyingDone k)

/-- DESTROYING is done: EMPTY; no calendar slot, no SLC_LEND bit names the slice any more (R148, R152). -/
def destroyed (s : State) (c : Nat) : State :=
  let sl := s.slice c
  if sl.st ≠ .destroying then s else
  let meter := sl.meter.put 0 13 ((sl.meter.get 0 13 + s.microsSince sl.residSince) % 2 ^ 64)
  let s : State := s.setSlice c { keptRegisters sl with meter := meter }
  let s : State := { s with slices := s.slices.map fun (k, x) => (k, { x with lend := x.lend &&& ~~~(1#16 <<< c) }) }
  (s.stageCalendar.checkAll).endCommand 0

/-- RESET with WORLD = 0 (R44). DESIGN CHOICE (log entry 64): it ends with CONFIG where the template registers break R37 by
now, or the area no longer lies in the adopter's region, as R34 gives for CREATE; and an area that an ADOPT = 0 world had
taken counts as not adopted again, with the template written inside that world's region. -/
def resetSlice (s : State) (c : Command) : State :=
  let k := nodeCtl c.node
  let sl := s.slice k
  let inRegion := match sl.adopter, tmplArea sl with
    | some w, some (d, n) => (s.world w).base * giB ≤ d && d + n ≤ ((s.world w).base + (s.world w).size) * giB
    | _, _ => true
  if sl.st ≠ .ready && sl.st ≠ .failed then s.endCommand 4
  else if !tmplOk sl c.node || !inRegion then s.endCommand 5
  else
    let s := sl.worlds.foldl (fun s w => s.beginReset w 3) s
    let (key, s) := s.drawKey
    let s := s.freshen (ctlBase k) (nodeBytes c.node)
    let s := s.modSlice k fun x => { x with
      st := .busy, key := some key, oldPrivate := [], events := [], heldEvents := [], blocked := none, age := 0, draining := false,
      eligible := none, area := tmplArea sl, areaTaken := sl.adopter.isSome && (tmplArea sl).isSome, template := some 0 }
    s.loadTemplate k

/-! The commands on one world -/

/-- Two ranges meet. -/
def rangesMeet (a n b m : Nat) : Bool := a < b + m && b < a + n

/-- What ATTACH breaks of R30, R37 and R46. -/
def attachBad (s : State) (k base size : Nat) (adopt : Bool) (win cache : BitVec 16) : Bool :=
  let sl := s.slice k
  let above := BitVec.ofNat 16 (2 ^ sl.winWays - 1)
  size == 0 || base == 0 || nodeBytes sl.node < (base + size) * giB ||
    sl.worlds.any (fun w => rangesMeet base size (s.world w).base (s.world w).size) ||
    sl.oldPrivate.any (fun o => rangesMeet (base * giB) (size * giB) (ctlBase o.1 - ctlBase k) giB) ||
    win &&& ~~~above != 0 || cache &&& above != 0 || cache == 0 ||
    sl.worlds.any (fun w => (s.world w).windowMask &&& win != 0) ||
    (adopt && match sl.area with
      | some (d, n) => sl.areaTaken || !(base * giB ≤ d && d + n ≤ (base + size) * giB)
      | none => true)

/-- ATTACH (R29 to R31, R37, R46, R310, R495). The sealing key is drawn beside the world key (log entry 11). -/
def attachWorld (s : State) (c : Command) : State :=
  let k := nodeCtl c.node
  let w := c.world
  let base := bits c.arg.toNat 9 0
  let size := bits c.arg.toNat 21 12
  let adopt := c.arg.getLsbD 10
  let win := c.arg.extractLsb' 32 16
  let cache := c.arg.extractLsb' 48 16
  if (s.slice k).st ≠ .ready || (s.world w).st ≠ .free then s.endCommand 4
  else if 6 ≤ (s.slice k).worlds.length then s.endCommand 8
  else if s.attachBad k base size adopt win cache then s.endCommand 5
  else
    let lo := ctlBase k + base * giB
    let (key, s) := s.drawKey
    let (sk, s) := s.drawKey
    let sl := s.slice k
    let s := match adopt, sl.area with
      | true, some (d, n) => (s.freshen lo (ctlBase k + d - lo)).freshen (ctlBase k + d + n) (lo + size * giB - (ctlBase k + d + n))
      | _, _ => s.freshen lo (size * giB)
    let meets := match sl.area with
      | some (d, n) => rangesMeet (base * giB) (size * giB) d n
      | none => false
    let s := s.modSlice k fun x => { x with
      wlist := x.wlist.set (x.wlist.findIdx (· == 0)) w
      areaTaken := x.areaTaken || meets, adopter := if adopt then some w else x.adopter }
    let s := s.modWorld w fun x =>
      { progDigest := s.defaultDigest, lastReset := x.lastReset, tdi := x.tdi, lockSession := x.lockSession, measured := x.measured, spdm := x.spdm,
        unmasked := x.unmasked, pendingVectors := x.pendingVectors, priGroups := x.priGroups, tagBase := x.tagBase, usage := x.usage,
        migBuf := x.migBuf, migSize := x.migSize, migLen := x.migLen,
        st := .attached, ctl := k, base := base, size := size, adopted := adopt, windowMask := win, cacheMask := cache,
        key := some key, sealKey := some sk, segments := [(0, segZero base size)], residSince := s.clock }
    ((s.tdiError w).openChain w c.start false).endCommand 0

/-- DETACH (R33). -/
def detachCommand (s : State) (c : Command) : State :=
  let k := nodeCtl c.node
  let x := s.world c.world
  if ((s.slice k).st ≠ .ready && (s.slice k).st ≠ .failed) || !s.slotted k c.world || (x.st ≠ .attached && x.st ≠ .quiesced) then
    s.endCommand 4
  else (s.detachWorld c.world).endCommand 0

/-- The worlds that QUIESCE or RESUME names and that stand in the state it needs; none for STATE. -/
def namedWorlds (s : State) (c : Command) (st : WorldSt) : Option (List Nat) :=
  let k := nodeCtl c.node
  if (s.slice k).st ≠ .ready then none
  else if c.world = 0 then some ((s.slice k).worlds.filter fun w => (s.world w).st == st)
  else if s.slotted k c.world && (s.world c.world).st == st then some [c.world] else none

/-- QUIESCE (R33, R48, R441): it ends when every save of the named worlds has. -/
def quiesceCommand (s : State) (c : Command) : State :=
  match s.namedWorlds c .running with
  | none => s.endCommand 4
  | some ws => (ws.foldl (fun s w => s.quiesceWorld w 2) s).pushOnce .commandDone

/-- The worlds of a QUIESCE command have been saved. -/
def quiesceEnded (s : State) (c : Command) : Bool :=
  let ws := if c.world = 0 then (s.slice (nodeCtl c.node)).worlds else [c.world]
  ws.all fun w => (s.world w).st != .quiesced || s.quiesceDone w

/-- RESUME (R33, R48, R511). -/
def resumeCommand (s : State) (c : Command) : State :=
  match s.namedWorlds c .quiesced with
  | none => s.endCommand 4
  | some ws => (ws.foldl (fun s w => s.resumeWorld w) s).endCommand 0

/-- RESET of one world (R33). -/
def worldResetCommand (s : State) (c : Command) : State :=
  let k := nodeCtl c.node
  let x := s.world c.world
  if ((s.slice k).st ≠ .ready && (s.slice k).st ≠ .failed) || !s.slotted k c.world ||
      !(x.st == .attached || x.st == .running || x.st == .quiesced) then s.endCommand 4
  else (s.beginReset c.world 2).pushOnce (.resettingDone c.world)

/-- RESETTING is done (R33). -/
def resetDone (s : State) (w : Nat) : State :=
  if (s.world w).st ≠ .resetting || s.resetting (s.world w).ctl then s else
  let s := s.endReset w true
  match s.command with
  | some c => if c.op = 9 && c.world = w && c.ended.isNone then s.endCommand 0 else s
  | none => s

/-! MERGE (R38, R40, R41, R146) -/

/-- Adds to the TARGET of a valid device segment, in 64 KiB units modulo 2^32 (R41). -/
def shiftSegment (g : BitVec 128) (n : Nat) : BitVec 128 :=
  if g.getLsbD 127 && g.extractLsb' 125 2 = 0 then
    (g &&& ~~~(0xFFFFFFFF#128 <<< 64)) ||| (BitVec.ofNat 128 ((bits g.toNat 95 64 + n) % 2 ^ 32) <<< 64)
  else g

/-- Moves a world to another control core: its region base and its device segments (R41), its chain's flag (R497). -/
def moveWorld (s : State) (w ctl base shift : Nat) : State :=
  (s.modWorld w fun x =>
    { x with ctl := ctl, base := base, segments := x.segments.map fun e => (e.1, shiftSegment e.2 shift) }).markChanged w

/-- Empty positions take worlds in ascending order. -/
def fillPositions (l ws : List Nat) : List Nat :=
  match l, ws with
  | [], _ => []
  | 0 :: l, w :: ws => w :: fillPositions l ws
  | v :: l, ws => v :: fillPositions l ws

/-- Drops a template area that no world has adopted: its pages become fresh (R40). -/
def dropArea (s : State) (c : Nat) : State :=
  match (s.slice c).area with
  | some (d, n) => if (s.slice c).areaTaken then s else (s.freshen (ctlBase c + d) n).modSlice c fun x => { x with area := none }
  | none => s

/-- Entries of a routing table with VALID 0. -/
def clearRoutes (m : SMap (BitVec 64)) : SMap (BitVec 64) :=
  (m.map fun e => (e.1, e.2 &&& ~~~(1#64 <<< 63))).filter fun e => e.2 != 0

/-- The SLICE event of a merge or a split (R133). -/
def sliceEvents (s : State) (ws : List Nat) : State := ws.foldl (fun s w => s.postEvent w { type := 7, world := w }) s

/-- The merge of children a and b of node n, once its checks have passed. -/
def mergeSlices (s : State) (n a b : Nat) : State :=
  let ka := nodeCtl a
  let kb := nodeCtl b
  let ws := (s.slice ka).worlds ++ (s.slice kb).worlds
  let s := (ws.foldl (fun s w => s.tdiError w) s).dropArea kb
  let sa := s.slice ka
  let sb := s.slice kb
  let h := nodeBytes a / giB
  let m := 1 + (s.launches.filter fun e => e.2.ctl == ka).foldl (fun n e => max n e.2.place) 0
  let priv := if s.stagingUsed kb = 0 && s.racesUsed kb = 0 then [] else [(kb, sb.key)]
  let s := sb.worlds.foldl (fun s w => s.moveWorld w ka ((s.world w).base + h) (h * 16384)) s
  let s := sa.worlds.foldl (fun s w => s.markChanged w) s
  let s : State := { s with launches := s.launches.map fun (k, l) =>
    (k, if l.ctl = kb then { l with ctl := ka, place := l.place + m, part := l.part + m } else l) }
  let s := if priv.isEmpty then s.freshen (ctlBase kb) giB else s
  let s : State := s.setSlice ka { sa with
    st := .busy, node := n, wlist := fillPositions sa.wlist sb.worlds, events := sa.events ++ sb.events,
    heldEvents := sa.heldEvents ++ sb.heldEvents, oldPrivate := sa.oldPrivate ++ priv ++ sb.oldPrivate,
    blocked := none, age := 0, draining := false, eligible := sa.eligible.or sb.eligible,
    eligibleSince := if sa.eligible.isSome then sa.eligibleSince else sb.eligibleSince,
    meter := (List.range 14).foldl (fun mt k => mt.put 0 k ((mt.get 0 k + sb.meter.get 0 k +
      if k = 13 then s.microsSince sb.residSince else 0) % 2 ^ 64)) sa.meter }
  let s : State := s.setSlice kb { keptRegisters sb with lend := 0, routes := clearRoutes sb.routes }
  let s : State := { s with slices := s.slices.map fun (k, x) => (k, { x with lend := x.lend &&& ~~~(1#16 <<< kb) }) }
  (((s.sliceEvents ws).stageCalendar.checkAll).wakeGangs).endCommand 0

/-- MERGE (R38). -/
def mergeCommand (s : State) (c : Command) : State :=
  let a := 2 * c.node
  let b := 2 * c.node + 1
  let sa := s.slice (nodeCtl a)
  let sb := s.slice (nodeCtl b)
  if 16 ≤ c.node || !(sa.st == .ready && sa.node == a && sb.st == .ready && sb.node == b) then s.endCommand 4
  else if sa.owner ≠ sb.owner then s.endCommand 9
  else if sa.winWays ≠ sb.winWays then s.endCommand 5
  else if 6 < sa.worlds.length + sb.worlds.length then s.endCommand 8
  else if 4096 < sa.events.length + sb.events.length then s.endCommand 10
  else s.mergeSlices c.node a b

/-! SPLIT (R39 to R41, R479) -/

/-- The worlds that a SPLIT sends to child 2n + 1, in the order of their positions. -/
def sentWorlds (s : State) (c : Command) : List Nat :=
  ((s.slice (nodeCtl c.node)).wlist.mapIdx fun k w => if c.arg.getLsbD k then w else 0).filter (· != 0)

/-- The child that a world goes to. -/
def splitChild (s : State) (c : Command) (w : Nat) : Nat := if (s.sentWorlds c).contains w then 2 * c.node + 1 else 2 * c.node

/-- A world holds a staging allocation, a slot unit or a race-tag word (R41). -/
def holdsPrivate (s : State) (w : Nat) : Bool :=
  s.teams.any (fun (_, x) =>
    let l := s.launch x.launch
    l.world == w && (if x.st = .gone then !x.slots.isEmpty else stageUnits l != 0)) ||
    s.launches.any fun (_, l) => l.world == w && l.raceHeld && !l.races.isEmpty

/-- The conditions that end a SPLIT with MEMORY (R39, R41). -/
def splitBad (s : State) (c : Command) : Bool :=
  let k := nodeCtl c.node
  let h := nodeBytes (2 * c.node) / giB
  let sent := s.sentWorlds c
  (s.slice k).worlds.any (fun w =>
      let x := s.world w
      if sent.contains w then x.base < h + 1 || s.holdsPrivate w else h < x.base + x.size) ||
    (s.slice k).oldPrivate.any fun o => nodeCtl (2 * c.node + 1) ≤ o.1

/-- A cluster of a launch has a team on a core outside its world's child. -/
def strays (s : State) (c : Command) (l cl : Nat) : Bool :=
  let cores := nodeCores (s.splitChild c (s.launch l).world)
  s.teams.any fun (_, x) => x.launch == l && x.cluster == cl && (x.st == .resident || x.st == .restoring) && !cores.contains x.core

/-- SPLIT begins (R39): placement stops, teams outside their child are saved with KIND 3. -/
def splitCommand (s : State) (c : Command) : State :=
  let k := nodeCtl c.node
  if (s.slice k).st ≠ .ready then s.endCommand 4
  else if 16 ≤ c.node then s.endCommand 5
  else if s.splitBad c then s.endCommand 6
  else
    let s := (s.slice k).worlds.foldl (fun s w => s.tdiError w) s
    let s := s.modSlice k fun x => { x with st := .busy, splitting := true }
    let s := ((s.slice k).worlds.flatMap s.residentClusters).foldl (fun s p =>
      if s.strays c p.1 p.2 && (s.launch p.1).st = .active then s.requestSave p.1 p.2 3 else s) s
    s.pushOnce .commandDone

/-- Every team to be moved is saved, and the copies of the programs that move have ended (R39, R479). -/
def splitReady (s : State) (c : Command) : Bool :=
  let k := nodeCtl c.node
  !s.teams.any (fun (_, x) => (s.launch x.launch).ctl == k && (x.savePending.isSome || s.strays c x.launch x.cluster)) &&
    !s.copies.any (fun (_, x) => x.pending && (s.sentWorlds c).any fun w => x.who == Agent.prog w) &&
    !s.passes.any fun (_, p) => (s.launchOf p.team).ctl == k && p.granted &&
      !(nodeCores (s.splitChild c (s.launchOf p.team).world)).contains (s.team p.team).core

/-- Pages of child 2n + 1 that lie in no world region become fresh (R41). -/
def freshGaps (s : State) (a n : Nat) (rs : List (Nat × Nat)) : State :=
  match rs with
  | [] => s.freshen a n
  | (b, m) :: rs => (s.freshen a (b - a)).freshGaps (b + m) (a + n - (b + m)) rs

/-- Ranges in ascending order. -/
def sortRanges (l : List (Nat × Nat)) : List (Nat × Nat) := l.foldl (fun (m : SMap Nat) r => m.insert r.1 r.2) []

/-- The split takes effect. Where the slice has no template area (none loaded, or dropped), child 2n keeps the template
registers whatever range they name, as R40 clears them for an area only. DESIGN CHOICE (log entry 67). -/
def splitSlice (s : State) (c : Command) : State :=
  let a := 2 * c.node
  let b := a + 1
  let ka := nodeCtl a
  let kb := nodeCtl b
  let sent := s.sentWorlds c
  let all := (s.slice ka).worlds
  let h := nodeBytes a / giB
  let s := sent.foldl (fun s w =>
    ((s.leaveMeter w).moveWorld w kb ((s.world w).base - h) (2 ^ 32 - h * 16384))) s
  let s := all.foldl (fun s w => s.markChanged w) s
  let s : State := { s with launches := s.launches.map fun (k, l) => (k, if sent.contains l.world && l.ctl = ka then { l with ctl := kb } else l) }
  let sl := s.slice ka
  let outside : Bool := match sl.area with
    | some (d, n) => decide (nodeBytes a < d + n)
    | none => false
  let s := if outside then s.dropArea ka else s
  let sl := s.slice ka
  let old := s.slice kb
  let (key, s) := s.drawKey
  let mine := fun (e : Event) => sent.contains e.world
  let s : State := s.setSlice ka { sl with
    node := a, splitting := false, wlist := sl.wlist.map fun w => if sent.contains w then 0 else w,
    events := sl.events.filter fun e => !mine e, heldEvents := sl.heldEvents.filter fun e => !mine e,
    blocked := none, age := 0, draining := false,
    eligible := if (sl.eligible.map sent.contains).getD false then none else sl.eligible,
    tmplAddr := if outside then 0 else sl.tmplAddr, tmplSize := if outside then 0 else sl.tmplSize,
    tmplDest := if outside then 0 else sl.tmplDest, area := if outside then none else sl.area,
    adopter := (sl.adopter.filter fun w => !sent.contains w) }
  let s : State := s.setSlice kb
    { st := .ready, node := b, owner := sl.owner, winWays := sl.winWays, wlist := fillPositions [0, 0, 0, 0, 0, 0] sent,
      events := sl.events.filter mine, heldEvents := sl.heldEvents.filter mine, key := some key,
      routes := clearRoutes old.routes, residSince := s.clock, firm := old.firm }
  let s := s.freshGaps (ctlBase kb) (nodeBytes b) (sortRanges (sent.map fun w => regionRange (s.world w)))
  (((s.sliceEvents all).stageCalendar.checkAll).wakeGangs)

/-- SPLIT_TIMEOUT: 40 ms after the command the slice stays whole (R39). Pending saves are given up, except those of a cluster
some of whose teams are saved: there all have stopped, the saves end, and the cluster returns. A split whose teams are all
saved, but that still waits for a moving program's copy or for a granted pass, ends with TIMEOUT too. DESIGN CHOICE (log entry
66). -/
def splitLate (s : State) (c : Nat) : State :=
  match s.command with
  | none => s
  | some d =>
    if d.op ≠ 4 || nodeCtl d.node ≠ c || d.ended.isSome || !(s.slice c).splitting || !s.late d 40000000 || s.splitReady d then s
    else
      let s := s.modSlice c fun x => { x with splitting := false }
      let begun := fun (y : Team) => s.teams.any fun e => e.2.st == .saved && e.2.launch == y.launch && e.2.cluster == y.cluster
      let s := (s.teams.filter fun e => (s.launch e.2.launch).ctl == c && e.2.savePending == some 3 && !begun e.2).foldl
        (fun s e => s.cancelSave e.1) s
      s.endCommand 11

/-! Completion (R42, R49, R143) -/

/-- Operations that were held run next, in arrival order and before anything that comes later, unless an activation still
runs (R42, R63). -/
def releaseHeldOps (s : State) : State :=
  if s.activating then s else { s with agenda := s.held.map Move.event ++ s.agenda, held := [] }

/-- A slice command has ended. -/
def finishCommand (s : State) (c : Command) (status : Nat) : State :=
  let s := s.modSlice (nodeCtl c.node) fun x => { x with st := if x.st = .busy then .ready else x.st }
  let s : State := { s with
    command := none, slcStatus := status, slcElapsed := min 0xFFFFFF (s.microsSince c.start), slcCmd := s.slcCmd &&& ~~~1#32 }
  let s := if c.op = 5 && status = 0 then s.cutWorld c.world false else s
  let s := (s.signal 0 0).releaseHeldOps
  (s.slices.map (·.1)).foldl (fun s k => s.decide' k) s

/-- COMMAND_DONE. -/
def commandDoneNow (s : State) : State :=
  match s.command with
  | none => s
  | some c =>
    if 0x80 ≤ c.op then s else
    match c.ended with
    | some st => s.finishCommand c st
    | none =>
      if c.op = 4 && (s.slice (nodeCtl c.node)).splitting && s.splitReady c then (s.splitSlice c).finishCommand c 0
      else if c.op = 7 && s.quiesceEnded c then s.finishCommand c 0
      else s

/-! Errors and function level reset -/

/-- FATAL_SLICE_ERROR (R32, R43, R467): every team ends, the worlds stay attached and see error events. -/
def failSlice (s : State) (c cause : Nat) : State :=
  let sl := s.slice c
  if sl.st ≠ .ready && sl.st ≠ .busy then s else
  let s := s.modSlice c fun x => { x with st := .failed, cause := cause, splitting := false, template := none }
  let s := sl.worlds.foldl (fun s w => (s.abortWorld w)) s
  let s := (s.worlds.filter fun e => e.2.st == .resetting && e.2.ctl == c).foldl (fun s e => s.pushOnce (.resettingDone e.1)) s
  let s := s.errorRecordAt sl.node 9 7 0 0 c 0 0 0xFFFFFFFF 0 1 0
  match s.command with
  | some d =>
    if d.ended.isSome then s
    else if d.op < 0x80 then (if nodeCtl d.node = c then s.endCommand 4 else s)
    else if (s.world d.world).ctl = c then
      ({ s with command := some { d with ended := some 4 } } : State).pushOnce (.migrationCommandDone d.world)
    else s
  | none => s

/-- The slice of a world runs a command (R42). -/
def sliceCommanded (s : State) (w : Nat) : Bool :=
  match s.command with
  | some c => (if 0x80 ≤ c.op then (s.world c.world).ctl else nodeCtl c.node) == (s.world w).ctl
  | none => false

/-- A function level reset masks the function's vectors again (log entry 22). -/
def resetVectors (s : State) (w : Nat) : State := s.modWorld w fun x => { x with unmasked := [], pendingVectors := [] }

/-- FUNCTION_LEVEL_RESET (R33, R42, R63). -/
def functionReset (s : State) (w : Nat) : State :=
  let x := s.world w
  if w = 0 || !(x.st == .attached || x.st == .running || x.st == .quiesced) then s
  else if s.activating || s.sliceCommanded w then
    { s with held := if s.held.contains (.functionLevelReset w) then s.held else s.held ++ [.functionLevelReset w] }
  else ((s.resetVectors w).beginReset w 1).pushOnce (.resettingDone w)

end State

/-- CREATE (R34). -/
def execCreate (cmd : BitVec 32) (s : State) : Host.Outcome State Fault Refusal := .next (s.slcWrite 1 cmd (.create cmd) State.createSlice)
/-- DESTROY (R499). -/
def execDestroy (cmd : BitVec 32) (s : State) : Host.Outcome State Fault Refusal := .next (s.slcWrite 2 cmd (.destroy cmd) State.destroySlice)
/-- MERGE (R38). -/
def execMerge (cmd : BitVec 32) (s : State) : Host.Outcome State Fault Refusal := .next (s.slcWrite 3 cmd (.merge cmd) State.mergeCommand)
/-- SPLIT (R39). -/
def execSplit (cmd : BitVec 32) (s : State) : Host.Outcome State Fault Refusal := .next (s.slcWrite 4 cmd (.split cmd) State.splitCommand)
/-- ATTACH (R29, R30). -/
def execAttach (cmd : BitVec 32) (s : State) : Host.Outcome State Fault Refusal := .next (s.slcWrite 5 cmd (.attach cmd) State.attachWorld)
/-- DETACH (R33). -/
def execDetach (cmd : BitVec 32) (s : State) : Host.Outcome State Fault Refusal := .next (s.slcWrite 6 cmd (.detach cmd) State.detachCommand)
/-- QUIESCE (R33). -/
def execQuiesce (cmd : BitVec 32) (s : State) : Host.Outcome State Fault Refusal := .next (s.slcWrite 7 cmd (.quiesce cmd) State.quiesceCommand)
/-- RESUME (R33). -/
def execResume (cmd : BitVec 32) (s : State) : Host.Outcome State Fault Refusal := .next (s.slcWrite 8 cmd (.resume cmd) State.resumeCommand)
/-- RESET with WORLD = 0 (R44). -/
def execReset (cmd : BitVec 32) (s : State) : Host.Outcome State Fault Refusal :=
  if cmdWorld cmd = 0 then .next (s.slcWrite 9 cmd (.reset cmd) State.resetSlice) else .next s
/-- RESET of a world (R33). -/
def execWorldReset (cmd : BitVec 32) (s : State) : Host.Outcome State Fault Refusal :=
  if cmdWorld cmd = 0 then .next s else .next (s.slcWrite 9 cmd (.worldReset cmd) State.worldResetCommand)
/-- SLICE_READY (R34 step 8). -/
def execSliceReady (c : Nat) (s : State) : Host.Outcome State Fault Refusal := .next (s.sliceReadyNow c)
/-- TEMPLATE_TIMEOUT (R34). -/
def execTemplateTimeout (c : Nat) (s : State) : Host.Outcome State Fault Refusal := .next (s.templateLate c)
/-- DESTROYING_DONE (R32). -/
def execDestroyingDone (c : Nat) (s : State) : Host.Outcome State Fault Refusal := .next (s.destroyed c)
/-- SPLIT_TIMEOUT (R39). -/
def execSplitTimeout (c : Nat) (s : State) : Host.Outcome State Fault Refusal := .next (s.splitLate c)
/-- RESETTING_DONE (R33). -/
def execResettingDone (w : Nat) (s : State) : Host.Outcome State Fault Refusal := .next (s.resetDone w)
/-- COMMAND_DONE (R42, R49). -/
def execCommandDone (s : State) : Host.Outcome State Fault Refusal := .next s.commandDoneNow
/-- FATAL_SLICE_ERROR (R32, R43). -/
def execFatalSliceError (c : Nat) (cause : BitVec 4) (s : State) : Host.Outcome State Fault Refusal := .next (s.failSlice c cause.toNat)
/-- FUNCTION_LEVEL_RESET (R33). -/
def execFunctionLevelReset (w : Nat) (s : State) : Host.Outcome State Fault Refusal := .next (s.functionReset w)
/-- CALENDAR_SWITCH (R148). -/
def execCalendarSwitch (s : State) : Host.Outcome State Fault Refusal := .next s.switchCalendar

end Sys2Proof.Machine
end

