-- ==== Sys2Proof/Machine/Trust.lean ====
section
/-! DEFINITION. The security processor: live activation (R61 to R64), SPDM and TDISP at the level of messages (R53 to R60; log
entry 19), the keying of bounce channels (R359), cold reset and bring-up (R52, R65), and IDE streams (R111). -/

namespace Sys2Proof.Machine

/-! Firmware (R61 to R64) -/

def fwOp (v : BitVec 32) : Nat := bits v.toNat 31 24
def fwImage (v : BitVec 32) : Nat := bits v.toNat 7 4

namespace State

/-- Status of R64 for an image in a flash bank: 0 where R52 runs it, 3 SIGNATURE, 4 VERSION. -/
def bankStatus (s : State) (image : Nat) (b : Bank) : Nat :=
  if !b.signed then 3 else if b.version < s.fuses.get 0 image then 4 else 0

/-- A firmware command ends (R64). -/
def endFw (s : State) (status start : Nat) : State :=
  { s with fw := none, fwaStatus := status, fwaElapsed := min 0xFFFFFF (s.microsSince start), fwaCmd := s.fwaCmd &&& ~~~1#32 }

/-- A write of FWA_CMD with GO = 1; ignored while a command runs (R64). -/
def fwWrite (s : State) (op : Nat) (v : BitVec 32) (run : State → Nat → State) : State :=
  if fwOp v ≠ op || !v.getLsbD 0 || s.fw.isSome then s else
  let s := { s with fwaCmd := v &&& 0xFF0000F1 }
  if fwImage v = 0 || 5 < fwImage v then s.endFw 2 s.clock else run s (fwImage v)

/-- FWA_STAGE_ADDR and FWA_STAGE_SIZE keep the limits of R64; values outside them end a STAGE with BADCMD. DESIGN CHOICE (log
entry 68). -/
def stageable (addr size : Nat) : Bool := addr % 4096 == 0 && size % 4096 == 0 && size ≤ 2 ^ 25

/-- STAGE runs until its copy and its check are done. -/
def stageImage (s : State) (image : Nat) : State :=
  if stageable s.fwaAddr.toNat s.fwaSize.toNat then
    { s with fw := some { op := 1, image := image, start := s.clock, addr := s.fwaAddr.toNat, size := s.fwaSize.toNat } }
  else s.endFw 2 s.clock

/-- Staging by the management port (R66), beside any command of FWA_CMD; its status goes out as a reply. -/
def stageByPort (s : State) (image addr size : Nat) : State :=
  if s.portFw.isSome then s
  else if image = 0 || 5 < image || !stageable addr size then s.send (.reply 0 [2#8])
  else { s with portFw := some { op := 1, image := image, start := s.clock, addr := addr, size := size } }

/-- ACTIVATE: only SEC, REL and SLICE, and only the staged image (R61). -/
def activateImage (s : State) (image : Nat) : State :=
  if image = 2 || image = 3 then s.endFw 2 s.clock
  else match s.staged with
    | some (i, b) =>
      if i = image then { s with fw := some { op := 2, image := image, start := s.clock, bank := b } } else s.endFw 5 s.clock
    | none => s.endFw 5 s.clock

/-- The security processor has copied the image of a STAGE into the inactive flash bank and checked it as in R52 (R61). Host
bytes that no host page holds count as a signature that fails. One staged image stands at a time: a new one replaces the one
before, which then takes no effect. DESIGN CHOICE (log entry 68). -/
def stageCopy (s : State) (f : FwCommand) : Nat × State :=
  let bank := 1 - s.bootBank.get 0 f.image
  match s.hostRead 0 f.addr f.size with
  | none => (3, s)
  | some body =>
    let b : Bank := ⟨some body, Config.imageSigned f.image body, Config.imageVersion f.image body⟩
    let st := s.bankStatus f.image b
    (st, { s with
      banks := s.banks.insert (2 * f.image + bank) b
      staged := if st = 0 then some (f.image, bank) else if s.staged = some (f.image, bank) then none else s.staged })

/-- The end of a STAGE of FWA_CMD, which FWA_STAT shows, or of one of the management port (R61, R66). -/
def stageEnds (s : State) (port : Bool) : State :=
  if port then
    match s.portFw with
    | none => s
    | some f =>
      let (st, s) := s.stageCopy f
      ({ s with portFw := none } : State).send (.reply 0 [BitVec.ofNat 8 st])
  else
    match s.fw with
    | none => s
    | some f =>
      if f.op ≠ 1 then s else
      let (st, s) := s.stageCopy f
      s.endFw st f.start

/-- Programs that wait in EVWAIT while an unread event stands in the queue go on (R61). -/
def wakeWaiting (s : State) : State :=
  { s with worlds := s.worlds.map fun (w, x) =>
      (w, if x.prog.st = .waiting && !(s.eventsOf w).isEmpty then { x with prog := { x.prog with st := .running } } else x) }

/-- The running activation completes (R58, R61, R63): the bank of the staged image is the active one from now on. -/
def activationEnds (s : State) : State :=
  match s.fw with
  | none => s
  | some f =>
    if f.op ≠ 2 then s else
    let s : State := { s with
      builds := s.builds.insert f.image (((s.banks.get {} (2 * f.image + f.bank)).body).getD (Config.factoryImage f.image))
      bootBank := s.bootBank.put 0 f.image f.bank
      staged := if s.staged = some (f.image, f.bank) then none else s.staged
      activations := s.activations + 1
      command := s.command.map fun c => { c with bound := s.clock } }
    let s := ((s.endFw 0 f.start).wakeWaiting).wakeGangs
    (s.releaseHeldOps).emitAll

end State

/-! SPDM (R54 to R58) -/

/-- Replies outside: 0 success, 1 Unsupported Request or error status, 2 MISMATCH, 3 CXL poison, 4 TDISP
INVALID_INTERFACE_STATE, 5 SPDM ERROR, whose bytes go with it, 6 TDISP UNSUPPORTED_REQUEST. An ERROR has the connection's
version (R54). -/
def spdmError (v code param : Nat) (more : List Byte) : List Byte :=
  [BitVec.ofNat 8 v, 0x7F#8, BitVec.ofNat 8 code, BitVec.ofNat 8 param] ++ more

/-- Least e with x ≤ 2^e. -/
def log2Up (x : Nat) : Nat := if x ≤ 1 then 0 else Nat.log2 (x - 1) + 1

/-- The one set of algorithms of R56, in SPDM's bit codes (log entry 19): SHA-384, secp384r1, AES-256-GCM, the SPDM key
schedule, no BaseAsymAlgo, and the ExtAsym entry when the requester selects it. -/
def fixedAlgorithms (ext : Bool) : Algorithms :=
  { hash := 0x2, dhe := 0x10, aead := 0x2, schedule := 0x1, baseAsym := 0, extAsym := if ext then [0x03#8, 0x00#8, 0x01#8, 0x5B#8] else [] }

/-- The fields of an ALGORITHMS message that R56 fixes. -/
def Algorithms.bytes (a : Algorithms) : List Byte :=
  leBytes 4 a.baseAsym ++ leBytes 4 a.hash ++ leBytes 2 a.dhe ++ leBytes 2 a.aead ++ leBytes 2 a.schedule ++ a.extAsym

/-- The requester has selected the ExtAsym algorithm (R56). -/
def Spdm.ext (x : Spdm) : Bool := (x.algorithms.map fun a => !a.extAsym.isEmpty).getD false

namespace State

def modSpdm (s : State) (w : Nat) (f : Spdm → Spdm) : State := s.modWorld w fun x => { x with spdm := f x.spdm }
def answer (s : State) (bs : List Byte) : State := s.send (.reply 0 bs)
/-- An ERROR of a world's responder, and those of SPDM by name: InvalidRequest, UnsupportedRequest, UnexpectedRequest,
InvalidSession, SessionLimitExceeded, VersionMismatch. -/
def refuse (s : State) (w code param : Nat) : State := s.send (.reply 5 (spdmError (s.world w).spdm.speaks code param []))
def invalidRequest (s : State) (w : Nat) : State := s.refuse w 0x01 0
def invalidSession (s : State) (w : Nat) : State := s.refuse w 0x02 0
def unexpectedRequest (s : State) (w : Nat) : State := s.refuse w 0x04 0
def unsupportedRequest (s : State) (w code : Nat) : State := s.refuse w 0x07 code
def sessionLimit (s : State) (w : Nat) : State := s.refuse w 0x0A 0
def versionMismatch (s : State) (w : Nat) : State := s.refuse w 0x41 0

/-- The digest of the certificate chain of slot 0 (R53). -/
def chainDigest (s : State) : List Byte := leBytes 48 (Config.sha384 s.chainBytes)

/-- The bytes of a measurement (R57). -/
def measurementBytes (s : State) (w idx : Nat) : List Byte :=
  match idx with
  | 6 => leBytes 4 s.activations
  | 7 => (s.measurement7 w).flatMap (leBytes 4)
  | 8 => leBytes 48 (s.world w).progDigest
  | k => s.packageMeasurement k

/-- Signs a message's bytes under the Alias key. -/
def signed (s : State) (bs : List Byte) : List Byte := bs ++ leBytes 96 (Config.sign s.aliasKey bs)

/-- ResponseNotReady (R62): the exponent of the remaining bound, the request code, the token, RDTM 2. -/
def notReady (s : State) (w code token : Nat) : State :=
  let gone := match s.fw with | some f => s.microsSince f.start | none => 0
  s.send (.reply 5 (spdmError (s.world w).spdm.speaks 0x42 0 [BitVec.ofNat 8 (log2Up (250000 - gone)), BitVec.ofNat 8 code, BitVec.ofNat 8 token, 2#8]))

/-- The code of a request that waits for an activation to end (R62). -/
def deferredCode (i : Instr) : Option Nat :=
  match i with
  | .getDigests _ => some 0x81
  | .getCertificate _ _ _ _ => some 0x82
  | .challenge _ _ => some 0x83
  | .getMeasurements _ _ _ => some 0xE0
  | .keyExchange _ _ => some 0xE4
  | _ => none

/-- CHALLENGE (R55, R56). -/
def doChallenge (s : State) (w slot : Nat) : State :=
  if !(s.world w).spdm.ext then s.unsupportedRequest w 0x83
  else if slot ≠ 0 then s.invalidRequest w
  else s.answer (s.signed (s.chainDigest ++ (List.range 8).flatMap fun i => s.measurementBytes w (i + 1)))

/-- GET_MEASUREMENTS (R57, R58): the content-changed field precedes the measurement; 1 is "changed", 2 "unchanged". -/
def doMeasurements (s : State) (w idx : Nat) (sg : Bool) : State :=
  if sg && !(s.world w).spdm.ext then s.unsupportedRequest w 0xE0
  else if idx = 0 || 8 < idx then s.invalidRequest w
  else
    let first := (s.world w).spdm.transcript.getD s.activations
    let body := s.measurementBytes w idx
    if sg then (s.modSpdm w fun x => { x with transcript := none }).answer (s.signed ((if first = s.activations then 2#8 else 1#8) :: body))
    else (s.modSpdm w fun x => { x with transcript := some first }).answer (0#8 :: body)

/-- KEY_EXCHANGE (R55, R56): at most 2 sessions; the response is signed. -/
def doKeyExchange (s : State) (w slot : Nat) : State :=
  let x := (s.world w).spdm
  if !x.ext then s.unsupportedRequest w 0xE4
  else if slot ≠ 0 then s.invalidRequest w
  else if 2 ≤ x.sessions.length then s.sessionLimit w
  else
    let (k, s) := s.drawKey
    let id := if x.sessions.any (·.id == 1) then 2 else 1
    (s.modSpdm w fun x => { x with sessions := x.sessions ++ [{ id := id, secret := Config.sessionSecret k 0 }] }).answer
      (s.signed (leBytes 2 id))

/-- GET_CERTIFICATE (R53 to R55): the portion and the 8 bytes before it make at most a message of 4,096 bytes (log entry
19). -/
def doCertificate (s : State) (w slot off len : Nat) : State :=
  if slot ≠ 0 then s.invalidRequest w else s.answer ((s.chainBytes.drop off).take (min len 4088))

/-- A request that an activation defers, carried out. -/
def carryOut (s : State) (i : Instr) : State :=
  match i with
  | .getDigests _ => s.answer s.chainDigest
  | .getCertificate w slot off len => s.doCertificate w slot off len
  | .challenge w slot => s.doChallenge w slot
  | .getMeasurements w idx sg => s.doMeasurements w idx sg
  | .keyExchange w slot => s.doKeyExchange w slot
  | _ => s

/-- During an activation such a request receives ResponseNotReady under a new token (R62), and one for a measurement opens the
transcript before the activation completes (R58). A new deferred request replaces the one before. DESIGN CHOICE (log entry
68). -/
def orDefer (s : State) (w : Nat) (i : Instr) : State :=
  match s.activating, deferredCode i with
  | true, some code =>
    let token := (s.world w).spdm.tokens + 1
    (s.modSpdm w fun x => { x with
      tokens := token, deferred := some (token % 256, i)
      transcript := if code = 0xE0 then some (x.transcript.getD s.activations) else x.transcript }).notReady w code token
  | _, _ => s.carryOut i

/-- A session that has finished its handshake. -/
def session? (s : State) (w sess : Nat) : Option Session := (s.world w).spdm.sessions.find? fun x => x.id == sess
def inSession (s : State) (w sess : Nat) : Bool := ((s.session? w sess).map (·.established)).getD false

/-- Changes one session. -/
def modSession (s : State) (w sess : Nat) (f : Session → Session) : State :=
  s.modSpdm w fun x => { x with sessions := x.sessions.map fun y => if y.id = sess then f y else y }

/-- RESPOND_IF_READY (R62). Without a deferred request, or for another token or code, it receives UnexpectedRequest. DESIGN
CHOICE (log entry 68). -/
def doRespond (s : State) (w token code : Nat) : State :=
  match (s.world w).spdm.deferred with
  | none => s.unexpectedRequest w
  | some (t, i) =>
    if t ≠ token || deferredCode i ≠ some code then s.unexpectedRequest w
    else if s.activating then s.notReady w code token
    else (s.modSpdm w fun x => { x with deferred := none }).carryOut i

/-- END_SESSION (R55); the end of the locking session sends the TDI to ERROR (R59). -/
def doEndSession (s : State) (w sess : Nat) : State :=
  match s.session? w sess with
  | none => s.invalidSession w
  | some _ =>
    let s := s.modSpdm w fun x => { x with sessions := x.sessions.filter fun y => y.id != sess }
    (if (s.world w).lockSession = sess then s.tdiError w else s).answer []

/-! TDISP (R59) -/

/-- INVALID_INTERFACE_STATE. -/
def tdispError (s : State) : State := s.send (.reply 4 [])

/-- A TDISP message travels in a session (R55, R59). Outside an established one it receives InvalidSession, as do a CHKEY or a
CHSTATUS there, and a FINISH, KEY_UPDATE or END_SESSION of an unknown one. DESIGN CHOICE (log entry 68). -/
def tdisp (s : State) (w sess : Nat) (k : State → State) : State := if s.inSession w sess then k s else s.invalidSession w

/-- LOCK_INTERFACE_REQUEST: measurements 7 and 8 are frozen, 8 as that of the selected program (log entry 62). -/
def doLock (s : State) (w sess : Nat) : State :=
  let x := s.world w
  if w ≠ 0 && x.tdi = .unlocked && x.st = .attached && !x.en then
    let s := s.setWorld w { x with tdi := .locked, lockSession := sess, progDigest := s.lockDigest w }
    (s.modWorld w fun x => { x with measured := s.measurements w }).answer []
  else s.tdispError

/-- START_INTERFACE_REQUEST. -/
def doStart (s : State) (w : Nat) : State :=
  if (s.world w).tdi = .locked then (s.modWorld w fun x => { x with tdi := .run }).answer [] else s.tdispError

/-- STOP_INTERFACE_REQUEST: the world's work ends, its region is fresh, under a new key. -/
def doStop (s : State) (w : Nat) : State :=
  if (s.world w).tdi = .unlocked then s.tdispError else
  let s := s.modWorld w fun x => { x with tdi := .unlocked }
  if (s.world w).st = .free then s.answer [] else
  let s := s.dropWorld w
  let (k, s) := s.drawKey
  let (a, n) := regionRange (s.world w)
  ((s.freshen a n).modWorld w fun x => { x with key := some k }).answer []

/-- GET_DEVICE_INTERFACE_REPORT: the world's BAR0 block, the world number and its slice node. -/
def doReport (s : State) (w : Nat) : State :=
  if (s.world w).tdi = .locked || (s.world w).tdi = .run then
    s.answer (leBytes 8 (0x20000 + 0x100 * w) ++ leBytes 4 w ++ leBytes 4 (s.nodeOf w))
  else s.tdispError

/-- TDI_STATE of a TDISP response. -/
def tdiCode (x : TdiSt) : Nat :=
  match x with
  | .unlocked => 0 | .locked => 1 | .run => 2 | .error => 3

/-- The TDISP 1.0 messages without an operation of their own (R59), by their codes (log entry 19): the version, the
capabilities and the state of an interface; every other one is not supported. -/
def tdispQuery (s : State) (w sess code : Nat) : State :=
  s.tdisp w sess fun s =>
    match code with
    | 0x81 => s.answer [0x10#8]
    | 0x82 => s.answer (zeros 4)
    | 0x85 => s.answer (leBytes 1 (tdiCode (s.world w).tdi))
    | _ => s.send (.reply 6 [])

/-! Bounce-channel keys (R359) -/

/-- A command of the channel is PENDING, those of saved teams among them. -/
def channelPending (s : State) (w ch : Nat) : Bool :=
  s.copies.any fun (_, x) => x.world == w && (x.op == 7 || x.op == 8) && x.channel == ch && x.pending

/-- CHKEY: waits until no command of the channel is PENDING; FAULTED ones keep their old counter value and the key count of
their issue. -/
def doChkey (s : State) (w sess ch : Nat) : State :=
  let i := Instr.chkey w sess ch
  if !s.inSession w sess then s.invalidSession w
  else if 3 < ch then s.invalidRequest w
  else if s.channelPending w ch then { s with held := if s.held.contains i then s.held else s.held ++ [i] }
  else
    let secret := ((s.session? w sess).map (·.secret)).getD 0
    let s : State := { s with held := s.held.filter (· != i) }
    (s.modChannel w ch fun c =>
      { c with st := 1, send := 0, recv := 0, key := Config.channelKey secret ch c.keyCount, keyCount := c.keyCount + 1 }).answer []

/-- CHSTATUS. -/
def doChstatus (s : State) (w sess ch : Nat) : State :=
  if !s.inSession w sess then s.invalidSession w
  else if 3 < ch then s.invalidRequest w
  else
    let c := (s.world w).channels.get {} ch
    s.answer (leBytes 1 c.st ++ leBytes 8 c.send ++ leBytes 8 c.recv)

/-! Cold reset and power (R52, R65, R468, R494) -/

/-- The bank from which a boot runs an image: the one it tries first, a staged MEMT or LINK image's or the active one, else the
other (R52, R61); without one, the cause in the bank tried last (log entry 69). -/
def bootOf (s : State) (image : Nat) : Except Nat Nat :=
  let first := match s.staged with
    | some (i, b) => if i = image && (i = 2 || i = 3) then b else s.bootBank.get 0 image
    | none => s.bootBank.get 0 image
  let st := fun (b : Nat) => s.bankStatus image (s.banks.get {} (2 * image + b))
  if st first = 0 then .ok first else if st (1 - first) = 0 then .ok (1 - first) else .error (st (1 - first))

/-- The images of R52 are loaded in their order, until one fails in both banks. -/
def bootImages (s : State) : State :=
  (List.range 5).foldl (fun s i =>
    if s.bootFailed ≠ 0 then s else
    match s.bootOf (i + 1) with
    | .ok b => { s with
        builds := match (s.banks.get {} (2 * (i + 1) + b)).body with
          | some x => s.builds.insert (i + 1) x
          | none => s.builds.filter fun e => e.1 != i + 1
        bootBank := s.bootBank.put 0 (i + 1) b }
    | .error c => { s with bootFailed := i + 1, bootCause := c }) s

/-- The host link comes up at a rate and width of R104. -/
def linkTrains (rate width : Nat) : Bool := 32 ≤ rate && 8 ≤ width

/-- A cold reset (R52, R65, R104): what the model keeps is the outside, the flash, the fuses, the non-volatile store and the
generators. An image that fails in both banks, or a link that stays down, is reported on the management port, and bring-up
does not end. -/
def coldStart (s : State) (rate width : Nat) : State :=
  let clock := s.clockCommitted + 600000000000
  let life := s.life.put 0 0x330 (min 0xFFFFFFFF (s.life.get 0 0x330 + 1))
  let s0 : State := { State.reset with
    agenda := s.agenda, out := s.out, turn := s.turn, freeCtr := s.freeCtr, keys := s.keys, host := s.host,
    atsTable := s.atsTable, clock := clock, clockCommitted := clock, life := life, builds := s.builds, staged := s.staged,
    banks := s.banks, bootBank := s.bootBank, fuses := s.fuses, up := false, link := ⟨rate, width, linkTrains rate width⟩,
    metNext := (clock / 1000000 / 1000 + 1) * 1000 }
  let s := s0.bootImages
  let s := { s with staged := s.staged.filter fun e => e.1 != 2 && e.1 != 3 }
  if s.bootFailed ≠ 0 then s.send (.bootFailed s.bootFailed s.bootCause)
  else if !s.link.up then s.send (.linkDown rate width)
  else { s with upAt := some (clock + 900000000) }

/-- The lifetime counters and the clock go to the non-volatile store (R468, R494). -/
def commitCounters (s : State) : State :=
  { s with
    life := s.lifePending.foldl (fun m e => m.put 0 e.1 (min 0xFFFFFFFF (m.get 0 e.1 + e.2))) s.life
    lifePending := [], clockCommitted := s.clock }

end State

/-- STAGE (R61). -/
def execStage (cmd : BitVec 32) (s : State) : Host.Outcome State Fault Refusal := .next (s.fwWrite 1 cmd State.stageImage)
/-- ACTIVATE (R61). -/
def execActivate (cmd : BitVec 32) (s : State) : Host.Outcome State Fault Refusal := .next (s.fwWrite 2 cmd State.activateImage)
/-- DISCARD (R64). -/
def execDiscard (cmd : BitVec 32) (s : State) : Host.Outcome State Fault Refusal :=
  .next (s.fwWrite 3 cmd fun s _ => { s with staged := none }.endFw 0 s.clock)
/-- STAGE_DONE (R52, R61). -/
def execStageDone (port : Bool) (s : State) : Host.Outcome State Fault Refusal := .next (s.stageEnds port)
/-- ACTIVATION_DONE (R58, R61). -/
def execActivationDone (s : State) : Host.Outcome State Fault Refusal := .next s.activationEnds
/-- FIRMWARE_STAGING by the management port (R66). -/
def execFirmwareStaging (image : BitVec 4) (addr : BitVec 64) (size : BitVec 32) (s : State) : Host.Outcome State Fault Refusal :=
  .next (s.stageByPort image.toNat addr.toNat size.toNat)
/-- GET_VERSION (R54): versions 1.2 and 1.3; a new transcript begins. -/
def execGetVersion (w : Nat) (s : State) : Host.Outcome State Fault Refusal :=
  .next ((s.modSpdm w fun x => { x with
    version := true, speaks := 0x13, capabilities := false, algorithms := none, transcript := some s.activations }).answer [0x12#8, 0x13#8])
/-- GET_CAPABILITIES (R54): its version becomes that of the connection; DataTransferSize and MaxSPDMmsgSize. -/
def execGetCapabilities (w : SpdmFrom) (s : State) : Host.Outcome State Fault Refusal :=
  if w.version = 0x12#8 || w.version = 0x13#8 then
    .next ((s.modSpdm w.world fun x => { x with capabilities := true, speaks := w.version.toNat }).answer (leBytes 4 4096 ++ leBytes 4 4096))
  else .next (s.versionMismatch w.world)
/-- NEGOTIATE_ALGORITHMS (R56): the algorithms are fixed, but for the ExtAsym entry that the requester may leave out. -/
def execNegotiateAlgorithms (w : Nat) (ext : Bool) (s : State) : Host.Outcome State Fault Refusal :=
  .next ((s.modSpdm w fun x => { x with algorithms := some (fixedAlgorithms ext) }).answer (fixedAlgorithms ext).bytes)
/-- GET_DIGESTS (R53, R62). -/
def execGetDigests (w : Nat) (s : State) : Host.Outcome State Fault Refusal := .next (s.orDefer w (.getDigests w))
/-- GET_CERTIFICATE (R53, R62). -/
def execGetCertificate (w slot off len : Nat) (s : State) : Host.Outcome State Fault Refusal :=
  .next (s.orDefer w (.getCertificate w slot off len))
/-- CHALLENGE (R55, R62). -/
def execChallenge (w slot : Nat) (s : State) : Host.Outcome State Fault Refusal := .next (s.orDefer w (.challenge w slot))
/-- GET_MEASUREMENTS (R57, R58, R62). -/
def execGetMeasurements (w idx : Nat) (sgn : Bool) (s : State) : Host.Outcome State Fault Refusal :=
  .next (s.orDefer w (.getMeasurements w idx sgn))
/-- KEY_EXCHANGE (R55, R62). -/
def execKeyExchange (w slot : Nat) (s : State) : Host.Outcome State Fault Refusal := .next (s.orDefer w (.keyExchange w slot))
/-- FINISH (R55): the session is established. -/
def execFinish (w sess : Nat) (s : State) : Host.Outcome State Fault Refusal :=
  match s.session? w sess with
  | none => .next (s.invalidSession w)
  | some _ => .next ((s.modSession w sess fun x => { x with established := true }).answer [])
/-- END_SESSION (R55, R59). -/
def execEndSession (w sess : Nat) (s : State) : Host.Outcome State Fault Refusal := .next (s.doEndSession w sess)
/-- KEY_UPDATE (R55). -/
def execKeyUpdate (w sess : Nat) (s : State) : Host.Outcome State Fault Refusal :=
  if s.inSession w sess then
    .next ((s.modSession w sess fun x => { x with updates := x.updates + 1, secret := Config.sessionSecret x.secret (x.updates + 1) }).answer [])
  else .next (s.invalidSession w)
/-- RESPOND_IF_READY (R62). -/
def execRespondIfReady (w token : Nat) (code : BitVec 8) (s : State) : Host.Outcome State Fault Refusal := .next (s.doRespond w token code.toNat)
/-- A request code outside R55, or a vendor-defined payload outside R359. -/
def execSpdmUnsupportedRequest (w : Nat) (code : BitVec 8) (s : State) : Host.Outcome State Fault Refusal :=
  if code = 0xFE#8 then .next (s.invalidRequest w) else .next (s.unsupportedRequest w code.toNat)
/-- LOCK_INTERFACE_REQUEST (R59). -/
def execLockInterfaceRequest (w sess : Nat) (s : State) : Host.Outcome State Fault Refusal := .next (s.tdisp w sess fun s => s.doLock w sess)
/-- START_INTERFACE_REQUEST (R59). -/
def execStartInterfaceRequest (w sess : Nat) (s : State) : Host.Outcome State Fault Refusal := .next (s.tdisp w sess fun s => s.doStart w)
/-- STOP_INTERFACE_REQUEST (R59). -/
def execStopInterfaceRequest (w sess : Nat) (s : State) : Host.Outcome State Fault Refusal := .next (s.tdisp w sess fun s => s.doStop w)
/-- GET_DEVICE_INTERFACE_REPORT (R59). -/
def execGetDeviceInterfaceReport (w sess : Nat) (s : State) : Host.Outcome State Fault Refusal := .next (s.tdisp w sess fun s => s.doReport w)
/-- CHKEY (R359). -/
def execChkey (w sess ch : Nat) (s : State) : Host.Outcome State Fault Refusal := .next (s.doChkey w sess ch)
/-- CHSTATUS (R359). -/
def execChstatus (w sess ch : Nat) (s : State) : Host.Outcome State Fault Refusal := .next (s.doChstatus w sess ch)
/-- COLD_RESET (R52, R65, R104). -/
def execColdReset (link : LinkUp) (s : State) : Host.Outcome State Fault Refusal := .next (s.coldStart link.rate link.width)
/-- COUNTER_COMMIT (R468, R494). -/
def execCounterCommit (s : State) : Host.Outcome State Fault Refusal := .next s.commitCounters
/-- POWER_DOWN (R468): the counters are committed, then every domain powers down (R22). -/
def execPowerDown (s : State) : Host.Outcome State Fault Refusal := .next { s.commitCounters with up := false, upAt := none }
/-- POWER_LOSS (R468): what was not committed is lost. -/
def execPowerLoss (s : State) : Host.Outcome State Fault Refusal := .next { s with lifePending := [], up := false, upAt := none }
/-- IDE_KM (R111): stream 0 is the link stream, 1 to 16 are selective; it travels in an established session of world 0. -/
def execIdeKm (stream world : Nat) (go : Bool) (s : State) : Host.Outcome State Fault Refusal :=
  if !(s.world 0).spdm.sessions.any (·.established) then .next (s.invalidSession 0)
  else if 16 < stream then .next (s.invalidRequest 0)
  else
    let rest := s.ide.filter fun e => e.1 != stream
    .next { s with ide := if go then rest ++ [(stream, if stream = 0 then 0 else world)] else rest }

end Sys2Proof.Machine
end

