-- ==== Sys2Proof/Machine/Links.lean ====
section
/-! DEFINITION. The peer links (R112 to R116), host access to HDM (R107, R108), snoops and evictions (R106, R302), and the
registers that only the links have. -/

namespace Sys2Proof.Machine

namespace State

/-- An error record of class ISOLATION (R25); the port or link that met the request is a free value (log entry 15). -/
def isolation (s : State) (w addr : Nat) : State :=
  let (v, s) := s.free
  s.errorRecord 7 6 w addr (v % 2 ^ 16) 0 0 0xFFFFFFFF 0 1 0

/-! Inbound requests -/

/-- The slice's table holds a valid entry that names a requester (R112, R114). -/
def namesRequester (e : BitVec 64) (station snode sworld : Nat) : Bool :=
  e.getLsbD 63 && bits e.toNat 57 48 == station && bits e.toNat 44 40 == snode && bits e.toNat 38 32 == sworld

/-- An inbound request is accepted (R114). -/
def inboundOk (s : State) (station snode sworld node world : Nat) : Bool :=
  let c := nodeCtl node
  1 ≤ node && node ≤ 31 && (s.slice c).node == node && (s.slice c).st == .ready && s.slotted c world &&
    (s.slice c).routes.any fun e => namesRequester e.2 station snode sworld

/-- The store behind a WPA of a world, for a request that passes its segment table (R310); none when it reaches neither
slice HBM nor a host page that ATS translates (log entry 35). -/
def inboundPlace (s : State) (w wpa n : Nat) : Option (Space × Nat) :=
  match segment (s.world w) wpa, segment (s.world w) (wpa + (n - 1)) with
  | some (.device a), some (.device b) => if b = a + (n - 1) then some (.hbm, a) else none
  | some (.hostIo io), some (.hostIo jo) => if jo = io + (n - 1) then (s.hostAddr w io).map fun a => (.host, a) else none
  | _, _ => none

/-- The place of an accepted inbound request; an EXPORT drops writes and atomics (R474). -/
def inboundTarget (s : State) (station snode sworld node world wpa n : Nat) (write : Bool) : Option (Space × Nat) :=
  if s.inboundOk station snode sworld node world && !(write && (s.world world).dropWrites) then s.inboundPlace world wpa n else none

/-- UALINK_INBOUND_READ (R25, R114, R459). -/
def inboundRead (s : State) (station snode sworld node world wpa len : Nat) : State :=
  match s.inboundTarget station snode sworld node world wpa len false with
  | none => (s.isolation 0 wpa).send (.reply 1 [])
  | some (sp, a) =>
    if s.poisoned sp a len then s.send (.reply 1 [])
    else (s.meter world 10 len).send (.reply 0 (s.read sp a len))

/-- UALINK_INBOUND_WRITE (R25, R114). -/
def inboundWrite (s : State) (station snode sworld node world wpa : Nat) (bs : List Byte) : State :=
  match s.inboundTarget station snode sworld node world wpa bs.length true with
  | none => s.isolation 0 wpa
  | some (sp, a) => ((s.write sp a bs).meter world 11 bs.length).send (.reply 0 [])

/-- A kept atomic of a requester under a tag (R116). -/
def keptAtomic (s : State) (station snode sworld : Nat) (tag : BitVec 16) : Option Kept :=
  s.kept.find? fun k => k.station == station && k.snode == snode && k.sworld == sworld && k.tag == tag

/-- Keeps an atomic, and no more than the last 4,096 of its requester (R116). -/
def keepAtomic (s : State) (k : Kept) : State :=
  let mine := fun (q : Kept) => q.station == k.station && q.snode == k.snode && q.sworld == k.sworld
  let kept := if (s.kept.filter mine).length < 4096 then s.kept
    else match s.kept.find? mine with
      | some q => s.kept.erase q
      | none => s.kept
  { s with kept := kept ++ [k] }

/-- UALINK_INBOUND_ATOMIC (R116): performed by the Mortar unit, or answered from the kept results. -/
def inboundAtomic (s : State) (station snode sworld node world wpa : Nat) (tag : BitVec 16) (op : Nat) (b cnew : BitVec 64) : State :=
  let n := atomBytes op
  match s.inboundTarget station snode sworld node world wpa n true with
  | none => (s.isolation 0 wpa).send (.reply 1 [])
  | some (sp, a) =>
    let b := if n = 8 then b else b &&& 0xFFFFFFFF
    let cnew := if op < 16 then 0 else if n = 8 then cnew else cnew &&& 0xFFFFFFFF
    let s := s.meter world 11 (if op < 16 then n else 2 * n)
    match s.keptAtomic station snode sworld tag with
    | some k =>
      if k.op = op && k.wpa = wpa && k.node = node && k.world = world && k.b = b && k.cnew = cnew then
        (s.meter world 10 n).send (.reply 0 (leBytes n k.result))
      else s.send (.reply 2 [])
    | none =>
      if s.poisoned sp a n then s.send (.reply 1 []) else
      let old := ofLe (s.read sp a n)
      let s := (s.write sp a (leBytes n (atomNew op old b.toNat cnew.toNat))).meter world 12 1
      let s := s.keepAtomic ⟨station, snode, sworld, tag, wpa, node, world, op, b, cnew, old⟩
      (s.meter world 10 n).send (.reply 0 (leBytes n old))

/-! Answers to the device's own requests (R115, R331) -/

/-- The request of a world that waits under a tag; tags are each requester's own (R116, R330). -/
def waitingReq (s : State) (w tag : Nat) : Option Req := s.reqs.find? fun r => r.world == w && r.tag == tag && r.st == .waiting

/-- An agent whose access waited for a peer's bytes looks again: a restore goes on, a dispatcher decides; the others are
found ready when they move. -/
def lookAgain (s : State) (a : Agent) : State :=
  match a with
  | .seq t => if (s.team t).st = .restoring then s.resumeRestore t else s
  | .firm c => s.decide' c
  | _ => s

/-- A request has its outcome. What nobody waits for is gone, and may be the last thing that its launch waits for (R134); a
copy piece goes on when none of its requests waits, a pass likewise; a waiting agent looks again. -/
def settleReq (s : State) (r : Req) (st : ReqSt) : State :=
  if orphan r then
    let s : State := { s with reqs := s.reqs.erase r }
    let s := match r.launch with
      | some l => s.pushOnce (.launchComplete l)
      | none => s
    s.wakeGangs
  else
    let s : State := { s with reqs := s.reqs.map fun q => if q = r then { q with st := st } else q }
    let s := match r.copyPiece with
      | some (c, i) =>
        if s.reqs.any fun q => q.copyPiece == some (c, i) && q.st == ReqSt.waiting then s else s.pushOnce (.copyPieceComplete c i)
      | none => s
    let s := match r.pass with
      | some i => if (s.passReqs i).any (·.st == ReqSt.waiting) then s else s.pushOnce (.passComplete (s.quadOf r.who))
      | none => s
    let s := if r.inner.isSome && r.copyPiece.isNone then (r.who :: r.joined).foldl (fun s a => s.lookAgain a) s else s
    s.wakeGangs

/-- UALINK_RESPONSE: a read or an atomic that is answered without data has met an error status at the target, and counts
as poisoned data (R327, R331; log entry 35). -/
def peerAnswer (s : State) (w tag : Nat) (mismatch : Bool) (bs : List Byte) : State :=
  match s.waitingReq w tag with
  | none => s
  | some r =>
    let st : ReqSt := if mismatch then .mismatch else if (r.awaited || !r.write) && bs.isEmpty then .poison else .ok bs
    (s.meter w 11 bs.length).settleReq r st

/-- REQUEST_TIMEOUT: 2 ms, which is 2,100,000 cycles, without a response (R115). A write that nobody waits for goes to world
0 as a record of class REMOTE, also when its team has gone (R331). -/
def peerTimeout (s : State) (w tag : Nat) : State :=
  match s.waitingReq w tag with
  | none => s
  | some r =>
    if s.cycle < r.sent + 2100000 then s else
    let s := if orphan r then
        s.errorRecord 8 6 w r.wpa (s.portOf w r.accel r.wpa) 0 0 r.team (BitVec.ofNat 64 r.cookie) 1 0
      else s
    s.settleReq r .indeterminate

/-! Snoops (R106) -/

/-- HOST_SNOOP: the answer at once, from the L2 lines alone: whether the device held the line, and what it had written. Where
the host writes, its bytes replace the memory's and the device holds the lines no more; a read leaves them clean. -/
def hostSnoop (s : State) (addr : Nat) (bs : List Byte) : State :=
  let hit := fun (l : HostLine) => addr / 64 ≤ l.line && l.line ≤ (addr + bs.length - 1) / 64 || l.line == addr / 64
  let held := s.hostLines.any hit
  let dirty := s.hostLines.any fun l => l.line == addr / 64 && l.dirty
  let answer := if dirty then s.read .host (addr / 64 * 64) 64 else []
  let lines := if bs.isEmpty then s.hostLines.map (fun l => if hit l then { l with dirty := false } else l)
    else s.hostLines.filter fun l => !hit l
  (({ s with hostLines := lines } : State).write .host addr bs).send (.snooped held answer)

/-! HDM (R107, R108) -/

/-- The decoder whose host range holds an address. -/
def decoderAt (s : State) (addr n : Nat) : Option Decoder :=
  (s.decoders.find? fun (_, d) => d.size != 0 && !d.error && d.base ≤ addr && addr + n ≤ d.base + d.size).map (·.2)

/-- A decoder takes requests: committed, and its world neither CONFIG_LOCKED nor RUN. -/
def decoderOpen (s : State) (d : Decoder) : Bool :=
  d.committed && (s.world d.world).st != .free && (s.world d.world).tdi != .locked && (s.world d.world).tdi != .run

/-- The package address behind a host address of a decoder; it follows the world's region (R41). -/
def decoderAddr (s : State) (d : Decoder) (addr : Nat) : Nat := (regionRange (s.world d.world)).1 + d.roff + (addr - d.base)

/-- HDM_READ. -/
def hdmReadAt (s : State) (addr n : Nat) : State :=
  match s.decoderAt addr n with
  | none => (s.isolation 0 addr).send (.reply 1 [])
  | some d =>
    if !s.decoderOpen d then s.send (.reply 3 [])
    else
      let a := s.decoderAddr d addr
      if s.poisoned .hbm a n then s.send (.reply 3 []) else s.send (.reply 0 (s.read .hbm a n))

/-- HDM_WRITE: a sealed page stores the written bytes; an EXPORT drops the write (R474). -/
def hdmWriteAt (s : State) (addr : Nat) (bs : List Byte) : State :=
  match s.decoderAt addr bs.length with
  | none => s.isolation 0 addr
  | some d =>
    if !s.decoderOpen d || (s.world d.world).dropWrites then s.isolation d.world addr
    else s.write .hbm (s.decoderAddr d addr) bs

/-- HDM_DECODER_COMMIT: units of 256 MiB, inside the world's region, or Error Not Committed. -/
def commitDecoder (s : State) (k base size w roff : Nat) : State :=
  if 8 ≤ k then s else
  let u := 2 ^ 28
  let x := s.world w
  let ok := base % u = 0 && size % u = 0 && roff % u = 0 && size ≠ 0 && w ≠ 0 && x.st ≠ .free && roff + size ≤ x.size * giB
  { s with decoders := s.decoders.insert k { committed := ok, error := !ok, base := base, size := size, world := w, roff := roff } }

/-! Registers of the links -/

/-- A slice stands (R113). -/
def anySlice (s : State) : Bool := s.slices.any fun e => e.2.st != .empty

/-- A write of UAL_STATION (R113). -/
def stationPut (s : State) (v : BitVec 32) : State := if s.anySlice then s else { s with station := v.extractLsb' 0 10 }

/-- A write of a routing entry (R112). -/
def routePut (s : State) (c n : Nat) (v : BitVec 64) : State :=
  if 16 ≤ c || 1024 ≤ n then s else
  let sl := s.slice c
  let ports := bits v.toNat 31 0
  let mine := fun q => sl.node != 0 && (nodeQuads sl.node).contains q
  let bad := (List.range 32).any (fun q => bit ports q && !mine q) || ports = 0
  let v := v &&& (if bad then 0x03FF1F7FFFFFFFFF else 0x83FF1F7FFFFFFFFF)
  s.setSlice c { sl with routes := sl.routes.put 0 n v }

end State

/-- UALINK_INBOUND_READ (R114). -/
def execUalinkInboundRead (station snode sworld node world wpa len : Nat) (s : State) : Host.Outcome State Fault Refusal :=
  .next (s.inboundRead station snode sworld node world wpa len)
/-- UALINK_INBOUND_WRITE (R114). -/
def execUalinkInboundWrite (station snode sworld node world wpa : Nat) (bytes : List Byte) (s : State) : Host.Outcome State Fault Refusal :=
  .next (s.inboundWrite station snode sworld node world wpa bytes)
/-- UALINK_INBOUND_ATOMIC (R114, R116). -/
def execUalinkInboundAtomic (station snode sworld node world wpa : Nat) (tag : BitVec 16) (op : Nat) (b cnew : BitVec 64)
    (s : State) : Host.Outcome State Fault Refusal :=
  .next (s.inboundAtomic station snode sworld node world wpa tag op b cnew)
/-- UALINK_RESPONSE (R115, R330). -/
def execUalinkResponse (tag : PeerTag) (mismatch : Bool) (bytes : List Byte) (s : State) : Host.Outcome State Fault Refusal :=
  .next (s.peerAnswer tag.world tag.tag.toNat mismatch bytes)
/-- REQUEST_TIMEOUT (R115). -/
def execRequestTimeout (tag : PeerTag) (s : State) : Host.Outcome State Fault Refusal := .next (s.peerTimeout tag.world tag.tag.toNat)
/-- HDM_READ (R107, R108). -/
def execHdmRead (addr len : Nat) (s : State) : Host.Outcome State Fault Refusal := .next (s.hdmReadAt addr len)
/-- HDM_WRITE (R107, R108). -/
def execHdmWrite (addr : Nat) (bytes : List Byte) (s : State) : Host.Outcome State Fault Refusal := .next (s.hdmWriteAt addr bytes)
/-- HDM_DECODER_COMMIT (R107). -/
def execHdmDecoderCommit (k base size w roff : Nat) (s : State) : Host.Outcome State Fault Refusal := .next (s.commitDecoder k base size w roff)
/-- HOST_SNOOP (R106). -/
def execHostSnoop (addr : Nat) (bytes : List Byte) (s : State) : Host.Outcome State Fault Refusal := .next (s.hostSnoop addr bytes)
/-- UAL_STATION_WRITE (R113). -/
def execUalStationWrite (v : BitVec 32) (s : State) : Host.Outcome State Fault Refusal := .next (s.stationPut v)
/-- ROUTING_ENTRY_WRITE (R112). -/
def execRoutingEntryWrite (c n : Nat) (v : BitVec 64) (s : State) : Host.Outcome State Fault Refusal := .next (s.routePut c n v)
/-- LINE_EVICTION (R302): a line leaves the L1 and the instruction cache of a core, or, from core 128 on, the L2 lets the two
host lines at that place go; beside those it holds nothing apart from memory (log entry 7). -/
def execLineEviction (core line : Nat) (s : State) : Host.Outcome State Fault Refusal :=
  if core < 128 then
    .next { s.l1Drop core .hbm (line * 128) with icache := s.icache.filter fun l => !(l.core == core && l.line == line) }
  else .next { s with hostLines := s.hostLines.filter fun l => l.line / 2 != line }

end Sys2Proof.Machine
end

