-- ==== Sys2Proof/Machine/Fifo.lean ====
section
/-! DEFINITION. The default FIFO program (R136), one step at a time: an event taken, a record served, or the wait for the
next event. Its own accesses fault as a control program's do (R126). -/

namespace Sys2Proof.Machine

/-- The fields of a work record (R136). -/
structure WorkRec where
  op : Nat
  flags : Nat
  vector : Nat
  done : Nat
  lrec : Nat
  deriving DecidableEq, Repr

def parseWork (bs : List Byte) : WorkRec := ⟨field bs 0 1, field bs 1 1, field bs 2 2, field bs 8 8, field bs 0x10 8⟩

/-- WAIT and IRQ. -/
def WorkRec.waits (r : WorkRec) : Bool := r.op == 2 || bit r.flags 0
def WorkRec.irq (r : WorkRec) : Option Nat := if bit r.flags 1 && r.vector < 64 then some r.vector else none

/-- A record in the layout of R136, with an OP that it lists. -/
def workOk (bs : List Byte) : Bool :=
  let r := parseWork bs
  r.op ≤ 2 && r.flags < 4 && r.vector < 64 && r.done % 32 == 0 && (r.op != 1 || r.lrec % 128 == 0) &&
    field bs 4 4 == 0 && field bs 0x18 104 == 0

/-- An earlier launch of a ring has not completed, as far as the program has read. -/
def Fifo.busy (f : Fifo) (ring : Nat) : Bool := f.outstanding.any fun o => o.ring == ring

/-- The oldest outstanding record whose launch record carried a COOKIE. -/
def Fifo.match' (f : Fifo) (cookie : BitVec 64) : Option FifoRec := f.outstanding.find? fun o => o.cookie == cookie

namespace State

def modFifo (s : State) (w : Nat) (f : Fifo → Fifo) : State := s.modProg w fun p => { p with fifo := f p.fifo }

/-- Signals a vector, if one is named. -/
def signal? (s : State) (w : Nat) (v : Option Nat) : State :=
  match v with
  | some v => s.signal w v
  | none => s

/-- Stores 32 bytes at DONE, when it is nonzero and a multiple of 32; a fault leaves everything else of the step undone. -/
def fifoStore (s : State) (w done : Nat) (bs : List Byte) (k : State → State) : State :=
  if done = 0 || done % 32 ≠ 0 then k s else
  match s.vaWrite (.prog w) w (lowestQuad (s.world w).ctl) done bs with
  | (.error e, s1) => s1.takeTrouble (.prog w) e 2 done
  | (.ok (), s1) => k s1

/-- An event that has been read. After any event the program retries the launches that were FULL. -/
def fifoEvent (s0 s : State) (w : Nat) (e : Event) : State :=
  let retry := fun (s : State) => s.modFifo w fun f => { f with holds := f.holds.map fun h => (h.1, h.2.1, false) }
  match if e.type = 1 || e.type = 2 then (s.prog w).fifo.match' e.cookie else none with
  | none => retry s
  | some o =>
    if o.done = 0 then
      retry ((s.modFifo w fun f => { f with outstanding := f.outstanding.erase o }).signal? w o.vector)
    else
      match s0.vaWrite (.prog w) w (lowestQuad (s0.world w).ctl) o.done e.bytes with
      | (.error t, s1) => s1.takeTrouble (.prog w) t 2 o.done
      | (.ok (), _) => s.fifoStore w o.done e.bytes fun s =>
          retry ((s.modFifo w fun f => { f with outstanding := f.outstanding.erase o }).signal? w o.vector)

/-- Performs a record whose wait is over: OP 0x01 issues LAUNCH on the record at LREC, which stalls while an activation runs
(R61); a FULL one is held. -/
def fifoPerform (s : State) (w ring : Nat) (bs : List Byte) : State :=
  let r := parseWork bs
  if r.op ≠ 1 then s.signal? w r.irq
  else
    match s.vaRead w (lowestQuad (s.world w).ctl) r.lrec 128 with
    | (.error e, s) => s.takeTrouble (.prog w) e 0 r.lrec
    | (.ok lb, s) =>
      match s.enqueue w lb with
      | (0, s) => s.modFifo w fun f =>
          { f with holds := f.holds.filter fun h => h.1 != ring
                   outstanding := f.outstanding ++ [⟨ring, BitVec.ofNat 64 (field lb 0x20 8), r.done, r.irq⟩] }
      | (_, s) => s.modFifo w fun f =>
          { f with holds := (f.holds.filter fun h => h.1 != ring) ++ [(ring, bs, true)] }

/-- A record is skipped: an error record at DONE, and the vector. -/
def fifoSkip (s : State) (w ring idx : Nat) (bs : List Byte) (k : State → State) : State :=
  let r := parseWork bs
  let e : Event := { type := 2, status := 2, world := w, aux := ring, seq := idx, time := s.clock }
  s.fifoStore w r.done e.bytes fun s => (k s).signal? w r.irq

/-- Takes the record at a ring's head (R118, R294). -/
def fifoTake (s : State) (w ring : Nat) : State :=
  let g := State.ring (s.world w) ring
  let pop := fun (s : State) => s.modWorld w fun x => { x with rings := x.rings.insert ring { g with head := g.head + 1 } }
  match s.vaRead w (lowestQuad (s.world w).ctl) (g.recordVa g.head.toNat) 128 with
  | (.error e, s) => s.takeTrouble (.prog w) e 0 (g.recordVa g.head.toNat)
  | (.ok bs, s) =>
    let r := parseWork bs
    if !workOk bs then s.fifoSkip w ring g.head.toNat bs pop
    else if (r.waits && (s.prog w).fifo.busy ring) || (r.op = 1 && s.activating) then
      (pop s).modFifo w fun f => { f with holds := f.holds ++ [(ring, bs, false)] }
    else
      let s1 := s.fifoPerform w ring bs
      if (s1.prog w).st = .running && !s1.asking (.prog w) then pop s1 else s1

/-- A held record goes on. -/
def fifoHeld (s : State) (w ring : Nat) (bs : List Byte) : State :=
  let s1 := s.fifoPerform w ring bs
  if (s1.prog w).st = .running && (parseWork bs).op ≠ 1 then
    s1.modFifo w fun f => { f with holds := f.holds.filter fun h => h.1 != ring }
  else s1

/-- A ring can be served: a held record whose wait is over, or a record to take. -/
def fifoReady (s : State) (w ring : Nat) : Bool :=
  let f := (s.prog w).fifo
  match f.holds.find? fun h => h.1 == ring with
  | some (_, bs, full) =>
    let r := parseWork bs
    !full && !(r.waits && f.busy ring) && !(r.op == 1 && s.activating)
  | none =>
    let g := State.ring (s.world w) ring
    g.enabled && (s.world w).st == .running && g.head != g.tail

/-- Serves a ring. -/
def fifoServe (s : State) (w ring : Nat) : State :=
  match (s.prog w).fifo.holds.find? fun h => h.1 == ring with
  | some (_, bs, _) => s.fifoHeld w ring bs
  | none => s.fifoTake w ring

/-- The step stands where it stopped: its access waits for a peer's bytes, or has faulted. -/
def fifoStopped (s : State) (w : Nat) : Bool := (s.prog w).st != .running || s.asking (.prog w)

/-- A step of the default FIFO program has ended: it counts as a retired instruction of the turn (R127; log entry 37), and
peers' answers that it used go. -/
def fifoEnd (s : State) (w : Nat) : State :=
  if s.fifoStopped w then s else
  let c := (s.world w).ctl
  let s := (s.dropAnswers (.prog w)).modSlice c fun x => { x with turnCount := x.turnCount + 1 }
  if 4096 ≤ (s.slice c).turnCount then s.pushOnce (.turnEnd c) else s

/-- One step of the default FIFO program of a world; a LAUNCH that an activation stalls keeps it from the next event. -/
def fifoStep (s : State) (w : Nat) : State :=
  match s.takeEvent w with
  | (some e, s1) => (s.fifoEvent s1 w e).fifoEnd w
  | (none, _) =>
    match ((List.range 8).map fun i => ((s.prog w).fifo.next + i) % 8).find? (s.fifoReady w) with
    | some ring =>
      let s := s.fifoServe w ring
      if s.fifoStopped w then s else (s.modFifo w fun f => { f with next := (ring + 1) % 8 }).fifoEnd w
    | none =>
      if s.activating && !(s.prog w).fifo.holds.isEmpty then s
      else (s.modProg w fun p => { p with st := .waiting }).pushOnce (.turnEnd (s.world w).ctl)

end State

end Sys2Proof.Machine
end

