-- ==== Sys2Proof/Machine/Reliability.lean ====
section
/-! DEFINITION. The reliability engine: errors of storage (R458, R467), lifetime counters (R468), the freeze and its read-out
(R469, R470), and the other services of the management port (R66). -/

namespace Sys2Proof.Machine

namespace State

/-! Lifetime counters (R468) -/

/-- One more count; it reaches the non-volatile store at the next commit. -/
def countLife (s : State) (k : Nat) : State := { s with lifePending := s.lifePending.put 0 k (s.lifePending.get 0 k + 1) }

/-- A counter as the management port reads it: it saturates. -/
def lifeCounter (s : State) (k : Nat) : Nat := min 0xFFFFFFFF (s.life.get 0 k + s.lifePending.get 0 k)

/-! Corrected errors (R458, R467) -/

/-- The slice that covers a package address of HBM, as its control core. -/
def coveringSlice (s : State) (a : Nat) : Option Nat :=
  (s.slices.find? fun (c, x) => x.st != .empty && ctlBase c ≤ a && a < ctlBase c + nodeBytes x.node).map (·.1)

/-- Node, world and slice HBM offset of a package address, for an error record. -/
def hbmNames (s : State) (a : Nat) : Nat × Nat × Nat :=
  match s.coveringSlice a with
  | some c => ((s.slice c).node, (s.regionWorld a).getD 0, a - ctlBase c)
  | none => (0, 0, a)

/-- CORRECTED_ERROR: no value changes; records of one unit and location merge over 1 ms. The channel of an HBM error is not
architectural (R305): a free value. -/
def corrected (s : State) (unit loc addr syn : Nat) : State :=
  let (v, s) := s.free
  let s := if unit = 1 && loc < 256 then s.countLife loc
    else if unit = 0 && loc < 16 then s.countLife (0x100 + 32 * loc + v % 32) else s
  match s.merges.find? fun m => m.unit == unit && m.loc == loc with
  | some m => { s with merges := s.merges.map fun n => if n = m then { m with count := m.count + 1 } else n }
  | none => { s with merges := s.merges ++ [⟨unit, loc, addr, syn, 1, s.clock⟩] }

/-- CORRECTED_MERGE_END: after 1 ms the merged record is written. -/
def mergeEnds (s : State) (unit loc : Nat) : State :=
  match s.merges.find? fun m => m.unit == unit && m.loc == loc with
  | none => s
  | some m =>
    if s.clock < m.opened + 1000000 then s else
    let s : State := { s with merges := s.merges.filter (· != m) }
    let (node, w, off) := if m.unit ≤ 1 then s.hbmNames m.addr else (0, 0, m.addr)
    s.errorRecordAt node 1 m.unit w off m.loc 0 0 0xFFFFFFFF 0 m.count m.syn

/-! Uncorrectable errors (R458) -/

/-- The resident team of a core that holds a byte of its scratchpad or of its accumulator store. -/
def tierTeam (s : State) (core a : Nat) (acc : Bool) : Option (Nat × Team) :=
  s.teams.find? fun (_, x) =>
    let d := (s.launch x.launch).desc
    let b := if acc then x.accBase else x.scrBase
    let n := if acc then 65536 * d.accum else d.scratch
    x.core == core && (x.st == .resident || x.st == .restoring) && b ≤ a && a < b + n

/-- The record of class UNCORRECTED, and the count of its unit. -/
def uncorrectedRecord (s : State) (node unit w addr loc flags team : Nat) (cookie : BitVec 64) (syn : Nat) : State :=
  (s.countLife (0x300 + unit)).errorRecordAt node 2 unit w addr loc 0 flags team cookie 1 syn

/-- A tier's granule is poisoned: the record names the team that holds it. -/
def tierError (s : State) (core a : Nat) (acc : Bool) (syn : Nat) : State :=
  match s.tierTeam core a acc with
  | none => s.uncorrectedRecord 0 2 0 a core 0 0xFFFFFFFF 0 syn
  | some (t, x) =>
    let l := s.launch x.launch
    let s := if acc then s.poisonRange (.acc t) (a - x.accBase) 1 else s.poisonRange (.scratch t) (a - x.scrBase) 1
    s.uncorrectedRecord (s.nodeOf l.world) 2 l.world a core 0 x.index l.record.cookie syn

/-- A register's storage is poisoned: bits 7:0 of the address name the register, 23:8 the lane in team, 63:24 the team; of a
protected pair it is the visible lane's. -/
def registerError (s : State) (core a syn : Nat) : State :=
  match s.team? (a / 2 ^ 24) with
  | none => s.uncorrectedRecord 0 3 0 a core 0 0xFFFFFFFF 0 syn
  | some x =>
    let l := s.launch x.launch
    let s := s.modTeam (a / 2 ^ 24) fun x => { x with bad := ((bits a 23 8, a % 256, false) : Nat × Nat × Bool) :: x.bad }
    s.uncorrectedRecord (s.nodeOf l.world) 3 l.world a core 0 x.index l.record.cookie syn

/-- A host line of the L2: a written one poisons the world's own host memory, which its write-back carries as CXL poison; of
another a clean copy goes (R458, R459). -/
def hostLineError (s : State) (loc addr syn : Nat) : State :=
  match s.hostLines.find? fun l => l.line == addr / 64 with
  | none => s
  | some l =>
    let s := { s with hostLines := s.hostLines.filter fun m => m.line != addr / 64 }
    let s := if l.dirty then s.poisonRange .host addr 1
      else { s with meetsNext := s.meetsNext ++ (granules .host addr 1).map fun g => (.host, g) }
    s.uncorrectedRecord (s.nodeOf l.world) 1 l.world addr loc (if l.dirty then 0 else 2) 0xFFFFFFFF 0 syn

/-- UNCORRECTABLE_ERROR by the rows of R458: 0 HBM, 1 an L2 line held clean, 2 an L2 line held dirty or the bank window of
world addr / 2^48, 3 scratchpad or (from 2^32 on) accumulator store of core loc, 4 register file, 5 L1 or instruction cache
of core loc, 6 a host line of the L2 at a host address (log entry 7). A clean copy is discarded; the accesses that the next
step makes meet the error (log entry 48). -/
def uncorrectable (s : State) (kind loc addr syn : Nat) : State :=
  let (node, w, off) := s.hbmNames addr
  match kind with
  | 0 => (s.poisonRange .hbm addr 1).uncorrectedRecord node 0 w off loc 0 0xFFFFFFFF 0 syn
  | 1 => ({ s with meetsNext := s.meetsNext ++ (granules .hbm addr 1).map fun g => (.hbm, g) } : State).uncorrectedRecord
      node 1 w off loc 2 0xFFFFFFFF 0 syn
  | 2 =>
    if addr < 2 ^ 48 then (s.poisonRange .hbm addr 1).uncorrectedRecord node 1 w off loc 0 0xFFFFFFFF 0 syn
    else
      let v := addr / 2 ^ 48
      (s.poisonRange (.window v) (addr % 2 ^ 48) 1).uncorrectedRecord (s.nodeOf v) 1 v (addr % 2 ^ 48) loc 0 0xFFFFFFFF 0 syn
  | 3 => s.tierError loc (addr % 2 ^ 32) (2 ^ 32 ≤ addr) syn
  | 4 => s.registerError loc addr syn
  | 5 =>
    let s := s.l1Drop loc .hbm addr
    ({ s with
      icache := s.icache.filter fun l => !(l.core == loc && l.space == Space.hbm && l.line == addr / 128)
      meetsNext := s.meetsNext ++ (granules .hbm (addr / 128 * 128) 128).map fun g => (.hbm, g) } : State).uncorrectedRecord
      node 8 w off loc 2 0xFFFFFFFF 0 syn
  | 6 => s.hostLineError loc addr syn
  | _ => s

/-! Freeze (R469, R470) -/

/-- The clocks stop; only a cold reset ends it. -/
def freezeNow (s : State) (cause : Nat) : State := if s.frozen.isSome then s else { s with frozen := some ⟨cause, s.clock⟩ }

/-- The header of the dump image: its fields in the order of R470, 128 bytes. -/
def dumpHeader (s : State) (f : Freeze) : List Byte :=
  [0x46#8, 0x44#8, 0x4D#8, 0x50#8] ++ leBytes 16 Config.serial ++ leBytes 8 f.time ++ leBytes 4 f.cause ++ leBytes 4 s.activations ++ zeros 92

/-- Number of a store in the poison map of the dump image. -/
def spaceCode (sp : Space) : Nat :=
  match sp with
  | .hbm => 0
  | .host => 1
  | .window w => 2 + 8 * w
  | .scratch t => 3 + 8 * t
  | .acc t => 4 + 8 * t
  | .priv w => 5 + 8 * w

/-- Unit state of the dump image: control registers, queue and ring pointers, calendars, reservation tables, copy-unit commands,
in 8-byte words, in an order of the model's (R470; log entry 20). -/
def dumpUnits (s : State) : List Byte :=
  let words := fun (xs : List Nat) => xs.flatMap (leBytes 8)
  words [s.slcCmd.toNat, s.slcArg.toNat, s.slcStatus, s.fwaCmd.toNat, s.fwaStatus, s.fwaAddr.toNat, s.fwaSize.toNat, s.station.toNat,
    s.palSel.toNat, s.relBase.toNat, s.relHead.toNat, s.relTail.toNat, s.relLost, s.metBase.toNat, s.metHead.toNat, s.metTail.toNat,
    s.metPeriod] ++
  (s.slices.flatMap fun (c, x) => words [c, x.node, x.owner, x.cause, x.winWays, x.tmplAddr.toNat, x.tmplSize.toNat, x.tmplDest.toNat,
    x.ageLimit, x.lend.toNat, x.quantum, x.age, x.events.length, x.heldEvents.length] ++ words x.wlist) ++
  (s.worlds.flatMap fun (w, x) => words [w, x.ctl, x.en.toNat, x.base, x.size, x.windowMask.toNat, x.cacheMask.toNat, x.cprog.toNat,
    x.tctx.toNat, x.eventSeq, x.migCmd.toNat, x.migStatus] ++
    x.rings.flatMap fun (i, r) => words [i, r.base.toNat, r.head.toNat, r.tail.toNat]) ++
  (s.calendar.flatMap fun (c, n) => words [c, n]) ++ (s.calendarNext.flatMap fun (c, n) => words [c, n]) ++
  (s.launches.flatMap fun (l, x) => words [l, x.world, x.ctl, x.prio, x.place, x.nextCluster, x.retired, x.released]) ++
  (s.passes.flatMap fun (i, p) => words [i, p.team, p.op, p.m.toNat, p.a, p.b, p.c, p.va, p.posted, p.prio, p.granted.toNat]) ++
  (s.copies.flatMap fun (i, x) => words [i, x.quad, x.world, x.op, x.m.toNat, x.a, x.b, x.c, x.token, x.ctr, x.pending.toNat])

/-- What the model itself knows of the unit state: registers, pointers and tables, the error records, oldest first, and the
poison map. -/
def dumpBody (s : State) : List Byte :=
  s.dumpUnits ++ s.errors.reverse.flatMap (·.bytes) ++ s.poison.flatMap fun p => leBytes 8 (spaceCode p.1) ++ leBytes 8 p.2

/-- FREEZE_READOUT: header, unit state, the rest of it in a form that the spec does not lay out, signature (R470). -/
def readout (s : State) : State :=
  match s.frozen with
  | none => s.send (.reply 1 [])
  | some f =>
    let body := s.dumpHeader f ++ s.dumpBody ++ Config.dumpTail s.freeCtr
    s.send (.reply 0 (body ++ leBytes 96 (Config.sign s.aliasKey body)))

/-- The counters that R468 names. -/
def lifeIndex (k : Nat) : Bool := k < 0x330 || k == 0x330

end State

/-- CORRECTED_ERROR (R458, R467). -/
def execCorrectedError (unit loc : Nat) (addr : BitVec 64) (syn : BitVec 32) (s : State) : Host.Outcome State Fault Refusal :=
  .next (s.corrected unit loc addr.toNat syn.toNat)
/-- CORRECTED_MERGE_END (R467). -/
def execCorrectedMergeEnd (unit loc : Nat) (s : State) : Host.Outcome State Fault Refusal := .next (s.mergeEnds unit loc)
/-- UNCORRECTABLE_ERROR (R458). -/
def execUncorrectableError (kind loc : Nat) (addr : BitVec 64) (syn : BitVec 32) (s : State) : Host.Outcome State Fault Refusal :=
  .next (s.uncorrectable kind loc addr.toNat syn.toNat)
/-- FREEZE (R469): any other value is ignored. -/
def execFreeze (v : BitVec 32) (s : State) : Host.Outcome State Fault Refusal :=
  .next (if v = 0x0000A501 then s.freezeNow 1 else s)
/-- FREEZE_N (R469): when the fuse enables the pin. -/
def execFreezeN (s : State) : Host.Outcome State Fault Refusal := .next (if Config.freezePin then s.freezeNow 2 else s)
/-- FREEZE_READOUT (R470). -/
def execFreezeReadout (s : State) : Host.Outcome State Fault Refusal := .next s.readout
/-- LIFETIME_COUNTER_READ (R468): 4 little-endian bytes. -/
def execLifetimeCounterRead (idx : Nat) (s : State) : Host.Outcome State Fault Refusal :=
  .next (s.send (if State.lifeIndex idx then .reply 0 (leBytes 4 (s.lifeCounter idx)) else .reply 1 []))
/-- POWER_TELEMETRY (R66). -/
def execPowerTelemetry (s : State) : Host.Outcome State Fault Refusal := .next (s.send (.reply 0 (Config.telemetry s.clock)))
/-- SENSOR_HOUR (R468): an hour in a temperature bin and in a supply bin. -/
def execSensorHour (tbin vbin : Nat) (s : State) : Host.Outcome State Fault Refusal :=
  .next (if tbin < 16 && vbin < 16 then (s.countLife (0x310 + tbin)).countLife (0x320 + vbin) else s)

end Sys2Proof.Machine
end

