-- ==== Sys2Proof/Machine/Image.lean ====
section
/-! DEFINITION. The export image (R475): its parts as bytes, and what an IMPORT reads back from them. Where R475 names the
content of a part without laying it out, the layout here is the model's (log entry 49). -/

namespace Sys2Proof.Machine

/-! Words -/

/-- Bytes as 64-bit words, after their count. -/
def packBytes (bs : List Byte) : List Nat := bs.length :: (List.range (ceilDiv bs.length 8)).map fun i => field bs (8 * i) 8
/-- Words as bytes. -/
def wordBytes (ws : List Nat) : List Byte := ws.flatMap (leBytes 8)
/-- Bytes as words. -/
def bytesWords (bs : List Byte) : List Nat := (List.range (bs.length / 8)).map fun i => field bs (8 * i) 8

/-- What is read off the front of a list of words, and the rest. -/
abbrev Reader (α : Type) := List Nat → α × List Nat

/-- The next word; 0 behind the end. -/
def readWord : Reader Nat := fun ws => (ws.headD 0, ws.drop 1)
/-- Bytes packed by packBytes. -/
def readBytes : Reader (List Byte) := fun ws =>
  let n := ws.headD 0
  let k := ceilDiv n 8
  ((wordBytes ((ws.drop 1).take k)).take n, ws.drop (1 + k))
/-- n items. -/
def readMany {α : Type} (f : Reader α) (n : Nat) : Reader (List α) :=
  match n with
  | 0 => fun ws => ([], ws)
  | n + 1 => fun ws =>
    let (x, ws) := f ws
    let (xs, ws) := readMany f n ws
    (x :: xs, ws)
/-- A count, and as many items; no more than there are words. -/
def readList {α : Type} (f : Reader α) : Reader (List α) := fun ws =>
  readMany f (min (ws.headD 0) ws.length) (ws.drop 1)
/-- A list with its count before it. -/
def packList {α : Type} (f : α → List Nat) (l : List α) : List Nat := l.length :: l.flatMap f

/-! Staging (R475) -/

/-- A target; a device address counts from the world's region base lo. -/
def packTarget (lo : Nat) (t : Target) : List Nat :=
  match t with
  | .device a => [0, 0, a - lo]
  | .hostIo io => [1, 0, io]
  | .peer n a => [2, n, a]
def readTarget (lo : Nat) : Reader Target := fun ws =>
  let k := ws.headD 0
  let n := ws.getD 1 0
  let a := ws.getD 2 0
  (if k = 0 then .device (lo + a) else if k = 1 then .hostIo a else .peer n a, ws.drop 3)

/-- An operation of a staged entry. -/
def packOp (o : StagedOp) : List Nat :=
  match o with
  | .write bs => 0 :: packBytes bs
  | .atom op b c => [1, op, b, c]
  | .bank op e b c => [2, op, e, b % 2 ^ 64, b / 2 ^ 64, c]
  | .launch rec' sys => 3 :: sys.toNat :: packBytes rec'
def readOp : Reader StagedOp := fun ws =>
  match ws.headD 0 with
  | 0 =>
    let (bs, ws) := readBytes (ws.drop 1)
    (.write bs, ws)
  | 1 => (.atom (ws.getD 1 0) (ws.getD 2 0) (ws.getD 3 0), ws.drop 4)
  | 2 => (.bank (ws.getD 1 0) (ws.getD 2 0) (ws.getD 3 0 + 2 ^ 64 * ws.getD 4 0) (ws.getD 5 0), ws.drop 6)
  | _ =>
    let (bs, ws') := readBytes (ws.drop 2)
    (.launch bs (ws.getD 1 0 != 0), ws')

/-- A staged entry. -/
def packStaged (lo : Nat) (e : Staged) : List Nat :=
  packTarget lo e.target ++ [e.va, e.eligible.toNat, e.sealed.toNat] ++
    (match e.copyPiece with | some (c, i) => [1, c, i] | none => [0, 0, 0]) ++ packList (fun p => [p]) e.poison ++ packOp e.op
def readStaged (lo : Nat) : Reader Staged := fun ws =>
  let (t, ws) := readTarget lo ws
  let va := ws.headD 0
  let el := ws.getD 1 0 != 0
  let sl := ws.getD 2 0 != 0
  let cp := if ws.getD 3 0 = 1 then some (ws.getD 4 0, ws.getD 5 0) else none
  let (p, ws) := readList readWord (ws.drop 6)
  let (o, ws) := readOp ws
  ({ op := o, target := t, va := va, copyPiece := cp, eligible := el, sealed := sl, poison := p }, ws)

/-- A slot entry. -/
def packSlot (lo : Nat) (e : SlotEntry) : List Nat := e.va :: e.op :: packTarget lo e.target ++ packList (fun p => [p]) e.xs
def readSlot (lo : Nat) : Reader SlotEntry := fun ws =>
  let va := ws.headD 0
  let op := ws.getD 1 0
  let (t, ws) := readTarget lo (ws.drop 2)
  let (xs, ws) := readList readWord ws
  (⟨va, t, op, xs⟩, ws)

/-- A logged line (R462). -/
def packLine (u : Nat × List Byte) : List Nat := u.1 :: packBytes u.2
def readLine : Reader (Nat × List Byte) := fun ws =>
  let (bs, ws') := readBytes (ws.drop 1)
  ((ws.headD 0, bs), ws')

/-- A logged line of private memory (R332), in slice HBM or in host memory. -/
def packPriv (lo : Nat) (u : Space × Nat × List Byte) : List Nat :=
  (match u.1 with | .hbm => [0, u.2.1 - lo / 256] | _ => [1, u.2.1]) ++ packBytes u.2.2
def readPriv (lo : Nat) : Reader (Space × Nat × List Byte) := fun ws =>
  let (bs, ws') := readBytes (ws.drop 2)
  ((if ws.headD 0 = 0 then (Space.hbm, lo / 256 + ws.getD 1 0, bs) else (Space.host, ws.getD 1 0, bs)), ws')

/-- What a team's staging allocation holds; n is the completion order of its launch, or 0. A copy's pieces are named by lane and
token, which stay over the move (R432, R453). -/
def packTeam (lo n : Nat) (x : Team) : List Nat :=
  [x.rank, x.cluster, if x.st = .saved then 0 else if x.st = .retired then 1 else 2, x.slot, x.account, n, x.overflow.toNat, x.rollbacks,
    x.firstInterval.toNat, x.replaying.toNat] ++ packList (packStaged lo) x.staged ++ packList (packSlot lo) x.slots ++
    packList (packSlot lo) x.slotsKept ++ packList packLine x.undo ++ packList (packPriv lo) x.undoPriv
/-- The team read back, for launch number l, team index i, on control core c. -/
def readTeam (lo l i c : Nat) (ws : List Nat) : Nat × Team :=
  let g := fun (k : Nat) => ws.getD k 0
  let (staged, r) := readList (readStaged lo) (ws.drop 10)
  let (slots, r) := readList (readSlot lo) r
  let (kept, r) := readList (readSlot lo) r
  let (undo, r) := readList readLine r
  let (priv, _) := readList (readPriv lo) r
  (g 5, { launch := l, index := i, rank := g 0, cluster := g 1, core := 0,
          st := if g 2 = 0 then .saved else if g 2 = 1 then .retired else .gone, slot := g 3, account := g 4, region := c,
          overflow := g 6 != 0, rollbacks := g 7, firstInterval := g 8 != 0, replaying := g 9 != 0,
          staged := staged, slots := slots, slotsKept := kept, undo := undo, undoPriv := priv })

/-! The default program's memory -/

/-- The FIFO program's state in its 4 KiB: the ring served next, the held records, the outstanding ones, oldest first, as
many as fit. -/
def packFifo (f : Fifo) : List Byte :=
  let holds := f.holds.flatMap fun h => leBytes 8 (h.1 + 256 * h.2.2.toNat) ++ h.2.1.take 24
  let outs := f.outstanding.take ((4080 - holds.length) / 16)
  leBytes 4 f.next ++ leBytes 4 f.holds.length ++ leBytes 4 outs.length ++ zeros 4 ++ holds ++
    outs.flatMap fun o => leBytes 8 o.cookie.toNat ++
      leBytes 8 (o.done / 32 * 2048 + 8 * (match o.vector with | some v => v + 1 | none => 0) + o.ring)
def readFifo (bs : List Byte) : Fifo :=
  let nh := min 8 (field bs 4 4)
  let at' := 16 + 32 * nh
  let hold := fun (i : Nat) =>
    (field bs (16 + 32 * i) 1 % 8, (bs.drop (16 + 32 * i + 8)).take 24 ++ zeros 104, field bs (16 + 32 * i + 1) 1 != 0)
  let out := fun (i : Nat) =>
    let v := field bs (at' + 16 * i + 8) 8
    FifoRec.mk (v % 8) (BitVec.ofNat 64 (field bs (at' + 16 * i) 8)) (v / 2048 * 32) (if bits v 10 3 = 0 then none else some (bits v 10 3 - 1))
  ⟨field bs 0 4 % 8, (List.range nh).map hold, (List.range (min 256 (field bs 8 4))).map out⟩

namespace State

/-! The parts -/

/-- Lays parts one after another from 0x100 on, each padded to 64 bytes: their offsets, and the bytes. -/
def layParts (ps : List (List Byte)) : List Nat × List Byte :=
  ps.foldl (fun acc p => (acc.1 ++ [0x100 + acc.2.length], acc.2 ++ pad64 p)) ([], [])

/-- The bitmap of a world's dirty pages (R473). -/
def dirtyMap (s : State) (w : Nat) : List Byte :=
  let x := s.world w
  (List.range (x.size * 2048)).map fun i =>
    BitVec.ofNat 8 ((List.range 8).foldl (fun n k => n + if x.dirty.get false (8 * i + k) then 2 ^ k else 0) 0)

/-- WLD_RSTAT (R119). -/
def rstat (x : World) (r : Nat) : Nat :=
  let g := State.ring x r
  2 * g.badNotify.toNat + (g.enabled && x.st == .running).toNat

/-- World part. -/
def worldPart (s : State) (w : Nat) : List Byte :=
  let x := s.world w
  let sels := (List.range 12).map (0x400 + ·) ++ (List.range 8).map (0x440 + ·)
  leBytes 8 x.en.toNat ++ leBytes 8 x.cprog.toNat ++ leBytes 8 x.tctx.toNat ++
    ((List.range 8).flatMap fun r =>
      let g := State.ring x r
      leBytes 8 g.base.toNat ++ leBytes 4 g.head.toNat ++ leBytes 4 g.tail.toNat ++ leBytes 4 (rstat x r) ++ zeros 4) ++
    leBytes 4 (x.eventSeq + (s.sliceOf w).heldEvents.countP (·.world == w)) ++
    (sels.flatMap fun k => leBytes 8 ((s.dbgGet w k).getD 0)) ++ zeros 132

/-- STATE of WLD_CPSTAT. -/
def cpCode (p : CpSt) : Nat :=
  match p with
  | .stopped => 0 | .running => 1 | .waiting => 2 | .parked => 3 | .faulted => 4
/-- WLD_CPSTAT (R126). -/
def cpstat (p : Prog) : Nat := cpCode p.st + if p.st = .faulted then p.fault * 2 ^ 24 else 0

/-- Control part. The frame's last 8 bytes hold the header of the clause in which the PC stands. -/
def controlPart (s : State) (w : Nat) : List Byte :=
  let p := s.prog w
  let l := p.lane
  let pc := match p.clause with
    | some c => c.hdr
    | none => l.pc
  let frame := ((List.range 240).flatMap fun k => leBytes 4 (l.regs.get 0 k).toNat) ++ leBytes 8 l.pc ++ leBytes 4 l.sptr.toNat ++
    leBytes 4 l.flags.toNat ++ leBytes 8 l.draw.toNat ++ leBytes 4 (cpstat p) ++ leBytes 4 (tokState l) ++
    ((List.range 6).flatMap fun k => leBytes 4 (l.tokens.get {} k).count) ++ leBytes 8 pc
  let mem := if p.custom then (List.range p.privSize).map fun i => p.priv.get unlisted i else
    let f := packFifo p.fifo
    f ++ zeros (4096 - f.length)
  let copies := (s.copies.filter fun e => e.2.who == Agent.prog w && !e.2.ro).map (·.2)
  frame ++ mem ++ copies.flatMap copyRecordBytes

/-- The unread events, with those that wait for a free entry behind them, oldest first. -/
def imageEvents (s : State) (w : Nat) : List Event :=
  s.eventsOf w ++ (((s.sliceOf w).heldEvents.filter fun e => e.world == w).mapIdx fun i e =>
    { e with seq := ((s.world w).eventSeq + i) % 2 ^ 32, time := s.clock })

/-- Unfinished launches in acceptance order. -/
def imageLaunches (s : State) (w : Nat) : List (Nat × Launch) := s.launches.filter fun (_, l) => l.world == w && l.st != .done

/-- Code of a launch's state in the image. -/
def launchCode (st : LaunchSt) : Nat :=
  match st with
  | .queued => 0 | .active => 1 | .failing => 2 | .holding => 3 | .done => 4

/-- A launch entry, 512 bytes. -/
def launchEntry (l : Launch) : List Byte :=
  let (fs, fc, ft) := l.fail.getD (0, 0, 0)
  let state := leBytes 4 l.prio ++ leBytes 4 l.place ++ leBytes 4 l.nextCluster ++ leBytes 4 l.retired ++ leBytes 4 l.released ++
    leBytes 4 l.g ++ leBytes 1 fs ++ leBytes 1 fc ++ leBytes 1 (launchCode l.st) ++ leBytes 1 (l.races.length + 16 * l.raceHeld.toNat) ++
    leBytes 4 ft ++ (l.races.flatMap fun r => leBytes 8 r.1 ++ leBytes 4 r.2)
  (l.recBytes ++ zeros (128 - l.recBytes.length)).take 128 ++ (l.descBytes ++ zeros (256 - l.descBytes.length)).take 256 ++
    (state ++ zeros (128 - state.length)).take 128

/-- The returning clusters of the unfinished launches: number in the image, launch, cluster. -/
def imageClusters (s : State) (w : Nat) : List (Nat × Nat × Nat) :=
  ((s.imageLaunches w).mapIdx fun i e => (i, e)).flatMap fun (i, k, l) => l.returning.map fun c => (i, k, c)

/-- A cluster entry: one slot number per team, 0xFFFF_FFFF for a team that is not saved. -/
def clusterEntry (s : State) (i l c : Nat) : List Byte :=
  let n := (s.launch l).clusterSize
  pad64 (leBytes 4 c ++ leBytes 4 i ++ leBytes 4 n ++ (List.range n).flatMap fun r =>
    leBytes 4 (match s.teams.find? fun (_, x) => x.launch == l && x.cluster == c && x.rank == r && x.st == .saved with
      | some (_, x) => x.slot
      | none => 0xFFFFFFFF))

/-- The staging allocations of a world's teams, with the number of their launch in the image. -/
def imageStaging (s : State) (w : Nat) : List (Nat × Nat × Team) :=
  let ls := (s.imageLaunches w).map (·.1)
  (s.teams.filter fun (_, x) =>
      let l := s.launch x.launch
      l.world == w && (if x.st = .gone then !x.slots.isEmpty else stageUnits l != 0)).map fun (t, x) =>
    ((ls.findIdx? (· == x.launch)).getD 0xFFFFFFFF, t, x)

/-- A staging entry, and its units. -/
def stagingEntry (s : State) (w n : Nat) (x : Team) : List Byte :=
  let l := s.launch x.launch
  let words := packTeam (regionRange (s.world w)).1 l.doneSeq x
  let need := if x.st = .gone then ceilDiv (64 * x.slots.length) 4096 else stageUnits l
  let units := max need (ceilDiv (8 * words.length) 4096)
  pad64 (leBytes 4 n ++ leBytes 4 x.index ++ leBytes 4 (x.st == .gone).toNat ++ leBytes 4 units ++ leBytes 4 x.account) ++
    wordBytes words ++ zeros (4096 * units - 8 * words.length)

/-- The race-tag words of a launch, range by range (R417). -/
def raceBytes (l : Launch) : List Byte :=
  l.races.flatMap fun r => (List.range r.2).flatMap fun i => leBytes 2 (l.raceWords.get 0 (r.1 / 64 + i)).toNat

/-- The image. -/
def exportImage (s : State) (w : Nat) : List Byte :=
  let ls := s.imageLaunches w
  let cs := s.imageClusters w
  let st := s.imageStaging w
  let tags := (ls.filter fun e => e.2.record.raceN != 0).flatMap fun e => raceBytes e.2
  let win := s.read (.window w) 0 (s.windowSize w)
  let (offs, body) := layParts
    [s.dirtyMap w, s.worldPart w, s.controlPart w, (s.imageEvents w).flatMap (·.bytes),
     (ls.flatMap fun e => launchEntry e.2) ++ cs.flatMap fun c => s.clusterEntry c.1 c.2.1 c.2.2,
     st.flatMap fun e => s.stagingEntry w e.1 e.2.2, tags, win]
  [0x47#8, 0x4D#8, 0x49#8, 0x47#8, 0x01#8, 0x00#8, BitVec.ofNat 8 w, 0#8] ++ leBytes 4 (256 + body.length) ++
    leBytes 2 (s.world w).size ++ leBytes 2 ls.length ++ leBytes 2 (s.imageEvents w).length ++ leBytes 2 cs.length ++
    leBytes 4 st.length ++ leBytes 4 win.length ++ leBytes 4 tags.length ++ (offs.flatMap (leBytes 4)) ++ leBytes 8 s.clock ++ zeros 184 ++ body

end State

/-! Reading back -/

/-- A part of an image. -/
def imagePart (im : List Byte) (k : Nat) : List Byte := im.drop (field im (0x20 + 4 * k) 4)

/-- An event record read back, for a world. -/
def parseEvent (w : Nat) (bs : List Byte) : Event :=
  { type := field bs 0 1, status := field bs 1 1, world := w, aux := field bs 3 1, seq := field bs 4 4,
    cookie := BitVec.ofNat 64 (field bs 8 8), count := field bs 0x10 4, team := field bs 0x14 4, time := field bs 0x18 8 }

/-- A launch entry read back, for a world on control core c. -/
def parseLaunch (w c : Nat) (bs : List Byte) : Launch :=
  let rec' := bs.take 128
  let d := (bs.drop 128).take 256
  let q := bs.drop 384
  let code := field q 26 1
  let n := field q 27 1
  { world := w, ctl := c, prio := field q 0 4 % 4, record := parseRecord rec', recBytes := rec',
    desc := if code = 0 then {} else parseDesc d, descBytes := if code = 0 then [] else d,
    st := if code = 0 then .queued else if code = 1 then .active else if code = 2 then .failing else .holding,
    nextCluster := field q 8 4, retired := field q 12 4, released := field q 16 4, g := field q 20 4,
    fail := if field q 24 1 = 0 then none else some (field q 24 1, field q 25 1, field q 28 4),
    raceHeld := bit n 4, raceRegion := c,
    races := (List.range (n % 16)).map fun i => (field q (32 + 12 * i) 8, field q (40 + 12 * i) 4) }

/-- The launches of an image. -/
def imageRecords (w c : Nat) (im : List Byte) : List Launch :=
  (List.range (field im 0x0E 2)).map fun i => parseLaunch w c ((imagePart im 4).drop (512 * i))

/-- The cluster entries of an image: cluster, launch number, slot numbers by rank. -/
def imageReturns (im : List Byte) : List (Nat × Nat × List Nat) :=
  (List.range (field im 0x12 2)).map fun i =>
    let e := (imagePart im 4).drop (512 * field im 0x0E 2 + 64 * i)
    (field e 0 4, field e 4 4, (List.range (min 13 (field e 8 4))).map fun r => field e (12 + 4 * r) 4)

/-- The staging entries of an image: launch number, team, kind, units, account, and the units' bytes. -/
def stagingFrom (n : Nat) (bs : List Byte) : List (Nat × Nat × Nat × List Byte) :=
  match n with
  | 0 => []
  | n + 1 =>
    let u := 4096 * field bs 12 4
    (field bs 0 4, field bs 4 4, field bs 8 4, (bs.drop 64).take u) :: stagingFrom n (bs.drop (64 + u))
def imageAllocations (im : List Byte) : List (Nat × Nat × Nat × List Byte) := stagingFrom (field im 0x14 4) (imagePart im 5)

/-- Race-tag words of a launch read back. -/
def readTags (races : List (Nat × Nat)) (bs : List Byte) : SMap (BitVec 16) × List Byte :=
  races.foldl (fun acc r =>
    ((List.range r.2).foldl (fun m i => m.put 0 (r.1 / 64 + i) (BitVec.ofNat 16 (field acc.2 (2 * i) 2))) acc.1, acc.2.drop (2 * r.2)))
    ([], bs)

end Sys2Proof.Machine
end

