-- ==== Sys2Proof/Machine/Migrate.lean ====
section
/-! DEFINITION. Migration (R471 to R478): TRACK, HARVEST, EXPORT, IMPORT and UNTRACK, their completion, and the rotation of a
world's inline key (R358). -/

namespace Sys2Proof.Machine

namespace State

/-! Starting and ending (R471) -/

/-- The running migration command ends with a status; its completion is due. -/
def endMigration (s : State) (status : Nat) : State :=
  match s.command with
  | some c => ({ s with command := some { c with ended := some status } } : State).pushOnce (.migrationCommandDone c.world)
  | none => s

/-- A write of WLD_MIGCMD with GO = 1 and an operation (R42, R63, R471). One that was held comes here again: GO reads 1 then, and
the time of the write stands. -/
def migWrite (s : State) (w op : Nat) (i : Instr) (run : State → State) : State :=
  if w = 0 || 96 < w || s.command.isSome || s.held.any isCommand then s else
  let s : State := { s with cmdWritten := if (s.world w).migCmd.getLsbD 0 then s.cmdWritten else s.clock }
  let s := s.modWorld w fun x => { x with migCmd := BitVec.ofNat 32 (op * 2 ^ 24 + 1) }
  if s.activating then { s with held := s.held ++ [i] } else
  let c : Command := { op := 0x80 + op % 128, world := w, node := 0, owner := 0, arg := 0, start := s.cmdWritten, bound := s.clock }
  run { s with command := some c }

/-- Registers of the buffer: its address and its bytes; both lie on 4 KiB (log entry 50). -/
def migBuffer (x : World) : Nat × Nat := (x.migBuf.toNat / 4096 * 4096, x.migSize.toNat / 4096 * 4096)

/-- Writes bytes at WLD_MIGBUF, and their count into WLD_MIGLEN; none when they do not fit, or a host page is not mapped. -/
def migPut (s : State) (w : Nat) (bs : List Byte) : Option State :=
  let (a, n) := migBuffer (s.world w)
  if n < bs.length then none
  else (s.hostWrite 0 a bs).map fun s => s.modWorld w fun x => { x with migLen := BitVec.ofNat 32 bs.length }

/-! Dirty tracking (R472, R473) -/

/-- TRACK. -/
def trackWorld (s : State) (w : Nat) : State :=
  let x := s.world w
  if !(x.st == .attached || x.st == .running || x.st == .quiesced) || x.tdi ≠ .unlocked then s.endMigration 4
  else if x.tagBase.getLsbD 0 || x.rotation.isSome then s.endMigration 0x0C
  else
    let p := (regionRange x).1 / 65536
    let pages := (keepRange s.written p (x.size * 16384)).map fun e => (e.1 - p, true)
    (s.setWorld w { x with tracking := true, dirty := pages }).endMigration 0

/-- UNTRACK. -/
def untrackWorld (s : State) (w : Nat) : State := (s.modWorld w fun x => { x with tracking := false, dirty := [] }).endMigration 0

/-- HARVEST: the bitmap goes to the buffer and every bit clears, at one cut. A world bound since its TRACK does not migrate (R60,
R472; log entry 50). -/
def harvestWorld (s : State) (w : Nat) : State :=
  if (s.world w).st = .free || (s.world w).tdi ≠ .unlocked then s.endMigration 4 else
  match s.migPut w (s.dirtyMap w) with
  | none => s.endMigration 6
  | some s => (s.modWorld w fun x => { x with dirty := [] }).endMigration 0

/-! EXPORT (R474) -/

/-- Steps 1 and 2. An ATTACHED world is quiesced like a RUNNING one, so that no team of it is resident, and a world bound since
its TRACK is not exported before STOP_INTERFACE_REQUEST (R60; log entry 50). -/
def exportStart (s : State) (w : Nat) : State :=
  let x := s.world w
  if !x.tracking || x.tdi ≠ .unlocked then s.endMigration 4 else
  let s := if x.st = .running || x.st = .attached then s.quiesceWorld w 4 else s
  (s.modWorld w fun x => { x with dropWrites := true }).pushOnce (.migrationCommandDone w)

/-- Step 3 has ended: saves, the program's copies, and a release in progress; a program that waits for its code is in place. -/
def exportReady (s : State) (w : Nat) : Bool :=
  s.quiesceDone w && !(s.prog w).starting && !s.copies.any (fun (_, x) => x.who == Agent.prog w && x.pending) &&
    !s.teams.any fun (_, x) => x.releasing && (s.launch x.launch).world == w

/-- Step 4. -/
def exportWrite (s : State) (w : Nat) : State × Nat :=
  match s.migPut w (s.exportImage w) with
  | none => (s, 6)
  | some s => (s.modWorld w fun x => { x with dirty := [], exported := true }, 0)

/-- EXPORT_TIMEOUT: a save is unfinished 40 ms after the start. The world stays QUIESCED. -/
def exportLate (s : State) (w : Nat) : State :=
  match s.command with
  | none => s
  | some c =>
    if c.op = 0x83 && c.world = w && c.ended.isNone && s.late c 40000000 && !s.quiesceDone w then s.endMigration 0x0B else s

/-! IMPORT (R476, R477) -/

/-- Events of a world that the queue of its slice could take: its reserved and the shared entries (R133). -/
def eventsFit (s : State) (w n : Nat) : Bool :=
  let sl := s.sliceOf w
  let own (v : Nat) := (sl.events.filter (·.world == v)).length + if v = w then n else 0
  decide (own w ≤ 512) || decide (sl.worlds.foldl (fun m v => m + (own v - 512)) 0 ≤ 4096 - 512 * sl.worlds.length)

/-- An image keeps R476 on its destination. -/
def importOk (s : State) (w : Nat) (im : List Byte) : Bool :=
  let x := s.world w
  let ls := imageRecords w x.ctl im
  let (_, _, cols, rows) := nodeMesh (s.slice x.ctl).node
  let alloc := (imageAllocations im).foldl (fun n a =>
    n + if a.2.2.1 = 0 then stageUnits (ls.getD a.1 { world := w, ctl := 0, prio := 0, record := {} })
      else ceilDiv (64 * (readTeam 0 0 0 0 (bytesWords a.2.2.2)).2.slots.length) 4096) 0
  let races := ls.foldl (fun n l => n + if l.raceHeld then l.races.foldl (fun m r => m + r.2) 0 else 0) 0
  im.take 6 == [0x47#8, 0x4D#8, 0x49#8, 0x47#8, 0x01#8, 0x00#8] && field im 0x0C 2 == x.size &&
    field im 0x18 4 == s.windowSize w &&
    ls.all (fun l => (rectShape l.rect).1 ≤ cols && (rectShape l.rect).2 ≤ rows) &&
    (List.range 4).all (fun q => decide (s.queueLength x.ctl q + (ls.filter fun l => l.prio == q && inQueue l).length ≤ 1024)) &&
    s.eventsFit w (field im 0x10 2) && decide (s.stagingUsed x.ctl + alloc ≤ 196608) && decide (s.racesUsed x.ctl + races ≤ 2 ^ 27)

/-- The world part. -/
def importWorldPart (s : State) (w : Nat) (b : List Byte) : State :=
  let sel := fun (k : Nat) => BitVec.ofNat 64 (field b (220 + 8 * k) 8)
  let ring := fun (r : Nat) => Ring.mk (BitVec.ofNat 64 (field b (24 + 24 * r) 8)) (BitVec.ofNat 32 (field b (32 + 24 * r) 4))
    (BitVec.ofNat 32 (field b (36 + 24 * r) 4)) (bit (field b (40 + 24 * r) 4) 1)
  let dbg0 : Debug :=
    { ctl := sel 0, mseq := (sel 1).extractLsb' 32 32, err := (sel 1).getLsbD 2, new := (sel 1).getLsbD 0, sel := sel 2, cmd := sel 3,
      displaced := sel 4, dispPc := sel 5, rsel := sel 6
      wp := (List.range 4).foldl (fun m k => m.put 0 k (sel (8 + k))) []
      mbox := (List.range 8).foldl (fun m k => m.put 0 k (sel (12 + k))) [] }
  let s := s.modWorld w fun x => { x with
    en := bit (field b 0 8) 0, cprog := BitVec.ofNat 64 (field b 8 8), tctx := BitVec.ofNat 64 (field b 16 8)
    rings := (List.range 8).foldl (fun m r => m.insert r (ring r)) [], eventSeq := field b 216 4, dbg := dbg0, fqBroken := false }
  let ctx := (s.wpaRead w (contextAddr (s.world w)) 64).bind parseContext
  s.modWorld w fun x => { x with context := ctx }

/-- The lane of a control program's frame. -/
def importLane (b : List Byte) : Lane :=
  { regs := (List.range 240).foldl (fun m k => m.put 0 k (BitVec.ofNat 32 (field b (4 * k) 4))) []
    pc := field b 960 8, sptr := BitVec.ofNat 32 (field b 968 4), flags := BitVec.ofNat 5 (field b 972 4)
    draw := BitVec.ofNat 64 (field b 976 8), hdr := field b 1016 8
    tokens := (List.range 6).foldl (fun m k =>
      let st := bits (field b 988 4) (2 * k + 1) (2 * k)
      m.put {} k { st := if st = 0 then .idle else if st = 1 then .pending else if st = 2 then .done else .faulted,
                   count := field b (992 + 4 * k) 4 }) [] }

/-- The state of a program in an image: one that was PARKED replays at once (R478). -/
def importCp (v : Nat) : CpSt :=
  match v % 16 with
  | 0 => .stopped | 2 => .waiting | 4 => .faulted | _ => .running

/-- The clause of an image's program in which its PC stands, from the bytes of its code. -/
def importClause (d : Desc) (code : List Byte) (l : Lane) : Option Clause :=
  let at' := fun (a : Nat) => BitVec.ofNat 32 (field code (a - d.codeBase) 4)
  let h := (at' l.hdr).toNat
  let ws := (List.range (bits h 3 0)).map fun i => at' (l.hdr + 4 + 4 * i)
  if l.hdr = l.pc || !clauseOk h ws false then none else some (clauseOf l.hdr h ws ((l.pc - l.hdr - 4) / 4) none)

/-- The control part: the program goes on at its saved PC; measurement 8 is computed again over its code (R476). -/
def importProg (s : State) (w : Nat) (b : List Byte) : State :=
  let st := field b 984 4
  match s.selectedProg w with
  | (.error _, s) => (s.dropAnswers (.prog w)).refuseProg w
  | (.ok none, s) =>
    s.modWorld w fun x => { x with
      progDigest := s.defaultDigest
      prog := { st := importCp st, fault := bits st 31 24, privSize := 4096, nregs := 240, lane := importLane b
                fifo := readFifo (b.drop 1024) } }
  | (.ok (some (d, code)), s) =>
    let l := importLane b
    let cl := importClause d code l
    let copies := b.drop (1024 + d.priv)
    let n := (List.range 6).countP fun k => (l.tokens.get {} k).st == .pending || (l.tokens.get {} k).st == .faulted
    let s := (s.dropAnswers (.prog w)).modWorld w fun x => { x with
      progDigest := Config.sha384 code
      prog := { st := importCp st, fault := bits st 31 24, custom := true, priv := putBytes [] 0 ((b.drop 1024).take d.priv)
                entry := d.entry, codeBase := d.codeBase, codeSize := d.codeSize, nregs := d.nregs, privSize := d.priv
                flagEn := d.flagEn, clause := cl, lane := if cl.isSome || l.hdr = l.pc then l else { l with pc := l.hdr } } }
    (List.range n).foldl (fun (s : State) i =>
      let k := { parseCopy 0 w ((copies.drop (2112 * i)).take 2112) with who := .prog w, quad := lowestQuad (s.world w).ctl }
      let k := { k with bytes := k.pieceBytes }
      { s with copies := s.copies.insert s.nextCopy k, nextCopy := s.nextCopy + 1 }) s

/-- A launch joins the tail of its queue. -/
def importLaunch (s : State) (l : Launch) : State :=
  let place := 1 + (s.launches.filter fun e => e.2.ctl == l.ctl && e.2.prio == l.prio).foldl (fun n e => max n e.2.place) 0
  { s with launches := s.launches.insert s.nextLaunch { l with place := place }, nextLaunch := s.nextLaunch + 1 }

/-- A returning cluster of the launch numbered li: its saved teams, as the launch's returning head (R141). -/
def importCluster (s : State) (li cl : Nat) (slots : List Nat) : State :=
  let l := s.launch li
  let s := s.modLaunch li fun l => { l with returning := l.returning.filter (· < cl) ++ [cl] ++ l.returning.filter (cl < ·) }
  (slots.mapIdx fun r k => (r, k)).foldl (fun s (r, k) =>
    if k = 0xFFFFFFFF then s else
    let x : Team := { launch := li, index := cl * l.clusterSize + r, rank := r, cluster := cl, core := 0, st := .saved, slot := k, region := l.ctl }
    let s := s.modLaunch li fun l => { l with slotsUsed := l.slotsUsed ++ [k] }
    { s with teams := s.teams.insert s.nextTeam x, nextTeam := s.nextTeam + 1 }) s

/-- A launch that is complete, and of which only slots are left: the one of this completion order among those imported, or a
new one. -/
def importDone (s : State) (w first n : Nat) : Nat × State :=
  match s.launches.find? fun (k, l) => first ≤ k && l.world == w && l.st == .done && l.doneSeq == n with
  | some (k, _) => (k, s)
  | none =>
    (s.nextLaunch, { s with
      launches := s.launches.insert s.nextLaunch { world := w, ctl := (s.world w).ctl, prio := 0, record := {}, st := .done, doneSeq := n }
      nextLaunch := s.nextLaunch + 1 })

/-- A staging allocation goes to the team that a cluster entry made, or to a new one. -/
def importStaging (s : State) (w first : Nat) (a : Nat × Nat × Nat × List Byte) : State :=
  let (n, i, kind, bs) := a
  let c := (s.world w).ctl
  let (seq, x) := readTeam (regionRange (s.world w)).1 (first + n) i c (bytesWords bs)
  let (li, s) := if kind = 0 then (first + n, s) else s.importDone w first seq
  let x := { x with launch := li }
  match s.teams.find? fun (_, y) => y.launch == li && y.index == i with
  | some (t, y) => s.setTeam t { x with slot := y.slot }
  | none => { s with teams := s.teams.insert s.nextTeam x, nextTeam := s.nextTeam + 1 }

/-- Race-tag words of the launches with ranges. -/
def importTags (s : State) (first n : Nat) (bs : List Byte) : State :=
  ((List.range n).foldl (fun (acc : State × List Byte) i =>
    let (m, rest) := readTags (acc.1.launch (first + i)).races acc.2
    (acc.1.modLaunch (first + i) fun l => { l with raceWords := m }, rest)) (s, bs)).1

/-- The parts in the order of the table, then QUIESCED with the exported EN, which R511 remembers where it is 0, and the event
(R476, R477). -/
def importImage (s : State) (w : Nat) (im : List Byte) : State :=
  let first := s.nextLaunch
  let n := field im 0x0E 2
  let s : State := { s.tlbDropAll w with atsHeld := s.atsHeld.filter fun e => e.1.1 != w }
  let s := (s.importWorldPart w (imagePart im 1)).importProg w (imagePart im 2)
  let events := (List.range (field im 0x10 2)).map fun i => parseEvent w ((imagePart im 3).drop (32 * i))
  let s := s.modSlice (s.world w).ctl fun sl => { sl with events := sl.events ++ events }
  let s := (imageRecords w (s.world w).ctl im).foldl (fun s l => s.importLaunch l) s
  let s := (imageReturns im).foldl (fun s e => s.importCluster (first + e.2.1) e.1 e.2.2) s
  let s := (imageAllocations im).foldl (fun s a => s.importStaging w first a) s
  let s := s.importTags first n (imagePart im 6)
  let s := s.modWorld w fun x => { x with
    window := putBytes [] 0 ((imagePart im 7).take (field im 0x18 4)), st := .quiesced, enDropped := !x.en, records := [], priGroups := [] }
  s.postEvent w { type := 5, world := w, aux := field im 6 1, cookie := BitVec.ofNat 64 (field im 0x40 8), count := n }

/-- The peer's bytes that the program's descriptor or code needs first (R303). -/
def importAsk (s : State) (w : Nat) (im : List Byte) : Option (Nat × Nat × Nat) :=
  match ((s.importWorldPart w (imagePart im 1)).selectedProg w).1 with
  | .error e => e.ask
  | .ok _ => none

/-- IMPORT. It waits where the program's code lies at a peer, and begins again with the answer. -/
def importStart (s : State) (w : Nat) : State :=
  let x := s.world w
  let (a, n) := migBuffer x
  if x.st ≠ .attached || x.en || x.tdi ≠ .unlocked then s.endMigration 4 else
  match s.hostRead 0 a 256 with
  | none => s.endMigration 5
  | some h =>
    let size := field h 8 4
    if n < size then s.endMigration 5 else
    match s.hostRead 0 a size with
    | none => s.endMigration 5
    | some im =>
      if !s.importOk w im then s.endMigration 5
      else match s.importAsk w im with
        | some q => s.askInner (.prog w) w q
        | none => (s.importImage w im).endMigration 0

/-! Completion -/

/-- A migration command has ended: WLD_MIGSTAT, vector 0 of world 0 (R471); an IMPORT opens a usage chain (R495). -/
def finishMigration (s : State) (c : Command) (status : Nat) : State :=
  let w := c.world
  let s : State := { s with command := none }
  let s := s.modWorld w fun x => { x with
    migStatus := status, migElapsed := min 0x3FFFFF (s.microsSince c.start), migCmd := x.migCmd &&& ~~~1#32 }
  let s := if c.op = 0x84 && status = 0 then (s.openChain w c.start true).cutWorld w false else s
  let s := (s.signal 0 0).releaseHeldOps
  (s.slices.map (·.1)).foldl (fun s k => s.decide' k) s

/-- MIGRATION_COMMAND_DONE. -/
def migrationDone (s : State) (w : Nat) : State :=
  match s.command with
  | none => s
  | some c =>
    if c.op < 0x80 || c.world ≠ w then s else
    match c.ended with
    | some st => s.finishMigration c st
    | none =>
      if c.op = 0x83 && s.exportReady w then
        let (s, st) := s.exportWrite w
        s.finishMigration c st
      else if c.op = 0x84 && !s.asking (.prog w) then s.importStart w
      else s

/-! Key rotation (R358) -/

/-- ROTATION_STEP: the unit at the boundary is written under the new key, and the boundary moves on; past the last unit the
new key becomes the world's key. -/
def rotateStep (s : State) (w : Nat) : State :=
  let x := s.world w
  match x.rotation with
  | none => s
  | some p =>
    if p < units x then
      let unit := (regionRange x).1 / 65536 + p
      let s := if s.fresh unit then s else (s.meterSlice x.ctl 5 65536).meterSlice x.ctl 6 65536
      s.modWorld w fun x => { x with rotation := some (p + 1) }
    else s.modWorld w fun x => { x with rotation := none, key := x.secondKey, secondKey := none }

end State

/-- TRACK (R472). -/
def execTrack (w : Nat) (s : State) : Host.Outcome State Fault Refusal := .next (s.migWrite w 1 (.track w) fun s => s.trackWorld w)
/-- HARVEST (R473). -/
def execHarvest (w : Nat) (s : State) : Host.Outcome State Fault Refusal := .next (s.migWrite w 2 (.harvest w) fun s => s.harvestWorld w)
/-- EXPORT (R474). -/
def execExportWorld (w : Nat) (s : State) : Host.Outcome State Fault Refusal := .next (s.migWrite w 3 (.exportWorld w) fun s => s.exportStart w)
/-- EXPORT_TIMEOUT (R474). -/
def execExportTimeout (w : Nat) (s : State) : Host.Outcome State Fault Refusal := .next (s.exportLate w)
/-- IMPORT (R476). -/
def execImportWorld (w : Nat) (s : State) : Host.Outcome State Fault Refusal := .next (s.migWrite w 4 (.importWorld w) fun s => s.importStart w)
/-- UNTRACK (R472). -/
def execUntrack (w : Nat) (s : State) : Host.Outcome State Fault Refusal := .next (s.migWrite w 5 (.untrack w) fun s => s.untrackWorld w)
/-- MIGRATION_COMMAND_DONE (R471). -/
def execMigrationCommandDone (w : Nat) (s : State) : Host.Outcome State Fault Refusal := .next (s.migrationDone w)
/-- ROTATION_STEP (R358). -/
def execRotationStep (w : Nat) (s : State) : Host.Outcome State Fault Refusal := .next (s.rotateStep w)

end Sys2Proof.Machine
end

