-- ==== Sys2Proof/Machine/Registers.lean ====
section
/-! DEFINITION. The memory-mapped registers: where each lies in PF BAR0 and VF BAR0 (R47, R64, R105, R112, R113, R119, R151 to
R154, R310, R311, R362, R457, R466, R471, R493), what it reads, and what a write does. -/

namespace Sys2Proof.Machine

/-- The registers of both BARs. c is a control core, w a world. -/
inductive Reg where
  | slcCmd | slcArg | slcStat | fwaCmd | fwaStat | fwaAddr | fwaSize | station
  | slcState (c : Nat) | slcL2 (c : Nat) | tmplAddr (c : Nat) | tmplSize (c : Nat) | tmplDest (c : Nat) | slcWlist (c : Nat)
  | ageLimit (c : Nat) | lend (c : Nat) | slcFresh (c : Nat) | slcDisp (c : Nat) | slcStage (c : Nat) | quantum (c : Nat)
  | wldState (w : Nat) | wldCtl (w : Nat) | wldMem (w : Nat) | wldL2mask (w : Nat) | cprog (w : Nat) | cpstat (w : Nat) | cppc (w : Nat)
  | tctx (w : Nat) | rbase (w r : Nat) | rhead (w r : Nat) | rstat (w r : Nat) | notify (w r : Nat)
  | route (c n : Nat) | palFrame | palSel | palPend | palData (k : Nat)
  | metBase | metHead | metTail | metStat | metPeriod | metSlice (c k : Nat) | metWorld (w k : Nat)
  | segment (w i : Nat) | keyRot (w : Nat) | keyTagbase (w : Nat) | keyChstat (w : Nat) | keyTx (w n : Nat) | keyRx (w n : Nat)
  | relBase | relHead | relTail | relStat | frzCmd
  | migCmd (w : Nat) | migStat (w : Nat) | migBuf (w : Nat) | migSize (w : Nat) | migLen (w : Nat)
  deriving DecidableEq, Repr

/-- A register's place: its first byte and its width in bytes. -/
structure RegAt where
  reg : Reg
  base : Nat
  bytes : Nat
  deriving DecidableEq, Repr

/-- The register of a world block that holds the byte at an offset of the block (R51, R119, R311). -/
def worldReg (w off base : Nat) : Option RegAt :=
  let at' := fun (r : Reg) (o n : Nat) => some (RegAt.mk r (base + o) n)
  if off < 0x04 then at' (.wldState w) 0 4
  else if off < 0x08 then none
  else if off < 0x0C then at' (.wldCtl w) 0x08 4
  else if off < 0x10 then none
  else if off < 0x14 then at' (.wldMem w) 0x10 4
  else if off < 0x18 then none
  else if off < 0x1C then at' (.wldL2mask w) 0x18 4
  else if off < 0x20 then none
  else if off < 0x28 then at' (.cprog w) 0x20 8
  else if off < 0x2C then at' (.cpstat w) 0x28 4
  else if off < 0x30 then none
  else if off < 0x38 then at' (.cppc w) 0x30 8
  else if off < 0x40 then at' (.tctx w) 0x38 8
  else if off < 0x100 then
    let r := (off - 0x40) / 0x18
    let o := (off - 0x40) % 0x18
    let b := 0x40 + 0x18 * r
    if o < 8 then at' (.rbase w r) b 8
    else if o < 0x0C then at' (.rhead w r) (b + 8) 4
    else if o < 0x10 then at' (.rstat w r) (b + 0x0C) 4
    else if o < 0x14 then at' (.notify w r) (b + 0x10) 4
    else none
  else none

/-- The register of a slice block (R47, R151 to R153, R434, R457). -/
def sliceReg (c off base : Nat) : Option RegAt :=
  let at' := fun (r : Reg) (o n : Nat) => if off < o + n then some (RegAt.mk r (base + o) n) else none
  match off / 8 with
  | 0 => at' (.slcState c) 0x00 4
  | 1 => at' (.slcL2 c) 0x08 4
  | 2 => at' (.tmplAddr c) 0x10 8
  | 3 => at' (.tmplSize c) 0x18 4
  | 4 => at' (.tmplDest c) 0x20 8
  | 5 => at' (.slcWlist c) 0x28 8
  | 6 => at' (.ageLimit c) 0x30 4
  | 7 => at' (.lend c) 0x38 4
  | 8 => at' (.slcFresh c) 0x40 8
  | 9 => at' (.slcDisp c) 0x48 4
  | 10 => at' (.slcStage c) 0x50 8
  | 11 => at' (.quantum c) 0x58 4
  | _ => none

/-- A register of the key block of a world (R362). -/
def keyReg (w off base : Nat) : Option RegAt :=
  let at' := fun (r : Reg) (o n : Nat) => if off < o + n then some (RegAt.mk r (base + o) n) else none
  if off < 0x08 then at' (.keyRot w) 0 8
  else if off < 0x10 then at' (.keyTagbase w) 0x08 8
  else if off < 0x20 then at' (.keyChstat w) 0x10 4
  else if off < 0x60 then
    let n := (off - 0x20) / 0x10
    if off % 0x10 < 8 then at' (.keyTx w n) (0x20 + 0x10 * n) 8 else at' (.keyRx w n) (0x28 + 0x10 * n) 8
  else none

/-- A register of the migration block of a world (R471). -/
def migReg (w off base : Nat) : Option RegAt :=
  let at' := fun (r : Reg) (o n : Nat) => some (RegAt.mk r (base + o) n)
  if off < 0x04 then at' (.migCmd w) 0 4
  else if off < 0x08 then at' (.migStat w) 4 4
  else if off < 0x10 then at' (.migBuf w) 8 8
  else if off < 0x14 then at' (.migSize w) 0x10 4
  else if off < 0x18 then at' (.migLen w) 0x14 4
  else none

/-- A block of world w from 1 to 96 in a table with a stride. -/
def worldIn (base stride off : Nat) : Option (Nat × Nat × Nat) :=
  let w := (off - base) / stride
  if base ≤ off && 1 ≤ w && w ≤ 96 then some (w, (off - base) % stride, base + stride * w) else none

/-- The registers at the lowest addresses of PF BAR0 (R47, R64, R113). -/
def commandReg (off : Nat) : Option RegAt :=
  let at' := fun (r : Reg) (o n : Nat) => if off < o + n then some (RegAt.mk r o n) else none
  match off / 8 with
  | 0 => at' .slcCmd 0x00 4
  | 1 => at' .slcArg 0x08 8
  | 2 => at' .slcStat 0x10 4
  | 4 => at' .fwaCmd 0x20 4
  | 5 => at' .fwaStat 0x28 4
  | 6 => at' .fwaAddr 0x30 8
  | 7 => at' .fwaSize 0x38 4
  | 8 => at' .station 0x40 4
  | _ => none

/-- The register of PF BAR0 that holds the byte at an offset. -/
def pfReg (off : Nat) : Option RegAt :=
  let at' := fun (r : Reg) (o n : Nat) => if off < o + n then some (RegAt.mk r o n) else none
  if off < 0x1000 then commandReg off
  else if off < 0x11000 then sliceReg (off / 0x1000 - 1) (off % 0x1000) (off / 0x1000 * 0x1000)
  else if off < 0x20000 then none
  else if off < 0x40000 then (worldIn 0x20000 0x100 off).bind fun (w, o, b) => worldReg w o b
  else if off < 0x60000 then at' (.route ((off - 0x40000) / 0x2000) (off % 0x2000 / 8)) (off / 8 * 8) 8
  else if off < 0x60008 then at' .palFrame 0x60000 8
  else if off < 0x60010 then at' .palSel 0x60008 4
  else if off < 0x60018 then at' .palPend 0x60010 8
  else if off < 0x60100 then none
  else if off < 0x60300 then at' (.palData (off - 0x60100)) off 1
  else if off < 0x68000 then none
  else if off < 0x68008 then at' .metBase 0x68000 8
  else if off < 0x6800C then at' .metHead 0x68008 4
  else if off < 0x68010 then at' .metTail 0x6800C 4
  else if off < 0x68014 then at' .metStat 0x68010 4
  else if off < 0x68018 then at' .metPeriod 0x68014 4
  else if off < 0x68800 then none
  else if off < 0x69000 then at' (.metSlice ((off - 0x68800) / 0x80) (off % 0x80 / 8)) (off / 8 * 8) 8
  else if off < 0x70000 then
    (worldIn 0x69000 0x80 off).bind fun (w, o, _) => at' (.metWorld w (o / 8)) (off / 8 * 8) 8
  else if off < 0x78000 then
    (worldIn 0x70000 0x100 off).bind fun (w, o, _) => at' (.segment w (o / 16)) (off / 16 * 16) 16
  else if off < 0x7C000 then (worldIn 0x78000 0x80 off).bind fun (w, o, b) => keyReg w o b
  else if off < 0x7C008 then at' .relBase 0x7C000 8
  else if off < 0x7C00C then at' .relHead 0x7C008 4
  else if off < 0x7C010 then at' .relTail 0x7C00C 4
  else if off < 0x7C014 then at' .relStat 0x7C010 4
  else if 0x7D000 ≤ off && off < 0x7D004 then at' .frzCmd 0x7D000 4
  else if off < 0x7E000 then none
  else (worldIn 0x7E000 0x40 off).bind fun (w, o, b) => migReg w o b

/-- The register behind an offset of a function's BAR0: PF for 0, VF w with its world block alone (R105). -/
def barReg (fn off : Nat) : Option RegAt :=
  if fn = 0 then pfReg off else if fn ≤ 96 then worldReg fn off 0 else none

/-! Reads -/

namespace State

/-- A slot owner as PAL_DATA shows it (R154). -/
def ownerByte (o : Option Nat) : Nat :=
  match o with
  | some c => 0x80 + c
  | none => 0

/-- The slice that covers a quad in the calendars in force. -/
def calQuad (s : State) (q : Nat) : Option Nat := (s.calendar.find? fun e => (nodeQuads e.2).contains q).map (·.1)
/-- The slice that covers a die. -/
def calDie (s : State) (d : Nat) : Option Nat :=
  (s.calendar.find? fun e => (List.range 32).all fun q => q % 8 / 2 + 4 * (q / 16) != d || (nodeQuads e.2).contains q).map (·.1)

/-- Two dies are neighbours on the grid of four columns and two rows. -/
def adjacent (a b : Nat) : Bool :=
  (a / 4 == b / 4 && (a % 4 + 1 == b % 4 || b % 4 + 1 == a % 4)) || (a % 4 == b % 4 && a / 4 != b / 4)

/-- The owner of slot k of the calendar that PAL_SEL names (R147, R154). -/
def slotOwner (s : State) (k : Nat) : Option Nat :=
  let ty := bits s.palSel.toNat 15 8
  let ix := bits s.palSel.toNat 7 0
  match ty with
  | 0 =>
    let a := ix / 8
    let b := ix % 8
    if 64 ≤ ix || !adjacent a b then none
    else match s.calDie a, s.calDie b with
      | some c, some d => if c = d then some c else none
      | _, _ => none
  | 1 => if 16 ≤ ix then none else
    let d := ix / 2
    s.calQuad (8 * (2 * (d / 4) + k % 2) + 2 * (d % 4))
  | 2 => if 16 ≤ ix then none else
    ((List.range 16).find? fun i => sixteenthStack i == ix).bind fun i => s.calQuad ((sixteenthQuads i).headD 0)
  | 3 | 4 => if 2 ≤ ix then none else s.calQuad (k % 32)
  | _ => none

/-- SLC_CMDSTAT: BUSY while a slice command, or a migration command, which counts as one, runs or is held (R42, R49, R63,
R471). -/
def commandBusy (s : State) : Bool := s.command.isSome || s.held.any isCommand

/-- Codes of states in SLC_STATE and WLD_STATE (R50, R51). -/
def sliceCode (x : SliceSt) : Nat :=
  match x with
  | .empty => 0 | .creating => 1 | .ready => 2 | .busy => 3 | .failed => 4 | .destroying => 5
def worldCode (x : WorldSt) : Nat :=
  match x with
  | .free => 0 | .attached => 1 | .running => 2 | .quiesced => 3 | .resetting => 4

/-- SLC_STATE. -/
def slcStateOf (s : State) (c : Nat) : Nat :=
  let x := s.slice c
  if x.st = .empty then 0
  else sliceCode x.st + (if x.st = .failed then x.cause * 16 else 0) + x.worlds.length * 256 + x.owner * 4096 + x.node * 65536

/-- SLC_DISP (R153). -/
def slcDispOf (s : State) (c : Nat) : Nat :=
  let x := s.slice c
  let ret := (List.range 4).any fun q => ((s.headOf c q).map (·.back)).getD false
  x.draining.toNat * 2 ^ 31 + x.blocked.isSome.toNat * 2 ^ 30 + ret.toNat * 2 ^ 29 +
    (match x.blocked with | some b => (s.launch b.1).prio * 2 ^ 24 | none => 0) + min 255 x.age

/-- SLC_STAGE: the units held by slot entries, and the units allocated in all (R434). -/
def slcStageOf (s : State) (c : Nat) : Nat :=
  (s.teams.foldl (fun n (_, x) => if x.region = c && x.st = .gone then n + ceilDiv (64 * x.slots.length) 4096 else n) 0) * 2 ^ 32 +
    s.stagingUsed c

/-- A migration command of a world runs or is held. -/
def migBusy (s : State) (w : Nat) : Bool :=
  (s.command.map fun c => decide (0x80 ≤ c.op) && c.world == w).getD false || s.held.any fun i =>
    match i with
    | .track v | .harvest v | .exportWorld v | .importWorld v | .untrack v => v == w
    | _ => false

/-- What a register reads. -/
def regGet (s : State) (r : Reg) : Nat :=
  match r with
  | .slcCmd => s.slcCmd.toNat
  | .slcArg => s.slcArg.toNat
  | .slcStat => (if s.commandBusy then 1 else s.slcStatus) * 2 ^ 24 + s.slcElapsed
  | .fwaCmd => s.fwaCmd.toNat
  | .fwaStat => (if s.fw.isSome then 1 else s.fwaStatus) * 2 ^ 24 + s.fwaElapsed
  | .fwaAddr => s.fwaAddr.toNat
  | .fwaSize => s.fwaSize.toNat
  | .station => s.anySlice.toNat * 2 ^ 15 + s.station.toNat
  | .slcState c => s.slcStateOf c
  | .slcL2 c => (s.slice c).winWays
  | .tmplAddr c => (s.slice c).tmplAddr.toNat
  | .tmplSize c => (s.slice c).tmplSize.toNat
  | .tmplDest c => (s.slice c).tmplDest.toNat
  | .slcWlist c => (List.range 6).foldl (fun n k => n + (s.slice c).wlist.getD k 0 * 2 ^ (8 * k)) 0
  | .ageLimit c => (s.slice c).ageLimit
  | .lend c => (s.slice c).lend.toNat
  | .slcFresh c => if (s.slice c).st = .empty then 0 else s.freshPages (ctlBase c) (nodeBytes (s.slice c).node)
  | .slcDisp c => s.slcDispOf c
  | .slcStage c => s.slcStageOf c
  | .quantum c => (s.slice c).quantum
  | .wldState w => worldCode (s.world w).st + (s.world w).lastReset * 16 + (if (s.world w).st = .free then 0 else (s.world w).ctl * 2 ^ 28)
  | .wldCtl w => (s.world w).en.toNat
  | .wldMem w => State.wldMem (s.world w)
  | .wldL2mask w => State.wldL2mask (s.world w)
  | .cprog w => (s.world w).cprog.toNat
  | .cpstat w => State.cpstat (s.prog w)
  | .cppc w => (s.prog w).faultPc
  | .tctx w => (s.world w).tctx.toNat
  | .rbase w r => (State.ring (s.world w) r).base.toNat
  | .rhead w r => (State.ring (s.world w) r).head.toNat
  | .rstat w r => State.rstat (s.world w) r
  | .notify w r => (State.ring (s.world w) r).tail.toNat
  | .route c n => ((s.slice c).routes.get 0 n).toNat
  | .palFrame => s.cycle / 512
  | .palSel => s.palSel.toNat
  | .palPend => (match s.palPend with | some f => 2 ^ 63 + f | none => 0)
  | .palData k => ownerByte (s.slotOwner k)
  | .metBase => s.metBase.toNat
  | .metHead => s.metHead.toNat
  | .metTail => s.metTail.toNat
  | .metStat => min 255 (s.worlds.countP fun e => e.2.usage.held.isSome)
  | .metPeriod => s.metPeriod
  | .metSlice c k => s.sliceCounter c k
  | .metWorld w k => s.counter w k
  | .segment w i => ((s.world w).segments.get 0 i).toNat
  | .keyRot w => (match (s.world w).rotation with | some p => 2 ^ 63 + p * 65536 | none => 0)
  | .keyTagbase w => (s.world w).tagBase.toNat
  | .keyChstat w => (List.range 4).foldl (fun n k => n + ((s.world w).channels.get {} k).st * 4 ^ k) 0
  | .keyTx w n => ((s.world w).channels.get {} n).send
  | .keyRx w n => ((s.world w).channels.get {} n).recv
  | .relBase => s.relBase.toNat
  | .relHead => s.relHead.toNat
  | .relTail => s.relTail.toNat
  | .relStat => s.relOvf.toNat * 2 ^ 31 + s.relLost
  | .frzCmd => 0
  | .migCmd w => (s.world w).migCmd.toNat
  | .migStat w => (if s.migBusy w then 1 else (s.world w).migStatus) * 2 ^ 24 + (s.world w).migElapsed * 4 +
      (s.world w).exported.toNat * 2 + (s.world w).tracking.toNat
  | .migBuf w => (s.world w).migBuf.toNat
  | .migSize w => (s.world w).migSize.toNat
  | .migLen w => (s.world w).migLen.toNat

/-! Writes -/

/-- The TDI of a world keeps some registers from being written (R310, R362). -/
def tdiBound (s : State) (w : Nat) : Bool := (s.world w).tdi == .locked || (s.world w).tdi == .run

/-- A segment (R310). -/
def segmentPut (s : State) (w i : Nat) (v : BitVec 128) : State :=
  if w = 0 || 96 < w || 16 ≤ i || s.tdiBound w then s else
  let x := s.world w
  let v := v &&& ~~~(0x7FFFF#128 <<< 106)
  let kind := bits v.toNat 126 125
  let t := bits v.toNat 95 64
  let outside := kind == 0 && (t < x.base * 16384 || (x.base + x.size) * 16384 < t + bits v.toNat 63 32)
  let v := if kind = 3 || outside then v &&& ~~~(1#128 <<< 127) else v
  s.setWorld w { x with segments := x.segments.put 0 i v }

/-- WLD_TCTX (R311). -/
def tctxPut (s : State) (w : Nat) (v : BitVec 64) : State :=
  if (s.world w).en then s else s.modWorld w fun x => { x with tctx := v &&& 0x0000FFFFFFFFFFC0 }

/-- WLD_RBASE (R119, R120). -/
def rbasePut (s : State) (w r : Nat) (v : BitVec 64) : State :=
  if (s.world w).en || 8 ≤ r then s
  else s.modWorld w fun x =>
    { x with rings := x.rings.insert r { State.ring x r with base := v &&& 0x000FFFFFFFFFF00F, head := 0, tail := 0 } }

/-- WLD_CPROG (R120, R124). -/
def cprogPut (s : State) (w : Nat) (v : BitVec 64) : State :=
  if (s.world w).en then s else s.modWorld w fun x => { x with cprog := v &&& 0x000FFFFFFFFFFF01 }

/-- WLD_RSTAT: BADNOTIFY is cleared by a one (R119). -/
def rstatPut (s : State) (w r : Nat) (v : Nat) : State :=
  if bit v 1 then s.modWorld w fun x => { x with rings := x.rings.insert r { State.ring x r with badNotify := false } } else s

/-- WLD_NOTIFY (R121). -/
def notifyPut (s : State) (w r : Nat) (v : BitVec 32) : State :=
  let x := s.world w
  let g := State.ring x r
  if 8 ≤ r || x.st ≠ .running || !g.enabled || x.tdi = .error then s
  else if 2 ^ g.log < (v - g.head).toNat || 2 ^ g.log < (v - g.tail).toNat then
    s.setWorld w { x with rings := x.rings.insert r { g with badNotify := true } }
  else
    let s := s.setWorld w { x with rings := x.rings.insert r { g with tail := v } }
    let isNote := fun (e : Event) => e.world == w && e.type == 6 && e.aux == r
    let unread := (s.slice x.ctl).events.any isNote || (s.slice x.ctl).heldEvents.any isNote
    if v = g.tail || unread || g.head != g.tail then s else s.postEvent w { type := 6, world := w, aux := r }

/-- SLC_AGE_LIMIT (R151): a decision point. -/
def ageLimitPut (s : State) (c : Nat) (v : Nat) : State :=
  if 16 ≤ c then s else (s.modSlice c fun x => { x with ageLimit := v % 256 }).decide' c

/-- SLC_LEND (R152); measurement 7 follows it (R59). -/
def lendPut (s : State) (c : Nat) (v : Nat) : State :=
  if 16 ≤ c then s else
  let ok := fun (k : Nat) => bit v k && k != c && ((s.slice k).st == .ready || (s.slice k).st == .busy) && (s.slice k).owner == (s.slice c).owner
  (s.modSlice c fun x => { x with lend := BitVec.ofNat 16 (bitSet ((List.range 16).filter ok)) }).checkAll

/-- SLC_QUANTUM (R457). -/
def quantumPut (s : State) (c : Nat) (v : Nat) : State :=
  if 16 ≤ c then s else s.modSlice c fun x => { x with quantum := min 1000 (v % 65536) }

/-- KEY_ROT with START = 1: the slice firmware issues KEYOP 0x03 with B = 0 (R362). -/
def keyRotPut (s : State) (w : Nat) : State :=
  if w = 0 || 96 < w || s.tdiBound w || (s.world w).st = .free then s else (s.startRotation w 0).2

/-- KEY_TAGBASE (R362); VALID = 1 changes nothing while the world is tracked (R472). -/
def tagbasePut (s : State) (w : Nat) (v : BitVec 64) : State :=
  if w = 0 || 96 < w || s.tdiBound w || ((s.world w).tracking && v.getLsbD 0) then s
  else s.modWorld w fun x => { x with tagBase := v &&& 0x0000FFFFFFFF0001 }

/-- REL_STAT (R466). -/
def relStatPut (s : State) (v : Nat) : State := if bit v 31 then { s with relOvf := false, relLost := 0 } else s

/-- MET_PERIOD (R493). -/
def periodPut (s : State) (v : Nat) : State :=
  let p := bits v 16 0
  if 100 ≤ p && p ≤ 60000 then { s with metPeriod := p } else s

/-- A template register of a slice block (R47). -/
def tmplPut (s : State) (c : Nat) (f : Slice → Slice) : State := s.modSlice c f

/-! A command word -/

/-- SLC_CMD with an OP that R48 does not list: it starts, and ends with BADCMD. -/
def slcUnknown (s : State) (v : BitVec 32) : State :=
  if (1 ≤ cmdOp v && cmdOp v ≤ 9) || !v.getLsbD 0 || s.command.isSome || s.held.any isCommand then s else
  let s : State := { s with slcCmd := v &&& 0xFFFFF8F1, cmdWritten := if s.slcCmd.getLsbD 0 then s.cmdWritten else s.clock }
  if s.activating then { s with held := s.held ++ [.badcmd 0 0 v] } else
  ({ s with command := some ⟨0, 0, 0, 0, s.slcArg, s.cmdWritten, s.clock, none⟩ } : State).endCommand 2

/-- A write of SLC_CMD: with GO = 1 its operation, else its fields, unless a command runs (R42, R48). -/
def slcCmdPut (s : State) (v : BitVec 32) : State :=
  if !v.getLsbD 0 then
    (if s.command.isSome || s.held.any isCommand then s else { s with slcCmd := v &&& 0xFFFFF8F0 })
  else
    match cmdOp v with
    | 1 => s.slcWrite 1 v (.create v) createSlice
    | 2 => s.slcWrite 2 v (.destroy v) destroySlice
    | 3 => s.slcWrite 3 v (.merge v) mergeCommand
    | 4 => s.slcWrite 4 v (.split v) splitCommand
    | 5 => s.slcWrite 5 v (.attach v) attachWorld
    | 6 => s.slcWrite 6 v (.detach v) detachCommand
    | 7 => s.slcWrite 7 v (.quiesce v) quiesceCommand
    | 8 => s.slcWrite 8 v (.resume v) resumeCommand
    | 9 => if cmdWorld v = 0 then s.slcWrite 9 v (.reset v) resetSlice else s.slcWrite 9 v (.worldReset v) worldResetCommand
    | _ => s.slcUnknown v

/-- FWA_CMD with an OP that R64 does not list. -/
def fwUnknown (s : State) (v : BitVec 32) : State :=
  if (1 ≤ fwOp v && fwOp v ≤ 3) || !v.getLsbD 0 || s.fw.isSome then s
  else ({ s with fwaCmd := v &&& 0xFF0000F1 } : State).endFw 2 s.clock

/-- A write of FWA_CMD (R64). -/
def fwaCmdPut (s : State) (v : BitVec 32) : State :=
  if !v.getLsbD 0 then (if s.fw.isSome then s else { s with fwaCmd := v &&& 0xFF0000F0 })
  else
    match fwOp v with
    | 1 => s.fwWrite 1 v stageImage
    | 2 => s.fwWrite 2 v activateImage
    | 3 => s.fwWrite 3 v fun s _ => { s with staged := none }.endFw 0 s.clock
    | _ => s.fwUnknown v

/-- WLD_MIGCMD with an OP that R471 does not list. -/
def migUnknown (s : State) (w : Nat) (v : BitVec 32) : State :=
  let op := cmdOp v
  if w = 0 || 96 < w || (1 ≤ op && op ≤ 5) || !v.getLsbD 0 || s.command.isSome || s.held.any isCommand then s else
  let s : State := { s with cmdWritten := if (s.world w).migCmd.getLsbD 0 then s.cmdWritten else s.clock }
  let s := s.modWorld w fun x => { x with migCmd := v &&& 0xFF000001 }
  if s.activating then { s with held := s.held ++ [.badcmd 2 w v] } else
  ({ s with command := some ⟨0x80, w, 0, 0, 0, s.cmdWritten, s.clock, none⟩ } : State).endMigration 2

/-- A write of WLD_MIGCMD (R471). -/
def migCmdPut (s : State) (w : Nat) (v : BitVec 32) : State :=
  if !v.getLsbD 0 then (if s.migBusy w then s else s.modWorld w fun x => { x with migCmd := v &&& 0xFF000000 })
  else
    match cmdOp v with
    | 1 => s.migWrite w 1 (.track w) fun s => s.trackWorld w
    | 2 => s.migWrite w 2 (.harvest w) fun s => s.harvestWorld w
    | 3 => s.migWrite w 3 (.exportWorld w) fun s => s.exportStart w
    | 4 => s.migWrite w 4 (.importWorld w) fun s => s.importStart w
    | 5 => s.migWrite w 5 (.untrack w) fun s => s.untrackWorld w
    | _ => s.migUnknown w v

/-- A write of a whole register; RO registers ignore it. -/
def regPut (s : State) (r : Reg) (v : Nat) : State :=
  let v32 := BitVec.ofNat 32 v
  let v64 := BitVec.ofNat 64 v
  match r with
  | .slcCmd => s.slcCmdPut v32
  | .slcArg => { s with slcArg := v64 }
  | .fwaCmd => s.fwaCmdPut v32
  | .fwaAddr => { s with fwaAddr := v64 }
  | .fwaSize => { s with fwaSize := v32 }
  | .station => s.stationPut v32
  | .tmplAddr c => s.tmplPut c fun x => { x with tmplAddr := v64 }
  | .tmplSize c => s.tmplPut c fun x => { x with tmplSize := v32 }
  | .tmplDest c => s.tmplPut c fun x => { x with tmplDest := v64 }
  | .ageLimit c => s.ageLimitPut c v
  | .lend c => s.lendPut c v
  | .quantum c => s.quantumPut c v
  | .wldCtl w => if bit v 0 then s.setEn w else s.clearEn w
  | .cprog w => s.cprogPut w v64
  | .tctx w => s.tctxPut w v64
  | .rbase w r => s.rbasePut w r v64
  | .rstat w r => s.rstatPut w r v
  | .notify w r => s.notifyPut w r v32
  | .route c n => s.routePut c n v64
  | .palSel => { s with palSel := v32 &&& 0xFFFF }
  | .metBase => ({ s with metBase := v64 &&& 0xFFFFFFFFFFFFF01F } : State).emitAll
  | .metHead => ({ s with metHead := v32 } : State).emitAll
  | .metPeriod => s.periodPut v
  | .segment w i => s.segmentPut w i (BitVec.ofNat 128 v)
  | .keyRot w => if bit v 0 then s.keyRotPut w else s
  | .keyTagbase w => s.tagbasePut w v64
  | .relBase => { s with relBase := v64 &&& 0xFFFFFFFFFFFFF00F }
  | .relHead => { s with relHead := v32 }
  | .relStat => s.relStatPut v
  | .frzCmd => if v32 = 0x0000A501 then s.freezeNow 1 else s
  | .migCmd w => s.migCmdPut w v32
  | .migBuf w => s.modWorld w fun x => { x with migBuf := v64 }
  | .migSize w => s.modWorld w fun x => { x with migSize := v32 }
  | .slcStat | .fwaStat | .slcState _ | .slcL2 _ | .slcWlist _ | .slcFresh _ | .slcDisp _ | .slcStage _ | .wldState _ | .wldMem _ | .wldL2mask _
  | .cpstat _ | .cppc _ | .rhead _ _ | .palFrame | .palPend | .palData _ | .metTail | .metStat | .metSlice _ _ | .metWorld _ _
  | .keyChstat _ | .keyTx _ _ | .keyRx _ _ | .relTail | .migStat _ | .migLen _ => s

/-- What an access of n bytes at an offset reads; bytes of no register read 0 (R9, R105). -/
def regRead (s : State) (fn off n : Nat) : Nat :=
  (List.range n).foldl (fun v i => v + 256 ^ i * (match barReg fn (off + i) with
    | some r => s.regGet r.reg / 256 ^ (off + i - r.base) % 256
    | none => 0)) 0

/-- What is left in a register when some of its bytes are written: the others keep what they read, and the bits that a one
clears are kept at 0. -/
def regKeep (s : State) (r : Reg) : Nat :=
  match r with
  | .rstat _ _ | .relStat => 0
  | r => s.regGet r

/-- A write of n bytes at an offset: each register that it meets is written once, lowest first; a register of which only
some bytes are written keeps the others (log entry 51). -/
def regWrite (s : State) (fn off n v k : Nat) : State :=
  match k with
  | 0 => s
  | k + 1 =>
    if n = 0 then s else
    match barReg fn off with
    | none => s.regWrite fn (off + 1) (n - 1) (v / 256) k
    | some r =>
      let o := off - r.base
      let m := min n (r.bytes - o)
      let old := s.regKeep r.reg % 256 ^ r.bytes
      let new := old % 256 ^ o + 256 ^ o * (v % 256 ^ m) + old / 256 ^ (o + m) * 256 ^ (o + m)
      (s.regPut r.reg new).regWrite fn (off + m) (n - m) (v / 256 ^ m) k

end State

/-! Configuration space and component registers (R105, R107). R105 states the items; where they lie, and the codes around them,
are those of PCI Express and CXL (log entry 70). -/

/-- The extended capabilities of a function, by their identifiers: ATS, PASID, PRI, DOE, ARI, and on the PF IDE, DVSEC and
SR-IOV. -/
def capIds (fn : Nat) : List Nat := [0x0F, 0x1B, 0x13, 0x2E, 0x0E] ++ if fn = 0 then [0x30, 0x23, 0x10] else []

/-- A doubleword of extended capability id behind its header: the width of a PASID, the allowance of R110, and in SR-IOV
InitialVFs and TotalVFs, First VF Offset and VF Stride, the VF Device ID, and the VF's 64-bit BAR0. -/
def capWord (id off : Nat) : Nat :=
  match id, off with
  | 0x1B, 0x04 => 20 * 2 ^ 8
  | 0x13, 0x08 => 512
  | 0x10, 0x0C => 96 + 96 * 2 ^ 16
  | 0x10, 0x14 => 1 + 1 * 2 ^ 16
  | 0x10, 0x18 => 0x9601 * 2 ^ 16
  | 0x10, 0x24 => 4
  | _, _ => 0

/-- A doubleword of a function's configuration space: the IDs, the 64-bit, non-prefetchable BARs of the PF, MSI-X with 64 vectors,
and the extended capabilities one behind another. -/
def configWord (fn off : Nat) : Nat :=
  let off := off / 4 * 4
  if off < 0x100 then
    match off with
    | 0x00 => 0x1D9C + 2 ^ 16 * (if fn = 0 then 0x9600 else 0x9601)
    | 0x04 => 0x10 * 2 ^ 16
    | 0x10 | 0x18 => if fn = 0 then 4 else 0
    | 0x34 => 0x40
    | 0x40 => 0x11 + 63 * 2 ^ 16
    | _ => 0
  else
    let ids := capIds fn
    let k := (off - 0x100) / 0x40
    match ids[k]? with
    | none => 0
    | some id =>
      if off % 0x40 = 0 then id + 2 ^ 16 + (if k + 1 < ids.length then (0x140 + 0x40 * k) * 2 ^ 20 else 0)
      else capWord id (off % 0x40)

namespace State

/-- CONFIGURATION_REQUEST (R65, R105): Configuration Request Retry Status until bring-up has ended, then the doubleword. With the
host link held in reset, or down, nothing answers (R52, R104). -/
def configRequest (s : State) (fn off : Nat) : State :=
  if s.bootFailed ≠ 0 || !s.link.up then s
  else if !s.up then (if s.upAt.isSome then s.send .configRetry else s)
  else if 96 < fn then s.send (.reply 1 [])
  else s.answer (leBytes 4 (configWord fn off))

/-- What a doubleword of PF BAR2 reads: the CXL component registers with the capability of 8 HDM decoders, whose ranges and
states HDM_DECODER_COMMIT sets (R107). -/
def componentWord (s : State) (off : Nat) : Nat :=
  let n := (off - 0x1110) / 0x20
  let d := s.decoders.get {} n
  if off = 0x1000 then 0x01000001
  else if off = 0x1004 then 0x10000005
  else if off = 0x1100 then 4
  else if off = 0x1104 then 2
  else if 0x1110 ≤ off && n < 8 then
    match (off - 0x1110) % 0x20 with
    | 0x00 => d.base % 2 ^ 32
    | 0x04 => d.base / 2 ^ 32
    | 0x08 => d.size % 2 ^ 32
    | 0x0C => d.size / 2 ^ 32
    | 0x10 => d.committed.toNat * (2 ^ 9 + 2 ^ 10) + d.error.toNat * 2 ^ 11
    | _ => 0
  else 0

end State

/-- CONFIGURATION_REQUEST (R65, R105). -/
def execConfigurationRequest (reg : ConfigAt) (s : State) : Host.Outcome State Fault Refusal := .next (s.configRequest reg.fn reg.off)
/-- SEGMENT_WRITE (R310). -/
def execSegmentWrite (w i : Nat) (v : BitVec 128) (s : State) : Host.Outcome State Fault Refusal := .next (s.segmentPut w i v)
/-- WLD_TCTX_WRITE (R311). -/
def execWldTctxWrite (w : Nat) (v : BitVec 64) (s : State) : Host.Outcome State Fault Refusal := .next (s.tctxPut w v)
/-- WLD_RBASE_WRITE (R120). -/
def execWldRbaseWrite (w r : Nat) (v : BitVec 64) (s : State) : Host.Outcome State Fault Refusal := .next (s.rbasePut w r v)
/-- WLD_CPROG_WRITE (R120). -/
def execWldCprogWrite (w : Nat) (v : BitVec 64) (s : State) : Host.Outcome State Fault Refusal := .next (s.cprogPut w v)
/-- WLD_NOTIFY_WRITE (R121, R122). -/
def execWldNotifyWrite (w r : Nat) (v : BitVec 32) (s : State) : Host.Outcome State Fault Refusal := .next (s.notifyPut w r v)
/-- SLC_AGE_LIMIT_WRITE (R143, R151). -/
def execSlcAgeLimitWrite (c : Nat) (v : BitVec 32) (s : State) : Host.Outcome State Fault Refusal := .next (s.ageLimitPut c v.toNat)
/-- SLC_LEND_WRITE (R152). -/
def execSlcLendWrite (c : Nat) (v : BitVec 32) (s : State) : Host.Outcome State Fault Refusal := .next (s.lendPut c v.toNat)
/-- SLC_QUANTUM_WRITE (R457). -/
def execSlcQuantumWrite (c : Nat) (v : BitVec 32) (s : State) : Host.Outcome State Fault Refusal := .next (s.quantumPut c v.toNat)
/-- KEY_ROT_START (R358, R362). -/
def execKeyRotStart (w : Nat) (s : State) : Host.Outcome State Fault Refusal := .next (s.keyRotPut w)
/-- KEY_TAGBASE_WRITE (R362). -/
def execKeyTagbaseWrite (w : Nat) (v : BitVec 64) (s : State) : Host.Outcome State Fault Refusal := .next (s.tagbasePut w v)
/-- REL_STAT_WRITE (R466). -/
def execRelStatWrite (v : BitVec 32) (s : State) : Host.Outcome State Fault Refusal := .next (s.relStatPut v.toNat)
/-- REGISTER_WRITE: a write of any register through a function's BAR0 (R47, R105). -/
def execRegisterWrite (fn off width : Nat) (v : BitVec 64) (s : State) : Host.Outcome State Fault Refusal :=
  .next (s.regWrite fn off (min 8 (width / 8)) v.toNat 8)
/-- BADCMD: a command word with an operation that its register does not list (R48, R64, R471). -/
def execBadcmd (reg w : Nat) (v : BitVec 32) (s : State) : Host.Outcome State Fault Refusal :=
  .next (match reg with
    | 0 => s.slcUnknown v
    | 1 => s.fwUnknown v
    | 2 => s.migUnknown w v
    | _ => s)

end Sys2Proof.Machine
end

