-- ==== Sys2Proof/Machine/Replies.lean ====
section
/-! DEFINITION. What the guest driver and the host answer to faults: replies to fault records (R316, R437), PRG Responses (R110),
records that wait for room in the fault queue (R315), and ATS invalidations (R109). -/

namespace Sys2Proof.Machine

namespace State

/-! Replays -/

/-- An agent that was parked replays its step; a held restore goes on from its tile (R316, R437). -/
def replay (s : State) (src : Nat) (a : Agent) : State :=
  match a with
  | .lane t lit => s.modLane t lit fun l => if l.st = .parked then { l with st := .ready, readyAt := s.cycle } else l
  | .seq t => if src = 4 then s.resumeRestore t else s.modSeq t fun q => if q.st = .parked then { q with st := .running } else q
  | .prog w => s.modProg w fun p => if p.st = .parked then { p with st := .running } else p
  | .firm _ => s

/-- The outcome of a record: its accesses replay, or its fault is fatal; the record is watched no more. -/
def settleRecord (s : State) (w : Nat) (r : FaultRec) (retry : Bool) : State :=
  let s := s.modWorld w fun x => { x with records := x.records.filter (· != r) }
  (r.who.foldl (fun s a => if retry then s.replay r.src a else s.endAgent a 1) s).wakeGangs

/-- The watched record of a world with a SEQ. -/
def recordOf (s : State) (w seq : Nat) : Option FaultRec := (s.world w).records.find? fun r => r.seq == seq && !r.queued && r.src != 2

/-- A reply that the device observes. -/
def reply (s : State) (w seq : Nat) (retry : Bool) : State :=
  match s.recordOf w seq with
  | some r => s.settleRecord w r retry
  | none => s

/-- The reply byte of a record as it stands in the queue, while its slot still holds the record. -/
def replyByte (s : State) (w : Nat) (r : FaultRec) : Nat :=
  match (s.world w).context with
  | none => 0
  | some c =>
    match s.wpaRead w (c.fqBase + 32 * (r.seq % 2 ^ c.fqLog2)) 8 with
    | some bs => if field bs 4 4 = r.seq then field bs 3 1 else 0
    | none => 0

/-- A record of a world that has been answered in memory: its reply as an operation. -/
def answered (s : State) (w : Nat) : Option Instr :=
  ((s.world w).records.filter fun r => !r.queued && r.src != 2).findSome? fun r =>
    match s.replyByte w r with
    | 1 => some (.replyRetry w (BitVec.ofNat 32 r.seq))
    | 2 => some (.replyFail w (BitVec.ofNat 32 r.seq))
    | _ => none

/-! Records that wait for room -/

/-- Writes waiting records in order, while there is room (R315). -/
def flushRecords (s : State) (w : Nat) (rs : List FaultRec) : State :=
  match rs with
  | [] => s
  | r :: rs =>
    match s.queueRecord w fun seq => patch r.bytes 4 (leBytes 4 seq) with
    | (s, .full) => s
    | (s, .broken) => (s.settleRecord w r false).flushRecords w rs
    | (s, .written seq) =>
      let s := s.modWorld w fun x => { x with records := x.records.map fun q => if q = r then { q with seq := seq, queued := false, bytes := [] } else q }
      s.flushRecords w rs

/-- The records of a world that wait. -/
def waitingRecords (s : State) (w : Nat) : List FaultRec := (s.world w).records.filter (·.queued)

/-- The fault queue of a world has room for another record. -/
def queueRoom (s : State) (w : Nat) : Bool :=
  let x := s.world w
  match x.context, s.wpaRead w (contextAddr x + 0x18) 8 with
  | some c, some ht => (field ht 0 4 + 2 ^ 32 - field ht 4 4) % 2 ^ 32 != 2 ^ c.fqLog2
  | _, _ => true

/-- FQ_HEAD_WRITE: the driver's store, and what it makes room for. -/
def fqHead (s : State) (w : Nat) (v : BitVec 32) : State :=
  let x := s.world w
  if x.st = .free then s else
  let s := match s.wpaWrite w (contextAddr x + 0x1C) (leBytes 4 v.toNat) with
    | some s => s
    | none => s
  s.flushRecords w (s.waitingRecords w)

/-! Host pages -/

/-- PRG_RESPONSE (R110); world 0's groups are those of a slice template (R34). -/
def pageResponse (s : State) (w vpage : Nat) (ok : Bool) : State :=
  let x := s.world w
  if !x.priGroups.any (·.vpage == vpage) then s else
  let s := s.setWorld w { x with priGroups := x.priGroups.filter (·.vpage != vpage) }
  if w = 0 then
    (s.slices.map (·.1)).foldl (fun s c =>
      match (s.slice c).template with
      | none => s
      | some k =>
        if ((s.slice c).tmplAddr.toNat + 4096 * k) / 65536 ≠ vpage then s
        else if ok then s.loadTemplate c else s.templateFail c) s
  else
    ((s.world w).records.filter fun r => r.ats && r.vpage == vpage && r.src != 2).foldl (fun s r => s.settleRecord w r ok) s

/-- An operand page of a posted pass lies among count I/O pages of its world from one on. -/
def ioPage (page count : Nat) (e : Target × Option (Space × Nat)) : Option Nat :=
  match e.1 with
  | .hostIo io => if page ≤ io / 4096 ∧ io / 4096 < page + count then some io else none
  | _ => none

/-- A posted pass of a world holds a translation of the pages that the host does not give again: it completes under the old one
before the invalidation does (R109). -/
def passHolds (s : State) (w page count : Nat) : Bool :=
  s.passes.any fun e => (s.launchOf e.2.team).world == w && e.2.pages.any fun p =>
    match ioPage page count p with
    | some io => (s.hostAddr w io).isNone
    | none => false

/-- ATS_INVALIDATION (R109): held translations of the I/O pages go, under every PASID of the function; passes that hold one are
translated again. The invalidation completes at once, or when the passes that go on under the old translation have. -/
def invalidate (s : State) (w page count : Nat) : State :=
  let i := Instr.atsInvalidation w page count
  let s : State := { s with
    atsHeld := s.atsHeld.filter fun e => !(e.1.1 == w && decide (page ≤ e.2.1 ∧ e.2.1 < page + count)) }
  let again := fun (e : Target × Option (Space × Nat)) =>
    match ioPage page count e with
    | some io => (e.1, ((s.hostAddr w io).map fun a => (Space.host, a)).or e.2)
    | none => e
  let s : State := { s with passes := s.passes.map fun (k, p) =>
      (k, if (s.launchOf p.team).world = w then { p with pages := p.pages.map again } else p) }
  if s.passHolds w page count then { s with held := if s.held.contains i then s.held else s.held ++ [i] }
  else ({ s with held := s.held.filter (· != i) } : State).send (.invalidated w page count)

end State

/-- REPLY_RETRY (R316, R437). -/
def execReplyRetry (w : Nat) (seq : BitVec 32) (s : State) : Host.Outcome State Fault Refusal := .next (s.reply w seq.toNat true)
/-- REPLY_FAIL (R316, R216). -/
def execReplyFail (w : Nat) (seq : BitVec 32) (s : State) : Host.Outcome State Fault Refusal := .next (s.reply w seq.toNat false)
/-- PRG_RESPONSE (R110). -/
def execPrgResponse (w vpage : Nat) (ok : Bool) (s : State) : Host.Outcome State Fault Refusal := .next (s.pageResponse w vpage ok)
/-- ATS_INVALIDATION (R109). -/
def execAtsInvalidation (w page count : Nat) (s : State) : Host.Outcome State Fault Refusal := .next (s.invalidate w page count)
/-- FQ_HEAD_WRITE (R311, R315). -/
def execFqHeadWrite (w : Nat) (v : BitVec 32) (s : State) : Host.Outcome State Fault Refusal := .next (s.fqHead w v)

end Sys2Proof.Machine
end

