-- ==== Sys2Proof/Machine/Dispatch.lean ====
section
/-! DEFINITION. One arm per instruction: the meaning that exec calls, or a rejection by name. -/

namespace Sys2Proof.Machine

def exec (i : Instr) (s : State) : Host.Outcome State Fault Refusal :=
  match i with
  | .create cmd => Sys2Proof.Machine.execCreate cmd s
  | .sliceReady c => Sys2Proof.Machine.execSliceReady c s
  | .templateTimeout c => Sys2Proof.Machine.execTemplateTimeout c s
  | .destroy cmd => Sys2Proof.Machine.execDestroy cmd s
  | .destroyingDone c => Sys2Proof.Machine.execDestroyingDone c s
  | .merge cmd => Sys2Proof.Machine.execMerge cmd s
  | .split cmd => Sys2Proof.Machine.execSplit cmd s
  | .splitTimeout c => Sys2Proof.Machine.execSplitTimeout c s
  | .attach cmd => Sys2Proof.Machine.execAttach cmd s
  | .detach cmd => Sys2Proof.Machine.execDetach cmd s
  | .quiesce cmd => Sys2Proof.Machine.execQuiesce cmd s
  | .resume cmd => Sys2Proof.Machine.execResume cmd s
  | .reset cmd => Sys2Proof.Machine.execReset cmd s
  | .worldReset cmd => Sys2Proof.Machine.execWorldReset cmd s
  | .resettingDone w => Sys2Proof.Machine.execResettingDone w s
  | .commandDone => Sys2Proof.Machine.execCommandDone s
  | .fatalSliceError c cause => Sys2Proof.Machine.execFatalSliceError c cause s
  | .functionLevelReset w => Sys2Proof.Machine.execFunctionLevelReset w s
  | .wldCtlEnSet w => Sys2Proof.Machine.execWldCtlEnSet w s
  | .wldCtlEnClear w => Sys2Proof.Machine.execWldCtlEnClear w s
  | .coldReset link => Sys2Proof.Machine.execColdReset link s
  | .configurationRequest reg => Sys2Proof.Machine.execConfigurationRequest reg s
  | .stage cmd => Sys2Proof.Machine.execStage cmd s
  | .activate cmd => Sys2Proof.Machine.execActivate cmd s
  | .discard cmd => Sys2Proof.Machine.execDiscard cmd s
  | .activationDone => Sys2Proof.Machine.execActivationDone s
  | .getVersion w => Sys2Proof.Machine.execGetVersion w s
  | .getCapabilities w => Sys2Proof.Machine.execGetCapabilities w s
  | .negotiateAlgorithms w ext => Sys2Proof.Machine.execNegotiateAlgorithms w ext s
  | .getDigests w => Sys2Proof.Machine.execGetDigests w s
  | .getCertificate w slot off len => Sys2Proof.Machine.execGetCertificate w slot off len s
  | .challenge w slot => Sys2Proof.Machine.execChallenge w slot s
  | .getMeasurements w idx sgn => Sys2Proof.Machine.execGetMeasurements w idx sgn s
  | .keyExchange w slot => Sys2Proof.Machine.execKeyExchange w slot s
  | .finish w sess => Sys2Proof.Machine.execFinish w sess s
  | .endSession w sess => Sys2Proof.Machine.execEndSession w sess s
  | .keyUpdate w sess => Sys2Proof.Machine.execKeyUpdate w sess s
  | .respondIfReady w token code => Sys2Proof.Machine.execRespondIfReady w token code s
  | .lockInterfaceRequest w sess => Sys2Proof.Machine.execLockInterfaceRequest w sess s
  | .startInterfaceRequest w sess => Sys2Proof.Machine.execStartInterfaceRequest w sess s
  | .stopInterfaceRequest w sess => Sys2Proof.Machine.execStopInterfaceRequest w sess s
  | .chkey w sess ch => Sys2Proof.Machine.execChkey w sess ch s
  | .chstatus w sess ch => Sys2Proof.Machine.execChstatus w sess ch s
  | .freezeReadout => Sys2Proof.Machine.execFreezeReadout s
  | .lifetimeCounterRead idx => Sys2Proof.Machine.execLifetimeCounterRead idx s
  | .powerTelemetry => Sys2Proof.Machine.execPowerTelemetry s
  | .firmwareStaging image addr size => Sys2Proof.Machine.execFirmwareStaging image addr size s
  | .freeze v => Sys2Proof.Machine.execFreeze v s
  | .freezeN => Sys2Proof.Machine.execFreezeN s
  | .counterCommit => Sys2Proof.Machine.execCounterCommit s
  | .powerDown => Sys2Proof.Machine.execPowerDown s
  | .atsInvalidation w page count => Sys2Proof.Machine.execAtsInvalidation w page count s
  | .prgResponse w vpage ok => Sys2Proof.Machine.execPrgResponse w vpage ok s
  | .hdmRead addr len => Sys2Proof.Machine.execHdmRead addr len s
  | .hdmWrite addr bytes => Sys2Proof.Machine.execHdmWrite addr bytes s
  | .hdmDecoderCommit k base size w roff => Sys2Proof.Machine.execHdmDecoderCommit k base size w roff s
  | .hostSnoop addr bytes => Sys2Proof.Machine.execHostSnoop addr bytes s
  | .ualinkInboundRead station snode sworld node world wpa len => Sys2Proof.Machine.execUalinkInboundRead station snode sworld node world wpa len s
  | .ualinkInboundWrite station snode sworld node world wpa bytes => Sys2Proof.Machine.execUalinkInboundWrite station snode sworld node world wpa bytes s
  | .ualinkInboundAtomic station snode sworld node world wpa tag op b cnew => Sys2Proof.Machine.execUalinkInboundAtomic station snode sworld node world wpa tag op b cnew s
  | .ualinkResponse tag mismatch bytes => Sys2Proof.Machine.execUalinkResponse tag mismatch bytes s
  | .requestTimeout tag => Sys2Proof.Machine.execRequestTimeout tag s
  | .ualStationWrite v => Sys2Proof.Machine.execUalStationWrite v s
  | .routingEntryWrite c n v => Sys2Proof.Machine.execRoutingEntryWrite c n v s
  | .segmentWrite w k v => Sys2Proof.Machine.execSegmentWrite w k v s
  | .wldTctxWrite w v => Sys2Proof.Machine.execWldTctxWrite w v s
  | .wldRbaseWrite w r v => Sys2Proof.Machine.execWldRbaseWrite w r v s
  | .wldCprogWrite w v => Sys2Proof.Machine.execWldCprogWrite w v s
  | .wldNotifyWrite w r v => Sys2Proof.Machine.execWldNotifyWrite w r v s
  | .slcAgeLimitWrite c v => Sys2Proof.Machine.execSlcAgeLimitWrite c v s
  | .slcLendWrite c v => Sys2Proof.Machine.execSlcLendWrite c v s
  | .slcQuantumWrite c v => Sys2Proof.Machine.execSlcQuantumWrite c v s
  | .keyRotStart w => Sys2Proof.Machine.execKeyRotStart w s
  | .keyTagbaseWrite w v => Sys2Proof.Machine.execKeyTagbaseWrite w v s
  | .relStatWrite v => Sys2Proof.Machine.execRelStatWrite v s
  | .metPeriodWrite v => Sys2Proof.Machine.execMetPeriodWrite v s
  | .registerWrite fn off width v => Sys2Proof.Machine.execRegisterWrite fn off width v s
  | .track w => Sys2Proof.Machine.execTrack w s
  | .harvest w => Sys2Proof.Machine.execHarvest w s
  | .exportWorld w => Sys2Proof.Machine.execExportWorld w s
  | .exportTimeout w => Sys2Proof.Machine.execExportTimeout w s
  | .importWorld w => Sys2Proof.Machine.execImportWorld w s
  | .untrack w => Sys2Proof.Machine.execUntrack w s
  | .decisionStep c => Sys2Proof.Machine.execDecisionStep c s
  | .launchComplete l => Sys2Proof.Machine.execLaunchComplete l s
  | .turnEnd c => Sys2Proof.Machine.execTurnEnd c s
  | .clauseFetch core t hdr => Sys2Proof.Machine.execClauseFetch core t hdr s
  | .stallEnd core g => Sys2Proof.Machine.execStallEnd core g s
  | .groupSwap core slot => Sys2Proof.Machine.execGroupSwap core slot s
  | .progressOverride core => Sys2Proof.Machine.execProgressOverride core s
  | .joinTimeout t lit => Sys2Proof.Machine.execJoinTimeout t lit s
  | .mwaitTimeout t lit => Sys2Proof.Machine.execMwaitTimeout t lit s
  | .quantumExpiry c => Sys2Proof.Machine.execQuantumExpiry c s
  | .contextSave t => Sys2Proof.Machine.execContextSave t s
  | .rollback t => Sys2Proof.Machine.execRollback t s
  | .varnishRelease l => Sys2Proof.Machine.execVarnishRelease l s
  | .replyRetry w seq => Sys2Proof.Machine.execReplyRetry w seq s
  | .replyFail w seq => Sys2Proof.Machine.execReplyFail w seq s
  | .copyPieceComplete k p => Sys2Proof.Machine.execCopyPieceComplete k p s
  | .passGrant q => Sys2Proof.Machine.execPassGrant q s
  | .passComplete q => Sys2Proof.Machine.execPassComplete q s
  | .entryAge q e => Sys2Proof.Machine.execEntryAge q e s
  | .rotationStep w => Sys2Proof.Machine.execRotationStep w s
  | .correctedError unit loc addr syn => Sys2Proof.Machine.execCorrectedError unit loc addr syn s
  | .uncorrectableError kind loc addr syn => Sys2Proof.Machine.execUncorrectableError kind loc addr syn s
  | .periodBoundary => Sys2Proof.Machine.execPeriodBoundary s
  | .calendarSwitch => Sys2Proof.Machine.execCalendarSwitch s
  | .haltGroup w => Sys2Proof.Machine.execHaltGroup w s
  | .resumeGroup w => Sys2Proof.Machine.execResumeGroup w s
  | .stepGroup w => Sys2Proof.Machine.execStepGroup w s
  | .haltTeam w => Sys2Proof.Machine.execHaltTeam w s
  | .resumeTeam w => Sys2Proof.Machine.execResumeTeam w s
  | .dbgReport w => Sys2Proof.Machine.execDbgReport w s
  | .dbgStatWrite w v => Sys2Proof.Machine.execDbgStatWrite w v s
  | .dbgRdataRead w => Sys2Proof.Machine.execDbgRdataRead w s
  | .dbgRdataWrite w v => Sys2Proof.Machine.execDbgRdataWrite w v s
  | .dbgWpWrite w n v => Sys2Proof.Machine.execDbgWpWrite w n v s
  | .stageDone port => Sys2Proof.Machine.execStageDone port s
  | .migrationCommandDone w => Sys2Proof.Machine.execMigrationCommandDone w s
  | .badcmd reg w v => Sys2Proof.Machine.execBadcmd reg w v s
  | .unassignedOpcode op => Sys2Proof.Machine.execUnassignedOpcode op s
  | .spdmUnsupportedRequest w code => Sys2Proof.Machine.execSpdmUnsupportedRequest w code s
  | .getDeviceInterfaceReport w sess => Sys2Proof.Machine.execGetDeviceInterfaceReport w sess s
  | .ideKm stream world go => Sys2Proof.Machine.execIdeKm stream world go s
  | .fqHeadWrite w v => Sys2Proof.Machine.execFqHeadWrite w v s
  | .lineEviction core line => Sys2Proof.Machine.execLineEviction core line s
  | .powerLoss => Sys2Proof.Machine.execPowerLoss s
  | .correctedMergeEnd unit loc => Sys2Proof.Machine.execCorrectedMergeEnd unit loc s
  | .sensorHour tbin vbin => Sys2Proof.Machine.execSensorHour tbin vbin s
  | .nop f => Sys2Proof.Machine.execNop f s
  | .nopW2 f => Sys2Proof.Machine.execNopW2 f s
  | .rep count sd sa sb sc stride => Sys2Proof.Machine.execRep count sd sa sb sc stride s
  | .mov f => Sys2Proof.Machine.execMov f s
  | .movW2 f => Sys2Proof.Machine.execMovW2 f s
  | .movi d imm => Sys2Proof.Machine.execMovi d imm s
  | .moviW2 d imm => Sys2Proof.Machine.execMoviW2 d imm s
  | .rget f => Sys2Proof.Machine.execRget f s
  | .rgetW2 f => Sys2Proof.Machine.execRgetW2 f s
  | .rput f => Sys2Proof.Machine.execRput f s
  | .rputW2 f => Sys2Proof.Machine.execRputW2 f s
  | .iadd f => Sys2Proof.Machine.execIadd f s
  | .iaddW2 f => Sys2Proof.Machine.execIaddW2 f s
  | .isub f => Sys2Proof.Machine.execIsub f s
  | .isubW2 f => Sys2Proof.Machine.execIsubW2 f s
  | .iadd3 f => Sys2Proof.Machine.execIadd3 f s
  | .iaddco f => Sys2Proof.Machine.execIaddco f s
  | .imul f => Sys2Proof.Machine.execImul f s
  | .imulW2 f => Sys2Proof.Machine.execImulW2 f s
  | .imulhi f => Sys2Proof.Machine.execImulhi f s
  | .imulhiW2 f => Sys2Proof.Machine.execImulhiW2 f s
  | .imad f => Sys2Proof.Machine.execImad f s
  | .imadwide f => Sys2Proof.Machine.execImadwide f s
  | .imin f => Sys2Proof.Machine.execImin f s
  | .iminW2 f => Sys2Proof.Machine.execIminW2 f s
  | .imax f => Sys2Proof.Machine.execImax f s
  | .imaxW2 f => Sys2Proof.Machine.execImaxW2 f s
  | .iabs f => Sys2Proof.Machine.execIabs f s
  | .iabsW2 f => Sys2Proof.Machine.execIabsW2 f s
  | .icmp f => Sys2Proof.Machine.execIcmp f s
  | .icmpW2 f => Sys2Proof.Machine.execIcmpW2 f s
  | .sel f => Sys2Proof.Machine.execSel f s
  | .and f => Sys2Proof.Machine.execAnd f s
  | .andW2 f => Sys2Proof.Machine.execAndW2 f s
  | .or f => Sys2Proof.Machine.execOr f s
  | .orW2 f => Sys2Proof.Machine.execOrW2 f s
  | .xor f => Sys2Proof.Machine.execXor f s
  | .xorW2 f => Sys2Proof.Machine.execXorW2 f s
  | .andn f => Sys2Proof.Machine.execAndn f s
  | .andnW2 f => Sys2Proof.Machine.execAndnW2 f s
  | .not f => Sys2Proof.Machine.execNot f s
  | .notW2 f => Sys2Proof.Machine.execNotW2 f s
  | .lop3 f => Sys2Proof.Machine.execLop3 f s
  | .shl f => Sys2Proof.Machine.execShl f s
  | .shlW2 f => Sys2Proof.Machine.execShlW2 f s
  | .shr f => Sys2Proof.Machine.execShr f s
  | .shrW2 f => Sys2Proof.Machine.execShrW2 f s
  | .sar f => Sys2Proof.Machine.execSar f s
  | .sarW2 f => Sys2Proof.Machine.execSarW2 f s
  | .rotl f => Sys2Proof.Machine.execRotl f s
  | .rotlW2 f => Sys2Proof.Machine.execRotlW2 f s
  | .funnel f => Sys2Proof.Machine.execFunnel f s
  | .bfx f => Sys2Proof.Machine.execBfx f s
  | .bfxW2 f => Sys2Proof.Machine.execBfxW2 f s
  | .bfi f => Sys2Proof.Machine.execBfi f s
  | .popc f => Sys2Proof.Machine.execPopc f s
  | .popcW2 f => Sys2Proof.Machine.execPopcW2 f s
  | .clz f => Sys2Proof.Machine.execClz f s
  | .clzW2 f => Sys2Proof.Machine.execClzW2 f s
  | .ctz f => Sys2Proof.Machine.execCtz f s
  | .ctzW2 f => Sys2Proof.Machine.execCtzW2 f s
  | .brev f => Sys2Proof.Machine.execBrev f s
  | .brevW2 f => Sys2Proof.Machine.execBrevW2 f s
  | .bzip2 f => Sys2Proof.Machine.execBzip2 f s
  | .bzip2W2 f => Sys2Proof.Machine.execBzip2W2 f s
  | .bzip3 f => Sys2Proof.Machine.execBzip3 f s
  | .bzip3W2 f => Sys2Proof.Machine.execBzip3W2 f s
  | .bunzip2 f => Sys2Proof.Machine.execBunzip2 f s
  | .bunzip2W2 f => Sys2Proof.Machine.execBunzip2W2 f s
  | .bunzip3 f => Sys2Proof.Machine.execBunzip3 f s
  | .bunzip3W2 f => Sys2Proof.Machine.execBunzip3W2 f s
  | .byteperm f => Sys2Proof.Machine.execByteperm f s
  | .bytepermW2 f => Sys2Proof.Machine.execBytepermW2 f s
  | .iadd64 f => Sys2Proof.Machine.execIadd64 f s
  | .iadd64W2 f => Sys2Proof.Machine.execIadd64W2 f s
  | .shl64 f => Sys2Proof.Machine.execShl64 f s
  | .shl64W2 f => Sys2Proof.Machine.execShl64W2 f s
  | .shr64 f => Sys2Proof.Machine.execShr64 f s
  | .shr64W2 f => Sys2Proof.Machine.execShr64W2 f s
  | .lea f => Sys2Proof.Machine.execLea f s
  | .leaW2 f => Sys2Proof.Machine.execLeaW2 f s
  | .fadd f => Sys2Proof.Machine.execFadd f s
  | .faddW2 f => Sys2Proof.Machine.execFaddW2 f s
  | .fsub f => Sys2Proof.Machine.execFsub f s
  | .fsubW2 f => Sys2Proof.Machine.execFsubW2 f s
  | .fmul f => Sys2Proof.Machine.execFmul f s
  | .fmulW2 f => Sys2Proof.Machine.execFmulW2 f s
  | .ffma f => Sys2Proof.Machine.execFfma f s
  | .fmin f => Sys2Proof.Machine.execFmin f s
  | .fminW2 f => Sys2Proof.Machine.execFminW2 f s
  | .fmax f => Sys2Proof.Machine.execFmax f s
  | .fmaxW2 f => Sys2Proof.Machine.execFmaxW2 f s
  | .fcmp f => Sys2Proof.Machine.execFcmp f s
  | .fcmpW2 f => Sys2Proof.Machine.execFcmpW2 f s
  | .fclass f => Sys2Proof.Machine.execFclass f s
  | .fclassW2 f => Sys2Proof.Machine.execFclassW2 f s
  | .frnd f => Sys2Proof.Machine.execFrnd f s
  | .frndW2 f => Sys2Proof.Machine.execFrndW2 f s
  | .ffract f => Sys2Proof.Machine.execFfract f s
  | .ffractW2 f => Sys2Proof.Machine.execFfractW2 f s
  | .fscale f => Sys2Proof.Machine.execFscale f s
  | .fscaleW2 f => Sys2Proof.Machine.execFscaleW2 f s
  | .fgetexp f => Sys2Proof.Machine.execFgetexp f s
  | .fgetexpW2 f => Sys2Proof.Machine.execFgetexpW2 f s
  | .fgetman f => Sys2Proof.Machine.execFgetman f s
  | .fgetmanW2 f => Sys2Proof.Machine.execFgetmanW2 f s
  | .hadd2 f => Sys2Proof.Machine.execHadd2 f s
  | .hadd2W2 f => Sys2Proof.Machine.execHadd2W2 f s
  | .hmul2 f => Sys2Proof.Machine.execHmul2 f s
  | .hmul2W2 f => Sys2Proof.Machine.execHmul2W2 f s
  | .hfma2 f => Sys2Proof.Machine.execHfma2 f s
  | .hmin2 f => Sys2Proof.Machine.execHmin2 f s
  | .hmin2W2 f => Sys2Proof.Machine.execHmin2W2 f s
  | .hmax2 f => Sys2Proof.Machine.execHmax2 f s
  | .hmax2W2 f => Sys2Proof.Machine.execHmax2W2 f s
  | .dot2 f => Sys2Proof.Machine.execDot2 f s
  | .dot4 f => Sys2Proof.Machine.execDot4 f s
  | .dadd f => Sys2Proof.Machine.execDadd f s
  | .daddW2 f => Sys2Proof.Machine.execDaddW2 f s
  | .dmul f => Sys2Proof.Machine.execDmul f s
  | .dmulW2 f => Sys2Proof.Machine.execDmulW2 f s
  | .dfma f => Sys2Proof.Machine.execDfma f s
  | .dcmp f => Sys2Proof.Machine.execDcmp f s
  | .dcmpW2 f => Sys2Proof.Machine.execDcmpW2 f s
  | .cvt f => Sys2Proof.Machine.execCvt f s
  | .cvtpk f => Sys2Proof.Machine.execCvtpk f s
  | .cvtunpk f => Sys2Proof.Machine.execCvtunpk f s
  | .draw f => Sys2Proof.Machine.execDraw f s
  | .drawW2 f => Sys2Proof.Machine.execDrawW2 f s
  | .drawf f => Sys2Proof.Machine.execDrawf f s
  | .drawfW2 f => Sys2Proof.Machine.execDrawfW2 f s
  | .drawn f => Sys2Proof.Machine.execDrawn f s
  | .drawnW2 f => Sys2Proof.Machine.execDrawnW2 f s
  | .sample f => Sys2Proof.Machine.execSample f s
  | .sampleW2 f => Sys2Proof.Machine.execSampleW2 f s
  | .splitkey f => Sys2Proof.Machine.execSplitkey f s
  | .splitkeyW2 f => Sys2Proof.Machine.execSplitkeyW2 f s
  | .brk code skip => Sys2Proof.Machine.execBrk code skip s
  | .frcp f => Sys2Proof.Machine.execFrcp f s
  | .frcpW2 f => Sys2Proof.Machine.execFrcpW2 f s
  | .frsq f => Sys2Proof.Machine.execFrsq f s
  | .frsqW2 f => Sys2Proof.Machine.execFrsqW2 f s
  | .fsqrt f => Sys2Proof.Machine.execFsqrt f s
  | .fsqrtW2 f => Sys2Proof.Machine.execFsqrtW2 f s
  | .fexp2 f => Sys2Proof.Machine.execFexp2 f s
  | .fexp2W2 f => Sys2Proof.Machine.execFexp2W2 f s
  | .flog2 f => Sys2Proof.Machine.execFlog2 f s
  | .flog2W2 f => Sys2Proof.Machine.execFlog2W2 f s
  | .fsin f => Sys2Proof.Machine.execFsin f s
  | .fsinW2 f => Sys2Proof.Machine.execFsinW2 f s
  | .fcos f => Sys2Proof.Machine.execFcos f s
  | .fcosW2 f => Sys2Proof.Machine.execFcosW2 f s
  | .ftanh f => Sys2Proof.Machine.execFtanh f s
  | .ftanhW2 f => Sys2Proof.Machine.execFtanhW2 f s
  | .reduce f => Sys2Proof.Machine.execReduce f s
  | .reduceW2 f => Sys2Proof.Machine.execReduceW2 f s
  | .scan f => Sys2Proof.Machine.execScan f s
  | .scanW2 f => Sys2Proof.Machine.execScanW2 f s
  | .vote f => Sys2Proof.Machine.execVote f s
  | .voteW2 f => Sys2Proof.Machine.execVoteW2 f s
  | .ballot f => Sys2Proof.Machine.execBallot f s
  | .ballotW2 f => Sys2Proof.Machine.execBallotW2 f s
  | .matchGroup f => Sys2Proof.Machine.execMatchGroup f s
  | .matchW2 f => Sys2Proof.Machine.execMatchW2 f s
  | .laneget f => Sys2Proof.Machine.execLaneget f s
  | .lanegetW2 f => Sys2Proof.Machine.execLanegetW2 f s
  | .ld f => Sys2Proof.Machine.execLd f s
  | .ldW2 f => Sys2Proof.Machine.execLdW2 f s
  | .st f => Sys2Proof.Machine.execSt f s
  | .stW2 f => Sys2Proof.Machine.execStW2 f s
  | .ldl f => Sys2Proof.Machine.execLdl f s
  | .ldlW2 f => Sys2Proof.Machine.execLdlW2 f s
  | .stl f => Sys2Proof.Machine.execStl f s
  | .stlW2 f => Sys2Proof.Machine.execStlW2 f s
  | .lds f => Sys2Proof.Machine.execLds f s
  | .ldsW2 f => Sys2Proof.Machine.execLdsW2 f s
  | .sts f => Sys2Proof.Machine.execSts f s
  | .stsW2 f => Sys2Proof.Machine.execStsW2 f s
  | .ldc f => Sys2Proof.Machine.execLdc f s
  | .ldcW2 f => Sys2Proof.Machine.execLdcW2 f s
  | .stc f => Sys2Proof.Machine.execStc f s
  | .stcW2 f => Sys2Proof.Machine.execStcW2 f s
  | .lda f => Sys2Proof.Machine.execLda f s
  | .ldaW2 f => Sys2Proof.Machine.execLdaW2 f s
  | .atom f => Sys2Proof.Machine.execAtom f s
  | .atomW2 f => Sys2Proof.Machine.execAtomW2 f s
  | .cas f => Sys2Proof.Machine.execCas f s
  | .atoms f => Sys2Proof.Machine.execAtoms f s
  | .atomsW2 f => Sys2Proof.Machine.execAtomsW2 f s
  | .bankop f => Sys2Proof.Machine.execBankop f s
  | .redslot f => Sys2Proof.Machine.execRedslot f s
  | .prefetch f => Sys2Proof.Machine.execPrefetch f s
  | .prefetchW2 f => Sys2Proof.Machine.execPrefetchW2 f s
  | .fence f => Sys2Proof.Machine.execFence f s
  | .fenceW2 f => Sys2Proof.Machine.execFenceW2 f s
  | .tfence f => Sys2Proof.Machine.execTfence f s
  | .tfenceW2 f => Sys2Proof.Machine.execTfenceW2 f s
  | .monitor f => Sys2Proof.Machine.execMonitor f s
  | .monitorW2 f => Sys2Proof.Machine.execMonitorW2 f s
  | .tdset f => Sys2Proof.Machine.execTdset f s
  | .tdsetW2 f => Sys2Proof.Machine.execTdsetW2 f s
  | .copy f => Sys2Proof.Machine.execCopy f s
  | .copyW2 f => Sys2Proof.Machine.execCopyW2 f s
  | .copyw f => Sys2Proof.Machine.execCopyw f s
  | .copywW2 f => Sys2Proof.Machine.execCopywW2 f s
  | .gather f => Sys2Proof.Machine.execGather f s
  | .gatherW2 f => Sys2Proof.Machine.execGatherW2 f s
  | .scatter f => Sys2Proof.Machine.execScatter f s
  | .scatterW2 f => Sys2Proof.Machine.execScatterW2 f s
  | .combine f => Sys2Proof.Machine.execCombine f s
  | .combineW2 f => Sys2Proof.Machine.execCombineW2 f s
  | .replay f => Sys2Proof.Machine.execReplay f s
  | .replayW2 f => Sys2Proof.Machine.execReplayW2 f s
  | .chsend f => Sys2Proof.Machine.execChsend f s
  | .chsendW2 f => Sys2Proof.Machine.execChsendW2 f s
  | .chrecv f => Sys2Proof.Machine.execChrecv f s
  | .chrecvW2 f => Sys2Proof.Machine.execChrecvW2 f s
  | .beq a b off => Sys2Proof.Machine.execBeq a b off s
  | .bne a b off => Sys2Proof.Machine.execBne a b off s
  | .blt a b off => Sys2Proof.Machine.execBlt a b off s
  | .bge a b off => Sys2Proof.Machine.execBge a b off s
  | .bltn a b off => Sys2Proof.Machine.execBltn a b off s
  | .bgen a b off => Sys2Proof.Machine.execBgen a b off s
  | .bra off => Sys2Proof.Machine.execBra off s
  | .braW2 off => Sys2Proof.Machine.execBraW2 off s
  | .brx f => Sys2Proof.Machine.execBrx f s
  | .call off => Sys2Proof.Machine.execCall off s
  | .callW2 off => Sys2Proof.Machine.execCallW2 off s
  | .callx f => Sys2Proof.Machine.execCallx f s
  | .ret f => Sys2Proof.Machine.execRet f s
  | .exit f => Sys2Proof.Machine.execExit f s
  | .yield f => Sys2Proof.Machine.execYield f s
  | .mwait f => Sys2Proof.Machine.execMwait f s
  | .mwaitW2 f => Sys2Proof.Machine.execMwaitW2 f s
  | .trap f => Sys2Proof.Machine.execTrap f s
  | .trapW2 f => Sys2Proof.Machine.execTrapW2 f s
  | .trapfence f => Sys2Proof.Machine.execTrapfence f s
  | .tbar f => Sys2Proof.Machine.execTbar f s
  | .cbar f => Sys2Proof.Machine.execCbar f s
  | .arrive f => Sys2Proof.Machine.execArrive f s
  | .await f => Sys2Proof.Machine.execAwait f s
  | .mload f => Sys2Proof.Machine.execMload f s
  | .mloadW2 f => Sys2Proof.Machine.execMloadW2 f s
  | .mswap f => Sys2Proof.Machine.execMswap f s
  | .mswapW2 f => Sys2Proof.Machine.execMswapW2 f s
  | .mstream f => Sys2Proof.Machine.execMstream f s
  | .mstreamW2 f => Sys2Proof.Machine.execMstreamW2 f s
  | .mvstream f => Sys2Proof.Machine.execMvstream f s
  | .mvstreamW2 f => Sys2Proof.Machine.execMvstreamW2 f s
  | .mdist f => Sys2Proof.Machine.execMdist f s
  | .mdistW2 f => Sys2Proof.Machine.execMdistW2 f s
  | .mtopk f => Sys2Proof.Machine.execMtopk f s
  | .mtopkW2 f => Sys2Proof.Machine.execMtopkW2 f s
  | .mepi f => Sys2Proof.Machine.execMepi f s
  | .mepiW2 f => Sys2Proof.Machine.execMepiW2 f s
  | .mdrain f => Sys2Proof.Machine.execMdrain f s
  | .mdrainW2 f => Sys2Proof.Machine.execMdrainW2 f s
  | .mclear f => Sys2Proof.Machine.execMclear f s
  | .mclearW2 f => Sys2Proof.Machine.execMclearW2 f s
  | .walk f => Sys2Proof.Machine.execWalk f s
  | .walkW2 f => Sys2Proof.Machine.execWalkW2 f s
  | .endwalk f => Sys2Proof.Machine.execEndwalk f s
  | .endwalkW2 f => Sys2Proof.Machine.execEndwalkW2 f s
  | .seqArrive f => Sys2Proof.Machine.execSeqArrive f s
  | .seqAwait f => Sys2Proof.Machine.execSeqAwait f s
  | .swait f => Sys2Proof.Machine.execSwait f s
  | .sqexit f => Sys2Proof.Machine.execSqexit f s
  | .seqIadd f => Sys2Proof.Machine.execSeqIadd f s
  | .seqIaddW2 f => Sys2Proof.Machine.execSeqIaddW2 f s
  | .seqIsub f => Sys2Proof.Machine.execSeqIsub f s
  | .seqIsubW2 f => Sys2Proof.Machine.execSeqIsubW2 f s
  | .seqImul f => Sys2Proof.Machine.execSeqImul f s
  | .seqImulW2 f => Sys2Proof.Machine.execSeqImulW2 f s
  | .seqImin f => Sys2Proof.Machine.execSeqImin f s
  | .seqIminW2 f => Sys2Proof.Machine.execSeqIminW2 f s
  | .seqImax f => Sys2Proof.Machine.execSeqImax f s
  | .seqImaxW2 f => Sys2Proof.Machine.execSeqImaxW2 f s
  | .seqAnd f => Sys2Proof.Machine.execSeqAnd f s
  | .seqAndW2 f => Sys2Proof.Machine.execSeqAndW2 f s
  | .seqOr f => Sys2Proof.Machine.execSeqOr f s
  | .seqOrW2 f => Sys2Proof.Machine.execSeqOrW2 f s
  | .seqXor f => Sys2Proof.Machine.execSeqXor f s
  | .seqXorW2 f => Sys2Proof.Machine.execSeqXorW2 f s
  | .seqShl f => Sys2Proof.Machine.execSeqShl f s
  | .seqShlW2 f => Sys2Proof.Machine.execSeqShlW2 f s
  | .seqShr f => Sys2Proof.Machine.execSeqShr f s
  | .seqShrW2 f => Sys2Proof.Machine.execSeqShrW2 f s
  | .seqMov f => Sys2Proof.Machine.execSeqMov f s
  | .seqMovW2 f => Sys2Proof.Machine.execSeqMovW2 f s
  | .seqMovi d imm => Sys2Proof.Machine.execSeqMovi d imm s
  | .seqMoviW2 d imm => Sys2Proof.Machine.execSeqMoviW2 d imm s
  | .seqBeq a b off => Sys2Proof.Machine.execSeqBeq a b off s
  | .seqBne a b off => Sys2Proof.Machine.execSeqBne a b off s
  | .seqBlt a b off => Sys2Proof.Machine.execSeqBlt a b off s
  | .seqBge a b off => Sys2Proof.Machine.execSeqBge a b off s
  | .seqBra off => Sys2Proof.Machine.execSeqBra off s
  | .seqBraW2 off => Sys2Proof.Machine.execSeqBraW2 off s
  | .sread f => Sys2Proof.Machine.execSread f s
  | .sreadW2 f => Sys2Proof.Machine.execSreadW2 f s
  | .swrite f => Sys2Proof.Machine.execSwrite f s
  | .swriteW2 f => Sys2Proof.Machine.execSwriteW2 f s
  | .launch f => Sys2Proof.Machine.execLaunch f s
  | .launchW2 f => Sys2Proof.Machine.execLaunchW2 f s
  | .qread f => Sys2Proof.Machine.execQread f s
  | .qreadW2 f => Sys2Proof.Machine.execQreadW2 f s
  | .evread f => Sys2Proof.Machine.execEvread f s
  | .evreadW2 f => Sys2Proof.Machine.execEvreadW2 f s
  | .evwait f => Sys2Proof.Machine.execEvwait f s
  | .signal f => Sys2Proof.Machine.execSignal f s
  | .signalW2 f => Sys2Proof.Machine.execSignalW2 f s
  | .tlbinv f => Sys2Proof.Machine.execTlbinv f s
  | .tlbinvW2 f => Sys2Proof.Machine.execTlbinvW2 f s
  | .keyop f => Sys2Proof.Machine.execKeyop f s
  | .keyopW2 f => Sys2Proof.Machine.execKeyopW2 f s

end Sys2Proof.Machine
end

