-- ==== Sys2Proof/Machine/Moves.lean ====
section
/-! DEFINITION. The operations that the device begins by itself once their condition holds, in the order in which the model tries
them (log entry 2): timeouts, teams that have stopped, releases, replies in memory, reports, commands and bounds that have
run out. Each one named here changes the state. -/

namespace Sys2Proof.Machine

namespace State

/-- The first entry waits for a place in a priority queue (R132). -/
def releaseBlocked (s : State) (t : Nat) (es : List Staged) : Bool :=
  match es with
  | { op := StagedOp.launch r _, .. } :: _ =>
    s.activating || decide (1024 ≤ s.queueLength (s.world (s.launchOf t).world).ctl (bits (parseRecord r).lflags.toNat 1 0))
  | _ => false

/-- A team that has stopped rolls back, ends, is saved, or commits its interval. -/
def teamMove (s : State) : Option Instr :=
  s.teams.findSome? fun (t, x) =>
    if x.st ≠ .resident then none
    else if x.rollback.isSome then (if s.rollbackReady t then some (.rollback t) else none)
    else if s.asking (.seq t) then none
    else if x.ending then (if s.teamStopped t then some (.contextSave t) else none)
    else if x.savePending.isSome then (if s.clusterStopped t then some (.contextSave t) else none)
    else if x.snapshot && s.seqStopped t && !s.releaseBlocked t x.staged then some (.contextSave t)
    else none

/-- The Varnish has a team to release (R427). -/
def varnishMove (s : State) : Option Instr :=
  s.launches.findSome? fun (l, _) =>
    match s.varnishTeam l with
    | some t => if s.releaseBlocked t (s.team t).staged then none else some (.varnishRelease l)
    | none => none

/-- A peer has not answered for 2 ms (R115). -/
def requestMove (s : State) : Option Instr :=
  (s.reqs.find? fun r => r.st == .waiting && decide (r.sent + 2100000 ≤ s.cycle)).map fun r =>
    .requestTimeout ⟨r.world, BitVec.ofNat 16 r.tag⟩

/-- A step of the debugger has settled (R484). -/
def stepSettled (s : State) (c : DbgCmd) : Bool :=
  (s.team c.team).st == .gone ||
    ((s.team c.team).st == .resident && (s.liveOf c.team c.group).all fun lit => haltedOrWaiting (s.lane c.team lit))

/-- A debug report is due (R481). -/
def debugMove (s : State) : Option Instr :=
  s.worlds.findSome? fun (w, x) =>
    let d := x.dbg
    if d.stops.any (·.op == 0) || (d.running.map s.stepSettled).getD false || (!d.held.isEmpty && !d.new) then some (.dbgReport w)
    else none

/-- FQ_HEAD as it stands in memory. -/
def fqHeadNow (s : State) (w : Nat) : BitVec 32 :=
  match s.wpaRead w (contextAddr (s.world w) + 0x1C) 4 with
  | some bs => BitVec.ofNat 32 (ofLe bs)
  | none => 0

/-- A reply stands in the fault queue, or the queue has room for a record that waits (R315, R316). -/
def queueMove (s : State) : Option Instr :=
  s.worlds.findSome? fun (w, _) =>
    match s.answered w with
    | some i => some i
    | none => if !(s.waitingRecords w).isEmpty && s.queueRoom w then some (.fqHeadWrite w (s.fqHeadNow w)) else none

/-- The running slice or migration command ends, or its bound has passed. -/
def commandMove (s : State) : Option Instr :=
  match s.command with
  | none => none
  | some c =>
    let k := nodeCtl c.node
    if 0x80 ≤ c.op then
      if c.ended.isSome || (c.op == 0x83 && s.exportReady c.world) || (c.op == 0x84 && !s.asking (.prog c.world)) then
        some (.migrationCommandDone c.world)
      else if c.op = 0x83 && s.late c 40000000 && !s.quiesceDone c.world then some (.exportTimeout c.world)
      else none
    else if c.ended.isSome || (c.op == 4 && (s.slice k).splitting && s.splitReady c) || (c.op == 7 && s.quiesceEnded c) then
      some .commandDone
    else if c.op = 4 && (s.slice k).splitting && s.late c 40000000 then some (.splitTimeout k)
    else if (s.slice k).template.isSome && s.late c 49000000 then some (.templateTimeout k)
    else none

/-- What the clock makes due: the quantum (R456), the end of a period (R495), of a merge window (R467), of an activation
(R61), a commit of the lifetime counters (R468), the calendars' frame (R148). -/
def clockMove (s : State) : Option Instr :=
  ((s.slices.find? fun (c, _) => (s.quantumOver c).isSome).map fun e => .quantumExpiry e.1) <|>
  ((s.merges.find? fun m => decide (m.opened + 1000000 ≤ s.clock)).map fun m => .correctedMergeEnd m.unit m.loc) <|>
  (if s.activating && (s.fw.map fun f => decide (f.start + 250000000 ≤ s.clock)).getD false then some .activationDone
    else if s.metNext * 1000000 ≤ s.clock then some .periodBoundary
    else if s.clockCommitted + 600000000000 ≤ s.clock then some .counterCommit
    else if (s.palPend.map fun f => decide (f ≤ s.cycle / 512)).getD false then some .calendarSwitch
    else none)

/-- A CHKEY that waited for its channel (R359), or an ATS invalidation that waited for passes (R109). -/
def heldMove (s : State) : Option Instr :=
  s.held.find? fun i =>
    match i with
    | .chkey w _ ch => !s.channelPending w ch
    | .atsInvalidation w page count => !s.passHolds w page count
    | _ => false

/-- The first operation that the device begins by itself. -/
def ownEvent (s : State) : Option Instr :=
  s.timeout <|> s.teamMove <|> s.varnishMove <|> s.requestMove <|> s.debugMove <|> s.queueMove <|> s.commandMove <|>
    s.clockMove <|> s.heldMove

/-- The moves that take turns: cores, sequencers, control programs, and the key rotations under way (R358). -/
def allMovers (s : State) : List Move :=
  s.movers ++ (s.worlds.filter fun e => e.2.rotation.isSome).map fun e => .event (.rotationStep e.1)

end State

end Sys2Proof.Machine
end

