-- ==== Sys2Proof/Machine/Step.lean ====
section
/-! DEFINITION. One step of the package: what the agenda names, else an operation of the device's own that is due, else a
timeout, else the next agent in turn (log entry 2); and the placing of one instruction word before the fetch. -/

namespace Sys2Proof.Machine

/-- The executing agent decodes its next word and executes it. -/
noncomputable def issueWord (s : State) : Host.Outcome State Fault Refusal :=
  match s.wordsAt with
  | none => .next s
  | some (cls, ws) =>
    match decodeWords cls ws with
    | .ok i => exec i s
    | .error _ => exec (.unassignedOpcode ((ws.headD 0).extractLsb' 24 8)) s

/-- The issue cycle of core c for gang x: C of R210 counts it unless the gang stalled. -/
def counted (s : State) (c g : Nat) (x : Gang) (r : Host.Outcome State Fault Refusal) : Host.Outcome State Fault Refusal :=
  match r with
  | .next t => .next (if ((t.gang g).map (·.stalled)).getD false then t else t.countProgress c (s.hasProgress x))
  | .fault f => .fault f
  | .refused r => .refused r

/-- The picker of a core issues (R205, R206). -/
noncomputable def coreMove (s : State) (c : Nat) : Host.Outcome State Fault Refusal :=
  match s.pick c with
  | none => .next s
  | some (.event i) => exec i s
  | some (.gang g) =>
    match s.gang g with
    | none => .next s
    | some x => counted s c g x (issueWord { s with cur := some (.gang g) })

/-- A team's sequencer fetches its next clause or executes its next instruction (R372). -/
noncomputable def seqMove (s : State) (t : Nat) : Host.Outcome State Fault Refusal :=
  let q := s.seqOf t
  if q.st ≠ .running || q.stopped || (s.team t).st ≠ .resident || (s.team t).rollback.isSome || s.asking (.seq t) then .next s else
  match q.clause with
  | none => exec (.clauseFetch (s.team t).core t q.pc) { s with cur := some (.seq t) }
  | some _ => issueWord { s with cur := some (.seq t) }

/-- A control program moves, when it has the turn on its control core and waits for nothing (R33, R123 to R127). -/
noncomputable def progMove (s : State) (w : Nat) : Host.Outcome State Fault Refusal :=
  let p := s.prog w
  if s.turnWorld (s.world w).ctl ≠ some w || !s.progReady w then .next s else
  let s := s.takeTurn w
  if p.starting then .next (s.startProg w)
  else if !p.custom then .next (s.fifoStep w)
  else
    match p.clause with
    | none => exec (.clauseFetch 0 0 p.lane.pc) { s with cur := some (.prog w) }
    | some _ => issueWord { s with cur := some (.prog w) }

/-- The world that a host request concerns: the function of a register write, or the world behind an HDM decoder. -/
def hostTarget (s : State) (i : Instr) : Option Nat :=
  match i with
  | .wldNotifyWrite w _ _ | .wldCtlEnSet w | .wldCtlEnClear w | .wldTctxWrite w _ | .wldRbaseWrite w _ _ | .wldCprogWrite w _ => some w
  | .registerWrite fn _ _ _ => some fn
  | .hdmRead addr n => (s.decoderAt addr n).map (·.world)
  | .hdmWrite addr bs => (s.decoderAt addr bs.length).map (·.world)
  | _ => none

/-- A request with the TEE bit is accepted on a selective stream bound to its world, whose TDI is in RUN (R59, R111). -/
def teeOk (s : State) (stream w : Nat) : Bool :=
  1 ≤ stream && stream ≤ 16 && s.ide.contains (stream, w) && (s.world w).tdi == .run

/-- A request with the TEE bit; any other than an accepted one is an Unsupported Request. -/
noncomputable def teeMove (s : State) (stream : Nat) (i : Instr) : Host.Outcome State Fault Refusal :=
  match hostTarget s i with
  | some w => if teeOk s stream w then exec i s else .next (s.send (.reply 1 []))
  | none => .next (s.send (.reply 1 []))

/-- One move. -/
noncomputable def runMove (s : State) (m : Move) : Host.Outcome State Fault Refusal :=
  match m with
  | .event i => if s.alive i then exec i s else .next s
  | .core c => coreMove s c
  | .seq t => seqMove s t
  | .prog w => progMove s w
  | .firm c i => exec i { s with cur := some (.firm c) }
  | .tee stream i => if s.alive i then teeMove s stream i else .next s
  | .tdisp w sess code => .next (s.tdispQuery w sess code)
  | m => .next (s.outside m)

/-- Whether agents and the device's own operations move: not while frozen (R469) or before bring-up has ended (R65). -/
def State.moving (s : State) : Bool := s.frozen.isNone && s.up

/-- The state in which a step chooses: nothing sent yet, no agent executing, one core cycle later. -/
def State.begin (s : State) : State :=
  { s with out := [], cur := none, meets := s.meetsNext, meetsNext := [], cycle := if s.frozen.isNone then s.cycle + 1 else s.cycle }

/-- A move of the model's own choice, when the agenda and the due operations are empty. -/
noncomputable def ownMove (s : State) : Host.Outcome State Fault Refusal :=
  match s.ownEvent with
  | some i => exec i s
  | none =>
    let ms := s.allMovers
    match ms[s.turn % ms.length]? with
    | none => .next s
    | some m => runMove { s with turn := s.turn + 1 } m

/-- One step. -/
noncomputable def step (s : State) : Host.Outcome State Fault Refusal :=
  match s.agenda with
  | m :: rest =>
    match m with
    | .event _ | .time _ _ | .ats _ _ _ _ | .tee _ _ | .flash _ _ _ _ | .fuse _ _ | .mask _ _ _ =>
      runMove { s.begin with agenda := rest } m
    | _ => if s.moving then runMove { s.begin with agenda := rest } m else .next { s.begin with agenda := rest }
  | [] =>
    if !s.moving then .next s.begin else
    match s.due with
    | i :: rest => exec i { s.begin with due := rest }
    | [] => ownMove s.begin

/-- Where withFetchWord places an instruction: a clause that holds it alone, at a safe point. A REP is followed by a NOP,
since R175 refuses it as the last word. -/
def placedClause (cls : Nat) (ws : List Word) : Clause :=
  let w0 := ws.headD 0
  { hdr := 0x1000, cls := cls, yield := false, safe := true,
    words := if isTwoWord w0 then ws.take 2
      else if cls = 0 && w0.extractLsb' 24 8 = 0x01#8 then [w0, 0x00F0F0F0#32] else [w0] }

/-- The launch and the world that hold the placed instruction: one group, 240 registers. -/
def placedLaunch : Launch :=
  { world := 1, ctl := 0, prio := 0, record := {}, st := .active, desc := { shape := 0xF001#32, codeSize := 0x10000 } }

/-- A team of one lane, or of a sequencer, that executes a clause. -/
def placedTeam (c : Clause) (seq : Bool) : Team :=
  { launch := 0, index := 0, rank := 0, cluster := 0, core := 0, groups := [{ slot := some 0 }],
    lanes := [if seq then { st := .exited } else { pc := c.hdr + 4, hdr := c.hdr, inClause := true }],
    seq := if seq then some { pc := c.hdr + 4, hdr := c.hdr, clause := some c } else none }

/-- Stores the instruction of a table word where the next step decodes it, in the class of firstClass (log entries 3, 4): in a
gang of one lane, in a sequencer for class 5, in a control program or the SLICE firmware for what R291 reserves to them. -/
noncomputable def State.withFetchWord (s : State) (nbits w : Nat) : State :=
  let ws := tableWords (w % 2 ^ nbits)
  let s := { s with
    due := []
    launches := [(0, placedLaunch)]
    worlds := s.worlds.insert 1 { s.world 1 with st := .running, en := true } }
  let gang := fun (cls : Nat) =>
    let c := placedClause cls ws
    { s with
      agenda := [.core 0]
      teams := [(0, placedTeam c false)]
      gangs := [(0, { core := 0, team := 0, lanes := [0], clause := c, age := 0, began := 0 })] }
  match firstClass ws with
  | none => gang 0
  | some (cls, i) =>
    let op := ((entryOf i).map (·.op % 128)).getD 0
    if cls = 5 then { s with agenda := [.seq 0], teams := [(0, placedTeam (placedClause 5 ws) true)] }
    else if cls = 6 && op = 8 then { s with agenda := [.firm 0 i] }
    else if cls = 6 && 3 ≤ op && op ≤ 6 then
      { s.modProg 1 fun p => { p with st := .running, custom := true, nregs := 240, clause := some (placedClause 6 ws) } with
        agenda := [.prog 1], slices := s.slices.insert 0 { s.slice 0 with wlist := [1, 0, 0, 0, 0, 0] } }
    else gang cls

end Sys2Proof.Machine
end

