-- ==== Sys2Proof/Laws/Decode.lean ====
section
/-! SUPPORT. The fields of an encoded word: each reads back what the encoder put there; and, for each layout, decoding the
words of a well-formed instruction gives the instruction, once its opcode's line of the map is known. -/

namespace Sys2Proof

/-- An operand code read back. -/
@[simp] theorem Opd.ofByte_byte (o : Opd) : Opd.ofByte o.byte = o := by
  match o with
  | .reg n =>
    have hn := n.isLt
    have : n.val % 256 = n.val := Nat.mod_eq_of_lt (by omega)
    simp [Opd.byte, Opd.ofByte, this]
  | .special k => revert k; decide
  | .latch k => revert k; decide

/-- A pattern code read back. -/
@[simp] theorem PatKind.ofBits_bits (p : PatKind) : PatKind.ofBits p.bits = p := by cases p <;> rfl

/-! Four bytes in a word -/

theorem bytes_3 (x y z w : BitVec 8) : (x ++ y ++ z ++ w).extractLsb' 24 8 = x := by
  apply BitVec.eq_of_getLsbD_eq; intro i hi
  have h1 : ¬ 24 + i < 8 := by omega
  have h2 : ¬ 24 + i - 8 < 8 := by omega
  have h3 : ¬ 24 + i - 8 - 8 < 8 := by omega
  have h4 : 24 + i - 8 - 8 - 8 = i := by omega
  simp only [BitVec.getLsbD_extractLsb', BitVec.getLsbD_append]
  simp [hi, h1, h2, h3, h4]
theorem bytes_2 (x y z w : BitVec 8) : (x ++ y ++ z ++ w).extractLsb' 16 8 = y := by
  apply BitVec.eq_of_getLsbD_eq; intro i hi
  have h1 : ¬ 16 + i < 8 := by omega
  have h2 : ¬ 16 + i - 8 < 8 := by omega
  have h3 : 16 + i - 8 - 8 = i := by omega
  simp only [BitVec.getLsbD_extractLsb', BitVec.getLsbD_append]
  simp [hi, h1, h2, h3]
theorem bytes_1 (x y z w : BitVec 8) : (x ++ y ++ z ++ w).extractLsb' 8 8 = z := by
  apply BitVec.eq_of_getLsbD_eq; intro i hi
  have h1 : ¬ 8 + i < 8 := by omega
  have h2 : 8 + i - 8 = i := by omega
  simp only [BitVec.getLsbD_extractLsb', BitVec.getLsbD_append]
  simp [hi, h1, h2]
theorem bytes_0 (x y z w : BitVec 8) : (x ++ y ++ z ++ w).extractLsb' 0 8 = w := by
  apply BitVec.eq_of_getLsbD_eq; intro i hi
  simp only [BitVec.getLsbD_extractLsb', BitVec.getLsbD_append]
  simp [hi]
theorem bytes_top (x y z w : BitVec 8) : (x ++ y ++ z ++ w).getLsbD 31 = x.getLsbD 7 := by
  simp only [BitVec.getLsbD_append]; simp

/-! Word 0 -/

theorem op_word0 (op : BitVec 8) (d a b : Opd) : opOf (word0 op d a b) = op.toNat :=
  congrArg BitVec.toNat (bytes_3 op d.byte a.byte b.byte)
theorem two_word0 (op : BitVec 8) (d a b : Opd) : isTwoWord (word0 op d a b) = op.getLsbD 7 :=
  bytes_top op d.byte a.byte b.byte
@[simp] theorem d_word0 (op : BitVec 8) (d a b : Opd) : fieldD (word0 op d a b) = d :=
  (congrArg Opd.ofByte (bytes_2 op d.byte a.byte b.byte)).trans d.ofByte_byte
@[simp] theorem a_word0 (op : BitVec 8) (d a b : Opd) : fieldA (word0 op d a b) = a :=
  (congrArg Opd.ofByte (bytes_1 op d.byte a.byte b.byte)).trans a.ofByte_byte
@[simp] theorem b_word0 (op : BitVec 8) (d a b : Opd) : fieldB (word0 op d a b) = b :=
  (congrArg Opd.ofByte (bytes_0 op d.byte a.byte b.byte)).trans b.ofByte_byte
@[simp] theorem f1_word0 (op : BitVec 8) (f : F1) : f1Of (word0 op f.d f.a f.b) = f := by simp [f1Of]

/-! Word 1 -/

theorem c_word1 (f : F2) : Opd.ofByte ((word1 f).extractLsb' 24 8) = f.c := by
  have : (word1 f).extractLsb' 24 8 = f.c.byte := by
    apply BitVec.eq_of_getLsbD_eq; intro i hi
    have h1 : ¬ 24 + i < 8 := by omega
    have h2 : ¬ 24 + i - 8 < 6 := by omega
    have h3 : ¬ 24 + i - 8 - 6 < 2 := by omega
    have h4 : ¬ 24 + i - 8 - 6 - 2 < 6 := by omega
    have h5 : ¬ 24 + i - 8 - 6 - 2 - 6 < 2 := by omega
    have h6 : 24 + i - 8 - 6 - 2 - 6 - 2 = i := by omega
    unfold word1
    simp only [BitVec.getLsbD_extractLsb', BitVec.getLsbD_append]
    simp [hi, h1, h2, h3, h4, h5, h6]
  rw [this, Opd.ofByte_byte]
theorem pa_kind_word1 (f : F2) : (word1 f).extractLsb' 22 2 = f.pa.kind.bits := by
  apply BitVec.eq_of_getLsbD_eq; intro i hi
  have h1 : ¬ 22 + i < 8 := by omega
  have h2 : ¬ 22 + i - 8 < 6 := by omega
  have h3 : ¬ 22 + i - 8 - 6 < 2 := by omega
  have h4 : ¬ 22 + i - 8 - 6 - 2 < 6 := by omega
  have h5 : 22 + i - 8 - 6 - 2 - 6 = i := by omega
  unfold word1
  simp only [BitVec.getLsbD_extractLsb', BitVec.getLsbD_append]
  simp [hi, h1, h2, h3, h4, h5]
theorem pa_arg_word1 (f : F2) : (word1 f).extractLsb' 16 6 = f.pa.arg := by
  apply BitVec.eq_of_getLsbD_eq; intro i hi
  have h1 : ¬ 16 + i < 8 := by omega
  have h2 : ¬ 16 + i - 8 < 6 := by omega
  have h3 : ¬ 16 + i - 8 - 6 < 2 := by omega
  have h4 : 16 + i - 8 - 6 - 2 = i := by omega
  unfold word1
  simp only [BitVec.getLsbD_extractLsb', BitVec.getLsbD_append]
  simp [hi, h1, h2, h3, h4]
theorem pb_kind_word1 (f : F2) : (word1 f).extractLsb' 14 2 = f.pb.kind.bits := by
  apply BitVec.eq_of_getLsbD_eq; intro i hi
  have h1 : ¬ 14 + i < 8 := by omega
  have h2 : ¬ 14 + i - 8 < 6 := by omega
  have h3 : 14 + i - 8 - 6 = i := by omega
  unfold word1
  simp only [BitVec.getLsbD_extractLsb', BitVec.getLsbD_append]
  simp [hi, h1, h2, h3]
theorem pb_arg_word1 (f : F2) : (word1 f).extractLsb' 8 6 = f.pb.arg := by
  apply BitVec.eq_of_getLsbD_eq; intro i hi
  have h1 : ¬ 8 + i < 8 := by omega
  have h2 : 8 + i - 8 = i := by omega
  unfold word1
  simp only [BitVec.getLsbD_extractLsb', BitVec.getLsbD_append]
  simp [hi, h1, h2]
theorem m_word1 (f : F2) : (word1 f).extractLsb' 0 8 = f.m := by
  apply BitVec.eq_of_getLsbD_eq; intro i hi
  unfold word1
  simp only [BitVec.getLsbD_extractLsb', BitVec.getLsbD_append]
  simp [hi]
@[simp] theorem f2_words (op : BitVec 8) (f : F2) : f2Of (word0 op f.d f.a f.b) (word1 f) = f := by
  simp only [f2Of, d_word0, a_word0, b_word0, c_word1, pa_kind_word1, pa_arg_word1, pb_kind_word1, pb_arg_word1, m_word1,
    PatKind.ofBits_bits]

/-! The literal layouts -/

theorem imm16_word (op : BitVec 8) (d : Opd) (imm : BitVec 16) : imm16 (op ++ d.byte ++ imm) = imm := by
  apply BitVec.eq_of_getLsbD_eq; intro i hi
  unfold imm16
  simp only [BitVec.getLsbD_extractLsb', BitVec.getLsbD_append]
  simp [hi]
theorem d_imm16_word (op : BitVec 8) (d : Opd) (imm : BitVec 16) : fieldD (op ++ d.byte ++ imm) = d := by
  have : (op ++ d.byte ++ imm).extractLsb' 16 8 = d.byte := by
    apply BitVec.eq_of_getLsbD_eq; intro i hi
    have h1 : ¬ 16 + i < 16 := by omega
    have h2 : 16 + i - 16 < 8 := by omega
    simp only [BitVec.getLsbD_extractLsb', BitVec.getLsbD_append]
    simp [hi]
  unfold fieldD; rw [this, Opd.ofByte_byte]
theorem op_imm16_word (op : BitVec 8) (d : Opd) (imm : BitVec 16) : opOf (op ++ d.byte ++ imm) = op.toNat := by
  have : (op ++ d.byte ++ imm).extractLsb' 24 8 = op := by
    apply BitVec.eq_of_getLsbD_eq; intro i hi
    have h1 : ¬ 24 + i < 16 := by omega
    have h2 : ¬ 24 + i - 16 < 8 := by omega
    have h3 : 24 + i - 16 - 8 = i := by omega
    simp only [BitVec.getLsbD_extractLsb', BitVec.getLsbD_append]
    simp [hi, h1, h2, h3]
  exact congrArg BitVec.toNat this
theorem two_imm16_word (op : BitVec 8) (d : Opd) (imm : BitVec 16) : isTwoWord (op ++ d.byte ++ imm) = op.getLsbD 7 := by
  unfold isTwoWord; simp only [BitVec.getLsbD_append]; simp
theorem off24_word (op : BitVec 8) (off : BitVec 24) : off24 (op ++ off) = off := by
  apply BitVec.eq_of_getLsbD_eq; intro i hi
  unfold off24
  simp only [BitVec.getLsbD_extractLsb', BitVec.getLsbD_append]
  simp [hi]
theorem op_off24_word (op : BitVec 8) (off : BitVec 24) : opOf (op ++ off) = op.toNat := by
  have : (op ++ off).extractLsb' 24 8 = op := by
    apply BitVec.eq_of_getLsbD_eq; intro i hi
    have h1 : ¬ 24 + i < 24 := by omega
    simp only [BitVec.getLsbD_extractLsb', BitVec.getLsbD_append]
    simp [hi]
  exact congrArg BitVec.toNat this
theorem two_off24_word (op : BitVec 8) (off : BitVec 24) : isTwoWord (op ++ off) = op.getLsbD 7 := by
  unfold isTwoWord; simp only [BitVec.getLsbD_append]; simp

theorem two_repWord (count : BitVec 6) (sd sa sb sc : Bool) (stride : BitVec 2) :
    isTwoWord (repWord count sd sa sb sc stride) = false := by
  unfold isTwoWord repWord; simp only [BitVec.getLsbD_append]; simp
theorem op_repWord (count : BitVec 6) (sd sa sb sc : Bool) (stride : BitVec 2) :
    opOf (repWord count sd sa sb sc stride) = 1 := by
  have : (repWord count sd sa sb sc stride).extractLsb' 24 8 = 0x01#8 := by
    apply BitVec.eq_of_getLsbD_eq; intro i hi
    have h0 : ¬ 24 + i < 12 := by omega
    have h1 : ¬ 24 + i - 12 < 2 := by omega
    have h2 : ¬ 24 + i - 12 - 2 < 1 := by omega
    have h3 : ¬ 24 + i - 12 - 2 - 1 < 1 := by omega
    have h4 : ¬ 24 + i - 12 - 2 - 1 - 1 < 1 := by omega
    have h5 : ¬ 24 + i - 12 - 2 - 1 - 1 - 1 < 1 := by omega
    have h6 : ¬ 24 + i - 12 - 2 - 1 - 1 - 1 - 1 < 6 := by omega
    have h7 : 24 + i - 12 - 2 - 1 - 1 - 1 - 1 - 6 = i := by omega
    unfold repWord
    simp only [BitVec.getLsbD_extractLsb', BitVec.getLsbD_append]
    simp only [hi, h0, h1, h2, h3, h4, h5, h6, h7, if_false, decide_true, Bool.true_and]
  exact congrArg BitVec.toNat this
theorem repOf_repWord (count : BitVec 6) (sd sa sb sc : Bool) (stride : BitVec 2) :
    repOf (repWord count sd sa sb sc stride) = some (.rep count sd sa sb sc stride) := by
  have low : (repWord count sd sa sb sc stride).extractLsb' 0 12 = 0 := by
    apply BitVec.eq_of_getLsbD_eq; intro i hi
    unfold repWord
    simp only [BitVec.getLsbD_extractLsb', BitVec.getLsbD_append]
    simp [hi]
  have cnt : (repWord count sd sa sb sc stride).extractLsb' 18 6 = count := by
    apply BitVec.eq_of_getLsbD_eq; intro i hi
    have h0 : ¬ 18 + i < 12 := by omega
    have h1 : ¬ 18 + i - 12 < 2 := by omega
    have h2 : ¬ 18 + i - 12 - 2 < 1 := by omega
    have h3 : ¬ 18 + i - 12 - 2 - 1 < 1 := by omega
    have h4 : ¬ 18 + i - 12 - 2 - 1 - 1 < 1 := by omega
    have h5 : ¬ 18 + i - 12 - 2 - 1 - 1 - 1 < 1 := by omega
    have h7 : 18 + i - 12 - 2 - 1 - 1 - 1 - 1 = i := by omega
    unfold repWord
    simp only [BitVec.getLsbD_extractLsb', BitVec.getLsbD_append]
    simp only [hi, h0, h1, h2, h3, h4, h5, h7, if_false, if_true, decide_true, Bool.true_and]
  have str : (repWord count sd sa sb sc stride).extractLsb' 12 2 = stride := by
    apply BitVec.eq_of_getLsbD_eq; intro i hi
    have h0 : ¬ 12 + i < 12 := by omega
    have h1 : 12 + i - 12 < 2 := by omega
    have h7 : 12 + i - 12 = i := by omega
    unfold repWord
    simp only [BitVec.getLsbD_extractLsb', BitVec.getLsbD_append]
    simp only [hi, h0, h7, if_false, if_true, decide_true, Bool.true_and]
  have bits : (repWord count sd sa sb sc stride).getLsbD 17 = sd ∧ (repWord count sd sa sb sc stride).getLsbD 16 = sa ∧
      (repWord count sd sa sb sc stride).getLsbD 15 = sb ∧ (repWord count sd sa sb sc stride).getLsbD 14 = sc := by
    unfold repWord
    simp only [BitVec.getLsbD_append]
    simp
  obtain ⟨h17, h16, h15, h14⟩ := bits
  unfold repOf
  rw [if_pos low, cnt, str, h17, h16, h15, h14]

/-- The word of BRK (R179). -/
theorem brk_word (code : BitVec 16) (skip : Bool) :
    isTwoWord (0x7F#8 ++ code ++ 0#7 ++ BitVec.ofBool skip) = false ∧ opOf (0x7F#8 ++ code ++ 0#7 ++ BitVec.ofBool skip) = 0x7F ∧
      brkOf (0x7F#8 ++ code ++ 0#7 ++ BitVec.ofBool skip) = some (.brk code skip) := by
  have top : (0x7F#8 ++ code ++ 0#7 ++ BitVec.ofBool skip).extractLsb' 24 8 = 0x7F#8 := by
    apply BitVec.eq_of_getLsbD_eq; intro i hi
    have h0 : ¬ 24 + i < 1 := by omega
    have h1 : ¬ 24 + i - 1 < 7 := by omega
    have h2 : ¬ 24 + i - 1 - 7 < 16 := by omega
    have h3 : 24 + i - 1 - 7 - 16 = i := by omega
    simp only [BitVec.getLsbD_extractLsb', BitVec.getLsbD_append]
    simp only [hi, h0, h1, h2, h3, if_false, decide_true, Bool.true_and]
  have mid : (0x7F#8 ++ code ++ 0#7 ++ BitVec.ofBool skip).extractLsb' 8 16 = code := by
    apply BitVec.eq_of_getLsbD_eq; intro i hi
    have h0 : ¬ 8 + i < 1 := by omega
    have h1 : ¬ 8 + i - 1 < 7 := by omega
    have h2 : 8 + i - 1 - 7 < 16 := by omega
    have h3 : 8 + i - 1 - 7 = i := by omega
    simp only [BitVec.getLsbD_extractLsb', BitVec.getLsbD_append]
    simp only [hi, h0, h1, h3, if_false, if_true, decide_true, Bool.true_and]
  have low : (0x7F#8 ++ code ++ 0#7 ++ BitVec.ofBool skip).extractLsb' 1 7 = 0 := by
    apply BitVec.eq_of_getLsbD_eq; intro i hi
    have h0 : ¬ 1 + i < 1 := by omega
    simp only [BitVec.getLsbD_extractLsb', BitVec.getLsbD_append]
    simp [hi]
  have last : (0x7F#8 ++ code ++ 0#7 ++ BitVec.ofBool skip).getLsbD 0 = skip := by
    simp only [BitVec.getLsbD_append]; simp
  refine ⟨?_, congrArg BitVec.toNat top, ?_⟩
  · unfold isTwoWord; simp only [BitVec.getLsbD_append]; simp
  · unfold brkOf; rw [if_pos low, mid, last]

/-! Decoding by layout -/

/-- What decoding gives for a word that is read to a well-formed one-word instruction. -/
theorem decode_one {cls : Nat} {w : BitVec 32} {i : Instr} (h2 : isTwoWord w = false) (hr : readOne cls w = some i)
    (hw : i.wf = true) : decodeWords cls [w] = .ok i := by
  simp [decodeWords, h2, hr, checked, hw]
/-- The same for two words. -/
theorem decode_two {cls : Nat} {w v : BitVec 32} {i : Instr} (h2 : isTwoWord w = true) (hr : readTwo cls w v = some i)
    (hw : i.wf = true) : decodeWords cls [w, v] = .ok i := by
  simp [decodeWords, h2, hr, checked, hw]

/-- Word 0 alone. -/
theorem trip_one {cls : Nat} (op : BitVec 8) {mk : F1 → Instr} (f : F1) (hb : op.getLsbD 7 = false)
    (hr : ∀ w, opOf w = op.toNat → readOne cls w = some (mk (f1Of w))) (hw : (mk f).wf = true) :
    decodeWords cls [word0 op f.d f.a f.b] = .ok (mk f) := by
  refine decode_one ((two_word0 ..).trans hb) ?_ hw
  rw [hr _ (op_word0 ..), f1_word0]
/-- Words 0 and 1. -/
theorem trip_two {cls : Nat} (op : BitVec 8) {mk : F2 → Instr} (f : F2) (hb : op.getLsbD 7 = true)
    (hr : ∀ w v, opOf w = op.toNat → readTwo cls w v = some (mk (f2Of w v))) (hw : (mk f).wf = true) :
    decodeWords cls [word0 op f.d f.a f.b, word1 f] = .ok (mk f) := by
  refine decode_two ((two_word0 ..).trans hb) ?_ hw
  rw [hr _ _ (op_word0 ..), f2_words]

end Sys2Proof
end

