-- ==== Sys2Proof/Laws/PerInstr.lean ====
section
/-! SUPPORT. Statements made for every instruction, one lemma per constructor: RoundTrip, that decoding the words of a
well-formed instruction in its class gives the instruction. Operations and events have no words, so none is well-formed. -/

namespace Sys2Proof.Laws.RoundTrip

/-- The class in whose map an instruction stands (R180 to R186); BRK stands in the map of every class (R179). -/
def InClass (cls : Nat) (i : Instr) : Prop :=
  match entryOf i with
  | some e => cls ≤ 6 ∧ (e.cls = cls ∨ e.cls = 7)
  | none => False

/-- Decoding the words of a well-formed instruction gives the instruction. -/
def Statement (i : Instr) : Prop := ∀ cls, InClass cls i → i.wf = true → decodeWords cls (encode i) = .ok i

theorem one_word {cls n : Nat} (op : BitVec 8) {mk : F1 → Instr} (f : F1) (hn : n ≠ 7) (hc : cls ≤ 6 ∧ (n = cls ∨ n = 7))
    (hb : op.getLsbD 7 = false) (hr : ∀ w, opOf w = op.toNat → readOne n w = some (mk (f1Of w))) (hw : (mk f).wf = true) :
    decodeWords cls [word0 op f.d f.a f.b] = .ok (mk f) := by
  obtain ⟨-, rfl | h⟩ := hc
  · exact trip_one op f hb hr hw
  · exact absurd h hn

theorem two_words {cls n : Nat} (op : BitVec 8) {mk : F2 → Instr} (f : F2) (hn : n ≠ 7) (hc : cls ≤ 6 ∧ (n = cls ∨ n = 7))
    (hb : op.getLsbD 7 = true) (hr : ∀ w v, opOf w = op.toNat → readTwo n w v = some (mk (f2Of w v))) (hw : (mk f).wf = true) :
    decodeWords cls [word0 op f.d f.a f.b, word1 f] = .ok (mk f) := by
  obtain ⟨-, rfl | h⟩ := hc
  · exact trip_two op f hb hr hw
  · exact absurd h hn

/-- The idle bytes of a word 0. -/
theorem idleD_word0 (op : BitVec 8) (a b : Opd) : idleD (word0 op .z a b) = true := by
  simp [idleD, word0, bytes_2]; rfl
theorem idleAB_word0 (op : BitVec 8) (d : Opd) : idleAB (word0 op d .z .z) = true := by
  have : (word0 op d .z .z).extractLsb' 0 16 = 0xF0F0#16 := by
    have h : word0 op d .z .z = op ++ d.byte ++ 0xF0F0#16 := by
      unfold word0; rw [BitVec.append_assoc (x₁ := op ++ d.byte)]; rfl
    rw [h]; exact imm16_word op d _
  simp [idleAB, this]


theorem create (cmd : BitVec 32) : Statement (.create cmd) := fun _ h => h.elim
theorem sliceReady (c : Nat) : Statement (.sliceReady c) := fun _ h => h.elim
theorem templateTimeout (c : Nat) : Statement (.templateTimeout c) := fun _ h => h.elim
theorem destroy (cmd : BitVec 32) : Statement (.destroy cmd) := fun _ h => h.elim
theorem destroyingDone (c : Nat) : Statement (.destroyingDone c) := fun _ h => h.elim
theorem merge (cmd : BitVec 32) : Statement (.merge cmd) := fun _ h => h.elim
theorem split (cmd : BitVec 32) : Statement (.split cmd) := fun _ h => h.elim
theorem splitTimeout (c : Nat) : Statement (.splitTimeout c) := fun _ h => h.elim
theorem attach (cmd : BitVec 32) : Statement (.attach cmd) := fun _ h => h.elim
theorem detach (cmd : BitVec 32) : Statement (.detach cmd) := fun _ h => h.elim
theorem quiesce (cmd : BitVec 32) : Statement (.quiesce cmd) := fun _ h => h.elim
theorem resume (cmd : BitVec 32) : Statement (.resume cmd) := fun _ h => h.elim
theorem reset (cmd : BitVec 32) : Statement (.reset cmd) := fun _ h => h.elim
theorem worldReset (cmd : BitVec 32) : Statement (.worldReset cmd) := fun _ h => h.elim
theorem resettingDone (w : Nat) : Statement (.resettingDone w) := fun _ h => h.elim
theorem commandDone : Statement (.commandDone) := fun _ h => h.elim
theorem fatalSliceError (c : Nat) (cause : BitVec 4) : Statement (.fatalSliceError c cause) := fun _ h => h.elim
theorem functionLevelReset (w : Nat) : Statement (.functionLevelReset w) := fun _ h => h.elim
theorem wldCtlEnSet (w : Nat) : Statement (.wldCtlEnSet w) := fun _ h => h.elim
theorem wldCtlEnClear (w : Nat) : Statement (.wldCtlEnClear w) := fun _ h => h.elim
theorem coldReset (link : LinkUp) : Statement (.coldReset link) := fun _ h => h.elim
theorem configurationRequest (reg : ConfigAt) : Statement (.configurationRequest reg) := fun _ h => h.elim
theorem stage (cmd : BitVec 32) : Statement (.stage cmd) := fun _ h => h.elim
theorem activate (cmd : BitVec 32) : Statement (.activate cmd) := fun _ h => h.elim
theorem discard (cmd : BitVec 32) : Statement (.discard cmd) := fun _ h => h.elim
theorem activationDone : Statement (.activationDone) := fun _ h => h.elim
theorem getVersion (w : Nat) : Statement (.getVersion w) := fun _ h => h.elim
theorem getCapabilities (w : SpdmFrom) : Statement (.getCapabilities w) := fun _ h => h.elim
theorem negotiateAlgorithms (w : Nat) (ext : Bool) : Statement (.negotiateAlgorithms w ext) := fun _ h => h.elim
theorem getDigests (w : Nat) : Statement (.getDigests w) := fun _ h => h.elim
theorem getCertificate (w slot off len : Nat) : Statement (.getCertificate w slot off len) := fun _ h => h.elim
theorem challenge (w slot : Nat) : Statement (.challenge w slot) := fun _ h => h.elim
theorem getMeasurements (w idx : Nat) (sign : Bool) : Statement (.getMeasurements w idx sign) := fun _ h => h.elim
theorem keyExchange (w slot : Nat) : Statement (.keyExchange w slot) := fun _ h => h.elim
theorem finish (w sess : Nat) : Statement (.finish w sess) := fun _ h => h.elim
theorem endSession (w sess : Nat) : Statement (.endSession w sess) := fun _ h => h.elim
theorem keyUpdate (w sess : Nat) : Statement (.keyUpdate w sess) := fun _ h => h.elim
theorem respondIfReady (w token : Nat) (code : BitVec 8) : Statement (.respondIfReady w token code) := fun _ h => h.elim
theorem lockInterfaceRequest (w sess : Nat) : Statement (.lockInterfaceRequest w sess) := fun _ h => h.elim
theorem startInterfaceRequest (w sess : Nat) : Statement (.startInterfaceRequest w sess) := fun _ h => h.elim
theorem stopInterfaceRequest (w sess : Nat) : Statement (.stopInterfaceRequest w sess) := fun _ h => h.elim
theorem chkey (w sess ch : Nat) : Statement (.chkey w sess ch) := fun _ h => h.elim
theorem chstatus (w sess ch : Nat) : Statement (.chstatus w sess ch) := fun _ h => h.elim
theorem freezeReadout : Statement (.freezeReadout) := fun _ h => h.elim
theorem lifetimeCounterRead (idx : Nat) : Statement (.lifetimeCounterRead idx) := fun _ h => h.elim
theorem powerTelemetry : Statement (.powerTelemetry) := fun _ h => h.elim
theorem firmwareStaging (image : BitVec 4) (addr : BitVec 64) (size : BitVec 32) : Statement (.firmwareStaging image addr size) := fun _ h => h.elim
theorem freeze (v : BitVec 32) : Statement (.freeze v) := fun _ h => h.elim
theorem freezeN : Statement (.freezeN) := fun _ h => h.elim
theorem counterCommit : Statement (.counterCommit) := fun _ h => h.elim
theorem powerDown : Statement (.powerDown) := fun _ h => h.elim
theorem atsInvalidation (w page count : Nat) : Statement (.atsInvalidation w page count) := fun _ h => h.elim
theorem prgResponse (w vpage : Nat) (ok : Bool) : Statement (.prgResponse w vpage ok) := fun _ h => h.elim
theorem hdmRead (addr len : Nat) : Statement (.hdmRead addr len) := fun _ h => h.elim
theorem hdmWrite (addr : Nat) (bytes : List (BitVec 8)) : Statement (.hdmWrite addr bytes) := fun _ h => h.elim
theorem hdmDecoderCommit (k base size w roff : Nat) : Statement (.hdmDecoderCommit k base size w roff) := fun _ h => h.elim
theorem hostSnoop (addr : Nat) (bytes : List (BitVec 8)) : Statement (.hostSnoop addr bytes) := fun _ h => h.elim
theorem ualinkInboundRead (station snode sworld node world wpa len : Nat) : Statement (.ualinkInboundRead station snode sworld node world wpa len) := fun _ h => h.elim
theorem ualinkInboundWrite (station snode sworld node world wpa : Nat) (bytes : List (BitVec 8)) : Statement (.ualinkInboundWrite station snode sworld node world wpa bytes) := fun _ h => h.elim
theorem ualinkInboundAtomic (station snode sworld node world wpa : Nat) (tag : BitVec 16) (op : Nat) (b cnew : BitVec 64) : Statement (.ualinkInboundAtomic station snode sworld node world wpa tag op b cnew) := fun _ h => h.elim
theorem ualinkResponse (tag : PeerTag) (mismatch : Bool) (bytes : List (BitVec 8)) : Statement (.ualinkResponse tag mismatch bytes) := fun _ h => h.elim
theorem requestTimeout (tag : PeerTag) : Statement (.requestTimeout tag) := fun _ h => h.elim
theorem ualStationWrite (v : BitVec 32) : Statement (.ualStationWrite v) := fun _ h => h.elim
theorem routingEntryWrite (c n : Nat) (v : BitVec 64) : Statement (.routingEntryWrite c n v) := fun _ h => h.elim
theorem segmentWrite (w i : Nat) (v : BitVec 128) : Statement (.segmentWrite w i v) := fun _ h => h.elim
theorem wldTctxWrite (w : Nat) (v : BitVec 64) : Statement (.wldTctxWrite w v) := fun _ h => h.elim
theorem wldRbaseWrite (w r : Nat) (v : BitVec 64) : Statement (.wldRbaseWrite w r v) := fun _ h => h.elim
theorem wldCprogWrite (w : Nat) (v : BitVec 64) : Statement (.wldCprogWrite w v) := fun _ h => h.elim
theorem wldNotifyWrite (w r : Nat) (v : BitVec 32) : Statement (.wldNotifyWrite w r v) := fun _ h => h.elim
theorem slcAgeLimitWrite (c : Nat) (v : BitVec 32) : Statement (.slcAgeLimitWrite c v) := fun _ h => h.elim
theorem slcLendWrite (c : Nat) (v : BitVec 32) : Statement (.slcLendWrite c v) := fun _ h => h.elim
theorem slcQuantumWrite (c : Nat) (v : BitVec 32) : Statement (.slcQuantumWrite c v) := fun _ h => h.elim
theorem keyRotStart (w : Nat) : Statement (.keyRotStart w) := fun _ h => h.elim
theorem keyTagbaseWrite (w : Nat) (v : BitVec 64) : Statement (.keyTagbaseWrite w v) := fun _ h => h.elim
theorem relStatWrite (v : BitVec 32) : Statement (.relStatWrite v) := fun _ h => h.elim
theorem metPeriodWrite (v : BitVec 32) : Statement (.metPeriodWrite v) := fun _ h => h.elim
theorem registerWrite (fn off width : Nat) (v : BitVec 64) : Statement (.registerWrite fn off width v) := fun _ h => h.elim
theorem track (w : Nat) : Statement (.track w) := fun _ h => h.elim
theorem harvest (w : Nat) : Statement (.harvest w) := fun _ h => h.elim
theorem exportWorld (w : Nat) : Statement (.exportWorld w) := fun _ h => h.elim
theorem exportTimeout (w : Nat) : Statement (.exportTimeout w) := fun _ h => h.elim
theorem importWorld (w : Nat) : Statement (.importWorld w) := fun _ h => h.elim
theorem untrack (w : Nat) : Statement (.untrack w) := fun _ h => h.elim
theorem decisionStep (c : Nat) : Statement (.decisionStep c) := fun _ h => h.elim
theorem launchComplete (l : Nat) : Statement (.launchComplete l) := fun _ h => h.elim
theorem turnEnd (c : Nat) : Statement (.turnEnd c) := fun _ h => h.elim
theorem clauseFetch (core t : Nat) (hdr : Nat) : Statement (.clauseFetch core t hdr) := fun _ h => h.elim
theorem stallEnd (core g : Nat) : Statement (.stallEnd core g) := fun _ h => h.elim
theorem groupSwap (core slot : Nat) : Statement (.groupSwap core slot) := fun _ h => h.elim
theorem progressOverride (core : Nat) : Statement (.progressOverride core) := fun _ h => h.elim
theorem joinTimeout (t lit : Nat) : Statement (.joinTimeout t lit) := fun _ h => h.elim
theorem mwaitTimeout (t lit : Nat) : Statement (.mwaitTimeout t lit) := fun _ h => h.elim
theorem quantumExpiry (c : Nat) : Statement (.quantumExpiry c) := fun _ h => h.elim
theorem contextSave (t : Nat) : Statement (.contextSave t) := fun _ h => h.elim
theorem rollback (t : Nat) : Statement (.rollback t) := fun _ h => h.elim
theorem varnishRelease (l : Nat) : Statement (.varnishRelease l) := fun _ h => h.elim
theorem replyRetry (w : Nat) (seq : BitVec 32) : Statement (.replyRetry w seq) := fun _ h => h.elim
theorem replyFail (w : Nat) (seq : BitVec 32) : Statement (.replyFail w seq) := fun _ h => h.elim
theorem copyPieceComplete (k p : Nat) : Statement (.copyPieceComplete k p) := fun _ h => h.elim
theorem passGrant (q : Nat) : Statement (.passGrant q) := fun _ h => h.elim
theorem passComplete (q : Nat) : Statement (.passComplete q) := fun _ h => h.elim
theorem entryAge (q e : Nat) : Statement (.entryAge q e) := fun _ h => h.elim
theorem rotationStep (w : Nat) : Statement (.rotationStep w) := fun _ h => h.elim
theorem correctedError (unit loc : Nat) (addr : BitVec 64) (syn : BitVec 32) : Statement (.correctedError unit loc addr syn) := fun _ h => h.elim
theorem uncorrectableError (kind loc : Nat) (addr : BitVec 64) (syn : BitVec 32) : Statement (.uncorrectableError kind loc addr syn) := fun _ h => h.elim
theorem periodBoundary : Statement (.periodBoundary) := fun _ h => h.elim
theorem calendarSwitch : Statement (.calendarSwitch) := fun _ h => h.elim
theorem haltGroup (w : Nat) : Statement (.haltGroup w) := fun _ h => h.elim
theorem resumeGroup (w : Nat) : Statement (.resumeGroup w) := fun _ h => h.elim
theorem stepGroup (w : Nat) : Statement (.stepGroup w) := fun _ h => h.elim
theorem haltTeam (w : Nat) : Statement (.haltTeam w) := fun _ h => h.elim
theorem resumeTeam (w : Nat) : Statement (.resumeTeam w) := fun _ h => h.elim
theorem dbgReport (w : Nat) : Statement (.dbgReport w) := fun _ h => h.elim
theorem dbgStatWrite (w : Nat) (v : BitVec 64) : Statement (.dbgStatWrite w v) := fun _ h => h.elim
theorem dbgRdataRead (w : Nat) : Statement (.dbgRdataRead w) := fun _ h => h.elim
theorem dbgRdataWrite (w : Nat) (v : BitVec 64) : Statement (.dbgRdataWrite w v) := fun _ h => h.elim
theorem dbgWpWrite (w n : Nat) (v : BitVec 64) : Statement (.dbgWpWrite w n v) := fun _ h => h.elim
theorem stageDone (port : Bool) : Statement (.stageDone port) := fun _ h => h.elim
theorem migrationCommandDone (w : Nat) : Statement (.migrationCommandDone w) := fun _ h => h.elim
theorem badcmd (reg w : Nat) (v : BitVec 32) : Statement (.badcmd reg w v) := fun _ h => h.elim
theorem unassignedOpcode (op : BitVec 8) : Statement (.unassignedOpcode op) := fun _ h => h.elim
theorem spdmUnsupportedRequest (w : Nat) (code : BitVec 8) : Statement (.spdmUnsupportedRequest w code) := fun _ h => h.elim
theorem getDeviceInterfaceReport (w sess : Nat) : Statement (.getDeviceInterfaceReport w sess) := fun _ h => h.elim
theorem ideKm (stream world : Nat) (go : Bool) : Statement (.ideKm stream world go) := fun _ h => h.elim
theorem fqHeadWrite (w : Nat) (v : BitVec 32) : Statement (.fqHeadWrite w v) := fun _ h => h.elim
theorem lineEviction (core : Nat) (line : Nat) : Statement (.lineEviction core line) := fun _ h => h.elim
theorem powerLoss : Statement (.powerLoss) := fun _ h => h.elim
theorem correctedMergeEnd (unit loc : Nat) : Statement (.correctedMergeEnd unit loc) := fun _ h => h.elim
theorem sensorHour (tbin vbin : Nat) : Statement (.sensorHour tbin vbin) := fun _ h => h.elim
theorem nop (f : F1) : Statement (.nop f) :=
  fun _ hc hw => one_word (n := 0) 0x00 f (by decide) hc rfl (fun w h => by unfold readOne oneAlu; rw [h]; rfl) hw
theorem nopW2 (f : F2) : Statement (.nopW2 f) :=
  fun _ hc hw => two_words (n := 0) 0x80 f (by decide) hc rfl (fun w v h => by unfold readTwo twoAlu; rw [h]; rfl) hw
theorem rep (count : BitVec 6) (sd sa sb sc : Bool) (stride : BitVec 2) : Statement (.rep count sd sa sb sc stride) := by
  intro cls hc hw
  have hc : cls ≤ 6 ∧ (0 = cls ∨ 0 = 7) := hc
  obtain ⟨-, rfl | h⟩ := hc
  · refine decode_one (two_repWord ..) ?_ hw
    unfold readOne oneAlu; rw [op_repWord]
    exact repOf_repWord ..
  · exact absurd h (by decide)
theorem mov (f : F1) : Statement (.mov f) :=
  fun _ hc hw => one_word (n := 0) 0x02 f (by decide) hc rfl (fun w h => by unfold readOne oneAlu; rw [h]; rfl) hw
theorem movW2 (f : F2) : Statement (.movW2 f) :=
  fun _ hc hw => two_words (n := 0) 0x82 f (by decide) hc rfl (fun w v h => by unfold readTwo twoAlu; rw [h]; rfl) hw
theorem movi (d : Opd) (imm : BitVec 16) : Statement (.movi d imm) := by
  intro cls hc hw
  have hc : cls ≤ 6 ∧ (0 = cls ∨ 0 = 7) := hc
  obtain ⟨-, rfl | h⟩ := hc
  · refine decode_one (two_imm16_word ..) ?_ hw
    unfold readOne oneAlu; rw [op_imm16_word]
    show some (Instr.movi _ _) = _; rw [d_imm16_word, imm16_word]
  · exact absurd h (by decide)
theorem moviW2 (d : Opd) (imm : BitVec 32) : Statement (.moviW2 d imm) := by
  intro cls hc hw
  have hc : cls ≤ 6 ∧ (0 = cls ∨ 0 = 7) := hc
  obtain ⟨-, rfl | h⟩ := hc
  · refine decode_two (two_word0 ..) ?_ hw
    have : ∀ w v, opOf w = BitVec.toNat (0x83 : BitVec 8) → readTwo 0 w v = if idleAB w then some (.moviW2 (fieldD w) v) else none :=
      fun w v h => by unfold readTwo twoAlu; rw [h]; rfl
    refine (this _ _ (op_word0 ..)).trans ?_
    rw [if_pos (idleAB_word0 ..), d_word0]
  · exact absurd h (by decide)
theorem rget (f : F1) : Statement (.rget f) :=
  fun _ hc hw => one_word (n := 0) 0x04 f (by decide) hc rfl (fun w h => by unfold readOne oneAlu; rw [h]; rfl) hw
theorem rgetW2 (f : F2) : Statement (.rgetW2 f) :=
  fun _ hc hw => two_words (n := 0) 0x84 f (by decide) hc rfl (fun w v h => by unfold readTwo twoAlu; rw [h]; rfl) hw
theorem rput (f : F1) : Statement (.rput f) :=
  fun _ hc hw => one_word (n := 0) 0x05 f (by decide) hc rfl (fun w h => by unfold readOne oneAlu; rw [h]; rfl) hw
theorem rputW2 (f : F2) : Statement (.rputW2 f) :=
  fun _ hc hw => two_words (n := 0) 0x85 f (by decide) hc rfl (fun w v h => by unfold readTwo twoAlu; rw [h]; rfl) hw
theorem iadd (f : F1) : Statement (.iadd f) :=
  fun _ hc hw => one_word (n := 0) 0x10 f (by decide) hc rfl (fun w h => by unfold readOne oneAlu; rw [h]; rfl) hw
theorem iaddW2 (f : F2) : Statement (.iaddW2 f) :=
  fun _ hc hw => two_words (n := 0) 0x90 f (by decide) hc rfl (fun w v h => by unfold readTwo twoAlu; rw [h]; rfl) hw
theorem isub (f : F1) : Statement (.isub f) :=
  fun _ hc hw => one_word (n := 0) 0x11 f (by decide) hc rfl (fun w h => by unfold readOne oneAlu; rw [h]; rfl) hw
theorem isubW2 (f : F2) : Statement (.isubW2 f) :=
  fun _ hc hw => two_words (n := 0) 0x91 f (by decide) hc rfl (fun w v h => by unfold readTwo twoAlu; rw [h]; rfl) hw
theorem iadd3 (f : F2) : Statement (.iadd3 f) :=
  fun _ hc hw => two_words (n := 0) 0x92 f (by decide) hc rfl (fun w v h => by unfold readTwo twoAlu; rw [h]; rfl) hw
theorem iaddco (f : F2) : Statement (.iaddco f) :=
  fun _ hc hw => two_words (n := 0) 0x93 f (by decide) hc rfl (fun w v h => by unfold readTwo twoAlu; rw [h]; rfl) hw
theorem imul (f : F1) : Statement (.imul f) :=
  fun _ hc hw => one_word (n := 0) 0x14 f (by decide) hc rfl (fun w h => by unfold readOne oneAlu; rw [h]; rfl) hw
theorem imulW2 (f : F2) : Statement (.imulW2 f) :=
  fun _ hc hw => two_words (n := 0) 0x94 f (by decide) hc rfl (fun w v h => by unfold readTwo twoAlu; rw [h]; rfl) hw
theorem imulhi (f : F1) : Statement (.imulhi f) :=
  fun _ hc hw => one_word (n := 0) 0x15 f (by decide) hc rfl (fun w h => by unfold readOne oneAlu; rw [h]; rfl) hw
theorem imulhiW2 (f : F2) : Statement (.imulhiW2 f) :=
  fun _ hc hw => two_words (n := 0) 0x95 f (by decide) hc rfl (fun w v h => by unfold readTwo twoAlu; rw [h]; rfl) hw
theorem imad (f : F2) : Statement (.imad f) :=
  fun _ hc hw => two_words (n := 0) 0x96 f (by decide) hc rfl (fun w v h => by unfold readTwo twoAlu; rw [h]; rfl) hw
theorem imadwide (f : F2) : Statement (.imadwide f) :=
  fun _ hc hw => two_words (n := 0) 0x97 f (by decide) hc rfl (fun w v h => by unfold readTwo twoAlu; rw [h]; rfl) hw
theorem imin (f : F1) : Statement (.imin f) :=
  fun _ hc hw => one_word (n := 0) 0x18 f (by decide) hc rfl (fun w h => by unfold readOne oneAlu; rw [h]; rfl) hw
theorem iminW2 (f : F2) : Statement (.iminW2 f) :=
  fun _ hc hw => two_words (n := 0) 0x98 f (by decide) hc rfl (fun w v h => by unfold readTwo twoAlu; rw [h]; rfl) hw
theorem imax (f : F1) : Statement (.imax f) :=
  fun _ hc hw => one_word (n := 0) 0x19 f (by decide) hc rfl (fun w h => by unfold readOne oneAlu; rw [h]; rfl) hw
theorem imaxW2 (f : F2) : Statement (.imaxW2 f) :=
  fun _ hc hw => two_words (n := 0) 0x99 f (by decide) hc rfl (fun w v h => by unfold readTwo twoAlu; rw [h]; rfl) hw
theorem iabs (f : F1) : Statement (.iabs f) :=
  fun _ hc hw => one_word (n := 0) 0x1A f (by decide) hc rfl (fun w h => by unfold readOne oneAlu; rw [h]; rfl) hw
theorem iabsW2 (f : F2) : Statement (.iabsW2 f) :=
  fun _ hc hw => two_words (n := 0) 0x9A f (by decide) hc rfl (fun w v h => by unfold readTwo twoAlu; rw [h]; rfl) hw
theorem icmp (f : F1) : Statement (.icmp f) :=
  fun _ hc hw => one_word (n := 0) 0x1B f (by decide) hc rfl (fun w h => by unfold readOne oneAlu; rw [h]; rfl) hw
theorem icmpW2 (f : F2) : Statement (.icmpW2 f) :=
  fun _ hc hw => two_words (n := 0) 0x9B f (by decide) hc rfl (fun w v h => by unfold readTwo twoAlu; rw [h]; rfl) hw
theorem sel (f : F2) : Statement (.sel f) :=
  fun _ hc hw => two_words (n := 0) 0x9C f (by decide) hc rfl (fun w v h => by unfold readTwo twoAlu; rw [h]; rfl) hw
theorem and (f : F1) : Statement (.and f) :=
  fun _ hc hw => one_word (n := 0) 0x20 f (by decide) hc rfl (fun w h => by unfold readOne oneAlu; rw [h]; rfl) hw
theorem andW2 (f : F2) : Statement (.andW2 f) :=
  fun _ hc hw => two_words (n := 0) 0xA0 f (by decide) hc rfl (fun w v h => by unfold readTwo twoAlu; rw [h]; rfl) hw
theorem or (f : F1) : Statement (.or f) :=
  fun _ hc hw => one_word (n := 0) 0x21 f (by decide) hc rfl (fun w h => by unfold readOne oneAlu; rw [h]; rfl) hw
theorem orW2 (f : F2) : Statement (.orW2 f) :=
  fun _ hc hw => two_words (n := 0) 0xA1 f (by decide) hc rfl (fun w v h => by unfold readTwo twoAlu; rw [h]; rfl) hw
theorem xor (f : F1) : Statement (.xor f) :=
  fun _ hc hw => one_word (n := 0) 0x22 f (by decide) hc rfl (fun w h => by unfold readOne oneAlu; rw [h]; rfl) hw
theorem xorW2 (f : F2) : Statement (.xorW2 f) :=
  fun _ hc hw => two_words (n := 0) 0xA2 f (by decide) hc rfl (fun w v h => by unfold readTwo twoAlu; rw [h]; rfl) hw
theorem andn (f : F1) : Statement (.andn f) :=
  fun _ hc hw => one_word (n := 0) 0x23 f (by decide) hc rfl (fun w h => by unfold readOne oneAlu; rw [h]; rfl) hw
theorem andnW2 (f : F2) : Statement (.andnW2 f) :=
  fun _ hc hw => two_words (n := 0) 0xA3 f (by decide) hc rfl (fun w v h => by unfold readTwo twoAlu; rw [h]; rfl) hw
theorem not (f : F1) : Statement (.not f) :=
  fun _ hc hw => one_word (n := 0) 0x24 f (by decide) hc rfl (fun w h => by unfold readOne oneAlu; rw [h]; rfl) hw
theorem notW2 (f : F2) : Statement (.notW2 f) :=
  fun _ hc hw => two_words (n := 0) 0xA4 f (by decide) hc rfl (fun w v h => by unfold readTwo twoAlu; rw [h]; rfl) hw
theorem lop3 (f : F2) : Statement (.lop3 f) :=
  fun _ hc hw => two_words (n := 0) 0xA5 f (by decide) hc rfl (fun w v h => by unfold readTwo twoAlu; rw [h]; rfl) hw
theorem shl (f : F1) : Statement (.shl f) :=
  fun _ hc hw => one_word (n := 0) 0x26 f (by decide) hc rfl (fun w h => by unfold readOne oneAlu; rw [h]; rfl) hw
theorem shlW2 (f : F2) : Statement (.shlW2 f) :=
  fun _ hc hw => two_words (n := 0) 0xA6 f (by decide) hc rfl (fun w v h => by unfold readTwo twoAlu; rw [h]; rfl) hw
theorem shr (f : F1) : Statement (.shr f) :=
  fun _ hc hw => one_word (n := 0) 0x27 f (by decide) hc rfl (fun w h => by unfold readOne oneAlu; rw [h]; rfl) hw
theorem shrW2 (f : F2) : Statement (.shrW2 f) :=
  fun _ hc hw => two_words (n := 0) 0xA7 f (by decide) hc rfl (fun w v h => by unfold readTwo twoAlu; rw [h]; rfl) hw
theorem sar (f : F1) : Statement (.sar f) :=
  fun _ hc hw => one_word (n := 0) 0x28 f (by decide) hc rfl (fun w h => by unfold readOne oneAlu; rw [h]; rfl) hw
theorem sarW2 (f : F2) : Statement (.sarW2 f) :=
  fun _ hc hw => two_words (n := 0) 0xA8 f (by decide) hc rfl (fun w v h => by unfold readTwo twoAlu; rw [h]; rfl) hw
theorem rotl (f : F1) : Statement (.rotl f) :=
  fun _ hc hw => one_word (n := 0) 0x29 f (by decide) hc rfl (fun w h => by unfold readOne oneAlu; rw [h]; rfl) hw
theorem rotlW2 (f : F2) : Statement (.rotlW2 f) :=
  fun _ hc hw => two_words (n := 0) 0xA9 f (by decide) hc rfl (fun w v h => by unfold readTwo twoAlu; rw [h]; rfl) hw
theorem funnel (f : F2) : Statement (.funnel f) :=
  fun _ hc hw => two_words (n := 0) 0xAA f (by decide) hc rfl (fun w v h => by unfold readTwo twoAlu; rw [h]; rfl) hw
theorem bfx (f : F1) : Statement (.bfx f) :=
  fun _ hc hw => one_word (n := 0) 0x30 f (by decide) hc rfl (fun w h => by unfold readOne oneAlu; rw [h]; rfl) hw
theorem bfxW2 (f : F2) : Statement (.bfxW2 f) :=
  fun _ hc hw => two_words (n := 0) 0xB0 f (by decide) hc rfl (fun w v h => by unfold readTwo twoAlu; rw [h]; rfl) hw
theorem bfi (f : F2) : Statement (.bfi f) :=
  fun _ hc hw => two_words (n := 0) 0xB1 f (by decide) hc rfl (fun w v h => by unfold readTwo twoAlu; rw [h]; rfl) hw
theorem popc (f : F1) : Statement (.popc f) :=
  fun _ hc hw => one_word (n := 0) 0x32 f (by decide) hc rfl (fun w h => by unfold readOne oneAlu; rw [h]; rfl) hw
theorem popcW2 (f : F2) : Statement (.popcW2 f) :=
  fun _ hc hw => two_words (n := 0) 0xB2 f (by decide) hc rfl (fun w v h => by unfold readTwo twoAlu; rw [h]; rfl) hw
theorem clz (f : F1) : Statement (.clz f) :=
  fun _ hc hw => one_word (n := 0) 0x33 f (by decide) hc rfl (fun w h => by unfold readOne oneAlu; rw [h]; rfl) hw
theorem clzW2 (f : F2) : Statement (.clzW2 f) :=
  fun _ hc hw => two_words (n := 0) 0xB3 f (by decide) hc rfl (fun w v h => by unfold readTwo twoAlu; rw [h]; rfl) hw
theorem ctz (f : F1) : Statement (.ctz f) :=
  fun _ hc hw => one_word (n := 0) 0x34 f (by decide) hc rfl (fun w h => by unfold readOne oneAlu; rw [h]; rfl) hw
theorem ctzW2 (f : F2) : Statement (.ctzW2 f) :=
  fun _ hc hw => two_words (n := 0) 0xB4 f (by decide) hc rfl (fun w v h => by unfold readTwo twoAlu; rw [h]; rfl) hw
theorem brev (f : F1) : Statement (.brev f) :=
  fun _ hc hw => one_word (n := 0) 0x35 f (by decide) hc rfl (fun w h => by unfold readOne oneAlu; rw [h]; rfl) hw
theorem brevW2 (f : F2) : Statement (.brevW2 f) :=
  fun _ hc hw => two_words (n := 0) 0xB5 f (by decide) hc rfl (fun w v h => by unfold readTwo twoAlu; rw [h]; rfl) hw
theorem bzip2 (f : F1) : Statement (.bzip2 f) :=
  fun _ hc hw => one_word (n := 0) 0x36 f (by decide) hc rfl (fun w h => by unfold readOne oneAlu; rw [h]; rfl) hw
theorem bzip2W2 (f : F2) : Statement (.bzip2W2 f) :=
  fun _ hc hw => two_words (n := 0) 0xB6 f (by decide) hc rfl (fun w v h => by unfold readTwo twoAlu; rw [h]; rfl) hw
theorem bzip3 (f : F1) : Statement (.bzip3 f) :=
  fun _ hc hw => one_word (n := 0) 0x37 f (by decide) hc rfl (fun w h => by unfold readOne oneAlu; rw [h]; rfl) hw
theorem bzip3W2 (f : F2) : Statement (.bzip3W2 f) :=
  fun _ hc hw => two_words (n := 0) 0xB7 f (by decide) hc rfl (fun w v h => by unfold readTwo twoAlu; rw [h]; rfl) hw
theorem bunzip2 (f : F1) : Statement (.bunzip2 f) :=
  fun _ hc hw => one_word (n := 0) 0x38 f (by decide) hc rfl (fun w h => by unfold readOne oneAlu; rw [h]; rfl) hw
theorem bunzip2W2 (f : F2) : Statement (.bunzip2W2 f) :=
  fun _ hc hw => two_words (n := 0) 0xB8 f (by decide) hc rfl (fun w v h => by unfold readTwo twoAlu; rw [h]; rfl) hw
theorem bunzip3 (f : F1) : Statement (.bunzip3 f) :=
  fun _ hc hw => one_word (n := 0) 0x39 f (by decide) hc rfl (fun w h => by unfold readOne oneAlu; rw [h]; rfl) hw
theorem bunzip3W2 (f : F2) : Statement (.bunzip3W2 f) :=
  fun _ hc hw => two_words (n := 0) 0xB9 f (by decide) hc rfl (fun w v h => by unfold readTwo twoAlu; rw [h]; rfl) hw
theorem byteperm (f : F1) : Statement (.byteperm f) :=
  fun _ hc hw => one_word (n := 0) 0x3A f (by decide) hc rfl (fun w h => by unfold readOne oneAlu; rw [h]; rfl) hw
theorem bytepermW2 (f : F2) : Statement (.bytepermW2 f) :=
  fun _ hc hw => two_words (n := 0) 0xBA f (by decide) hc rfl (fun w v h => by unfold readTwo twoAlu; rw [h]; rfl) hw
theorem iadd64 (f : F1) : Statement (.iadd64 f) :=
  fun _ hc hw => one_word (n := 0) 0x40 f (by decide) hc rfl (fun w h => by unfold readOne oneAlu; rw [h]; rfl) hw
theorem iadd64W2 (f : F2) : Statement (.iadd64W2 f) :=
  fun _ hc hw => two_words (n := 0) 0xC0 f (by decide) hc rfl (fun w v h => by unfold readTwo twoAlu; rw [h]; rfl) hw
theorem shl64 (f : F1) : Statement (.shl64 f) :=
  fun _ hc hw => one_word (n := 0) 0x41 f (by decide) hc rfl (fun w h => by unfold readOne oneAlu; rw [h]; rfl) hw
theorem shl64W2 (f : F2) : Statement (.shl64W2 f) :=
  fun _ hc hw => two_words (n := 0) 0xC1 f (by decide) hc rfl (fun w v h => by unfold readTwo twoAlu; rw [h]; rfl) hw
theorem shr64 (f : F1) : Statement (.shr64 f) :=
  fun _ hc hw => one_word (n := 0) 0x42 f (by decide) hc rfl (fun w h => by unfold readOne oneAlu; rw [h]; rfl) hw
theorem shr64W2 (f : F2) : Statement (.shr64W2 f) :=
  fun _ hc hw => two_words (n := 0) 0xC2 f (by decide) hc rfl (fun w v h => by unfold readTwo twoAlu; rw [h]; rfl) hw
theorem lea (f : F1) : Statement (.lea f) :=
  fun _ hc hw => one_word (n := 0) 0x43 f (by decide) hc rfl (fun w h => by unfold readOne oneAlu; rw [h]; rfl) hw
theorem leaW2 (f : F2) : Statement (.leaW2 f) :=
  fun _ hc hw => two_words (n := 0) 0xC3 f (by decide) hc rfl (fun w v h => by unfold readTwo twoAlu; rw [h]; rfl) hw
theorem fadd (f : F1) : Statement (.fadd f) :=
  fun _ hc hw => one_word (n := 0) 0x50 f (by decide) hc rfl (fun w h => by unfold readOne oneAlu; rw [h]; rfl) hw
theorem faddW2 (f : F2) : Statement (.faddW2 f) :=
  fun _ hc hw => two_words (n := 0) 0xD0 f (by decide) hc rfl (fun w v h => by unfold readTwo twoAlu; rw [h]; rfl) hw
theorem fsub (f : F1) : Statement (.fsub f) :=
  fun _ hc hw => one_word (n := 0) 0x51 f (by decide) hc rfl (fun w h => by unfold readOne oneAlu; rw [h]; rfl) hw
theorem fsubW2 (f : F2) : Statement (.fsubW2 f) :=
  fun _ hc hw => two_words (n := 0) 0xD1 f (by decide) hc rfl (fun w v h => by unfold readTwo twoAlu; rw [h]; rfl) hw
theorem fmul (f : F1) : Statement (.fmul f) :=
  fun _ hc hw => one_word (n := 0) 0x52 f (by decide) hc rfl (fun w h => by unfold readOne oneAlu; rw [h]; rfl) hw
theorem fmulW2 (f : F2) : Statement (.fmulW2 f) :=
  fun _ hc hw => two_words (n := 0) 0xD2 f (by decide) hc rfl (fun w v h => by unfold readTwo twoAlu; rw [h]; rfl) hw
theorem ffma (f : F2) : Statement (.ffma f) :=
  fun _ hc hw => two_words (n := 0) 0xD3 f (by decide) hc rfl (fun w v h => by unfold readTwo twoAlu; rw [h]; rfl) hw
theorem fmin (f : F1) : Statement (.fmin f) :=
  fun _ hc hw => one_word (n := 0) 0x54 f (by decide) hc rfl (fun w h => by unfold readOne oneAlu; rw [h]; rfl) hw
theorem fminW2 (f : F2) : Statement (.fminW2 f) :=
  fun _ hc hw => two_words (n := 0) 0xD4 f (by decide) hc rfl (fun w v h => by unfold readTwo twoAlu; rw [h]; rfl) hw
theorem fmax (f : F1) : Statement (.fmax f) :=
  fun _ hc hw => one_word (n := 0) 0x55 f (by decide) hc rfl (fun w h => by unfold readOne oneAlu; rw [h]; rfl) hw
theorem fmaxW2 (f : F2) : Statement (.fmaxW2 f) :=
  fun _ hc hw => two_words (n := 0) 0xD5 f (by decide) hc rfl (fun w v h => by unfold readTwo twoAlu; rw [h]; rfl) hw
theorem fcmp (f : F1) : Statement (.fcmp f) :=
  fun _ hc hw => one_word (n := 0) 0x56 f (by decide) hc rfl (fun w h => by unfold readOne oneAlu; rw [h]; rfl) hw
theorem fcmpW2 (f : F2) : Statement (.fcmpW2 f) :=
  fun _ hc hw => two_words (n := 0) 0xD6 f (by decide) hc rfl (fun w v h => by unfold readTwo twoAlu; rw [h]; rfl) hw
theorem fclass (f : F1) : Statement (.fclass f) :=
  fun _ hc hw => one_word (n := 0) 0x57 f (by decide) hc rfl (fun w h => by unfold readOne oneAlu; rw [h]; rfl) hw
theorem fclassW2 (f : F2) : Statement (.fclassW2 f) :=
  fun _ hc hw => two_words (n := 0) 0xD7 f (by decide) hc rfl (fun w v h => by unfold readTwo twoAlu; rw [h]; rfl) hw
theorem frnd (f : F1) : Statement (.frnd f) :=
  fun _ hc hw => one_word (n := 0) 0x58 f (by decide) hc rfl (fun w h => by unfold readOne oneAlu; rw [h]; rfl) hw
theorem frndW2 (f : F2) : Statement (.frndW2 f) :=
  fun _ hc hw => two_words (n := 0) 0xD8 f (by decide) hc rfl (fun w v h => by unfold readTwo twoAlu; rw [h]; rfl) hw
theorem ffract (f : F1) : Statement (.ffract f) :=
  fun _ hc hw => one_word (n := 0) 0x59 f (by decide) hc rfl (fun w h => by unfold readOne oneAlu; rw [h]; rfl) hw
theorem ffractW2 (f : F2) : Statement (.ffractW2 f) :=
  fun _ hc hw => two_words (n := 0) 0xD9 f (by decide) hc rfl (fun w v h => by unfold readTwo twoAlu; rw [h]; rfl) hw
theorem fscale (f : F1) : Statement (.fscale f) :=
  fun _ hc hw => one_word (n := 0) 0x5A f (by decide) hc rfl (fun w h => by unfold readOne oneAlu; rw [h]; rfl) hw
theorem fscaleW2 (f : F2) : Statement (.fscaleW2 f) :=
  fun _ hc hw => two_words (n := 0) 0xDA f (by decide) hc rfl (fun w v h => by unfold readTwo twoAlu; rw [h]; rfl) hw
theorem fgetexp (f : F1) : Statement (.fgetexp f) :=
  fun _ hc hw => one_word (n := 0) 0x5B f (by decide) hc rfl (fun w h => by unfold readOne oneAlu; rw [h]; rfl) hw
theorem fgetexpW2 (f : F2) : Statement (.fgetexpW2 f) :=
  fun _ hc hw => two_words (n := 0) 0xDB f (by decide) hc rfl (fun w v h => by unfold readTwo twoAlu; rw [h]; rfl) hw
theorem fgetman (f : F1) : Statement (.fgetman f) :=
  fun _ hc hw => one_word (n := 0) 0x5C f (by decide) hc rfl (fun w h => by unfold readOne oneAlu; rw [h]; rfl) hw
theorem fgetmanW2 (f : F2) : Statement (.fgetmanW2 f) :=
  fun _ hc hw => two_words (n := 0) 0xDC f (by decide) hc rfl (fun w v h => by unfold readTwo twoAlu; rw [h]; rfl) hw
theorem hadd2 (f : F1) : Statement (.hadd2 f) :=
  fun _ hc hw => one_word (n := 0) 0x60 f (by decide) hc rfl (fun w h => by unfold readOne oneAlu; rw [h]; rfl) hw
theorem hadd2W2 (f : F2) : Statement (.hadd2W2 f) :=
  fun _ hc hw => two_words (n := 0) 0xE0 f (by decide) hc rfl (fun w v h => by unfold readTwo twoAlu; rw [h]; rfl) hw
theorem hmul2 (f : F1) : Statement (.hmul2 f) :=
  fun _ hc hw => one_word (n := 0) 0x61 f (by decide) hc rfl (fun w h => by unfold readOne oneAlu; rw [h]; rfl) hw
theorem hmul2W2 (f : F2) : Statement (.hmul2W2 f) :=
  fun _ hc hw => two_words (n := 0) 0xE1 f (by decide) hc rfl (fun w v h => by unfold readTwo twoAlu; rw [h]; rfl) hw
theorem hfma2 (f : F2) : Statement (.hfma2 f) :=
  fun _ hc hw => two_words (n := 0) 0xE2 f (by decide) hc rfl (fun w v h => by unfold readTwo twoAlu; rw [h]; rfl) hw
theorem hmin2 (f : F1) : Statement (.hmin2 f) :=
  fun _ hc hw => one_word (n := 0) 0x63 f (by decide) hc rfl (fun w h => by unfold readOne oneAlu; rw [h]; rfl) hw
theorem hmin2W2 (f : F2) : Statement (.hmin2W2 f) :=
  fun _ hc hw => two_words (n := 0) 0xE3 f (by decide) hc rfl (fun w v h => by unfold readTwo twoAlu; rw [h]; rfl) hw
theorem hmax2 (f : F1) : Statement (.hmax2 f) :=
  fun _ hc hw => one_word (n := 0) 0x64 f (by decide) hc rfl (fun w h => by unfold readOne oneAlu; rw [h]; rfl) hw
theorem hmax2W2 (f : F2) : Statement (.hmax2W2 f) :=
  fun _ hc hw => two_words (n := 0) 0xE4 f (by decide) hc rfl (fun w v h => by unfold readTwo twoAlu; rw [h]; rfl) hw
theorem dot2 (f : F2) : Statement (.dot2 f) :=
  fun _ hc hw => two_words (n := 0) 0xE5 f (by decide) hc rfl (fun w v h => by unfold readTwo twoAlu; rw [h]; rfl) hw
theorem dot4 (f : F2) : Statement (.dot4 f) :=
  fun _ hc hw => two_words (n := 0) 0xE6 f (by decide) hc rfl (fun w v h => by unfold readTwo twoAlu; rw [h]; rfl) hw
theorem dadd (f : F1) : Statement (.dadd f) :=
  fun _ hc hw => one_word (n := 0) 0x68 f (by decide) hc rfl (fun w h => by unfold readOne oneAlu; rw [h]; rfl) hw
theorem daddW2 (f : F2) : Statement (.daddW2 f) :=
  fun _ hc hw => two_words (n := 0) 0xE8 f (by decide) hc rfl (fun w v h => by unfold readTwo twoAlu; rw [h]; rfl) hw
theorem dmul (f : F1) : Statement (.dmul f) :=
  fun _ hc hw => one_word (n := 0) 0x69 f (by decide) hc rfl (fun w h => by unfold readOne oneAlu; rw [h]; rfl) hw
theorem dmulW2 (f : F2) : Statement (.dmulW2 f) :=
  fun _ hc hw => two_words (n := 0) 0xE9 f (by decide) hc rfl (fun w v h => by unfold readTwo twoAlu; rw [h]; rfl) hw
theorem dfma (f : F2) : Statement (.dfma f) :=
  fun _ hc hw => two_words (n := 0) 0xEA f (by decide) hc rfl (fun w v h => by unfold readTwo twoAlu; rw [h]; rfl) hw
theorem dcmp (f : F1) : Statement (.dcmp f) :=
  fun _ hc hw => one_word (n := 0) 0x6B f (by decide) hc rfl (fun w h => by unfold readOne oneAlu; rw [h]; rfl) hw
theorem dcmpW2 (f : F2) : Statement (.dcmpW2 f) :=
  fun _ hc hw => two_words (n := 0) 0xEB f (by decide) hc rfl (fun w v h => by unfold readTwo twoAlu; rw [h]; rfl) hw
theorem cvt (f : F2) : Statement (.cvt f) :=
  fun _ hc hw => two_words (n := 0) 0xF0 f (by decide) hc rfl (fun w v h => by unfold readTwo twoAlu; rw [h]; rfl) hw
theorem cvtpk (f : F2) : Statement (.cvtpk f) :=
  fun _ hc hw => two_words (n := 0) 0xF1 f (by decide) hc rfl (fun w v h => by unfold readTwo twoAlu; rw [h]; rfl) hw
theorem cvtunpk (f : F2) : Statement (.cvtunpk f) :=
  fun _ hc hw => two_words (n := 0) 0xF2 f (by decide) hc rfl (fun w v h => by unfold readTwo twoAlu; rw [h]; rfl) hw
theorem draw (f : F1) : Statement (.draw f) :=
  fun _ hc hw => one_word (n := 0) 0x78 f (by decide) hc rfl (fun w h => by unfold readOne oneAlu; rw [h]; rfl) hw
theorem drawW2 (f : F2) : Statement (.drawW2 f) :=
  fun _ hc hw => two_words (n := 0) 0xF8 f (by decide) hc rfl (fun w v h => by unfold readTwo twoAlu; rw [h]; rfl) hw
theorem drawf (f : F1) : Statement (.drawf f) :=
  fun _ hc hw => one_word (n := 0) 0x79 f (by decide) hc rfl (fun w h => by unfold readOne oneAlu; rw [h]; rfl) hw
theorem drawfW2 (f : F2) : Statement (.drawfW2 f) :=
  fun _ hc hw => two_words (n := 0) 0xF9 f (by decide) hc rfl (fun w v h => by unfold readTwo twoAlu; rw [h]; rfl) hw
theorem drawn (f : F1) : Statement (.drawn f) :=
  fun _ hc hw => one_word (n := 0) 0x7A f (by decide) hc rfl (fun w h => by unfold readOne oneAlu; rw [h]; rfl) hw
theorem drawnW2 (f : F2) : Statement (.drawnW2 f) :=
  fun _ hc hw => two_words (n := 0) 0xFA f (by decide) hc rfl (fun w v h => by unfold readTwo twoAlu; rw [h]; rfl) hw
theorem sample (f : F1) : Statement (.sample f) :=
  fun _ hc hw => one_word (n := 0) 0x7B f (by decide) hc rfl (fun w h => by unfold readOne oneAlu; rw [h]; rfl) hw
theorem sampleW2 (f : F2) : Statement (.sampleW2 f) :=
  fun _ hc hw => two_words (n := 0) 0xFB f (by decide) hc rfl (fun w v h => by unfold readTwo twoAlu; rw [h]; rfl) hw
theorem splitkey (f : F1) : Statement (.splitkey f) :=
  fun _ hc hw => one_word (n := 0) 0x7C f (by decide) hc rfl (fun w h => by unfold readOne oneAlu; rw [h]; rfl) hw
theorem splitkeyW2 (f : F2) : Statement (.splitkeyW2 f) :=
  fun _ hc hw => two_words (n := 0) 0xFC f (by decide) hc rfl (fun w v h => by unfold readTwo twoAlu; rw [h]; rfl) hw
theorem brk (code : BitVec 16) (skip : Bool) : Statement (.brk code skip) := by
  intro cls hc hw
  have hc : cls ≤ 6 := hc.1
  obtain ⟨h2, ho, hb⟩ := brk_word code skip
  rcases (show cls = 0 ∨ cls = 1 ∨ cls = 2 ∨ cls = 3 ∨ cls = 4 ∨ cls = 5 ∨ cls = 6 by omega) with
    rfl | rfl | rfl | rfl | rfl | rfl | rfl
  · refine decode_one h2 ?_ hw; unfold readOne oneAlu; rw [ho]; exact hb
  · refine decode_one h2 ?_ hw; unfold readOne oneSpecial; rw [ho]; exact hb
  · refine decode_one h2 ?_ hw; unfold readOne oneMemory; rw [ho]; exact hb
  · refine decode_one h2 ?_ hw; unfold readOne oneCopy; rw [ho]; exact hb
  · refine decode_one h2 ?_ hw; unfold readOne oneControl; rw [ho]; exact hb
  · refine decode_one h2 ?_ hw; unfold readOne oneSequencer; rw [ho]; exact hb
  · refine decode_one h2 ?_ hw; unfold readOne oneSystem; rw [ho]; exact hb
theorem frcp (f : F1) : Statement (.frcp f) :=
  fun _ hc hw => one_word (n := 1) 0x00 f (by decide) hc rfl (fun w h => by unfold readOne oneSpecial; rw [h]; rfl) hw
theorem frcpW2 (f : F2) : Statement (.frcpW2 f) :=
  fun _ hc hw => two_words (n := 1) 0x80 f (by decide) hc rfl (fun w v h => by unfold readTwo twoSpecial; rw [h]; rfl) hw
theorem frsq (f : F1) : Statement (.frsq f) :=
  fun _ hc hw => one_word (n := 1) 0x01 f (by decide) hc rfl (fun w h => by unfold readOne oneSpecial; rw [h]; rfl) hw
theorem frsqW2 (f : F2) : Statement (.frsqW2 f) :=
  fun _ hc hw => two_words (n := 1) 0x81 f (by decide) hc rfl (fun w v h => by unfold readTwo twoSpecial; rw [h]; rfl) hw
theorem fsqrt (f : F1) : Statement (.fsqrt f) :=
  fun _ hc hw => one_word (n := 1) 0x02 f (by decide) hc rfl (fun w h => by unfold readOne oneSpecial; rw [h]; rfl) hw
theorem fsqrtW2 (f : F2) : Statement (.fsqrtW2 f) :=
  fun _ hc hw => two_words (n := 1) 0x82 f (by decide) hc rfl (fun w v h => by unfold readTwo twoSpecial; rw [h]; rfl) hw
theorem fexp2 (f : F1) : Statement (.fexp2 f) :=
  fun _ hc hw => one_word (n := 1) 0x03 f (by decide) hc rfl (fun w h => by unfold readOne oneSpecial; rw [h]; rfl) hw
theorem fexp2W2 (f : F2) : Statement (.fexp2W2 f) :=
  fun _ hc hw => two_words (n := 1) 0x83 f (by decide) hc rfl (fun w v h => by unfold readTwo twoSpecial; rw [h]; rfl) hw
theorem flog2 (f : F1) : Statement (.flog2 f) :=
  fun _ hc hw => one_word (n := 1) 0x04 f (by decide) hc rfl (fun w h => by unfold readOne oneSpecial; rw [h]; rfl) hw
theorem flog2W2 (f : F2) : Statement (.flog2W2 f) :=
  fun _ hc hw => two_words (n := 1) 0x84 f (by decide) hc rfl (fun w v h => by unfold readTwo twoSpecial; rw [h]; rfl) hw
theorem fsin (f : F1) : Statement (.fsin f) :=
  fun _ hc hw => one_word (n := 1) 0x05 f (by decide) hc rfl (fun w h => by unfold readOne oneSpecial; rw [h]; rfl) hw
theorem fsinW2 (f : F2) : Statement (.fsinW2 f) :=
  fun _ hc hw => two_words (n := 1) 0x85 f (by decide) hc rfl (fun w v h => by unfold readTwo twoSpecial; rw [h]; rfl) hw
theorem fcos (f : F1) : Statement (.fcos f) :=
  fun _ hc hw => one_word (n := 1) 0x06 f (by decide) hc rfl (fun w h => by unfold readOne oneSpecial; rw [h]; rfl) hw
theorem fcosW2 (f : F2) : Statement (.fcosW2 f) :=
  fun _ hc hw => two_words (n := 1) 0x86 f (by decide) hc rfl (fun w v h => by unfold readTwo twoSpecial; rw [h]; rfl) hw
theorem ftanh (f : F1) : Statement (.ftanh f) :=
  fun _ hc hw => one_word (n := 1) 0x07 f (by decide) hc rfl (fun w h => by unfold readOne oneSpecial; rw [h]; rfl) hw
theorem ftanhW2 (f : F2) : Statement (.ftanhW2 f) :=
  fun _ hc hw => two_words (n := 1) 0x87 f (by decide) hc rfl (fun w v h => by unfold readTwo twoSpecial; rw [h]; rfl) hw
theorem reduce (f : F1) : Statement (.reduce f) :=
  fun _ hc hw => one_word (n := 1) 0x10 f (by decide) hc rfl (fun w h => by unfold readOne oneSpecial; rw [h]; rfl) hw
theorem reduceW2 (f : F2) : Statement (.reduceW2 f) :=
  fun _ hc hw => two_words (n := 1) 0x90 f (by decide) hc rfl (fun w v h => by unfold readTwo twoSpecial; rw [h]; rfl) hw
theorem scan (f : F1) : Statement (.scan f) :=
  fun _ hc hw => one_word (n := 1) 0x11 f (by decide) hc rfl (fun w h => by unfold readOne oneSpecial; rw [h]; rfl) hw
theorem scanW2 (f : F2) : Statement (.scanW2 f) :=
  fun _ hc hw => two_words (n := 1) 0x91 f (by decide) hc rfl (fun w v h => by unfold readTwo twoSpecial; rw [h]; rfl) hw
theorem vote (f : F1) : Statement (.vote f) :=
  fun _ hc hw => one_word (n := 1) 0x12 f (by decide) hc rfl (fun w h => by unfold readOne oneSpecial; rw [h]; rfl) hw
theorem voteW2 (f : F2) : Statement (.voteW2 f) :=
  fun _ hc hw => two_words (n := 1) 0x92 f (by decide) hc rfl (fun w v h => by unfold readTwo twoSpecial; rw [h]; rfl) hw
theorem ballot (f : F1) : Statement (.ballot f) :=
  fun _ hc hw => one_word (n := 1) 0x13 f (by decide) hc rfl (fun w h => by unfold readOne oneSpecial; rw [h]; rfl) hw
theorem ballotW2 (f : F2) : Statement (.ballotW2 f) :=
  fun _ hc hw => two_words (n := 1) 0x93 f (by decide) hc rfl (fun w v h => by unfold readTwo twoSpecial; rw [h]; rfl) hw
theorem matchGroup (f : F1) : Statement (.matchGroup f) :=
  fun _ hc hw => one_word (n := 1) 0x14 f (by decide) hc rfl (fun w h => by unfold readOne oneSpecial; rw [h]; rfl) hw
theorem matchW2 (f : F2) : Statement (.matchW2 f) :=
  fun _ hc hw => two_words (n := 1) 0x94 f (by decide) hc rfl (fun w v h => by unfold readTwo twoSpecial; rw [h]; rfl) hw
theorem laneget (f : F1) : Statement (.laneget f) :=
  fun _ hc hw => one_word (n := 1) 0x15 f (by decide) hc rfl (fun w h => by unfold readOne oneSpecial; rw [h]; rfl) hw
theorem lanegetW2 (f : F2) : Statement (.lanegetW2 f) :=
  fun _ hc hw => two_words (n := 1) 0x95 f (by decide) hc rfl (fun w v h => by unfold readTwo twoSpecial; rw [h]; rfl) hw
theorem ld (f : F1) : Statement (.ld f) :=
  fun _ hc hw => one_word (n := 2) 0x00 f (by decide) hc rfl (fun w h => by unfold readOne oneMemory; rw [h]; rfl) hw
theorem ldW2 (f : F2) : Statement (.ldW2 f) :=
  fun _ hc hw => two_words (n := 2) 0x80 f (by decide) hc rfl (fun w v h => by unfold readTwo twoMemory; rw [h]; rfl) hw
theorem st (f : F1) : Statement (.st f) :=
  fun _ hc hw => one_word (n := 2) 0x01 f (by decide) hc rfl (fun w h => by unfold readOne oneMemory; rw [h]; rfl) hw
theorem stW2 (f : F2) : Statement (.stW2 f) :=
  fun _ hc hw => two_words (n := 2) 0x81 f (by decide) hc rfl (fun w v h => by unfold readTwo twoMemory; rw [h]; rfl) hw
theorem ldl (f : F1) : Statement (.ldl f) :=
  fun _ hc hw => one_word (n := 2) 0x02 f (by decide) hc rfl (fun w h => by unfold readOne oneMemory; rw [h]; rfl) hw
theorem ldlW2 (f : F2) : Statement (.ldlW2 f) :=
  fun _ hc hw => two_words (n := 2) 0x82 f (by decide) hc rfl (fun w v h => by unfold readTwo twoMemory; rw [h]; rfl) hw
theorem stl (f : F1) : Statement (.stl f) :=
  fun _ hc hw => one_word (n := 2) 0x03 f (by decide) hc rfl (fun w h => by unfold readOne oneMemory; rw [h]; rfl) hw
theorem stlW2 (f : F2) : Statement (.stlW2 f) :=
  fun _ hc hw => two_words (n := 2) 0x83 f (by decide) hc rfl (fun w v h => by unfold readTwo twoMemory; rw [h]; rfl) hw
theorem lds (f : F1) : Statement (.lds f) :=
  fun _ hc hw => one_word (n := 2) 0x04 f (by decide) hc rfl (fun w h => by unfold readOne oneMemory; rw [h]; rfl) hw
theorem ldsW2 (f : F2) : Statement (.ldsW2 f) :=
  fun _ hc hw => two_words (n := 2) 0x84 f (by decide) hc rfl (fun w v h => by unfold readTwo twoMemory; rw [h]; rfl) hw
theorem sts (f : F1) : Statement (.sts f) :=
  fun _ hc hw => one_word (n := 2) 0x05 f (by decide) hc rfl (fun w h => by unfold readOne oneMemory; rw [h]; rfl) hw
theorem stsW2 (f : F2) : Statement (.stsW2 f) :=
  fun _ hc hw => two_words (n := 2) 0x85 f (by decide) hc rfl (fun w v h => by unfold readTwo twoMemory; rw [h]; rfl) hw
theorem ldc (f : F1) : Statement (.ldc f) :=
  fun _ hc hw => one_word (n := 2) 0x06 f (by decide) hc rfl (fun w h => by unfold readOne oneMemory; rw [h]; rfl) hw
theorem ldcW2 (f : F2) : Statement (.ldcW2 f) :=
  fun _ hc hw => two_words (n := 2) 0x86 f (by decide) hc rfl (fun w v h => by unfold readTwo twoMemory; rw [h]; rfl) hw
theorem stc (f : F1) : Statement (.stc f) :=
  fun _ hc hw => one_word (n := 2) 0x07 f (by decide) hc rfl (fun w h => by unfold readOne oneMemory; rw [h]; rfl) hw
theorem stcW2 (f : F2) : Statement (.stcW2 f) :=
  fun _ hc hw => two_words (n := 2) 0x87 f (by decide) hc rfl (fun w v h => by unfold readTwo twoMemory; rw [h]; rfl) hw
theorem lda (f : F1) : Statement (.lda f) :=
  fun _ hc hw => one_word (n := 2) 0x08 f (by decide) hc rfl (fun w h => by unfold readOne oneMemory; rw [h]; rfl) hw
theorem ldaW2 (f : F2) : Statement (.ldaW2 f) :=
  fun _ hc hw => two_words (n := 2) 0x88 f (by decide) hc rfl (fun w v h => by unfold readTwo twoMemory; rw [h]; rfl) hw
theorem atom (f : F1) : Statement (.atom f) :=
  fun _ hc hw => one_word (n := 2) 0x10 f (by decide) hc rfl (fun w h => by unfold readOne oneMemory; rw [h]; rfl) hw
theorem atomW2 (f : F2) : Statement (.atomW2 f) :=
  fun _ hc hw => two_words (n := 2) 0x90 f (by decide) hc rfl (fun w v h => by unfold readTwo twoMemory; rw [h]; rfl) hw
theorem cas (f : F2) : Statement (.cas f) :=
  fun _ hc hw => two_words (n := 2) 0x91 f (by decide) hc rfl (fun w v h => by unfold readTwo twoMemory; rw [h]; rfl) hw
theorem atoms (f : F1) : Statement (.atoms f) :=
  fun _ hc hw => one_word (n := 2) 0x12 f (by decide) hc rfl (fun w h => by unfold readOne oneMemory; rw [h]; rfl) hw
theorem atomsW2 (f : F2) : Statement (.atomsW2 f) :=
  fun _ hc hw => two_words (n := 2) 0x92 f (by decide) hc rfl (fun w v h => by unfold readTwo twoMemory; rw [h]; rfl) hw
theorem bankop (f : F2) : Statement (.bankop f) :=
  fun _ hc hw => two_words (n := 2) 0x98 f (by decide) hc rfl (fun w v h => by unfold readTwo twoMemory; rw [h]; rfl) hw
theorem redslot (f : F2) : Statement (.redslot f) :=
  fun _ hc hw => two_words (n := 2) 0x99 f (by decide) hc rfl (fun w v h => by unfold readTwo twoMemory; rw [h]; rfl) hw
theorem prefetch (f : F1) : Statement (.prefetch f) :=
  fun _ hc hw => one_word (n := 2) 0x20 f (by decide) hc rfl (fun w h => by unfold readOne oneMemory; rw [h]; rfl) hw
theorem prefetchW2 (f : F2) : Statement (.prefetchW2 f) :=
  fun _ hc hw => two_words (n := 2) 0xA0 f (by decide) hc rfl (fun w v h => by unfold readTwo twoMemory; rw [h]; rfl) hw
theorem fence (f : F1) : Statement (.fence f) :=
  fun _ hc hw => one_word (n := 2) 0x21 f (by decide) hc rfl (fun w h => by unfold readOne oneMemory; rw [h]; rfl) hw
theorem fenceW2 (f : F2) : Statement (.fenceW2 f) :=
  fun _ hc hw => two_words (n := 2) 0xA1 f (by decide) hc rfl (fun w v h => by unfold readTwo twoMemory; rw [h]; rfl) hw
theorem tfence (f : F1) : Statement (.tfence f) :=
  fun _ hc hw => one_word (n := 2) 0x22 f (by decide) hc rfl (fun w h => by unfold readOne oneMemory; rw [h]; rfl) hw
theorem tfenceW2 (f : F2) : Statement (.tfenceW2 f) :=
  fun _ hc hw => two_words (n := 2) 0xA2 f (by decide) hc rfl (fun w v h => by unfold readTwo twoMemory; rw [h]; rfl) hw
theorem monitor (f : F1) : Statement (.monitor f) :=
  fun _ hc hw => one_word (n := 2) 0x23 f (by decide) hc rfl (fun w h => by unfold readOne oneMemory; rw [h]; rfl) hw
theorem monitorW2 (f : F2) : Statement (.monitorW2 f) :=
  fun _ hc hw => two_words (n := 2) 0xA3 f (by decide) hc rfl (fun w v h => by unfold readTwo twoMemory; rw [h]; rfl) hw
theorem tdset (f : F1) : Statement (.tdset f) :=
  fun _ hc hw => one_word (n := 3) 0x00 f (by decide) hc rfl (fun w h => by unfold readOne oneCopy; rw [h]; rfl) hw
theorem tdsetW2 (f : F2) : Statement (.tdsetW2 f) :=
  fun _ hc hw => two_words (n := 3) 0x80 f (by decide) hc rfl (fun w v h => by unfold readTwo twoCopy; rw [h]; rfl) hw
theorem copy (f : F1) : Statement (.copy f) :=
  fun _ hc hw => one_word (n := 3) 0x01 f (by decide) hc rfl (fun w h => by unfold readOne oneCopy; rw [h]; rfl) hw
theorem copyW2 (f : F2) : Statement (.copyW2 f) :=
  fun _ hc hw => two_words (n := 3) 0x81 f (by decide) hc rfl (fun w v h => by unfold readTwo twoCopy; rw [h]; rfl) hw
theorem copyw (f : F1) : Statement (.copyw f) :=
  fun _ hc hw => one_word (n := 3) 0x02 f (by decide) hc rfl (fun w h => by unfold readOne oneCopy; rw [h]; rfl) hw
theorem copywW2 (f : F2) : Statement (.copywW2 f) :=
  fun _ hc hw => two_words (n := 3) 0x82 f (by decide) hc rfl (fun w v h => by unfold readTwo twoCopy; rw [h]; rfl) hw
theorem gather (f : F1) : Statement (.gather f) :=
  fun _ hc hw => one_word (n := 3) 0x03 f (by decide) hc rfl (fun w h => by unfold readOne oneCopy; rw [h]; rfl) hw
theorem gatherW2 (f : F2) : Statement (.gatherW2 f) :=
  fun _ hc hw => two_words (n := 3) 0x83 f (by decide) hc rfl (fun w v h => by unfold readTwo twoCopy; rw [h]; rfl) hw
theorem scatter (f : F1) : Statement (.scatter f) :=
  fun _ hc hw => one_word (n := 3) 0x04 f (by decide) hc rfl (fun w h => by unfold readOne oneCopy; rw [h]; rfl) hw
theorem scatterW2 (f : F2) : Statement (.scatterW2 f) :=
  fun _ hc hw => two_words (n := 3) 0x84 f (by decide) hc rfl (fun w v h => by unfold readTwo twoCopy; rw [h]; rfl) hw
theorem combine (f : F1) : Statement (.combine f) :=
  fun _ hc hw => one_word (n := 3) 0x05 f (by decide) hc rfl (fun w h => by unfold readOne oneCopy; rw [h]; rfl) hw
theorem combineW2 (f : F2) : Statement (.combineW2 f) :=
  fun _ hc hw => two_words (n := 3) 0x85 f (by decide) hc rfl (fun w v h => by unfold readTwo twoCopy; rw [h]; rfl) hw
theorem replay (f : F1) : Statement (.replay f) :=
  fun _ hc hw => one_word (n := 3) 0x06 f (by decide) hc rfl (fun w h => by unfold readOne oneCopy; rw [h]; rfl) hw
theorem replayW2 (f : F2) : Statement (.replayW2 f) :=
  fun _ hc hw => two_words (n := 3) 0x86 f (by decide) hc rfl (fun w v h => by unfold readTwo twoCopy; rw [h]; rfl) hw
theorem chsend (f : F1) : Statement (.chsend f) :=
  fun _ hc hw => one_word (n := 3) 0x07 f (by decide) hc rfl (fun w h => by unfold readOne oneCopy; rw [h]; rfl) hw
theorem chsendW2 (f : F2) : Statement (.chsendW2 f) :=
  fun _ hc hw => two_words (n := 3) 0x87 f (by decide) hc rfl (fun w v h => by unfold readTwo twoCopy; rw [h]; rfl) hw
theorem chrecv (f : F1) : Statement (.chrecv f) :=
  fun _ hc hw => one_word (n := 3) 0x08 f (by decide) hc rfl (fun w h => by unfold readOne oneCopy; rw [h]; rfl) hw
theorem chrecvW2 (f : F2) : Statement (.chrecvW2 f) :=
  fun _ hc hw => two_words (n := 3) 0x88 f (by decide) hc rfl (fun w v h => by unfold readTwo twoCopy; rw [h]; rfl) hw
theorem beq (a b : Opd) (off : BitVec 32) : Statement (.beq a b off) := by
  intro cls hc hw
  have hc : cls ≤ 6 ∧ (4 = cls ∨ 4 = 7) := hc
  obtain ⟨-, rfl | h⟩ := hc
  · refine decode_two (two_word0 ..) ?_ hw
    have : ∀ w v, opOf w = BitVec.toNat (0x80 : BitVec 8) → readTwo 4 w v = if idleD w then some (.beq (fieldA w) (fieldB w) v) else none :=
      fun w v h => by unfold readTwo twoControl; rw [h]; rfl
    refine (this _ _ (op_word0 ..)).trans ?_
    rw [if_pos (idleD_word0 ..), a_word0, b_word0]
  · exact absurd h (by decide)
theorem bne (a b : Opd) (off : BitVec 32) : Statement (.bne a b off) := by
  intro cls hc hw
  have hc : cls ≤ 6 ∧ (4 = cls ∨ 4 = 7) := hc
  obtain ⟨-, rfl | h⟩ := hc
  · refine decode_two (two_word0 ..) ?_ hw
    have : ∀ w v, opOf w = BitVec.toNat (0x81 : BitVec 8) → readTwo 4 w v = if idleD w then some (.bne (fieldA w) (fieldB w) v) else none :=
      fun w v h => by unfold readTwo twoControl; rw [h]; rfl
    refine (this _ _ (op_word0 ..)).trans ?_
    rw [if_pos (idleD_word0 ..), a_word0, b_word0]
  · exact absurd h (by decide)
theorem blt (a b : Opd) (off : BitVec 32) : Statement (.blt a b off) := by
  intro cls hc hw
  have hc : cls ≤ 6 ∧ (4 = cls ∨ 4 = 7) := hc
  obtain ⟨-, rfl | h⟩ := hc
  · refine decode_two (two_word0 ..) ?_ hw
    have : ∀ w v, opOf w = BitVec.toNat (0x82 : BitVec 8) → readTwo 4 w v = if idleD w then some (.blt (fieldA w) (fieldB w) v) else none :=
      fun w v h => by unfold readTwo twoControl; rw [h]; rfl
    refine (this _ _ (op_word0 ..)).trans ?_
    rw [if_pos (idleD_word0 ..), a_word0, b_word0]
  · exact absurd h (by decide)
theorem bge (a b : Opd) (off : BitVec 32) : Statement (.bge a b off) := by
  intro cls hc hw
  have hc : cls ≤ 6 ∧ (4 = cls ∨ 4 = 7) := hc
  obtain ⟨-, rfl | h⟩ := hc
  · refine decode_two (two_word0 ..) ?_ hw
    have : ∀ w v, opOf w = BitVec.toNat (0x83 : BitVec 8) → readTwo 4 w v = if idleD w then some (.bge (fieldA w) (fieldB w) v) else none :=
      fun w v h => by unfold readTwo twoControl; rw [h]; rfl
    refine (this _ _ (op_word0 ..)).trans ?_
    rw [if_pos (idleD_word0 ..), a_word0, b_word0]
  · exact absurd h (by decide)
theorem bltn (a b : Opd) (off : BitVec 32) : Statement (.bltn a b off) := by
  intro cls hc hw
  have hc : cls ≤ 6 ∧ (4 = cls ∨ 4 = 7) := hc
  obtain ⟨-, rfl | h⟩ := hc
  · refine decode_two (two_word0 ..) ?_ hw
    have : ∀ w v, opOf w = BitVec.toNat (0x84 : BitVec 8) → readTwo 4 w v = if idleD w then some (.bltn (fieldA w) (fieldB w) v) else none :=
      fun w v h => by unfold readTwo twoControl; rw [h]; rfl
    refine (this _ _ (op_word0 ..)).trans ?_
    rw [if_pos (idleD_word0 ..), a_word0, b_word0]
  · exact absurd h (by decide)
theorem bgen (a b : Opd) (off : BitVec 32) : Statement (.bgen a b off) := by
  intro cls hc hw
  have hc : cls ≤ 6 ∧ (4 = cls ∨ 4 = 7) := hc
  obtain ⟨-, rfl | h⟩ := hc
  · refine decode_two (two_word0 ..) ?_ hw
    have : ∀ w v, opOf w = BitVec.toNat (0x85 : BitVec 8) → readTwo 4 w v = if idleD w then some (.bgen (fieldA w) (fieldB w) v) else none :=
      fun w v h => by unfold readTwo twoControl; rw [h]; rfl
    refine (this _ _ (op_word0 ..)).trans ?_
    rw [if_pos (idleD_word0 ..), a_word0, b_word0]
  · exact absurd h (by decide)
theorem bra (off : BitVec 24) : Statement (.bra off) := by
  intro cls hc hw
  have hc : cls ≤ 6 ∧ (4 = cls ∨ 4 = 7) := hc
  obtain ⟨-, rfl | h⟩ := hc
  · refine decode_one (two_off24_word ..) ?_ hw
    unfold readOne oneControl; rw [op_off24_word]
    show some (Instr.bra _) = _; rw [off24_word]
  · exact absurd h (by decide)
theorem braW2 (off : BitVec 32) : Statement (.braW2 off) := by
  intro cls hc hw
  have hc : cls ≤ 6 ∧ (4 = cls ∨ 4 = 7) := hc
  obtain ⟨-, rfl | h⟩ := hc
  · refine decode_two (two_word0 ..) ?_ hw
    have : ∀ w v, opOf w = BitVec.toNat (0x86 : BitVec 8) → readTwo 4 w v = if idleD w && idleAB w then some (.braW2 v) else none :=
      fun w v h => by unfold readTwo twoControl; rw [h]; rfl
    refine (this _ _ (op_word0 ..)).trans ?_
    rw [idleD_word0, idleAB_word0]; rfl
  · exact absurd h (by decide)
theorem brx (f : F1) : Statement (.brx f) :=
  fun _ hc hw => one_word (n := 4) 0x07 f (by decide) hc rfl (fun w h => by unfold readOne oneControl; rw [h]; rfl) hw
theorem call (off : BitVec 24) : Statement (.call off) := by
  intro cls hc hw
  have hc : cls ≤ 6 ∧ (4 = cls ∨ 4 = 7) := hc
  obtain ⟨-, rfl | h⟩ := hc
  · refine decode_one (two_off24_word ..) ?_ hw
    unfold readOne oneControl; rw [op_off24_word]
    show some (Instr.call _) = _; rw [off24_word]
  · exact absurd h (by decide)
theorem callW2 (off : BitVec 32) : Statement (.callW2 off) := by
  intro cls hc hw
  have hc : cls ≤ 6 ∧ (4 = cls ∨ 4 = 7) := hc
  obtain ⟨-, rfl | h⟩ := hc
  · refine decode_two (two_word0 ..) ?_ hw
    have : ∀ w v, opOf w = BitVec.toNat (0x88 : BitVec 8) → readTwo 4 w v = if idleD w && idleAB w then some (.callW2 v) else none :=
      fun w v h => by unfold readTwo twoControl; rw [h]; rfl
    refine (this _ _ (op_word0 ..)).trans ?_
    rw [idleD_word0, idleAB_word0]; rfl
  · exact absurd h (by decide)
theorem callx (f : F1) : Statement (.callx f) :=
  fun _ hc hw => one_word (n := 4) 0x09 f (by decide) hc rfl (fun w h => by unfold readOne oneControl; rw [h]; rfl) hw
theorem ret (f : F1) : Statement (.ret f) :=
  fun _ hc hw => one_word (n := 4) 0x0A f (by decide) hc rfl (fun w h => by unfold readOne oneControl; rw [h]; rfl) hw
theorem exit (f : F1) : Statement (.exit f) :=
  fun _ hc hw => one_word (n := 4) 0x10 f (by decide) hc rfl (fun w h => by unfold readOne oneControl; rw [h]; rfl) hw
theorem yield (f : F1) : Statement (.yield f) :=
  fun _ hc hw => one_word (n := 4) 0x11 f (by decide) hc rfl (fun w h => by unfold readOne oneControl; rw [h]; rfl) hw
theorem mwait (f : F1) : Statement (.mwait f) :=
  fun _ hc hw => one_word (n := 4) 0x12 f (by decide) hc rfl (fun w h => by unfold readOne oneControl; rw [h]; rfl) hw
theorem mwaitW2 (f : F2) : Statement (.mwaitW2 f) :=
  fun _ hc hw => two_words (n := 4) 0x92 f (by decide) hc rfl (fun w v h => by unfold readTwo twoControl; rw [h]; rfl) hw
theorem trap (f : F1) : Statement (.trap f) :=
  fun _ hc hw => one_word (n := 4) 0x18 f (by decide) hc rfl (fun w h => by unfold readOne oneControl; rw [h]; rfl) hw
theorem trapW2 (f : F2) : Statement (.trapW2 f) :=
  fun _ hc hw => two_words (n := 4) 0x98 f (by decide) hc rfl (fun w v h => by unfold readTwo twoControl; rw [h]; rfl) hw
theorem trapfence (f : F1) : Statement (.trapfence f) :=
  fun _ hc hw => one_word (n := 4) 0x19 f (by decide) hc rfl (fun w h => by unfold readOne oneControl; rw [h]; rfl) hw
theorem tbar (f : F1) : Statement (.tbar f) :=
  fun _ hc hw => one_word (n := 4) 0x20 f (by decide) hc rfl (fun w h => by unfold readOne oneControl; rw [h]; rfl) hw
theorem cbar (f : F1) : Statement (.cbar f) :=
  fun _ hc hw => one_word (n := 4) 0x21 f (by decide) hc rfl (fun w h => by unfold readOne oneControl; rw [h]; rfl) hw
theorem arrive (f : F1) : Statement (.arrive f) :=
  fun _ hc hw => one_word (n := 4) 0x22 f (by decide) hc rfl (fun w h => by unfold readOne oneControl; rw [h]; rfl) hw
theorem await (f : F1) : Statement (.await f) :=
  fun _ hc hw => one_word (n := 4) 0x23 f (by decide) hc rfl (fun w h => by unfold readOne oneControl; rw [h]; rfl) hw
theorem mload (f : F1) : Statement (.mload f) :=
  fun _ hc hw => one_word (n := 5) 0x00 f (by decide) hc rfl (fun w h => by unfold readOne oneSequencer; rw [h]; rfl) hw
theorem mloadW2 (f : F2) : Statement (.mloadW2 f) :=
  fun _ hc hw => two_words (n := 5) 0x80 f (by decide) hc rfl (fun w v h => by unfold readTwo twoSequencer; rw [h]; rfl) hw
theorem mswap (f : F1) : Statement (.mswap f) :=
  fun _ hc hw => one_word (n := 5) 0x01 f (by decide) hc rfl (fun w h => by unfold readOne oneSequencer; rw [h]; rfl) hw
theorem mswapW2 (f : F2) : Statement (.mswapW2 f) :=
  fun _ hc hw => two_words (n := 5) 0x81 f (by decide) hc rfl (fun w v h => by unfold readTwo twoSequencer; rw [h]; rfl) hw
theorem mstream (f : F1) : Statement (.mstream f) :=
  fun _ hc hw => one_word (n := 5) 0x02 f (by decide) hc rfl (fun w h => by unfold readOne oneSequencer; rw [h]; rfl) hw
theorem mstreamW2 (f : F2) : Statement (.mstreamW2 f) :=
  fun _ hc hw => two_words (n := 5) 0x82 f (by decide) hc rfl (fun w v h => by unfold readTwo twoSequencer; rw [h]; rfl) hw
theorem mvstream (f : F1) : Statement (.mvstream f) :=
  fun _ hc hw => one_word (n := 5) 0x03 f (by decide) hc rfl (fun w h => by unfold readOne oneSequencer; rw [h]; rfl) hw
theorem mvstreamW2 (f : F2) : Statement (.mvstreamW2 f) :=
  fun _ hc hw => two_words (n := 5) 0x83 f (by decide) hc rfl (fun w v h => by unfold readTwo twoSequencer; rw [h]; rfl) hw
theorem mdist (f : F1) : Statement (.mdist f) :=
  fun _ hc hw => one_word (n := 5) 0x04 f (by decide) hc rfl (fun w h => by unfold readOne oneSequencer; rw [h]; rfl) hw
theorem mdistW2 (f : F2) : Statement (.mdistW2 f) :=
  fun _ hc hw => two_words (n := 5) 0x84 f (by decide) hc rfl (fun w v h => by unfold readTwo twoSequencer; rw [h]; rfl) hw
theorem mtopk (f : F1) : Statement (.mtopk f) :=
  fun _ hc hw => one_word (n := 5) 0x05 f (by decide) hc rfl (fun w h => by unfold readOne oneSequencer; rw [h]; rfl) hw
theorem mtopkW2 (f : F2) : Statement (.mtopkW2 f) :=
  fun _ hc hw => two_words (n := 5) 0x85 f (by decide) hc rfl (fun w v h => by unfold readTwo twoSequencer; rw [h]; rfl) hw
theorem mepi (f : F1) : Statement (.mepi f) :=
  fun _ hc hw => one_word (n := 5) 0x06 f (by decide) hc rfl (fun w h => by unfold readOne oneSequencer; rw [h]; rfl) hw
theorem mepiW2 (f : F2) : Statement (.mepiW2 f) :=
  fun _ hc hw => two_words (n := 5) 0x86 f (by decide) hc rfl (fun w v h => by unfold readTwo twoSequencer; rw [h]; rfl) hw
theorem mdrain (f : F1) : Statement (.mdrain f) :=
  fun _ hc hw => one_word (n := 5) 0x07 f (by decide) hc rfl (fun w h => by unfold readOne oneSequencer; rw [h]; rfl) hw
theorem mdrainW2 (f : F2) : Statement (.mdrainW2 f) :=
  fun _ hc hw => two_words (n := 5) 0x87 f (by decide) hc rfl (fun w v h => by unfold readTwo twoSequencer; rw [h]; rfl) hw
theorem mclear (f : F1) : Statement (.mclear f) :=
  fun _ hc hw => one_word (n := 5) 0x08 f (by decide) hc rfl (fun w h => by unfold readOne oneSequencer; rw [h]; rfl) hw
theorem mclearW2 (f : F2) : Statement (.mclearW2 f) :=
  fun _ hc hw => two_words (n := 5) 0x88 f (by decide) hc rfl (fun w v h => by unfold readTwo twoSequencer; rw [h]; rfl) hw
theorem walk (f : F1) : Statement (.walk f) :=
  fun _ hc hw => one_word (n := 5) 0x10 f (by decide) hc rfl (fun w h => by unfold readOne oneSequencer; rw [h]; rfl) hw
theorem walkW2 (f : F2) : Statement (.walkW2 f) :=
  fun _ hc hw => two_words (n := 5) 0x90 f (by decide) hc rfl (fun w v h => by unfold readTwo twoSequencer; rw [h]; rfl) hw
theorem endwalk (f : F1) : Statement (.endwalk f) :=
  fun _ hc hw => one_word (n := 5) 0x11 f (by decide) hc rfl (fun w h => by unfold readOne oneSequencer; rw [h]; rfl) hw
theorem endwalkW2 (f : F2) : Statement (.endwalkW2 f) :=
  fun _ hc hw => two_words (n := 5) 0x91 f (by decide) hc rfl (fun w v h => by unfold readTwo twoSequencer; rw [h]; rfl) hw
theorem seqArrive (f : F1) : Statement (.seqArrive f) :=
  fun _ hc hw => one_word (n := 5) 0x18 f (by decide) hc rfl (fun w h => by unfold readOne oneSequencer; rw [h]; rfl) hw
theorem seqAwait (f : F1) : Statement (.seqAwait f) :=
  fun _ hc hw => one_word (n := 5) 0x19 f (by decide) hc rfl (fun w h => by unfold readOne oneSequencer; rw [h]; rfl) hw
theorem swait (f : F1) : Statement (.swait f) :=
  fun _ hc hw => one_word (n := 5) 0x1A f (by decide) hc rfl (fun w h => by unfold readOne oneSequencer; rw [h]; rfl) hw
theorem sqexit (f : F1) : Statement (.sqexit f) :=
  fun _ hc hw => one_word (n := 5) 0x1B f (by decide) hc rfl (fun w h => by unfold readOne oneSequencer; rw [h]; rfl) hw
theorem seqIadd (f : F1) : Statement (.seqIadd f) :=
  fun _ hc hw => one_word (n := 5) 0x20 f (by decide) hc rfl (fun w h => by unfold readOne oneSequencer; rw [h]; rfl) hw
theorem seqIaddW2 (f : F2) : Statement (.seqIaddW2 f) :=
  fun _ hc hw => two_words (n := 5) 0xA0 f (by decide) hc rfl (fun w v h => by unfold readTwo twoSequencer; rw [h]; rfl) hw
theorem seqIsub (f : F1) : Statement (.seqIsub f) :=
  fun _ hc hw => one_word (n := 5) 0x21 f (by decide) hc rfl (fun w h => by unfold readOne oneSequencer; rw [h]; rfl) hw
theorem seqIsubW2 (f : F2) : Statement (.seqIsubW2 f) :=
  fun _ hc hw => two_words (n := 5) 0xA1 f (by decide) hc rfl (fun w v h => by unfold readTwo twoSequencer; rw [h]; rfl) hw
theorem seqImul (f : F1) : Statement (.seqImul f) :=
  fun _ hc hw => one_word (n := 5) 0x22 f (by decide) hc rfl (fun w h => by unfold readOne oneSequencer; rw [h]; rfl) hw
theorem seqImulW2 (f : F2) : Statement (.seqImulW2 f) :=
  fun _ hc hw => two_words (n := 5) 0xA2 f (by decide) hc rfl (fun w v h => by unfold readTwo twoSequencer; rw [h]; rfl) hw
theorem seqImin (f : F1) : Statement (.seqImin f) :=
  fun _ hc hw => one_word (n := 5) 0x23 f (by decide) hc rfl (fun w h => by unfold readOne oneSequencer; rw [h]; rfl) hw
theorem seqIminW2 (f : F2) : Statement (.seqIminW2 f) :=
  fun _ hc hw => two_words (n := 5) 0xA3 f (by decide) hc rfl (fun w v h => by unfold readTwo twoSequencer; rw [h]; rfl) hw
theorem seqImax (f : F1) : Statement (.seqImax f) :=
  fun _ hc hw => one_word (n := 5) 0x24 f (by decide) hc rfl (fun w h => by unfold readOne oneSequencer; rw [h]; rfl) hw
theorem seqImaxW2 (f : F2) : Statement (.seqImaxW2 f) :=
  fun _ hc hw => two_words (n := 5) 0xA4 f (by decide) hc rfl (fun w v h => by unfold readTwo twoSequencer; rw [h]; rfl) hw
theorem seqAnd (f : F1) : Statement (.seqAnd f) :=
  fun _ hc hw => one_word (n := 5) 0x25 f (by decide) hc rfl (fun w h => by unfold readOne oneSequencer; rw [h]; rfl) hw
theorem seqAndW2 (f : F2) : Statement (.seqAndW2 f) :=
  fun _ hc hw => two_words (n := 5) 0xA5 f (by decide) hc rfl (fun w v h => by unfold readTwo twoSequencer; rw [h]; rfl) hw
theorem seqOr (f : F1) : Statement (.seqOr f) :=
  fun _ hc hw => one_word (n := 5) 0x26 f (by decide) hc rfl (fun w h => by unfold readOne oneSequencer; rw [h]; rfl) hw
theorem seqOrW2 (f : F2) : Statement (.seqOrW2 f) :=
  fun _ hc hw => two_words (n := 5) 0xA6 f (by decide) hc rfl (fun w v h => by unfold readTwo twoSequencer; rw [h]; rfl) hw
theorem seqXor (f : F1) : Statement (.seqXor f) :=
  fun _ hc hw => one_word (n := 5) 0x27 f (by decide) hc rfl (fun w h => by unfold readOne oneSequencer; rw [h]; rfl) hw
theorem seqXorW2 (f : F2) : Statement (.seqXorW2 f) :=
  fun _ hc hw => two_words (n := 5) 0xA7 f (by decide) hc rfl (fun w v h => by unfold readTwo twoSequencer; rw [h]; rfl) hw
theorem seqShl (f : F1) : Statement (.seqShl f) :=
  fun _ hc hw => one_word (n := 5) 0x28 f (by decide) hc rfl (fun w h => by unfold readOne oneSequencer; rw [h]; rfl) hw
theorem seqShlW2 (f : F2) : Statement (.seqShlW2 f) :=
  fun _ hc hw => two_words (n := 5) 0xA8 f (by decide) hc rfl (fun w v h => by unfold readTwo twoSequencer; rw [h]; rfl) hw
theorem seqShr (f : F1) : Statement (.seqShr f) :=
  fun _ hc hw => one_word (n := 5) 0x29 f (by decide) hc rfl (fun w h => by unfold readOne oneSequencer; rw [h]; rfl) hw
theorem seqShrW2 (f : F2) : Statement (.seqShrW2 f) :=
  fun _ hc hw => two_words (n := 5) 0xA9 f (by decide) hc rfl (fun w v h => by unfold readTwo twoSequencer; rw [h]; rfl) hw
theorem seqMov (f : F1) : Statement (.seqMov f) :=
  fun _ hc hw => one_word (n := 5) 0x2A f (by decide) hc rfl (fun w h => by unfold readOne oneSequencer; rw [h]; rfl) hw
theorem seqMovW2 (f : F2) : Statement (.seqMovW2 f) :=
  fun _ hc hw => two_words (n := 5) 0xAA f (by decide) hc rfl (fun w v h => by unfold readTwo twoSequencer; rw [h]; rfl) hw
theorem seqMovi (d : Opd) (imm : BitVec 16) : Statement (.seqMovi d imm) := by
  intro cls hc hw
  have hc : cls ≤ 6 ∧ (5 = cls ∨ 5 = 7) := hc
  obtain ⟨-, rfl | h⟩ := hc
  · refine decode_one (two_imm16_word ..) ?_ hw
    unfold readOne oneSequencer; rw [op_imm16_word]
    show some (Instr.seqMovi _ _) = _; rw [d_imm16_word, imm16_word]
  · exact absurd h (by decide)
theorem seqMoviW2 (d : Opd) (imm : BitVec 32) : Statement (.seqMoviW2 d imm) := by
  intro cls hc hw
  have hc : cls ≤ 6 ∧ (5 = cls ∨ 5 = 7) := hc
  obtain ⟨-, rfl | h⟩ := hc
  · refine decode_two (two_word0 ..) ?_ hw
    have : ∀ w v, opOf w = BitVec.toNat (0xAB : BitVec 8) → readTwo 5 w v = if idleAB w then some (.seqMoviW2 (fieldD w) v) else none :=
      fun w v h => by unfold readTwo twoSequencer; rw [h]; rfl
    refine (this _ _ (op_word0 ..)).trans ?_
    rw [if_pos (idleAB_word0 ..), d_word0]
  · exact absurd h (by decide)
theorem seqBeq (a b : Opd) (off : BitVec 32) : Statement (.seqBeq a b off) := by
  intro cls hc hw
  have hc : cls ≤ 6 ∧ (5 = cls ∨ 5 = 7) := hc
  obtain ⟨-, rfl | h⟩ := hc
  · refine decode_two (two_word0 ..) ?_ hw
    have : ∀ w v, opOf w = BitVec.toNat (0xB0 : BitVec 8) → readTwo 5 w v = if idleD w then some (.seqBeq (fieldA w) (fieldB w) v) else none :=
      fun w v h => by unfold readTwo twoSequencer; rw [h]; rfl
    refine (this _ _ (op_word0 ..)).trans ?_
    rw [if_pos (idleD_word0 ..), a_word0, b_word0]
  · exact absurd h (by decide)
theorem seqBne (a b : Opd) (off : BitVec 32) : Statement (.seqBne a b off) := by
  intro cls hc hw
  have hc : cls ≤ 6 ∧ (5 = cls ∨ 5 = 7) := hc
  obtain ⟨-, rfl | h⟩ := hc
  · refine decode_two (two_word0 ..) ?_ hw
    have : ∀ w v, opOf w = BitVec.toNat (0xB1 : BitVec 8) → readTwo 5 w v = if idleD w then some (.seqBne (fieldA w) (fieldB w) v) else none :=
      fun w v h => by unfold readTwo twoSequencer; rw [h]; rfl
    refine (this _ _ (op_word0 ..)).trans ?_
    rw [if_pos (idleD_word0 ..), a_word0, b_word0]
  · exact absurd h (by decide)
theorem seqBlt (a b : Opd) (off : BitVec 32) : Statement (.seqBlt a b off) := by
  intro cls hc hw
  have hc : cls ≤ 6 ∧ (5 = cls ∨ 5 = 7) := hc
  obtain ⟨-, rfl | h⟩ := hc
  · refine decode_two (two_word0 ..) ?_ hw
    have : ∀ w v, opOf w = BitVec.toNat (0xB2 : BitVec 8) → readTwo 5 w v = if idleD w then some (.seqBlt (fieldA w) (fieldB w) v) else none :=
      fun w v h => by unfold readTwo twoSequencer; rw [h]; rfl
    refine (this _ _ (op_word0 ..)).trans ?_
    rw [if_pos (idleD_word0 ..), a_word0, b_word0]
  · exact absurd h (by decide)
theorem seqBge (a b : Opd) (off : BitVec 32) : Statement (.seqBge a b off) := by
  intro cls hc hw
  have hc : cls ≤ 6 ∧ (5 = cls ∨ 5 = 7) := hc
  obtain ⟨-, rfl | h⟩ := hc
  · refine decode_two (two_word0 ..) ?_ hw
    have : ∀ w v, opOf w = BitVec.toNat (0xB3 : BitVec 8) → readTwo 5 w v = if idleD w then some (.seqBge (fieldA w) (fieldB w) v) else none :=
      fun w v h => by unfold readTwo twoSequencer; rw [h]; rfl
    refine (this _ _ (op_word0 ..)).trans ?_
    rw [if_pos (idleD_word0 ..), a_word0, b_word0]
  · exact absurd h (by decide)
theorem seqBra (off : BitVec 24) : Statement (.seqBra off) := by
  intro cls hc hw
  have hc : cls ≤ 6 ∧ (5 = cls ∨ 5 = 7) := hc
  obtain ⟨-, rfl | h⟩ := hc
  · refine decode_one (two_off24_word ..) ?_ hw
    unfold readOne oneSequencer; rw [op_off24_word]
    show some (Instr.seqBra _) = _; rw [off24_word]
  · exact absurd h (by decide)
theorem seqBraW2 (off : BitVec 32) : Statement (.seqBraW2 off) := by
  intro cls hc hw
  have hc : cls ≤ 6 ∧ (5 = cls ∨ 5 = 7) := hc
  obtain ⟨-, rfl | h⟩ := hc
  · refine decode_two (two_word0 ..) ?_ hw
    have : ∀ w v, opOf w = BitVec.toNat (0xB4 : BitVec 8) → readTwo 5 w v = if idleD w && idleAB w then some (.seqBraW2 v) else none :=
      fun w v h => by unfold readTwo twoSequencer; rw [h]; rfl
    refine (this _ _ (op_word0 ..)).trans ?_
    rw [idleD_word0, idleAB_word0]; rfl
  · exact absurd h (by decide)
theorem sread (f : F1) : Statement (.sread f) :=
  fun _ hc hw => one_word (n := 6) 0x00 f (by decide) hc rfl (fun w h => by unfold readOne oneSystem; rw [h]; rfl) hw
theorem sreadW2 (f : F2) : Statement (.sreadW2 f) :=
  fun _ hc hw => two_words (n := 6) 0x80 f (by decide) hc rfl (fun w v h => by unfold readTwo twoSystem; rw [h]; rfl) hw
theorem swrite (f : F1) : Statement (.swrite f) :=
  fun _ hc hw => one_word (n := 6) 0x01 f (by decide) hc rfl (fun w h => by unfold readOne oneSystem; rw [h]; rfl) hw
theorem swriteW2 (f : F2) : Statement (.swriteW2 f) :=
  fun _ hc hw => two_words (n := 6) 0x81 f (by decide) hc rfl (fun w v h => by unfold readTwo twoSystem; rw [h]; rfl) hw
theorem launch (f : F1) : Statement (.launch f) :=
  fun _ hc hw => one_word (n := 6) 0x02 f (by decide) hc rfl (fun w h => by unfold readOne oneSystem; rw [h]; rfl) hw
theorem launchW2 (f : F2) : Statement (.launchW2 f) :=
  fun _ hc hw => two_words (n := 6) 0x82 f (by decide) hc rfl (fun w v h => by unfold readTwo twoSystem; rw [h]; rfl) hw
theorem qread (f : F1) : Statement (.qread f) :=
  fun _ hc hw => one_word (n := 6) 0x03 f (by decide) hc rfl (fun w h => by unfold readOne oneSystem; rw [h]; rfl) hw
theorem qreadW2 (f : F2) : Statement (.qreadW2 f) :=
  fun _ hc hw => two_words (n := 6) 0x83 f (by decide) hc rfl (fun w v h => by unfold readTwo twoSystem; rw [h]; rfl) hw
theorem evread (f : F1) : Statement (.evread f) :=
  fun _ hc hw => one_word (n := 6) 0x04 f (by decide) hc rfl (fun w h => by unfold readOne oneSystem; rw [h]; rfl) hw
theorem evreadW2 (f : F2) : Statement (.evreadW2 f) :=
  fun _ hc hw => two_words (n := 6) 0x84 f (by decide) hc rfl (fun w v h => by unfold readTwo twoSystem; rw [h]; rfl) hw
theorem evwait (f : F1) : Statement (.evwait f) :=
  fun _ hc hw => one_word (n := 6) 0x05 f (by decide) hc rfl (fun w h => by unfold readOne oneSystem; rw [h]; rfl) hw
theorem signal (f : F1) : Statement (.signal f) :=
  fun _ hc hw => one_word (n := 6) 0x06 f (by decide) hc rfl (fun w h => by unfold readOne oneSystem; rw [h]; rfl) hw
theorem signalW2 (f : F2) : Statement (.signalW2 f) :=
  fun _ hc hw => two_words (n := 6) 0x86 f (by decide) hc rfl (fun w v h => by unfold readTwo twoSystem; rw [h]; rfl) hw
theorem tlbinv (f : F1) : Statement (.tlbinv f) :=
  fun _ hc hw => one_word (n := 6) 0x07 f (by decide) hc rfl (fun w h => by unfold readOne oneSystem; rw [h]; rfl) hw
theorem tlbinvW2 (f : F2) : Statement (.tlbinvW2 f) :=
  fun _ hc hw => two_words (n := 6) 0x87 f (by decide) hc rfl (fun w v h => by unfold readTwo twoSystem; rw [h]; rfl) hw
theorem keyop (f : F1) : Statement (.keyop f) :=
  fun _ hc hw => one_word (n := 6) 0x08 f (by decide) hc rfl (fun w h => by unfold readOne oneSystem; rw [h]; rfl) hw
theorem keyopW2 (f : F2) : Statement (.keyopW2 f) :=
  fun _ hc hw => two_words (n := 6) 0x88 f (by decide) hc rfl (fun w v h => by unfold readTwo twoSystem; rw [h]; rfl) hw

end Sys2Proof.Laws.RoundTrip
end

