-- ==== Sys2Proof/Safety.lean ====
section
/-! DEFINITION. The terms in which claims are stated: a safe step, the canonical form of memory, an instruction as the issue
stage sees it, and the executing agents that pass every check of R177. -/

namespace Sys2Proof

/-- A step that answers a next state. The device takes its own faults in a next state (R436), so a fault of the model is
reached only where exec runs without an agent or with one of the wrong kind. -/
def SafeStep (s : Machine.State) : Prop := ∃ t, Machine.step s = .next t

namespace Machine

/-- Every byte store is in its canonical form: addresses rise, and no listed byte reads as an unlisted one. -/
def State.MemoryWf (s : State) : Prop := ∀ sp, Memory.wf (s.bytesOf sp) = true

/-- Every byte of every store reads in t as in s. -/
def SameMemory (s t : State) : Prop := ∀ sp k, t.byte sp k = s.byte sp k

/-- An encoded instruction as the issue stage sees it. -/
def issueOp (i : Instr) : Op :=
  { e := (entryOf i).getD (Entry.bare 7 0), f := (fieldsOf i).getD F2.none, lit := literalOk i
    skip := match i with
      | .brk _ k => k
      | _ => false
    dRead := match i with
      | .cvtpk f => (Fmt.ofTarget (mbits f.m 7 4)).bits != 16
      | _ => false }

/-- A gang executes: in each of its lanes the checks of R177 pass, nothing halts the lane before the step, and the step
stays within SAFE_DIST (R440). -/
structure GangRuns (o : Op) (s : State) (g : Nat) (x : Gang) : Prop where
  cur : s.cur = some (.gang g)
  gang : s.gang g = some x
  cls : o.e.cls ≠ 5
  inhabited : x.lanes ≠ []
  distinct : x.lanes.Nodup
  acts : ∀ lit ∈ x.lanes, acting s (.lane x.team lit) = true
  noHalt : ∀ lit ∈ x.lanes, (s.lane x.team lit).haltReq = false
  clean : ∀ lit ∈ x.lanes, preFault o s (.lane x.team lit) x.clause = none
  near : ∀ lit ∈ x.lanes, tooFar s (.lane x.team lit) = false

/-- One agent executes alone, a lane, a control program or the firmware, and passes every check. -/
structure Alone (o : Op) (s : State) (a : Agent) (cl : Clause) : Prop where
  agents : agentsOf s = some ([a], cl)
  cls : o.e.cls ≠ 5
  acts : acting s a = true
  noHalt : (s.laneOf a).haltReq = false
  clean : preFault o s a cl = none
  near : tooFar s a = false

/-- l' is l but for its place in the code: PC, place in the clause and readiness, with the marks of the issue under way. -/
def Moved (l l' : Lane) : Prop :=
  ∃ pc inClause rep passJ readyAt since displaced issued,
    l' = { l with pc := pc, inClause := inClause, rep := rep, passJ := passJ, readyAt := readyAt, since := since,
                  displaced := displaced, issued := issued }

/-- A lane after a computing step with result and flags x (y in the shadow of a protected pair): D takes the result, the
sticky flags take what the step raises (R76), and the distance counts the step (R161). -/
def Lane.computed (l : Lane) (v : Env) (x y : Nat × FlagSet) : Lane :=
  let l := l.writeOpd false v.f.d v.e.dw x.1
  let l := if v.prot then l.writeOpd true v.f.d v.e.dw y.1 else l
  { l with flags := FlagSet.join l.flags x.2, sflags := FlagSet.join l.sflags y.2, dist := l.dist + 1,
           skipWatch := false, stepReq := false, woken := if isBlocking v.e then none else l.woken }

/-- Nothing but the lanes of team T differs, what is recorded of bad registers among them (R458), the metering counters
(R491) and the gangs under way: no other register, no memory, no launch, copy, pass, slice or queue. -/
structure OnlyLanes (T : Nat) (s t : State) : Prop where
  rest : ∃ ts ws gs, t = { s with teams := ts, worlds := ws, gangs := gs }
  others : ∀ u, u ≠ T → t.team u = s.team u
  own : ∃ B L, t.team T = { s.team T with bad := B, lanes := L }
  worlds : ∀ w, ∃ m, t.world w = { s.world w with meter := m }

/-- The lanes of a gang as an instruction sees them. -/
def gangEnvs (o : Op) (s : State) (x : Gang) : List Env := x.lanes.map fun lit => envOf o s (.lane x.team lit) x.clause

/-- An instruction that computes from the registers of its gang: in every gang that executes it, every lane's D takes the
value that h gives (its second result in the shadow of a protected pair), and the lane's flags take those that h raises.
Nothing else changes but the lanes' places in the code. -/
def Combines (i : Instr) (h : List Env → Env → (Nat × FlagSet) × (Nat × FlagSet)) : Prop :=
  ∀ s k x, GangRuns (issueOp i) s k x → ∃ t, Machine.exec i s = .next t ∧
    (∀ lit ∈ x.lanes,
      let v := envOf (issueOp i) s (.lane x.team lit) x.clause
      let r := h (gangEnvs (issueOp i) s x) v
      Moved ((s.lane x.team lit).computed v r.1 r.2) (t.lane x.team lit)) ∧
    (∀ lit, lit ∉ x.lanes → t.lane x.team lit = s.lane x.team lit) ∧ OnlyLanes x.team s t ∧ SameMemory s t

/-- A computing instruction: each lane computes g of its own operands, and its shadow of its own copies. -/
def Computes (i : Instr) (g : F2 → Nat → Nat → Nat → Nat × FlagSet) : Prop :=
  Combines i fun _ v => (g v.f v.a v.b v.c, if v.prot then g v.f v.a' v.b' v.c' else (0, 0))

/-- The state after a step of one agent that retires: its result and flags stand, the issue is metered, and the agent goes on
to the next instruction or to the target of its transfer. -/
def stepDone (o : Op) (a : Agent) (cl : Clause) (s : State) (r : Res) (opens : Option Rep := none) : State :=
  advance (countIssue (retire s a o.e ((stepFields cl.rep o.e o.f).getD o.f) r) [a]) (cl.advance o.len opens)
    (match r with
      | .jump pc => [(a, pc)]
      | _ => [])

/-- The state after a step of one agent that waits. -/
def stepWaits (o : Op) (a : Agent) (cl : Clause) (s : State) : State := advance (countIssue s [a]) (cl.advance o.len none) []

/-- The one-word and the two-word form compute alike. -/
def ComputesBoth (i : F1 → Instr) (j : F2 → Instr) (g : F2 → Nat → Nat → Nat → Nat × FlagSet) : Prop :=
  (∀ f, Computes (i f) g) ∧ ∀ f, Computes (j f) g

/-- An instruction completes: in every agent that executes it alone and passes every check, and whenever P holds of what it
sees, the step answers the next state in which the result of Q stands. -/
def Completes (i : Instr) (P : Env → State → Prop) (Q : Env → State → State × Res) : Prop :=
  ∀ s a cl, Alone (issueOp i) s a cl → P (envOf (issueOp i) s a cl) s →
    Machine.exec i s = .next (stepDone (issueOp i) a cl (Q (envOf (issueOp i) s a cl) s).1 (Q (envOf (issueOp i) s a cl) s).2)

/-- An instruction waits: it retires nothing, and leaves the state that W gives. -/
def Waits (i : Instr) (P : Env → State → Prop) (W : Env → State → State) : Prop :=
  ∀ s a cl, Alone (issueOp i) s a cl → P (envOf (issueOp i) s a cl) s →
    Machine.exec i s = .next (stepWaits (issueOp i) a cl (W (envOf (issueOp i) s a cl) s))

/-- An instruction has not started: its agent stalls in the state that W gives, and tries it again (R205). -/
def Stalls (i : Instr) (P : Env → State → Prop) (W : Env → State → State) : Prop :=
  ∀ s a cl, Alone (issueOp i) s a cl → P (envOf (issueOp i) s a cl) s →
    Machine.exec i s = .next (stall (W (envOf (issueOp i) s a cl) s))

/-- An instruction faults: nothing of its step stands, and the agent takes the fault that y names. -/
def Faults (i : Instr) (P : Env → State → Prop) (y : Env → State → Why) : Prop :=
  ∀ s a cl, Alone (issueOp i) s a cl → P (envOf (issueOp i) s a cl) s →
    Machine.exec i s = .next (stepWaits (issueOp i) a cl (s.takeFault a (y (envOf (issueOp i) s a cl) s)))

/-- An instruction that a check of R177 refuses: no effect of it stands, and the agent takes the fault that the check names. -/
def Traps (i : Instr) : Prop :=
  ∀ s a cl y, agentsOf s = some ([a], cl) → acting s a = true → (s.laneOf a).haltReq = false →
    preFault (issueOp i) s a cl = some y →
    Machine.exec i s = .next (stepWaits (issueOp i) a cl (s.takeFault a y))

/-- The one-word and the two-word form complete alike. -/
def CompletesBoth (i : F1 → Instr) (j : F2 → Instr) (P : Env → State → Prop) (Q : Env → State → State × Res) : Prop :=
  (∀ f, Completes (i f) P Q) ∧ ∀ f, Completes (j f) P Q

/-- The one-word and the two-word form fault alike. -/
def FaultsBoth (i : F1 → Instr) (j : F2 → Instr) (P : Env → State → Prop) (y : Env → State → Why) : Prop :=
  (∀ f, Faults (i f) P y) ∧ ∀ f, Faults (j f) P y

/-- An access that this device serves itself: no peer's. -/
def Place.isLocal (p : Place) : Bool :=
  match p.target with
  | .peer _ _ => false
  | _ => true

/-- What a sequencer's instruction sees. -/
def seqEnvOf (o : Op) (s : State) (t : Nat) (cl : Clause) : SeqEnv :=
  { t := t, w := (s.launchOf t).world, f := o.f, e := o.e, a := s.seqOperand t o.f.a o.e.aw, b := s.seqOperand t o.f.b o.e.bw,
    c := s.seqOperand t o.f.c o.e.cw, hdr := cl.hdr, pc := cl.at cl.pos, next := cl.next }

/-- The state after a sequencer's step that retires. -/
def seqDone (o : Op) (t w : Nat) (cl : Clause) (s : State) (r : Res) : State :=
  seqAdvance ((s.modSeq t fun q =>
      { (match r with
          | .ok d _ _ _ => q.writeOpd o.f.d o.e.dw d
          | _ => q) with dist := q.dist + 1 }).meter w 0 1) t (cl.advance o.len none)
    (match r with
      | .jump pc => some pc
      | _ => none)

/-- A sequencer executes a class-5 instruction, and passes every check. -/
structure SeqRuns (o : Op) (s : State) (t : Nat) (cl : Clause) : Prop where
  cur : s.cur = some (.seq t)
  clause : (s.seqOf t).clause = some cl
  cls : o.e.cls = 5 ∨ o.e.cls = 7
  runs : (s.seqOf t).st = .running
  noHalt : (s.seqOf t).haltReq = false
  clean : seqPreFault o cl = true
  near : (s.seqOf t).dist + 1 ≤ (s.launchOf t).desc.dist

/-- A sequencer's instruction completes, likewise. -/
def SeqCompletes (i : Instr) (P : SeqEnv → State → Prop) (Q : SeqEnv → State → State × Res) : Prop :=
  ∀ s t cl, SeqRuns (issueOp i) s t cl → P (seqEnvOf (issueOp i) s t cl) s →
    Machine.exec i s = .next (seqDone (issueOp i) t (s.launchOf t).world cl (Q (seqEnvOf (issueOp i) s t cl) s).1
      (Q (seqEnvOf (issueOp i) s t cl) s).2)

/-- The one-word and the two-word form complete alike. -/
def SeqCompletesBoth (i : F1 → Instr) (j : F2 → Instr) (P : SeqEnv → State → Prop) (Q : SeqEnv → State → State × Res) : Prop :=
  (∀ f, SeqCompletes (i f) P Q) ∧ ∀ f, SeqCompletes (j f) P Q

/-- It waits, in the state that W gives; the place in the clause stays. -/
def SeqWaits (i : Instr) (P : SeqEnv → State → Prop) (W : SeqEnv → State → State) : Prop :=
  ∀ s t cl, SeqRuns (issueOp i) s t cl → P (seqEnvOf (issueOp i) s t cl) s →
    Machine.exec i s = .next (W (seqEnvOf (issueOp i) s t cl) s)

/-- It faults: the sequencer takes the fault that y names. -/
def SeqFaults (i : Instr) (P : SeqEnv → State → Prop) (y : SeqEnv → State → Why) : Prop :=
  ∀ s t cl, SeqRuns (issueOp i) s t cl → P (seqEnvOf (issueOp i) s t cl) s →
    Machine.exec i s = .next (s.takeFault (.seq t) (y (seqEnvOf (issueOp i) s t cl) s))

/-! Operations and events outside the clauses -/

/-- exec of i at s answers a next state, of which P holds. -/
def Answers (i : Instr) (s : State) (P : State → Prop) : Prop := ∃ t, Machine.exec i s = .next t ∧ P t

/-- A write of SLC_CMD that names operation op starts its command at once: no command runs or is held, and no activation runs
(R42, R48, R63). -/
structure TakesCommand (s : State) (op : Nat) (cmd : BitVec 32) : Prop where
  op : cmdOp cmd = op
  go : cmd.getLsbD 0 = true
  idle : s.command = none
  noneHeld : s.held.any isCommand = false
  noActivation : s.activating = false

/-- The time of the starting write: now, or that of the write that was held, while GO reads 1 already (R49, R63). -/
def State.writtenAt (s : State) : Nat := if s.slcCmd.getLsbD 0 then s.cmdWritten else s.clock

/-- The command that a word of SLC_CMD names (R48). -/
def State.commandOf (s : State) (cmd : BitVec 32) : Command :=
  { op := cmdOp cmd, world := cmdWorld cmd, node := cmdNode cmd, owner := cmdOwner cmd, arg := s.slcArg, start := s.writtenAt,
    bound := s.clock }

/-- The state in which the command begins: the register holds the word, and the command runs. -/
def State.accepting (s : State) (cmd : BitVec 32) : State :=
  { s with slcCmd := cmd &&& 0xFFFFF8F1, cmdWritten := s.writtenAt, command := some (s.commandOf cmd) }

end Machine
end Sys2Proof
end

