-- ==== Sys2Proof/Certificates/Slice0/Obligations.lean ====
section
/-! DEFINITION. The statements for the provers. Each docstring names the rule of spec/ that its statement formalises. -/

open Sys2Proof Sys2Proof.Machine

/-- For every well-formed instruction, with every operand, modifier and literal that its encoding admits, decoding its
words in its class gives the instruction; BRK decodes in every class. So two well-formed instructions of one class
with the same words are the same. -/
def Obligations.DecodeEncode : Prop :=
  (∀ (i : Instr) (e : Entry) (cls : Nat), entryOf i = some e → cls ≤ 6 → e.cls = cls ∨ e.cls = 7 → i.wf = true →
    decodeWords cls (encode i) = .ok i) ∧
  (∀ (i j : Instr) (e f : Entry), entryOf i = some e → entryOf j = some f → e.cls ≤ 6 → e.cls = f.cls → i.wf = true → j.wf = true →
    encode i = encode j → i = j)

/-- One word or pair of words of each class, written from the tables of the encoding chapter, decodes to the
instruction it stands for; the literal of an opcode that no row reaches is refused. -/
def Obligations.SpecWords : Prop :=
  decodeWords 0 [0x00F0F0F0#32] = .ok (.nop ⟨.z, .z, .z⟩) ∧
  decodeWords 0 [0x10081018#32] = .ok (.iadd ⟨.reg 8, .reg 16, .reg 24⟩) ∧
  decodeWords 0 [0x010F8000#32] = .ok (.rep 3 true true true false 0) ∧
  decodeWords 0 [0x960A0102#32, 0x03000002#32] = .ok (.imad ⟨.reg 10, .reg 1, .reg 2, .reg 3, .idle, .idle, 2⟩) ∧
  decodeWords 1 [0x910A0408#32, 0xF0000040#32] = .ok (.scanW2 ⟨.reg 10, .reg 4, .reg 8, .z, .idle, .idle, 0x40⟩) ∧
  decodeWords 2 [0x90040206#32, 0xF0000009#32] = .ok (.atomW2 ⟨.reg 4, .reg 2, .reg 6, .z, .idle, .idle, 9⟩) ∧
  decodeWords 3 [0x81F0020A#32, 0xF0000010#32] = .ok (.copyW2 ⟨.z, .reg 2, .reg 10, .z, .idle, .idle, 0x10⟩) ∧
  decodeWords 4 [0x20F0F0F0#32] = .ok (.tbar ⟨.z, .z, .z⟩) ∧
  decodeWords 4 [0x06000004#32] = .ok (.bra 4) ∧
  decodeWords 5 [0x2B090002#32] = .ok (.seqMovi (.reg 9) 2) ∧
  decodeWords 6 [0x020402F0#32] = .ok (.launch ⟨.reg 4, .reg 2, .z⟩) ∧
  decodeWords 0 [0x7EF0F0F0#32] = .error .unassigned

/-- When the words of the clause at the place of the gang that a core picks, of a running sequencer or of the control
program that has the turn decode to i, the step is exec of i in the state of that step, with that agent executing (C
of R210 then counts the core's cycle); when they decode to nothing, it is the fault of an illegal word. An operation
that the agenda names or that is due is executed as it stands. The words of a clause are the four little-endian bytes
at their addresses, in memory or, for a team, in the line that its core's instruction cache holds. -/
def Obligations.StepRunsDecoded : Prop :=
  (∀ (s : State) rest c g x i, s.agenda = .core c :: rest → s.moving = true → ({ s.begin with agenda := rest } : State).pick c = some (.gang g) →
    s.gang g = some x → decodeWords x.clause.cls (x.clause.words.drop x.clause.pos) = .ok i →
    Machine.step s = counted { s.begin with agenda := rest } c g x (exec i { s.begin with agenda := rest, cur := some (.gang g) })) ∧
  (∀ (s : State) rest c g x e, s.agenda = .core c :: rest → s.moving = true → ({ s.begin with agenda := rest } : State).pick c = some (.gang g) →
    s.gang g = some x → decodeWords x.clause.cls (x.clause.words.drop x.clause.pos) = .error e →
    Machine.step s = counted { s.begin with agenda := rest } c g x
      (exec (.unassignedOpcode (((x.clause.words.drop x.clause.pos).headD 0).extractLsb' 24 8))
        { s.begin with agenda := rest, cur := some (.gang g) })) ∧
  (∀ (s : State) c g x (t : State), ((t.gang g).map (·.stalled)).getD false = false →
    counted s c g x (.next t) = .next (t.countProgress c (s.hasProgress x))) ∧
  (∀ (s : State) rest t cl i, s.agenda = .seq t :: rest → s.moving = true → (s.seqOf t).st = .running → (s.seqOf t).stopped = false →
    (s.team t).st = .resident → (s.team t).rollback = none → s.asking (.seq t) = false → (s.seqOf t).clause = some cl → decodeWords cl.cls (cl.words.drop cl.pos) = .ok i →
    Machine.step s = exec i { s.begin with agenda := rest, cur := some (.seq t) }) ∧
  (∀ (s : State) rest w cl i, s.agenda = .prog w :: rest → s.moving = true → s.turnWorld (s.world w).ctl = some w →
    s.begin.progReady w = true → (s.prog w).starting = false → (s.prog w).custom = true → (s.prog w).clause = some cl → decodeWords cl.cls (cl.words.drop cl.pos) = .ok i →
    Machine.step s = exec i { ({ s.begin with agenda := rest } : State).takeTurn w with cur := some (.prog w) }) ∧
  (∀ (s : State) rest c i, s.agenda = .firm c i :: rest → s.moving = true →
    Machine.step s = exec i { s.begin with agenda := rest, cur := some (.firm c) }) ∧
  (∀ (s : State) rest i, s.agenda = .event i :: rest → ({ s.begin with agenda := rest } : State).alive i = true →
    Machine.step s = exec i { s.begin with agenda := rest }) ∧
  (∀ (s : State) rest i, s.agenda = [] → s.moving = true → s.due = i :: rest → Machine.step s = exec i { s.begin with due := rest }) ∧
  (∀ (s : State) m, s.agenda = [] → s.moving = true → s.due = [] → s.begin.ownEvent = none →
    s.begin.allMovers[s.turn % s.begin.allMovers.length]? = some m → Machine.step s = runMove { s.begin with turn := s.turn + 1 } m) ∧
  (∀ (s u v : State) a va p lf sp x bs, va % 4 = 0 → (s.codeOf a).1 ≤ va → va + 4 ≤ (s.codeOf a).1 + (s.codeOf a).2 →
    s.translate (s.worldOf a) (s.quadOf a) va .fetch false = (.ok (p, lf), u) → p.at? = some (sp, x) →
    u.fetchLocal a sp x = (some bs, v) → s.fetchWord a va = (.ok (BitVec.ofNat 32 (ofLe bs)), v)) ∧
  (∀ (s : State) w sp x, s.poisoned sp x 4 = false → s.fetchLocal (.prog w) sp x = (some (s.read sp x 4), s)) ∧
  (∀ (s : State) a t lit sp x, a = .lane t lit ∨ a = .seq t → s.oldWord t (s.team t).core sp x = none →
    (s.icache.find? fun l => l.core == (s.team t).core && l.space == sp && l.line == x / 128) = none → s.poisoned sp x 4 = false →
    (s.fetchLocal a sp x).1 = some (s.read sp x 4)) ∧
  (∀ (s : State) sp a (w : BitVec 32), BitVec.ofNat 32 (ofLe ((s.write sp a (leBytes 4 w.toNat)).read sp a 4)) = w)

/-- A step of one lane that retires changes, beside what its instruction itself does, only that lane: its destination,
its sticky flags, its distance count and its place in the code; no other lane, no memory, no launch, copy or pass. A
transfer of a READY lane at the end of a clause puts PC at its target; a step inside the clause puts it at the next
word. A control program's step leaves every byte and every team, launch and gang as they are, and a sequencer's every
other team and every byte of memory. -/
def Obligations.StepFrame : Prop :=
  (∀ o t lit cl (s : State) d d' fl fl' opens g x, s.cur = some (.gang g) → s.gang g = some x → x.team = t → x.lanes = [lit] →
    OnlyLanes t s (stepDone o (.lane t lit) cl s (.ok d d' fl fl') opens) ∧ SameMemory s (stepDone o (.lane t lit) cl s (.ok d d' fl fl') opens) ∧
    ∀ j, j ≠ lit → (stepDone o (.lane t lit) cl s (.ok d d' fl fl') opens).lane t j = s.lane t j) ∧
  (∀ o t lit cl (s : State) pc g x, s.cur = some (.gang g) → s.gang g = some x → x.team = t → x.lanes = [lit] → lit < (s.team t).lanes.length →
    (s.lane t lit).st = .ready → (cl.advance o.len none).over = true →
    let u := stepDone o (.lane t lit) cl s (.jump pc)
    OnlyLanes t s u ∧ (u.lane t lit).pc = pc ∧ (u.lane t lit).inClause = false ∧ (u.lane t lit).dist = (s.lane t lit).dist + 1 ∧
      (u.lane t lit).regs = (s.lane t lit).regs ∧ ∀ j, j ≠ lit → u.lane t j = s.lane t j) ∧
  (∀ o t lit cl (s : State) d d' fl fl' opens g x, s.cur = some (.gang g) → s.gang g = some x → x.team = t → x.lanes = [lit] →
    lit < (s.team t).lanes.length → (s.lane t lit).st = .ready → (cl.advance o.len opens).over = false →
    ((stepDone o (.lane t lit) cl s (.ok d d' fl fl') opens).lane t lit).pc = (cl.advance o.len opens).at (cl.advance o.len opens).pos) ∧
  (∀ o w cl (s : State) r opens, s.cur = some (.prog w) → let u := stepDone o (.prog w) cl s r opens
    SameMemory s u ∧ u.teams = s.teams ∧ u.launches = s.launches ∧ u.gangs = s.gangs ∧ u.copies = s.copies ∧ ∀ v, v ≠ w → u.world v = s.world v) ∧
  (∀ o t w cl (s : State) r, let u := seqDone o t w cl s r
    SameMemory s u ∧ u.launches = s.launches ∧ u.copies = s.copies ∧ u.passes = s.passes ∧ (∀ v, v ≠ t → u.team v = s.team v) ∧
      (u.team t).lanes = (s.team t).lanes)

/-- A fault of code 0x01 in a lane or sequencer is recorded and parks it. In a guarded launch 0x0A and 0x0B ask for a
rollback of the team. A caught TRAP, TRAPFENCE, BRK or watchpoint halts the lane. Any other fault ends the team: it is
gone with its lanes and its save slot, and its active launch fails with status FAULT, that code and that team. A
control program's fault stops it with the code and the PC, and signals vector 1. -/
def Obligations.FaultEntry : Prop :=
  (∀ (s : State) t lit y, y.code = 1 → s.takeFault (.lane t lit) y = s.recordFault (.lane t lit) y) ∧
  (∀ (s : State) t y, y.code = 1 → s.takeFault (.seq t) y = s.recordFault (.seq t) y) ∧
  (∀ (s : State) t lit y, y.code = 0x0A ∨ y.code = 0x0B → (s.launchOf t).guarded = true → s.takeFault (.lane t lit) y = (s.askRollback t y).leaveGang t lit) ∧
  (∀ (s : State) t y, ((s.askRollback t y).team t).rollback = ((s.team t).rollback).or (some (y.code, y.addr, y.unit, y.tier)) ∧
    Instr.rollback t ∈ (s.askRollback t y).due) ∧
  (∀ (s : State) t lit y, y.code = 0x0C ∨ y.code = 0x0D ∨ y.code = 0x0E ∨ y.code = 0x0F → s.caught t y.code = true →
    s.takeFault (.lane t lit) y = s.haltLane t lit y) ∧
  (∀ (s : State) t lit y, y.code = 0x05 ∨ y.code = 0x06 ∨ y.code = 0x09 ∨ y.code = 0x11 ∨ y.code = 0x13 →
    s.takeFault (.lane t lit) y = s.endTeam t y.code ∧ s.takeFault (.seq t) y = s.endTeam t y.code) ∧
  (∀ (s : State) t lit y, y.code = 0x02 ∨ y.code = 0x03 ∨ y.code = 0x04 ∨ y.code = 0x07 ∨ y.code = 0x08 ∨ y.code = 0x12 →
    s.takeFault (.lane t lit) y = (s.recordFault (.lane t lit) y).endTeam t y.code) ∧
  (∀ (s : State) t, ((s.removeTeam t).team t).st = .gone ∧ ((s.removeTeam t).team t).lanes = [] ∧
    ∀ u, u ≠ t → (∃ L, (s.removeTeam t).team u = { s.team u with lanes := L }) ∧
      ∀ j, (s.lane u j).st ≠ .token → (s.removeTeam t).lane u j = s.lane u j) ∧
  (∀ (s : State) l status code team, (s.launch l).st = .active →
    ((s.failLaunch l status code team).launch l).st = .failing ∧ ((s.failLaunch l status code team).launch l).fail = some (status, code, team) ∧
      Instr.launchComplete l ∈ (s.failLaunch l status code team).due) ∧
  (∀ (s : State) t code, (s.endTeam t code) = ((s.removeTeam t).failLaunch (s.team t).launch 4 code (s.team t).index).pushOnce
    (.launchComplete (s.team t).launch)) ∧
  (∀ (s : State) w y, y.code ≠ 1 → recordedCode y.code = false →
    let u := s.takeFault (.prog w) y
    (u.prog w).st = .faulted ∧ (u.prog w).fault = y.code ∧ (u.prog w).faultPc = (s.prog w).lane.pc)

/-- After reset no slice stands, every world is FREE, no command runs, no launch, team, copy or pass exists, the
command and status registers are 0, the metering period is 1,000 ms, nothing is poisoned or cached, and every byte
store is in canonical form and lists nothing, so that a byte reads as the model's value of an unlisted byte (log entry
1, the model's choice). -/
def Obligations.Reset : Prop :=
  (∀ w, (State.reset.world w).st = .free) ∧ (∀ c, (State.reset.slice c).st = .empty) ∧ State.reset.command = none ∧ State.reset.launches = [] ∧
  State.reset.teams = [] ∧ State.reset.copies = [] ∧ State.reset.passes = [] ∧ State.reset.slcCmd = 0 ∧ State.reset.slcStatus = 0 ∧
  State.reset.fwaCmd = 0 ∧ State.reset.metPeriod = 1000 ∧ State.reset.poison = [] ∧ State.reset.l1 = [] ∧ State.reset.tlb = [] ∧ State.reset.frozen = none ∧
  (∀ sp k, State.reset.byte sp k = unlisted) ∧ State.reset.MemoryWf

/-- In every frozen state, reached or not, a step that is no cold reset answers a frozen state with the same freeze:
no byte of memory, team, launch, copy, slice, world's work or core cycle has changed. The clock of R494 and the
management port may go on. -/
def Obligations.Frozen : Prop :=
  ∀ (s t : State) f, s.frozen = some f → (∀ link rest, s.agenda ≠ .event (.coldReset link) :: rest) → Machine.step s = .next t →
    t.frozen = some f ∧ SameMemory s t ∧ t.teams = s.teams ∧ t.launches = s.launches ∧ t.copies = s.copies ∧ t.passes = s.passes ∧
    t.gangs = s.gangs ∧ t.slices = s.slices ∧ t.cycle = s.cycle ∧ t.command = s.command ∧ ∀ w, (t.world w).prog = (s.world w).prog

/-- In every gang that executes one of them, each lane's D takes the exact sum, difference, product, minimum, maximum,
absolute value, comparison or selection of its own operands after fit (R227, R233 to R236), no sticky flag is raised,
and nothing but the lanes of the gang changes: no other register, no memory. -/
def Obligations.IntegerArithmetic : Prop :=
  ComputesBoth .iadd .iaddW2 (fun f a b _ => (fit 32 f.m (extM 32 f.m a + extM 32 f.m b), 0)) ∧
  ComputesBoth .isub .isubW2 (fun f a b _ => (fit 32 f.m (extM 32 f.m a - extM 32 f.m b), 0)) ∧
  (∀ f, Computes (.iadd3 f) fun f a b c => (fit 32 f.m (extM 32 f.m a + extM 32 f.m b + extM 32 f.m c), 0)) ∧
  ComputesBoth .imul .imulW2 (fun f a b _ => (fit 32 f.m (extM 32 f.m a * extM 32 f.m b), 0)) ∧
  ComputesBoth .imulhi .imulhiW2 (fun f a b _ => (wrapInt 32 (Int.fdiv (extM 32 f.m a * extM 32 f.m b) (2 ^ 32)), 0)) ∧
  (∀ f, Computes (.imad f) fun f a b c => (fit 32 f.m (extM 32 f.m a * extM 32 f.m b + extM 32 f.m c), 0)) ∧
  ComputesBoth .imin .iminW2 (fun f a b _ => (wrapInt 32 (min (extM 32 f.m a) (extM 32 f.m b)), 0)) ∧
  ComputesBoth .imax .imaxW2 (fun f a b _ => (wrapInt 32 (max (extM 32 f.m a) (extM 32 f.m b)), 0)) ∧
  ComputesBoth .iabs .iabsW2 (fun f a _ _ => (fit 32 (f.m &&& 2) (((sext 32 a).natAbs : Nat) : Int), 0)) ∧
  (∀ f, Computes (.sel f) fun _ a b c => (if c ≠ 0 then a else b, 0)) ∧
  (∀ f, Computes (.iaddco f) fun _ a b c => (a % 2 ^ 32 + b % 2 ^ 32 + c % 2, 0)) ∧
  (∀ f, Computes (.imadwide f) fun f a b c => (wrapInt 64 (extM 32 f.m a * extM 32 f.m b + c), 0)) ∧
  ComputesBoth .icmp .icmpW2 (fun f a b _ =>
    (if condHolds (mbits f.m 3 1) (extM 32 f.m a) (extM 32 f.m b) then 0xFFFFFFFF else 0, 0)) ∧
  (∀ x y : Int, condHolds 0 x y = decide (x = y) ∧ condHolds 1 x y = decide (x ≠ y) ∧ condHolds 2 x y = decide (x < y) ∧
    condHolds 3 x y = decide (x ≤ y) ∧ condHolds 4 x y = decide (y < x) ∧ condHolds 5 x y = decide (y ≤ x))

/-- wrap_w of an integer is its pattern modulo 2^w, sext_w of a pattern below 2^w is the integer of that pattern from
-2^(w-1) to 2^(w-1) - 1, and fit delivers wrap_w without SAT, and under SAT the nearest value of the signed or
unsigned range. -/
def Obligations.IntegerWrap : Prop :=
  (∀ (w : Nat) (x : Int), wrapInt w x < 2 ^ w ∧ ((wrapInt w x : Nat) : Int) % 2 ^ w = x % 2 ^ w) ∧
  (∀ (w : Nat) (x : Nat), 0 < w → -(2 ^ (w - 1) : Int) ≤ sext w x ∧ sext w x < 2 ^ (w - 1) ∧ sext w x % 2 ^ w = (x : Int) % 2 ^ w) ∧
  (∀ (w : Nat) (m : BitVec 8) (x : Int), m.getLsbD 1 = false → fit w m x = wrapInt w x) ∧
  (∀ (w : Nat) (m : BitVec 8) (x : Int), 0 < w → m.getLsbD 1 = true → m.getLsbD 0 = true →
    ((fit w m x : Nat) : Int) = max 0 (min x (2 ^ w - 1))) ∧
  (∀ (w : Nat) (m : BitVec 8) (x : Int), 0 < w → m.getLsbD 1 = true → m.getLsbD 0 = false →
    sext w (fit w m x) = max (-(2 ^ (w - 1))) (min x (2 ^ (w - 1) - 1)))

/-- AND, OR, XOR, ANDN, NOT and LOP3 act on each bit position on its own, LOP3 by its truth table; SHL, SHR, SAR, ROTL
and FUNNEL shift by the amount that WRAP gives. Each lane's D takes that value; nothing else changes. -/
def Obligations.IntegerLogic : Prop :=
  ComputesBoth .and .andW2 (fun _ a b _ => (a &&& b, 0)) ∧
  ComputesBoth .or .orW2 (fun _ a b _ => (a ||| b, 0)) ∧
  ComputesBoth .xor .xorW2 (fun _ a b _ => (a ^^^ b, 0)) ∧
  ComputesBoth .andn .andnW2 (fun _ a b _ => (aluAndn a b, 0)) ∧
  (∀ a b j, j < 32 → bit (aluAndn a b) j = (bit a j && !bit b j)) ∧
  ComputesBoth .not .notW2 (fun _ a _ _ => (aluNot a, 0)) ∧
  (∀ a j, j < 32 → bit (aluNot a) j = !bit a j) ∧
  (∀ f, Computes (.lop3 f) fun f a b c => (aluLop3 f.m a b c, 0)) ∧
  (∀ m a b c j, j < 32 → bit (aluLop3 m a b c) j = m.getLsbD ((bit a j).toNat + 2 * (bit b j).toNat + 4 * (bit c j).toNat)) ∧
  ComputesBoth .shl .shlW2 (fun f a b _ =>
    (a * 2 ^ (if f.m.getLsbD 0 then b % 32 else min (b % 2 ^ 32) 32) % 2 ^ 32, 0)) ∧
  ComputesBoth .shr .shrW2 (fun f a b _ =>
    (a % 2 ^ 32 / 2 ^ (if f.m.getLsbD 0 then b % 32 else min (b % 2 ^ 32) 32), 0)) ∧
  ComputesBoth .sar .sarW2 (fun f a b _ =>
    (wrapInt 32 (Int.fdiv (sext 32 a) (2 ^ (if f.m.getLsbD 0 then b % 32 else min (b % 2 ^ 32) 32) : Nat)), 0)) ∧
  ComputesBoth .rotl .rotlW2 (fun _ a b _ => ((a * 2 ^ (b % 32)) % 2 ^ 32 + a / 2 ^ (32 - b % 32), 0)) ∧
  (∀ f, Computes (.funnel f) fun f a b c =>
    (if f.m.getLsbD 0 then (a + 2 ^ 32 * b) * 2 ^ (if f.m.getLsbD 1 then c % 32 else min (c % 2 ^ 32) 32) / 2 ^ 32 % 2 ^ 32
     else (a + 2 ^ 32 * b) / 2 ^ (if f.m.getLsbD 1 then c % 32 else min (c % 2 ^ 32) 32) % 2 ^ 32, 0))

/-- BFX extracts and BFI inserts the field that B names, clipped at bit 31; POPC, CLZ and CTZ count; BREV, BZIP2,
BZIP3, BUNZIP2 and BUNZIP3 place each bit as their tables give; BYTEPERM picks bytes (R243). Each lane's D takes that
value; nothing else changes. -/
def Obligations.IntegerBits : Prop :=
  ComputesBoth .bfx .bfxW2 (fun f a b _ => (aluBfx f.m a b, 0)) ∧
  (∀ m a b, 0 < fieldLen b → m.getLsbD 0 = true → aluBfx m a b = bits a (fieldPos b + fieldLen b - 1) (fieldPos b)) ∧
  (∀ m a b, 0 < fieldLen b → m.getLsbD 0 = false →
    aluBfx m a b = wrapInt 32 (sext (fieldLen b) (bits a (fieldPos b + fieldLen b - 1) (fieldPos b)))) ∧
  (∀ m a b, fieldLen b = 0 → aluBfx m a b = 0) ∧
  (∀ b, fieldPos b = min (b % 256) 32 ∧ fieldLen b = min (b / 256 % 256) (32 - fieldPos b)) ∧
  (∀ f, Computes (.bfi f) fun _ a b c => (aluBfi a b c, 0)) ∧
  (∀ a b c j, j < 32 → bit (aluBfi a b c) j =
    if fieldPos b ≤ j ∧ j < fieldPos b + fieldLen b then bit a (j - fieldPos b) else bit c j) ∧
  ComputesBoth .popc .popcW2 (fun _ a _ _ => (aluPopc a, 0)) ∧
  (∀ a, aluPopc a = ((List.range 32).filter fun j => bit a j).length) ∧
  ComputesBoth .clz .clzW2 (fun _ a _ _ => (aluClz a, 0)) ∧
  (∀ a, a < 2 ^ 32 → aluClz a ≤ 32 ∧ a < 2 ^ (32 - aluClz a) ∧ (a ≠ 0 → 2 ^ (31 - aluClz a) ≤ a)) ∧
  ComputesBoth .ctz .ctzW2 (fun _ a _ _ => (aluCtz a, 0)) ∧
  (∀ a, a < 2 ^ 32 → aluCtz a ≤ 32 ∧ (∀ j, j < aluCtz a → bit a j = false) ∧ (a ≠ 0 → bit a (aluCtz a) = true)) ∧
  ComputesBoth .brev .brevW2 (fun _ a _ _ => (aluBrev a, 0)) ∧
  (∀ a j, j < 32 → bit (aluBrev a) j = bit a (31 - j)) ∧
  ComputesBoth .bzip2 .bzip2W2 (fun _ a b _ => (aluBzip2 a b, 0)) ∧
  (∀ a b i, i < 16 → bit (aluBzip2 a b) (2 * i) = bit a i ∧ bit (aluBzip2 a b) (2 * i + 1) = bit b i) ∧
  ComputesBoth .bzip3 .bzip3W2 (fun _ a b c => (aluBzip3 a b c, 0)) ∧
  (∀ a b c i, i < 10 → bit (aluBzip3 a b c) (3 * i) = bit a i ∧ bit (aluBzip3 a b c) (3 * i + 1) = bit b i ∧
    bit (aluBzip3 a b c) (3 * i + 2) = bit c i) ∧
  (∀ a b c, aluBzip3 a b c < 2 ^ 30) ∧
  ComputesBoth .bunzip2 .bunzip2W2 (fun f a _ _ => (aluBunzip2 (mbits f.m 0 0) a, 0)) ∧
  (∀ k a i, i < 16 → bit (aluBunzip2 k a) i = bit a (2 * i + k)) ∧ (∀ k a, aluBunzip2 k a < 2 ^ 16) ∧
  ComputesBoth .bunzip3 .bunzip3W2 (fun f a _ _ => (aluBunzip3 (mbits f.m 1 0) a, 0)) ∧
  (∀ k a i, i < 10 → bit (aluBunzip3 k a) i = bit a (3 * i + k)) ∧ (∀ k a, aluBunzip3 k a < 2 ^ 10) ∧
  ComputesBoth .byteperm .bytepermW2 (fun _ a b c => (aluByteperm a b c, 0)) ∧
  (∀ a b c j, a < 2 ^ 32 → j < 4 →
    let n := b / 2 ^ (4 * j) % 16
    let y := (a + 2 ^ 32 * c) / 2 ^ (8 * (n % 8)) % 256
    aluByteperm a b c / 2 ^ (8 * j) % 256 = if n < 8 then y else if 128 ≤ y then 255 else 0)

/-- IADD64, SHL64, SHR64 and LEA compute as their tables give; MOV copies the 32, 64 or 128 bits of A; MOVI writes its
literal; NOP changes no register and counts as a retired instruction. -/
def Obligations.Integer64AndMoves : Prop :=
  ComputesBoth .iadd64 .iadd64W2 (fun f a b _ => (fit 64 f.m (extM 64 f.m a + extM 64 f.m b), 0)) ∧
  ComputesBoth .shl64 .shl64W2 (fun f a b _ =>
    (a * 2 ^ (if f.m.getLsbD 0 then b % 64 else min (b % 2 ^ 32) 64) % 2 ^ 64, 0)) ∧
  ComputesBoth .shr64 .shr64W2 (fun f a b _ =>
    (if f.m.getLsbD 1 then wrapInt 64 (Int.fdiv (sext 64 a) (2 ^ (if f.m.getLsbD 0 then b % 64 else min (b % 2 ^ 32) 64) : Nat))
     else a % 2 ^ 64 / 2 ^ (if f.m.getLsbD 0 then b % 64 else min (b % 2 ^ 32) 64), 0)) ∧
  ComputesBoth .lea .leaW2 (fun f a b _ => (wrapInt 64 (a + extM 32 f.m b * (2 ^ mbits f.m 3 1 : Nat)), 0)) ∧
  ComputesBoth .mov .movW2 (fun _ a _ _ => (a, 0)) ∧
  (∀ d imm, Computes (.movi d imm) fun _ _ _ _ => ((imm.signExtend 32).toNat, 0)) ∧
  (∀ d imm, Computes (.moviW2 d imm) fun _ _ _ _ => (imm.toNat, 0)) ∧
  (∀ d : Opd, (issueOp (.movi d 0)).e.dw = 1 ∧ (issueOp (.moviW2 d 0)).e.dw = 1) ∧
  (∀ f, Combines (.nop f) fun _ _ => ((0, 0), (0, 0))) ∧ (∀ f, Combines (.nopW2 f) fun _ _ => ((0, 0), (0, 0)))

/-- FADD, FSUB, FMUL, FFMA, DADD, DMUL and DFMA deliver fused of R251 with the flags it raises; FMIN and FMAX return
one of their operands bit for bit; FCMP and DCMP write 0xFFFFFFFF or 0 by the condition; FCLASS writes a one-hot mask
and raises no flag. In every lane of every gang that executes one of them D takes that value, the flags join, and
nothing else changes. -/
def Obligations.FloatArithmetic : Prop :=
  ComputesBoth .fadd .faddW2 (fun f a b _ => fused [(decodeNum .f32 a, .one)] (some (decodeNum .f32 b)) .f32 (mode f.m) (sat f.m)) ∧
  ComputesBoth .fsub .fsubW2 (fun f a b _ =>
    fused [(decodeNum .f32 a, .one)] (some (decodeNum .f32 b).negate) .f32 (mode f.m) (sat f.m)) ∧
  ComputesBoth .fmul .fmulW2 (fun f a b _ => fused [(decodeNum .f32 a, decodeNum .f32 b)] none .f32 (mode f.m) (sat f.m)) ∧
  (∀ f, Computes (.ffma f) fun f a b c =>
    fused [(decodeNum .f32 a, decodeNum .f32 b)] (some (decodeNum .f32 c)) .f32 (mode f.m) (sat f.m)) ∧
  ComputesBoth .dadd .daddW2 (fun f a b _ => fused [(decodeNum .f64 a, .one)] (some (decodeNum .f64 b)) .f64 (mode f.m) (sat f.m)) ∧
  ComputesBoth .dmul .dmulW2 (fun f a b _ => fused [(decodeNum .f64 a, decodeNum .f64 b)] none .f64 (mode f.m) (sat f.m)) ∧
  (∀ f, Computes (.dfma f) fun f a b c =>
    fused [(decodeNum .f64 a, decodeNum .f64 b)] (some (decodeNum .f64 c)) .f64 (mode f.m) (sat f.m)) ∧
  ComputesBoth .fmin .fminW2 (fun _ a b _ => minMax .f32 false a b) ∧
  ComputesBoth .fmax .fmaxW2 (fun _ a b _ => minMax .f32 true a b) ∧
  (∀ k m a b, (minMax k m a b).1 = a ∨ (minMax k m a b).1 = b ∨
    ((minMax k m a b).1 = (shape k).nan ∧ (decodeNum k a).isNan = true ∧ (decodeNum k b).isNan = true)) ∧
  (∀ k a b, (decodeNum k a).isNan = false → (decodeNum k b).isNan = false →
    orderKey k (minMax k false a b).1 ≤ orderKey k a ∧ orderKey k (minMax k false a b).1 ≤ orderKey k b ∧
    orderKey k a ≤ orderKey k (minMax k true a b).1 ∧ orderKey k b ≤ orderKey k (minMax k true a b).1) ∧
  ComputesBoth .fcmp .fcmpW2 (fun f a b _ =>
    (if (floatCmp .f32 (mode f.m) a b).1 then 0xFFFFFFFF else 0, (floatCmp .f32 (mode f.m) a b).2)) ∧
  ComputesBoth .dcmp .dcmpW2 (fun f a b _ =>
    (if (floatCmp .f64 (mode f.m) a b).1 then 0xFFFFFFFF else 0, (floatCmp .f64 (mode f.m) a b).2)) ∧
  (∀ k a b, ((decodeNum k a).isNan || (decodeNum k b).isNan) = true →
    ((List.range 8).map fun c => (floatCmp k c a b).1) = [false, true, false, false, false, false, true, false]) ∧
  ComputesBoth .fclass .fclassW2 (fun _ a _ _ => (fpClass a, 0)) ∧ (∀ a, ∃ n, n ≤ 9 ∧ fpClass a = 2 ^ n)

/-- HADD2, HMUL2, HFMA2, HMIN2 and HMAX2 compute on both elements of a pair; DOT2 and DOT4 round one exact sum once,
or wrap or saturate one exact integer sum; FRND, FFRACT, FSCALE, FGETEXP and FGETMAN take a number apart and rebuild
it. D takes that value in every lane, the flags join, and nothing else changes. -/
def Obligations.FloatPackedAndParts : Prop :=
  ComputesBoth .hadd2 .hadd2W2 (fun f a b c => onPairs (fun x y _ =>
    fused [(decodeNum (pairFmt f.m) x, .one)] (some (decodeNum (pairFmt f.m) y)) (pairFmt f.m) (mode f.m) (sat f.m)) a b c) ∧
  ComputesBoth .hmul2 .hmul2W2 (fun f a b c => onPairs (fun x y _ =>
    fused [(decodeNum (pairFmt f.m) x, decodeNum (pairFmt f.m) y)] none (pairFmt f.m) (mode f.m) (sat f.m)) a b c) ∧
  (∀ f, Computes (.hfma2 f) fun f a b c => onPairs (fun x y z =>
    fused [(decodeNum (pairFmt f.m) x, decodeNum (pairFmt f.m) y)] (some (decodeNum (pairFmt f.m) z)) (pairFmt f.m) (mode f.m) (sat f.m)) a b c) ∧
  ComputesBoth .hmin2 .hmin2W2 (fun f a b c => onPairs (fun x y _ => minMax (pairFmt f.m) false x y) a b c) ∧
  ComputesBoth .hmax2 .hmax2W2 (fun f a b c => onPairs (fun x y _ => minMax (pairFmt f.m) true x y) a b c) ∧
  (∀ g a b c, (onPairs g a b c).1 = (g (elem 16 0 a) (elem 16 0 b) (elem 16 0 c)).1 + 2 ^ 16 * (g (elem 16 1 a) (elem 16 1 b) (elem 16 1 c)).1 ∧
    (onPairs g a b c).2 = ((g (elem 16 0 a) (elem 16 0 b) (elem 16 0 c)).2 ||| (g (elem 16 1 a) (elem 16 1 b) (elem 16 1 c)).2)) ∧
  (∀ f, Computes (.dot2 f) fun f a b c =>
    fused [(decodeNum (pairFmt f.m) (elem 16 0 a), decodeNum (pairFmt f.m) (elem 16 0 b)),
      (decodeNum (pairFmt f.m) (elem 16 1 a), decodeNum (pairFmt f.m) (elem 16 1 b))] (some (decodeNum .f32 c)) .f32 (mode f.m) (sat f.m)) ∧
  (∀ f, Computes (.dot4 f) fun f a b c => fpDot4 f.m a b c) ∧
  (∀ m a b c, 2 ≤ mbits m 3 2 → fpDot4 m a b c =
    let x := (List.range 4).foldl (fun n e => n + ext 8 (mbits m 3 2 == 3) (elem 8 e a) * ext 8 (mbits m 1 0 == 3) (elem 8 e b)) (sext 32 c)
    (if m.getLsbD 6 then satInt 32 false x else wrapInt 32 x, 0)) ∧
  ComputesBoth .frnd .frndW2 (fun f a _ _ => fpRnd f.m a) ∧ ComputesBoth .ffract .ffractW2 (fun _ a _ _ => fpFract a) ∧
  (∀ m a, (decodeNum .f32 a).isNan = true → (fpRnd m a).1 = 0x7FC00000 ∧ (fpFract a).1 = 0x7FC00000) ∧
  (∀ m a, (decodeNum .f32 a).isInf = true → fpRnd m a = (a, 0) ∧ fpFract a = (0x7FC00000, FlagSet.invalid)) ∧
  ComputesBoth .fscale .fscaleW2 (fun f a b _ => fpScale f.m a b) ∧ ComputesBoth .fgetexp .fgetexpW2 (fun _ a _ _ => fpGetexp a) ∧
  ComputesBoth .fgetman .fgetmanW2 (fun _ a _ _ => fpGetman a) ∧
  (∀ m a b, (decodeNum .f32 a).isZero = true → fpScale m a b = (a, 0) ∧ fpGetexp a = (0xFF800000, FlagSet.divZero) ∧ fpGetman a = (a, 0)) ∧
  (∀ m a b, (decodeNum .f32 a).isInf = true →
    fpScale m a b = (a, 0) ∧ fpGetexp a = (0x7F800000, 0) ∧ fpGetman a = (0x7FC00000, FlagSet.invalid))

/-- FRCP, FRSQ, FSQRT, FEXP2, FLOG2, FSIN, FCOS and FTANH deliver the rounded value of their function, with the
results and flags that R267's table gives for zeros, infinities and negative numbers. The rounding itself is the
model's 320-bit approximation (log entry 14), so the statement cites R267 for its table only. -/
def Obligations.SpecialFunctions : Prop :=
  ComputesBoth .frcp .frcpW2 (fun f a _ _ => specialFn 0 (mode f.m) (sat f.m) a) ∧
  ComputesBoth .frsq .frsqW2 (fun f a _ _ => specialFn 1 (mode f.m) (sat f.m) a) ∧
  ComputesBoth .fsqrt .fsqrtW2 (fun f a _ _ => specialFn 2 (mode f.m) (sat f.m) a) ∧
  ComputesBoth .fexp2 .fexp2W2 (fun f a _ _ => specialFn 3 (mode f.m) (sat f.m) a) ∧
  ComputesBoth .flog2 .flog2W2 (fun f a _ _ => specialFn 4 (mode f.m) (sat f.m) a) ∧
  ComputesBoth .fsin .fsinW2 (fun f a _ _ => specialFn 5 (mode f.m) (sat f.m) a) ∧
  ComputesBoth .fcos .fcosW2 (fun f a _ _ => specialFn 6 (mode f.m) (sat f.m) a) ∧
  ComputesBoth .ftanh .ftanhW2 (fun f a _ _ => specialFn 7 (mode f.m) (sat f.m) a) ∧
  (∀ md, specialFn 0 md false 0x00000000 = (0x7F800000, FlagSet.divZero) ∧ specialFn 0 md false 0x80000000 = (0xFF800000, FlagSet.divZero) ∧
    specialFn 0 md false 0xFF800000 = (0x80000000, 0) ∧ specialFn 1 md false 0x7F800000 = (0, 0) ∧
    specialFn 1 md false 0xBF800000 = (0x7FC00000, FlagSet.invalid) ∧ specialFn 2 md false 0x80000000 = (0x80000000, 0) ∧
    specialFn 2 md false 0xBF800000 = (0x7FC00000, FlagSet.invalid) ∧ specialFn 3 md false 0xFF800000 = (0, 0) ∧
    specialFn 4 md false 0x00000000 = (0xFF800000, FlagSet.divZero) ∧ specialFn 4 md false 0x3F800000 = (0, 0) ∧
    specialFn 5 md false 0x80000000 = (0x80000000, 0) ∧ specialFn 5 md false 0x7F800000 = (0x7FC00000, FlagSet.invalid) ∧
    specialFn 6 md false 0xFF800000 = (0x7FC00000, FlagSet.invalid) ∧ specialFn 7 md false 0xFF800000 = (0xBF800000, 0)) ∧
  (∀ md st a fn, fn < 8 → (decodeNum .f32 a).isNan = true → (specialFn fn md st a).1 = 0x7FC00000)

/-- A legal rounding control word lets CVT, CVTPK and CVTUNPK convert, one Mill block being drawn under stochastic
rounding and none otherwise, and an illegal word raises fault 0x06; RGET reads and RPUT writes the register that A
numbers in the executing lane, and an index from NREGS on raises fault 0x05 with nothing written. -/
def Obligations.ConversionsAndIndexed : Prop :=
  (∀ f, Completes (.cvt f) (fun v _ => rcOk v.c (Fmt.ofTarget (mbits f.m 7 4)).isFloat = true ∧
      (v.prot = true → rcOk v.c' (Fmt.ofTarget (mbits f.m 7 4)).isFloat = true)) fun v s =>
    let d := if bits v.c 2 0 = 4 then s.millDraw v.who (bits v.c 31 16) else (0, s)
    let g := fun c a => convert (Fmt.ofSource (mbits f.m 3 0)) (Fmt.ofTarget (mbits f.m 7 4)) (bits c 2 0) (bit c 3) (srBits d.1 0) a
    let y := if v.prot then g v.c' v.a' else (0, 0)
    (d.2, .ok (g v.c v.a).1 y.1 (g v.c v.a).2 y.2)) ∧
  (∀ f, Completes (.cvtpk f) (fun v _ => rcOk v.c true = true ∧ (v.prot = true → rcOk v.c' true = true)) fun v s =>
    let k := Fmt.ofTarget (mbits f.m 7 4)
    let lo := 2 * mbits f.m 3 2 * k.bits
    let d := if bits v.c 2 0 = 4 then s.millDraw v.who (bits v.c 31 16) else (0, s)
    let old := fun sh => if k.bits = 16 then 0 else s.operand v.who (s.laneOf v.who) sh v.f.d v.e.dw
    let g := fun c a b old =>
      let y0 := toFloat k (bits c 2 0) (bit c 3) (srBits d.1 0) (decodeNum .f32 a)
      let y1 := toFloat k (bits c 2 0) (bit c 3) (srBits d.1 1) (decodeNum .f32 b)
      (old % 2 ^ lo + old / 2 ^ (lo + 2 * k.bits) * 2 ^ (lo + 2 * k.bits) + y0.1 * 2 ^ lo + y1.1 * 2 ^ (lo + k.bits), y0.2 ||| y1.2)
    let y := if v.prot then g v.c' v.a' v.b' (old true) else (0, 0)
    (d.2, .ok (g v.c v.a v.b (old false)).1 y.1 (g v.c v.a v.b (old false)).2 y.2)) ∧
  (∀ f, Completes (.cvtunpk f) (fun v _ => rcOk v.c true = true ∧ (v.prot = true → rcOk v.c' true = true)) fun v s =>
    let k := Fmt.ofTarget (mbits f.m 7 4)
    let d := if bits v.c 2 0 = 4 then s.millDraw v.who (bits v.c 31 16) else (0, s)
    let one := fun c a b e =>
      let x := decodeNum k (elem k.bits (2 * mbits f.m 3 2 + e) a)
      let r := roundNum .f32 (bits c 2 0) (bit c 3) (srBits d.1 e) (x.scale ((b % 256 : Nat) - 127))
      if !f.m.getLsbD 1 then (roundNe .f32 x, nanFlag x)
      else if b % 256 = 255 then (0x7FC00000, nanFlag x) else (r.1, nanFlag x ||| r.2)
    let g := fun c a b => ((one c a b 0).1 + 2 ^ 32 * (one c a b 1).1, (one c a b 0).2 ||| (one c a b 1).2)
    let y := if v.prot then g v.c' v.a' v.b' else (0, 0)
    (d.2, .ok (g v.c v.a v.b).1 y.1 (g v.c v.a v.b).2 y.2)) ∧
  (∀ f, Faults (.cvt f) (fun v _ => rcOk v.c (Fmt.ofTarget (mbits f.m 7 4)).isFloat = false) fun _ _ => .illegal) ∧
  (∀ f, Faults (.cvtpk f) (fun v _ => rcOk v.c true = false) fun _ _ => .illegal) ∧
  (∀ f, Faults (.cvtunpk f) (fun v _ => rcOk v.c true = false) fun _ _ => .illegal) ∧
  CompletesBoth .rget .rgetW2 (fun v s => v.a < s.nregsOf v.who ∧ (v.prot = true → v.a' < s.nregsOf v.who)) (fun v s =>
    (s, .ok ((s.laneOf v.who).regs.get 0 v.a).toNat ((s.laneOf v.who).shadow.get 0 v.a').toNat 0 0)) ∧
  CompletesBoth .rput .rputW2 (fun v s => v.a < s.nregsOf v.who ∧ (v.prot = true → v.a' < s.nregsOf v.who)) (fun v s =>
    (s.modLaneOf v.who fun l =>
      { l with regs := l.regs.put 0 v.a (BitVec.ofNat 32 v.b)
               shadow := if v.prot then l.shadow.put 0 v.a' (BitVec.ofNat 32 v.b') else l.shadow }, .done)) ∧
  (∀ f, Faults (.rget f) (fun v s => s.nregsOf v.who ≤ v.a) fun _ _ => { code := 0x05 }) ∧
  (∀ f, Faults (.rput f) (fun v s => s.nregsOf v.who ≤ v.a) fun _ _ => { code := 0x05 })

/-- In every gang that executes one of them, each lane's D takes the value that the Sieve makes of the members' A: the
tree of R99 for REDUCE, the prefix for SCAN, a test for VOTE, a lane mask for BALLOT and MATCH, another lane's A for
LANEGET; members are the lanes of the group that the mask of its lowest lane names. An integer sum is the exact sum
modulo the width, and an empty range gives zero. -/
def Obligations.Collectives : Prop :=
  (∀ (i : F1 → Instr) (j : F2 → Instr) (g : Env → List (Nat × Nat) → Nat → Nat × FlagSet),
    (i = .reduce ∧ j = .reduceW2 ∧ g = (fun v ms _ => collReduce v ms)) ∨ (i = .scan ∧ j = .scanW2 ∧ g = (fun v ms _ => collScan v ms)) ∨
    (i = .vote ∧ j = .voteW2 ∧ g = (fun v ms _ => collVote v ms)) ∨ (i = .ballot ∧ j = .ballotW2 ∧ g = (fun v ms _ => collBallot v ms)) ∨
    (i = .matchGroup ∧ j = .matchW2 ∧ g = (fun v ms a => collMatch v ms a)) →
    let h := fun (E : List Env) (v : Env) =>
      (g v (v.members E false) v.a, if v.prot then g v (v.members E true) v.a' else (0, 0))
    (∀ f, Combines (i f) h) ∧ ∀ f, Combines (j f) h) ∧
  (∀ f, Combines (.laneget f) fun E v =>
    (((((v.group E).find? fun u => u.i == v.b % v.width).map (·.a)).getD 0, 0),
     ((((v.group E).find? fun u => u.i == v.b' % v.width).map (·.a')).getD 0, 0))) ∧
  (∀ f, Combines (.lanegetW2 f) fun E v =>
    (((((v.group E).find? fun u => u.i == v.b % v.width).map (·.a)).getD 0, 0),
     ((((v.group E).find? fun u => u.i == v.b' % v.width).map (·.a')).getD 0, 0))) ∧
  (∀ (v : Env) (E : List Env) j a, (j, a) ∈ v.members E false ↔
    ∃ u ∈ E, u.lit / u.width = v.lit / v.width ∧ bit (v.mask E false) u.i = true ∧ u.i = j ∧ u.a = a) ∧
  (∀ ty k lo (m : Nat → Option Nat), ty ≠ 2 → ty ≠ 6 → (∀ j x, m j = some x → x < 2 ^ (if 4 ≤ ty then 64 else 32)) →
    (sieveTree (sieveOp ty 0) m k lo).1.getD 0 =
      ((List.range (2 ^ k)).foldl (fun n j => n + (m (lo + j)).getD 0) 0) % 2 ^ (if 4 ≤ ty then 64 else 32)) ∧
  (∀ v : Env, collReduce v [] = (0, 0)) ∧
  (∀ (v : Env) ms, (collBallot v ms).1 = laneMask (ms.filter fun m => m.2 != 0)) ∧
  (∀ (ms : List (Nat × Nat)) j, (ms.map (·.1)).Nodup → (bit (laneMask ms) j = true ↔ ∃ x, (j, x) ∈ ms))

/-- A draw computes the Mill block of the executing lane's key, draw counter, team and lane at the stream that A names
and advances the draw counter by one; stream 0xFFFF raises fault 0x06. SAMPLE finds the first table entry above the
drawn threshold, or answers 0xFFFFFFFF with invalid. SPLITKEY derives a key and draws nothing. -/
def Obligations.Draws : Prop :=
  CompletesBoth .draw .drawW2 (fun v _ => v.a % 2 ^ 16 ≠ 0xFFFF) (fun v s =>
    ((s.millDraw v.who (v.a % 2 ^ 16)).2,
      .ok (fourWords id (s.millDraw v.who (v.a % 2 ^ 16)).1) (fourWords id (s.millDraw v.who (v.a % 2 ^ 16)).1) 0 0)) ∧
  CompletesBoth .drawf .drawfW2 (fun v _ => v.a % 2 ^ 16 ≠ 0xFFFF) (fun v s =>
    ((s.millDraw v.who (v.a % 2 ^ 16)).2,
      .ok (fourWords u01 (s.millDraw v.who (v.a % 2 ^ 16)).1) (fourWords u01 (s.millDraw v.who (v.a % 2 ^ 16)).1) 0 0)) ∧
  CompletesBoth .drawn .drawnW2 (fun v _ => v.a % 2 ^ 16 ≠ 0xFFFF) (fun v s =>
    let x := (s.millDraw v.who (v.a % 2 ^ 16)).1
    ((s.millDraw v.who (v.a % 2 ^ 16)).2, .ok (drawNormal (blockWord x 0) (blockWord x 1)) (drawNormal (blockWord x 0) (blockWord x 1)) 0 0)) ∧
  (∀ (s : State) a stream, s.millDraw a stream =
    (millBlock (s.millKey a).1 (s.laneOf a).draw.toNat (s.millKey a).2.1 stream (s.millKey a).2.2,
     s.modLaneOf a fun l => { l with draw := l.draw + 1 })) ∧
  (∀ (s : State) t lit, s.millKey (.lane t lit) = ((s.launchOf t).record.key.toNat, (s.team t).index % 2 ^ 32, lit)) ∧
  CompletesBoth .sample .sampleW2 (fun v s => v.a % 4 = 0 ∧ v.a + 4 * (v.b / 2 ^ 16 + 1) ≤ (s.launchOf v.t).desc.scratch ∧
      v.b % 2 ^ 16 ≠ 0xFFFF ∧ s.poisoned (.scratch v.t) v.a (4 * (v.b / 2 ^ 16 + 1)) = false) (fun v s =>
    let d := s.millDraw v.who (v.b % 2 ^ 16)
    let table := (List.range (v.b / 2 ^ 16 + 1)).map fun j => ofLe (d.2.read (.scratch v.t) (v.a + 4 * j) 4)
    (d.2, match sampleIndex table (blockWord d.1 0) with
      | some j => .ok j j 0 0
      | none => .ok allOnes allOnes FlagSet.invalid FlagSet.invalid)) ∧
  CompletesBoth .splitkey .splitkeyW2 (fun _ _ => True) (fun v s =>
    (s, .ok (deriveKey (s.millKey v.who).1 v.a (s.millKey v.who).2.1 (s.millKey v.who).2.2)
      (deriveKey (s.millKey v.who).1 v.a' (s.millKey v.who).2.1 (s.millKey v.who).2.2) 0 0)) ∧
  (∀ f, Faults (.draw f) (fun v _ => v.a % 2 ^ 16 = 0xFFFF) fun _ _ => .illegal) ∧
  (∀ f, Faults (.sample f) (fun v _ => v.a % 4 ≠ 0) fun v _ => { code := 0x07, addr := v.a })

/-- An LD whose address is aligned, translated and local completes with the bytes found there, extended as SIZE says,
after the acquire that SEM names; a strong or uncached load reads the home bank, a weak one the line that the core's
L1 holds, and a miss reads memory. An address of a peer sends a request and stalls; a misaligned one raises fault
0x07, poison fault 0x0B. -/
def Obligations.GlobalLoad : Prop :=
  (∀ p sp x s1 s2 s3 bs, CompletesBoth .ld .ldW2 (fun v s => s.awaitedReq v.who = none ∧
      s.globalPlace v.who (globalAddr v.a v.b) (accessBytes v.f.m) .read 0 = (.ok p, s1) ∧ p.isLocal ∧ p.at? = some (sp, x) ∧
      (if plainLoad v.f.m then s1.raceCheck v.who p (globalAddr v.a v.b) false else .ok s1) = .ok s2 ∧
      s2.loadAt v.who sp x (accessBytes v.f.m) (readingOf v.f.m) = (some bs, s3) ∧
      (if semAcquires v.f.m then s3.acquire v.who (scopeOf v.f.m) else s3).stagedPoison v.who p.target.key (accessBytes v.f.m) = false)
    fun v _ =>
      let s4 := if semAcquires v.f.m then s3.acquire v.who (scopeOf v.f.m) else s3
      (s4, .value (loadValue v.f.m (s4.ownView v.who p.target.key bs)))) ∧
  (∀ (s : State) who sp a n, s.poisoned sp a n = false →
    s.loadAt who sp a n .home = (some (s.read sp a n), s.holdHost (s.worldOf who) sp a n false)) ∧
  (∀ (s : State) w sp a n d, sp ≠ .host → s.holdHost w sp a n d = s) ∧
  (∀ (s : State) who c sp a n l, s.coreOf who = some c → s.l1Find c sp (a / 128) = some l →
    s.loadAt who sp a n .weak = (some ((l.bytes.drop (a % 128)).take n), s)) ∧
  (∀ (s : State) who c sp a n, s.coreOf who = some c → s.l1Find c sp (a / 128) = none → s.poisoned sp a n = false →
    (s.loadAt who sp a n .weak).1 = some (s.read sp a n)) ∧
  (∀ accel wpa x s1, (∀ f, Stalls (.ld f) (fun v s => s.awaitedReq v.who = none ∧
      s.globalPlace v.who (globalAddr v.a v.b) (accessBytes v.f.m) .read 0 = (.ok ⟨.peer accel wpa, x⟩, s1))
    fun v _ => s1.askPeer v.who accel (s1.peerUnit v.who wpa (accessBytes v.f.m)).1 false 32
      (zeros (s1.peerUnit v.who wpa (accessBytes v.f.m)).2) none true)) ∧
  FaultsBoth .ld .ldW2 (fun v s => s.awaitedReq v.who = none ∧ globalAddr v.a v.b % accessBytes v.f.m ≠ 0)
    (fun v _ => { code := 0x07, addr := globalAddr v.a v.b % 2 ^ 52 }) ∧
  (∀ p sp x s1 s2 s3, FaultsBoth .ld .ldW2 (fun v s => s.awaitedReq v.who = none ∧
      s.globalPlace v.who (globalAddr v.a v.b) (accessBytes v.f.m) .read 0 = (.ok p, s1) ∧ p.isLocal ∧ p.at? = some (sp, x) ∧
      (if plainLoad v.f.m then s1.raceCheck v.who p (globalAddr v.a v.b) false else .ok s1) = .ok s2 ∧
      s2.loadAt v.who sp x (accessBytes v.f.m) (readingOf v.f.m) = (none, s3))
    fun v _ => { code := 0x0B, addr := globalAddr v.a v.b % 2 ^ 52 }) ∧
  (∀ p sp x s1 s2 s3 bs, FaultsBoth .ld .ldW2 (fun v s => s.awaitedReq v.who = none ∧
      s.globalPlace v.who (globalAddr v.a v.b) (accessBytes v.f.m) .read 0 = (.ok p, s1) ∧ p.isLocal ∧ p.at? = some (sp, x) ∧
      (if plainLoad v.f.m then s1.raceCheck v.who p (globalAddr v.a v.b) false else .ok s1) = .ok s2 ∧
      s2.loadAt v.who sp x (accessBytes v.f.m) (readingOf v.f.m) = (some bs, s3) ∧
      (if semAcquires v.f.m then s3.acquire v.who (scopeOf v.f.m) else s3).stagedPoison v.who p.target.key (accessBytes v.f.m) = true)
    fun v _ => { code := 0x0B, addr := globalAddr v.a v.b % 2 ^ 52 }) ∧
  (∀ a off : Nat, ((globalAddr a off : Nat) : Int) = (a + sext 32 off) % 2 ^ 64) ∧
  (∀ m bs, (mbits m 2 0 = 2 ∨ mbits m 2 0 = 4) ∨ loadValue m bs = ofLe bs) ∧
  (∀ m bs, mbits m 2 0 = 2 → loadValue m bs = wrapInt 32 (sext 8 (ofLe bs))) ∧
  (∀ m bs, mbits m 2 0 = 4 → loadValue m bs = wrapInt 32 (sext 16 (ofLe bs)))

/-- An ST whose address is aligned, translated, local and not staged writes the SIZE low bytes of B there after the
release that SEM names; every byte outside them reads as before, and those bytes read back as written. In a staging
launch the store is kept and memory is unchanged; an address of a peer sends a request; a misaligned address raises
fault 0x07 and a disagreeing pair fault 0x0A. -/
def Obligations.GlobalStore : Prop :=
  (∀ p sp x s1 s2, CompletesBoth .st .stW2 (fun v s => releaseReady v s (semReleases v.f.m) (scopeOf v.f.m) ∧ v.mismatch = false ∧
      s.globalPlace v.who (globalAddr v.a v.c) (accessBytes v.f.m) .write 2 = (.ok p, s1) ∧ p.isLocal ∧ p.at? = some (sp, x) ∧
      (if plainStore v.f.m then s1.raceCheck v.who p (globalAddr v.a v.c) true else .ok s1) = .ok s2 ∧
      (if semReleases v.f.m then s2.release v.who (scopeOf v.f.m) else s2).stages v.who = false)
    fun v _ =>
      let s3 := if semReleases v.f.m then s2.release v.who (scopeOf v.f.m) else s2
      (s3.storeAt v.who sp x (storeBytes v.f.m v.b), .done)) ∧
  (∀ p s1 s2 s4, CompletesBoth .st .stW2 (fun v s => releaseReady v s (semReleases v.f.m) (scopeOf v.f.m) ∧ v.mismatch = false ∧
      s.globalPlace v.who (globalAddr v.a v.c) (accessBytes v.f.m) .write 2 = (.ok p, s1) ∧
      (if plainStore v.f.m then s1.raceCheck v.who p (globalAddr v.a v.c) true else .ok s1) = .ok s2 ∧
      (let s3 := if semReleases v.f.m then s2.release v.who (scopeOf v.f.m) else s2
       s3.stages v.who = true ∧ s3.stage v.t (State.storeCharge (accessBytes v.f.m))
         { op := .write (storeBytes v.f.m v.b), target := p.target, va := globalAddr v.a v.c % 2 ^ 52 } = .ok s4))
    fun _ _ => (s4, .done)) ∧
  (∀ (s s' : State) t n e sp k, s.stage t n e = .ok s' → s'.byte sp k = s.byte sp k) ∧
  (∀ accel wpa x s1 s2, (∀ f, Completes (.stW2 f) (fun v s => releaseReady v s (semReleases v.f.m) (scopeOf v.f.m) ∧ v.mismatch = false ∧
      s.globalPlace v.who (globalAddr v.a v.c) (accessBytes v.f.m) .write 2 = (.ok ⟨.peer accel wpa, x⟩, s1) ∧
      (if plainStore v.f.m then s1.raceCheck v.who ⟨.peer accel wpa, x⟩ (globalAddr v.a v.c) true else .ok s1) = .ok s2 ∧
      (if semReleases v.f.m then s2.release v.who (scopeOf v.f.m) else s2).stages v.who = false)
    fun v _ =>
      let s3 := if semReleases v.f.m then s2.release v.who (scopeOf v.f.m) else s2
      (s3.askPeer v.who accel wpa true 32 (storeBytes v.f.m v.b) none false, .done))) ∧
  (∀ n, State.storeCharge n = 16 + 16 * ((n + 15) / 16)) ∧
  (∀ (s : State) who sp a bs sq k, sq ≠ sp ∨ k < a ∨ a + bs.length ≤ k → (s.storeAt who sp a bs).byte sq k = s.byte sq k) ∧
  (∀ (s : State) who sp a (bs : List Byte) k, (h : k < bs.length) → (s.storeAt who sp a bs).byte sp (a + k) = bs[k]) ∧
  (∀ m v, (storeBytes m v).length = accessBytes m ∧ ofLe (storeBytes m v) = v % 256 ^ accessBytes m) ∧
  FaultsBoth .st .stW2 (fun v s => releaseReady v s (semReleases v.f.m) (scopeOf v.f.m) ∧ v.mismatch = false ∧
      globalAddr v.a v.c % accessBytes v.f.m ≠ 0)
    (fun v _ => { code := 0x07, flags := 2, addr := globalAddr v.a v.c % 2 ^ 52 }) ∧
  FaultsBoth .st .stW2 (fun v s => releaseReady v s (semReleases v.f.m) (scopeOf v.f.m) ∧ v.mismatch = true)
    (fun v _ => { code := 0x0A, addr := globalAddr v.a v.c, tier := true })

/-- With the address o = A + offset aligned, in bounds and free of poison and watchpoints, LDS reads byte o of the
team's scratchpad, LDC the scratchpad of the cluster rank that o[26:23] names, LDA the accumulator store and LDL the
lane's private memory; each delivers SIZE bytes extended as SIZE says and completes. A sum outside 32 bits or bounds
raises fault 0x02, a misaligned one fault 0x07. -/
def Obligations.TierLoads : Prop :=
  (∀ o : Nat, CompletesBoth .lds .ldsW2 (fun v s => (v.a : Int) + sext 32 v.b = o ∧ o < 2 ^ 32 ∧ o % accessBytes v.f.m = 0 ∧
      o + accessBytes v.f.m ≤ (s.launchOf v.t).desc.scratch ∧ s.watchData v.t v.lit o (accessBytes v.f.m) false = none ∧
      s.poisoned (.scratch v.t) o (accessBytes v.f.m) = false)
    fun v s => (if semAcquires v.f.m then s.acquire v.who (scopeOf v.f.m) else s,
      .value (loadValue v.f.m (s.read (.scratch v.t) o (accessBytes v.f.m))))) ∧
  (∀ o u : Nat, CompletesBoth .ldc .ldcW2 (fun v s => (v.a : Int) + sext 32 v.b = o ∧ o < 2 ^ 27 ∧ o % accessBytes v.f.m = 0 ∧
      o / 2 ^ 23 < (s.launchOf v.t).clusterSize ∧ o % 2 ^ 23 + accessBytes v.f.m ≤ (s.launchOf v.t).desc.scratch ∧
      s.clusterTeam v.t (o / 2 ^ 23) = some u ∧ s.watchData v.t v.lit (o % 2 ^ 23) (accessBytes v.f.m) false = none ∧
      s.poisoned (.scratch u) (o % 2 ^ 23) (accessBytes v.f.m) = false)
    fun v s => (if semAcquires v.f.m then s.acquire v.who (scopeOf v.f.m) else s,
      .value (loadValue v.f.m (s.read (.scratch u) (o % 2 ^ 23) (accessBytes v.f.m))))) ∧
  (∀ o : Nat, CompletesBoth .lda .ldaW2 (fun v s => (v.a : Int) + sext 32 v.b = o ∧ o < 2 ^ 32 ∧ o % accessBytes v.f.m = 0 ∧
      o + accessBytes v.f.m ≤ (s.launchOf v.t).desc.accum * 65536 ∧ s.poisoned (.acc v.t) o (accessBytes v.f.m) = false)
    fun v s => (s, .value (loadValue v.f.m (s.read (.acc v.t) o (accessBytes v.f.m))))) ∧
  (∀ (o x : Nat) sp s1 s2 bs, CompletesBoth .ldl .ldlW2 (fun v s => (v.a : Int) + sext 32 v.b = o ∧ o < 2 ^ 32 ∧
      s.privatePlace v.who o (accessBytes v.f.m) .read 0 = (.ok (sp, x), s1) ∧
      s1.loadAt v.who sp x (accessBytes v.f.m) .weak = (some bs, s2))
    fun v _ => (s2, .value (loadValue v.f.m bs))) ∧
  (∀ (s : State) w o n need flags, o % n = 0 → o + n ≤ (s.prog w).privSize →
    s.privatePlace (.prog w) o n need flags = (.ok (.priv w, o), s)) ∧
  (∀ (s : State) t lit, s.privVa t lit 0 = s.slotVa t + (s.launchOf t).desc.priv * lit ∧
    ∀ o, s.privVa t lit o = s.privVa t lit 0 + o) ∧
  (∀ i j, (i = Instr.lds ∧ j = Instr.ldsW2) ∨ (i = .ldl ∧ j = .ldlW2) ∨ (i = .lda ∧ j = .ldaW2) ∨ (i = .ldc ∧ j = .ldcW2) →
    FaultsBoth i j (fun v _ => (v.a : Int) + sext 32 v.b < 0) fun v _ =>
      { code := 0x02, addr := wrapInt 32 (v.a + sext 32 v.b), info := 3 }) ∧
  (∀ o : Nat, FaultsBoth .lds .ldsW2 (fun v _ => (v.a : Int) + sext 32 v.b = o ∧ o < 2 ^ 32 ∧ o % accessBytes v.f.m ≠ 0)
    fun _ _ => { code := 0x07, addr := o }) ∧
  (∀ o : Nat, FaultsBoth .lds .ldsW2 (fun v s => (v.a : Int) + sext 32 v.b = o ∧ o < 2 ^ 32 ∧ o % accessBytes v.f.m = 0 ∧
      (s.launchOf v.t).desc.scratch < o + accessBytes v.f.m) fun _ _ => { code := 0x02, addr := o, info := 3 })

/-- With the address o = A + offset aligned and in bounds, no watchpoint and agreeing pairs, STS writes the SIZE low
bytes of B at byte o of the team's scratchpad, STC in the scratchpad of the rank that o[26:23] names, STL in the
lane's private memory, after the release that SEM names. A write changes the bytes it names and no other byte of any
store; an undo log records old bytes and changes none. -/
def Obligations.TierStores : Prop :=
  (∀ o : Nat, CompletesBoth .sts .stsW2 (fun v s => releaseReady v s (semReleases v.f.m) (scopeOf v.f.m) ∧ v.mismatch = false ∧
      (v.a : Int) + sext 32 v.c = o ∧ o < 2 ^ 32 ∧ o % accessBytes v.f.m = 0 ∧
      o + accessBytes v.f.m ≤ (s.launchOf v.t).desc.scratch ∧ s.watchData v.t v.lit o (accessBytes v.f.m) true = none)
    fun v s => ((if semReleases v.f.m then s.release v.who (scopeOf v.f.m) else s).write (.scratch v.t) o (storeBytes v.f.m v.b), .done)) ∧
  (∀ o u : Nat, CompletesBoth .stc .stcW2 (fun v s => releaseReady v s (semReleases v.f.m) (scopeOf v.f.m) ∧ v.mismatch = false ∧
      (v.a : Int) + sext 32 v.c = o ∧ o < 2 ^ 27 ∧ o % accessBytes v.f.m = 0 ∧
      o / 2 ^ 23 < (s.launchOf v.t).clusterSize ∧ o % 2 ^ 23 + accessBytes v.f.m ≤ (s.launchOf v.t).desc.scratch ∧
      s.clusterTeam v.t (o / 2 ^ 23) = some u ∧ s.watchData v.t v.lit (o % 2 ^ 23) (accessBytes v.f.m) true = none)
    fun v s => ((if semReleases v.f.m then s.release v.who (scopeOf v.f.m) else s).write (.scratch u) (o % 2 ^ 23) (storeBytes v.f.m v.b), .done)) ∧
  (∀ (o x : Nat) sp s1, CompletesBoth .stl .stlW2 (fun v s => v.mismatch = false ∧ (v.a : Int) + sext 32 v.c = o ∧ o < 2 ^ 32 ∧
      s.privatePlace v.who o (accessBytes v.f.m) .write 2 = (.ok (sp, x), s1))
    fun v _ => ((s1.beforePrivate v.who sp x (accessBytes v.f.m)).storeAt v.who sp x (storeBytes v.f.m v.b), .done)) ∧
  (∀ (s : State) who sp x n sq k, (s.beforePrivate who sp x n).byte sq k = s.byte sq k) ∧
  (∀ (s : State) sp a bs sq k, sq ≠ sp ∨ k < a ∨ a + bs.length ≤ k → (s.write sp a bs).byte sq k = s.byte sq k) ∧
  (∀ (s : State) sp a (bs : List Byte) k, (h : k < bs.length) → (s.write sp a bs).byte sp (a + k) = bs[k]) ∧
  (∀ (s : State) sp a bs, s.MemoryWf → (s.write sp a bs).MemoryWf) ∧
  FaultsBoth .sts .stsW2 (fun v s => releaseReady v s (semReleases v.f.m) (scopeOf v.f.m) ∧ v.mismatch = true)
    (fun v _ => { code := 0x0A, addr := v.a, tier := true }) ∧
  (∀ o : Nat, FaultsBoth .sts .stsW2 (fun v s => releaseReady v s (semReleases v.f.m) (scopeOf v.f.m) ∧ v.mismatch = false ∧
      (v.a : Int) + sext 32 v.c = o ∧ o < 2 ^ 32 ∧ o % accessBytes v.f.m ≠ 0) fun _ _ => { code := 0x07, flags := 2, addr := o }) ∧
  (∀ o : Nat, FaultsBoth .sts .stsW2 (fun v s => releaseReady v s (semReleases v.f.m) (scopeOf v.f.m) ∧ v.mismatch = false ∧
      (v.a : Int) + sext 32 v.c = o ∧ o < 2 ^ 32 ∧ o % accessBytes v.f.m = 0 ∧
      (s.launchOf v.t).desc.scratch < o + accessBytes v.f.m) fun _ _ => { code := 0x02, flags := 2, addr := o, info := 3 })

/-- An aligned, unstaged atomic at a local, clean address stores the new value of R319 (or R329, R333) computed from
the old value and the operands, between the release and the acquire that SEM names, and D takes the old value; in a
staging launch with D = z it is kept instead and memory stays. Each completes. A stored value stands at the address
that the translation gives, and nowhere else. -/
def Obligations.Atomics : Prop :=
  (∀ p sp x s1, ∀ (i : F2 → Instr) (j : Env → Nat),
    (i = .atomW2 ∧ j = (fun v => mbits v.f.m 3 0)) ∨ (i = .cas ∧ j = (fun v => 16 + mbits v.f.m 0 0)) ∨
      (i = (fun f => .atom ⟨f.d, f.a, f.b⟩) ∧ j = (fun v => mbits v.f.m 3 0)) →
    ∀ f, Completes (i f) (fun v s => releaseReady v s (semReleases v.f.m) (scopeOf v.f.m) ∧ v.mismatch = false ∧
        s.awaitedReq v.who = none ∧ s.globalPlace v.who v.a (atomBytes (j v)) .both 10 = (.ok p, s1) ∧ p.isLocal ∧
        p.at? = some (sp, x) ∧ ¬(isTagged v = true ∧ 2 ^ 15 ≤ v.c) ∧ s1.stages v.who = false ∧
        s1.poisoned sp x (atomBytes (j v)) = false)
      fun v _ =>
        let n := atomBytes (j v)
        let s2 := if semReleases v.f.m then s1.release v.who (scopeOf v.f.m) else s1
        let old := ofLe (s2.read sp x n)
        let s3 := (s2.storeAt v.who sp x (leBytes n (atomNew (j v) old v.b v.c))).meter v.w 12 1
        (if semAcquires v.f.m then s3.acquire v.who (scopeOf v.f.m) else s3, atomResult v n old 0)) ∧
  (∀ p s1 s2, ∀ f, Completes (.atomW2 f) (fun v s => releaseReady v s (semReleases v.f.m) (scopeOf v.f.m) ∧ v.mismatch = false ∧
        s.globalPlace v.who v.a (atomBytes (mbits v.f.m 3 0)) .both 10 = (.ok p, s1) ∧ v.f.d = .z ∧ isTagged v = false ∧
        s.stages v.who ∧ s1.stages v.who ∧
        (if semReleases v.f.m then s1.release v.who (scopeOf v.f.m) else s1).stage v.t 32
          { op := .atom (mbits v.f.m 3 0) v.b v.c, target := p.target, va := v.a % 2 ^ 52 } = .ok s2)
      fun v _ => (if semAcquires v.f.m then s2.acquire v.who (scopeOf v.f.m) else s2, .done)) ∧
  CompletesBoth .atoms .atomsW2 (fun v s => releaseReady v s (semReleases v.f.m) (scopeOf v.f.m) ∧ v.mismatch = false ∧
      v.a % atomBytes (mbits v.f.m 3 0) = 0 ∧ v.a + atomBytes (mbits v.f.m 3 0) ≤ (s.launchOf v.t).desc.scratch ∧
      s.watchData v.t v.lit v.a (atomBytes (mbits v.f.m 3 0)) true = none ∧
      s.poisoned (.scratch v.t) v.a (atomBytes (mbits v.f.m 3 0)) = false)
    (fun v s =>
      let n := atomBytes (mbits v.f.m 3 0)
      let s2 := if semReleases v.f.m then s.release v.who (scopeOf v.f.m) else s
      let old := ofLe (s2.read (.scratch v.t) v.a n)
      let s3 := s2.write (.scratch v.t) v.a (leBytes n (atomNew (mbits v.f.m 3 0) old v.b 0))
      (if semAcquires v.f.m then s3.acquire v.who (scopeOf v.f.m) else s3, .value old)) ∧
  (∀ f, Completes (.bankop f) (fun v s => v.mismatch = false ∧ v.a % 16 = 0 ∧ v.a + 16 ≤ s.windowSize v.w ∧
      s.stages v.who = false ∧ s.poisoned (.window v.w) v.a 16 = false)
    fun v s =>
      let old := ofLe (s.ownView v.who (windowKey v.a) (s.read (.window v.w) v.a 16))
      ((if mbits v.f.m 7 5 = 0 then s
        else s.write (.window v.w) v.a (leBytes 16 (bankNew (mbits v.f.m 7 5) (mbits v.f.m 4 3) old v.b v.c))).meter v.w 12 1, .value old)) ∧
  (∀ old b c, atomNew 0 old b c = (old + b) % 2 ^ 32 ∧ atomNew 2 old b c = min old b ∧ atomNew 4 old b c = max old b ∧
    atomNew 5 old b c = old &&& b ∧ atomNew 6 old b c = old ||| b ∧ atomNew 7 old b c = old ^^^ b ∧ atomNew 8 old b c = b ∧
    atomNew 14 old b c = (old + b) % 2 ^ 64 ∧ atomNew 15 old b c = b ∧
    atomNew 16 old b c = (if old = b then c else old) ∧ atomNew 17 old b c = (if old = b then c else old)) ∧
  (∀ n v, ofLe (leBytes n v) = v % 256 ^ n) ∧
  (∀ f, Faults (.atomW2 f) (fun v s => releaseReady v s (semReleases v.f.m) (scopeOf v.f.m) ∧ v.mismatch = false ∧
      s.awaitedReq v.who = none ∧ v.a % atomBytes (mbits v.f.m 3 0) ≠ 0) fun v _ => { code := 0x07, flags := 10, addr := v.a % 2 ^ 52 }) ∧
  (∀ f, Faults (.bankop f) (fun v _ => v.mismatch = false ∧ v.a % 16 ≠ 0) fun v _ =>
    { code := 0x07, flags := if mbits v.f.m 7 5 = 0 then 0 else 2, addr := v.a })

/-- In an ordered launch REDSLOT adds the lane's value to the slot of its address and operation, or opens one for its
virtual address and charges the account 64 bytes; memory stays. FENCE releases and acquires as KIND says at its scope;
an acquire from cluster scope on empties the core's L1; TFENCE only orders. PREFETCH completes whatever its operands
and state: it drops what would fault or lies at a peer, and else leaves the translation it read, and with its hint bit
the line in the core's L1. MONITOR arms the 128-byte line of its address. -/
def Obligations.SlotsFencesMonitors : Prop :=
  (∀ f e a y s1, Completes (.redslot f) (fun v s => v.mismatch = false ∧ (∃ lit, v.who = .lane v.t lit) ∧
      s.globalPlace v.who v.a (slotBytes (mbits v.f.m 2 0)) .write 2 = (.ok ⟨.device a, y⟩, s1) ∧ (s1.launchOf v.t).ordered ∧
      (s1.team v.t).slots.find? (fun e => e.va == v.a % 2 ^ 52) = some e ∧ e.op = mbits v.f.m 2 0)
    fun v _ => (s1.modTeam v.t fun x => { x with slots := x.slots.map fun q => if q = e then { q with xs := q.xs ++ [v.b] } else q }, .done)) ∧
  (∀ f a y s1 s2, Completes (.redslot f) (fun v s => v.mismatch = false ∧ (∃ lit, v.who = .lane v.t lit) ∧
      s.globalPlace v.who v.a (slotBytes (mbits v.f.m 2 0)) .write 2 = (.ok ⟨.device a, y⟩, s1) ∧ (s1.launchOf v.t).ordered ∧
      (s1.team v.t).slots.find? (fun e => e.va == v.a % 2 ^ 52) = none ∧ s1.charge v.t 64 = some s2)
    fun v _ => (s2.modTeam v.t fun x => { x with slots := x.slots ++ [⟨v.a % 2 ^ 52, .device a, mbits v.f.m 2 0, [v.b]⟩] }, .done)) ∧
  CompletesBoth .fence .fenceW2 (fun v s => releaseReady v s (mbits v.f.m 7 6 != 1) (scopeOf v.f.m)) (fun v s =>
    let s1 := if mbits v.f.m 7 6 ≠ 1 then s.release v.who (scopeOf v.f.m) else s
    (if mbits v.f.m 7 6 ≠ 2 then s1.acquire v.who (scopeOf v.f.m) else s1, .done)) ∧
  (∀ (s : State) t lit scope, scope ≠ 0 → ∀ l ∈ (s.acquire (.lane t lit) scope).l1, l.core ≠ (s.team t).core) ∧
  (∀ (s : State) a, s.acquire a 0 = s) ∧
  CompletesBoth .tfence .tfenceW2 (fun _ _ => True) (fun _ s => (s, .done)) ∧
  CompletesBoth .prefetch .prefetchW2 (fun _ _ => True) (fun v s => ((lanePrefetch v s).1, .done)) ∧
  (∀ p q s1, CompletesBoth .prefetch .prefetchW2 (fun v s =>
      s.translate v.w (s.quadOf v.who) (globalAddr v.a v.b) .read false = (.ok (p, q), s1) ∧ p.at?.isSome = true ∧
      (v.f.m.getLsbD 0 = false ∨ s.coreOf v.who = none ∨
        ∃ c sp x, s.coreOf v.who = some c ∧ p.at? = some (sp, x) ∧ ((s1.l1Find c sp (x / 128)).isSome = true ∨ s1.poisoned sp (x / 128 * 128) 128 = true)))
    (fun _ _ => (s1, .done))) ∧
  (∀ p q s1, CompletesBoth .prefetch .prefetchW2 (fun v s =>
      s.translate v.w (s.quadOf v.who) (globalAddr v.a v.b) .read false = (.ok (p, q), s1) ∧ p.at? = none) (fun _ s => (s, .done))) ∧
  (∀ e, CompletesBoth .prefetch .prefetchW2 (fun v s =>
      (s.translate v.w (s.quadOf v.who) (globalAddr v.a v.b) .read false).1 = .error e) (fun _ s => (s, .done))) ∧
  (∀ p q c sp x s1, CompletesBoth .prefetch .prefetchW2 (fun v s => v.f.m.getLsbD 0 = true ∧
      s.translate v.w (s.quadOf v.who) (globalAddr v.a v.b) .read false = (.ok (p, q), s1) ∧ p.at? = some (sp, x) ∧
      s.coreOf v.who = some c ∧ s1.l1Find c sp (x / 128) = none ∧ s1.poisoned sp (x / 128 * 128) 128 = false)
    fun _ _ => ((s1.l1Read c sp x 1 true).2, .done)) ∧
  (∀ (s : State) c x, s.l1Find c .hbm (x / 128) = none → (s.l1Read c .hbm x 1 true).2 =
    { s with l1 := State.addLine s.l1 State.l1Lines ⟨c, .hbm, x / 128, s.read .hbm (x / 128 * 128) 128⟩ }) ∧
  (∀ (ls : List L1Line) k l, (ls.filter (·.core == l.core)).length < k → State.addLine ls k l = ls ++ [l]) ∧
  (∀ p sp x s1, CompletesBoth .monitor .monitorW2 (fun v s => v.f.m.getLsbD 0 = false ∧
      s.globalPlace v.who (globalAddr v.a v.b) 1 .read 0 = (.ok p, s1) ∧ p.at? = some (sp, x))
    fun v _ => (s1.modLaneOf v.who fun l => { l with armed := some ⟨sp, x / 128, false⟩ }, .done)) ∧
  (∀ (o t lit : Nat), CompletesBoth .monitor .monitorW2 (fun v s => v.f.m.getLsbD 0 = true ∧ v.who = .lane t lit ∧
      (v.a : Int) + sext 32 v.b = o ∧ o < (s.launchOf t).desc.scratch ∧ o < 2 ^ 32)
    fun v s => (s.modLaneOf v.who fun l => { l with armed := some ⟨.scratch t, o / 128, false⟩ }, .done))

/-- A conditional branch goes to header plus byte offset when its comparison of A and B holds, and else to the next
clause header; BRA always goes, BRX to A[51:0]. CALL and CALLX store the next header's address below SPTR and lower it
by 8; RET loads it and raises SPTR. Each completes; a misaligned register target raises fault 0x07, a pair that
disagrees fault 0x0A. -/
def Obligations.Branches : Prop :=
  (∀ (i : Opd → Opd → BitVec 32 → Instr) (c : Nat → Nat → Bool),
    (i = .beq ∧ c = fun x y => x == y) ∨ (i = .bne ∧ c = fun x y => x != y) ∨ (i = .blt ∧ c = fun x y => decide (sext 32 x < sext 32 y)) ∨
    (i = .bge ∧ c = fun x y => decide (sext 32 y ≤ sext 32 x)) ∨ (i = .bltn ∧ c = fun x y => decide (x < y)) ∨
    (i = .bgen ∧ c = fun x y => decide (y ≤ x)) →
    (∀ a b off, Completes (i a b off) (fun v _ => v.prot = true → c v.a v.b = c v.a' v.b')
      fun v s => (s, .jump (if c v.a v.b then codeAt v.hdr off.toInt else v.next))) ∧
    ∀ a b off, Faults (i a b off) (fun v _ => v.prot = true ∧ c v.a v.b ≠ c v.a' v.b' ∧ codeAt v.hdr off.toInt ≠ v.next)
      fun v _ => { code := 0x0A, addr := v.pc }) ∧
  (∀ off, Completes (.bra off) (fun _ _ => True) fun v s => (s, .jump (codeAt v.hdr (4 * off.toInt)))) ∧
  (∀ off, Completes (.braW2 off) (fun _ _ => True) fun v s => (s, .jump (codeAt v.hdr off.toInt))) ∧
  (∀ f, Completes (.brx f) (fun v _ => (v.prot = true → v.a % 2 ^ 52 = v.a' % 2 ^ 52) ∧ v.a % 4 = 0) fun v s => (s, .jump (v.a % 2 ^ 52))) ∧
  (∀ f, Faults (.brx f) (fun v _ => (v.prot = true → v.a % 2 ^ 52 = v.a' % 2 ^ 52) ∧ v.a % 4 ≠ 0)
    fun v _ => { code := 0x07, addr := v.a % 2 ^ 52 }) ∧
  (∀ (hdr : Nat) (d : Int), ((codeAt hdr d : Nat) : Int) = (hdr + d) % 2 ^ 52) ∧
  (∀ s1 (i : Instr) (pc : Env → Nat),
    (∃ off, i = .call off ∧ pc = fun v => codeAt v.hdr (4 * off.toInt)) ∨ (∃ off, i = .callW2 off ∧ pc = fun v => codeAt v.hdr off.toInt) →
    Completes i (fun v s => 8 ≤ (s.laneOf v.who).sptr.toNat ∧
        s.storePrivate v.who ((s.laneOf v.who).sptr.toNat - 8) (leBytes 8 v.next) = .ok s1)
      fun v s => (s1.modLaneOf v.who fun l => { l with sptr := BitVec.ofNat 32 ((s.laneOf v.who).sptr.toNat - 8) }, .jump (pc v))) ∧
  (∀ s1 f, Completes (.callx f) (fun v s => (v.prot = true → v.a % 2 ^ 52 = v.a' % 2 ^ 52) ∧ v.a % 4 = 0 ∧
        8 ≤ (s.laneOf v.who).sptr.toNat ∧ s.storePrivate v.who ((s.laneOf v.who).sptr.toNat - 8) (leBytes 8 v.next) = .ok s1)
      fun v s => (s1.modLaneOf v.who fun l => { l with sptr := BitVec.ofNat 32 ((s.laneOf v.who).sptr.toNat - 8) }, .jump (v.a % 2 ^ 52))) ∧
  (∀ s1 bs f, Completes (.ret f) (fun v s => s.loadPrivate v.who (s.laneOf v.who).sptr.toNat 8 = (.ok bs, s1) ∧ ofLe bs % 4 = 0)
      fun v s => (s1.modLaneOf v.who fun l => { l with sptr := BitVec.ofNat 32 ((s.laneOf v.who).sptr.toNat + 8) }, .jump (ofLe bs % 2 ^ 52)))

/-- EXIT ends the lane (a control program stops) when no token is pending or faulted, stalls in TOKEN while one is
pending and raises fault 0x06 for a faulted one. YIELD marks the gang. TRAPFENCE delivers the sticky flags unless one
that FLAG_EN enables is set, which raises fault 0x0D. TRAP raises fault 0x0C with A and CODE, BRK fault 0x0E with its
code, in a lane, a control program or a sequencer: taking the fault is their effect. -/
def Obligations.ExitsAndTraps : Prop :=
  (∀ f t lit, Completes (.exit f) (fun v s => anyToken (s.laneOf v.who) .pending = false ∧ anyToken (s.laneOf v.who) .faulted = false ∧
      v.who = .lane t lit) fun _ s => (s.exitLane t lit, .done)) ∧
  (∀ f w, Completes (.exit f) (fun v s => anyToken (s.laneOf v.who) .pending = false ∧ anyToken (s.laneOf v.who) .faulted = false ∧
      v.who = .prog w) fun _ s => (s.modProg w fun p => { p with st := .stopped, clause := none }, .done)) ∧
  (∀ (s : State) t lit, lit < (s.team t).lanes.length → ((s.leaveGang t lit).modLane t lit fun l =>
      { l with st := .exited, armed := none, rep := none, inClause := false }).lane t lit =
      { s.lane t lit with st := .exited, armed := none, rep := none, inClause := false }) ∧
  (∀ f, Stalls (.exit f) (fun v s => anyToken (s.laneOf v.who) .pending = true) fun v s => s.modLaneOf v.who fun l => { l with st := .token }) ∧
  (∀ f, Faults (.exit f) (fun v s => anyToken (s.laneOf v.who) .pending = false ∧ anyToken (s.laneOf v.who) .faulted = true) fun _ _ => { code := 0x06 }) ∧
  (∀ f g, Completes (.yield f) (fun _ s => s.cur = some (.gang g)) fun _ s =>
    ({ s with gangs := s.gangs.map fun (k, x) => (k, if k = g then { x with yields := true } else x) }, .done)) ∧
  (∀ f w, Completes (.yield f) (fun _ s => s.cur = some (.prog w)) fun _ s => (s, .done)) ∧
  (∀ f, Completes (.trapfence f) (fun v s =>
      ((if v.prot then (s.laneOf v.who).flags ||| (s.laneOf v.who).sflags else (s.laneOf v.who).flags) &&& flagEnOf s v.who) = 0)
    fun v s =>
      let flags := if v.prot then (s.laneOf v.who).flags ||| (s.laneOf v.who).sflags else (s.laneOf v.who).flags
      (s, .ok flags.toNat flags.toNat 0 0)) ∧
  (∀ f, Faults (.trapfence f) (fun v s =>
      ((if v.prot then (s.laneOf v.who).flags ||| (s.laneOf v.who).sflags else (s.laneOf v.who).flags) &&& flagEnOf s v.who) ≠ 0)
    fun v s => { code := 0x0D, info := (if v.prot then (s.laneOf v.who).flags ||| (s.laneOf v.who).sflags else (s.laneOf v.who).flags).toNat }) ∧
  FaultsBoth .trap .trapW2 (fun _ _ => True) (fun v _ => { code := 0x0C, info := v.a, tcode := v.f.m.toNat }) ∧
  (∀ f, (issueOp (.trap f)).f.m = 0) ∧
  (∀ code skip, Faults (.brk code skip) (fun _ s => ∀ t, s.cur ≠ some (.seq t)) fun _ _ => { code := 0x0E, info := code.toNat }) ∧
  (∀ code skip, SeqFaults (.brk code skip) (fun _ _ => True) fun _ _ => { code := 0x0E, info := code.toNat })

/-- REP retires and opens COUNT repeats of the next instruction; where a check of R175 refuses it, it raises fault
0x06. REP as the last instruction, REP before REP, and over MOVI a source step, or step D where D is no register, are
refused. After a repeat that is not the last the place in the clause stays and the index rises; after the last one the
clause goes on. At repeat j a stepped register operand is j times the stride times its width further on, the others
stay; an index past v239 gives no operand. -/
def Obligations.Repeats : Prop :=
  (∀ count sd sa sb sc k (s : State) a cl, Alone (issueOp (.rep count sd sa sb sc k)) s a cl → repBreach cl [sd, sa, sb, sc] = false →
    exec (.rep count sd sa sb sc k) s = .next (stepDone (issueOp (.rep count sd sa sb sc k)) a cl s .done
      (some { idx := 0, count := count.toNat + 1, sd := sd, sa := sa, sb := sb, sc := sc, stride := 2 ^ k.toNat }))) ∧
  (∀ count sd sa sb sc k (s : State) a cl, Alone (issueOp (.rep count sd sa sb sc k)) s a cl → repBreach cl [sd, sa, sb, sc] = true →
    exec (.rep count sd sa sb sc k) s = .next (advance (countIssue (s.takeFault a { code := 0x06 }) [a]) (cl.advance 1
      (some { idx := 0, count := count.toNat + 1, sd := sd, sa := sa, sb := sb, sc := sc, stride := 2 ^ k.toNat })) [])) ∧
  (∀ cl steps, cl.words.length ≤ cl.pos + 1 → repBreach cl steps = true) ∧
  (∀ cl steps w, cl.words[cl.pos + 1]? = some w → w.extractLsb' 24 8 = 0x01#8 → repBreach cl steps = true) ∧
  (∀ cl sd sa sb sc w, cl.words[cl.pos + 1]? = some w → w.extractLsb' 24 8 = 0x03#8 ∨ w.extractLsb' 24 8 = 0x83#8 →
    repBreach cl [sd, sa, sb, sc] = (sa || sb || sc || (sd && decide (0xF0 ≤ (w.extractLsb' 16 8).toNat)))) ∧
  (∀ (cl : Clause) len opens r, cl.rep = some r → r.idx + 1 < r.count → cl.advance len opens = { cl with rep := some { r with idx := r.idx + 1 } }) ∧
  (∀ (cl : Clause) len opens r, cl.rep = some r → r.count ≤ r.idx + 1 → cl.advance len opens = { cl with rep := none, pos := cl.pos + len }) ∧
  (∀ (cl : Clause) len opens, cl.rep = none → cl.advance len opens = { cl with rep := opens, pos := cl.pos + len }) ∧
  (∀ r e f f', stepFields (some r) e f = some f' →
    (∀ n, f.d = .reg n → ∃ m : Fin 240, f'.d = .reg m ∧ m.val = n.val + if r.sd then r.idx * r.stride * e.dw else 0) ∧
    (∀ n, f.a = .reg n → ∃ m : Fin 240, f'.a = .reg m ∧ m.val = n.val + if r.sa then r.idx * r.stride * e.aw else 0) ∧
    (∀ n, f.b = .reg n → ∃ m : Fin 240, f'.b = .reg m ∧ m.val = n.val + if r.sb then r.idx * r.stride * e.bw else 0) ∧
    (∀ n, f.c = .reg n → ∃ m : Fin 240, f'.c = .reg m ∧ m.val = n.val + if r.sc then r.idx * r.stride * e.cw else 0)) ∧
  (∀ r e (f : F2) (n : Fin 240), f.d = .reg n → r.sd = true → 240 ≤ n.val + r.idx * r.stride * e.dw → stepFields (some r) e f = none)

/-- A lane that reaches a barrier arrives once and enters BARRIER; a phase completes when every expected party has
arrived, the team is not stopping and some party stands there; a woken lane completes with an acquire at the barrier's
scope and, for AWAIT, its count in D; where a restore has it run again it does not arrive twice. A lane that leaves
NBk after a drain to global memory finds its core's L1 empty. A second ARRIVE in one phase and a number above 15 raise
fault 0x06. MWAIT answers 3 with nothing armed, 0 after a write, waits else, and 1 or 2 as its wake says. -/
def Obligations.Barriers : Prop :=
  (∀ (i : F1 → Instr) (x : Env → Nat), (i = .tbar ∧ x = fun _ => 0) ∨ (i = .cbar ∧ x = fun _ => 1) ∨ (i = .await ∧ x = fun v => 2 + v.a) →
    (∀ f t lit p, Completes (i f) (fun v s => (i = .await → v.a < 16) ∧ v.who = .lane t lit ∧
        ((s.lane t lit).woken = some p ∨ ((s.lane t lit).waits = true ∧ (s.lane t lit).arrived.get 0 (x v) = s.phase t (x v))))
      fun v s => ((s.modLane t lit fun l => { l with waits := false }).leaveBar v.who t (x v), .value ((s.lane t lit).arrived.get 0 (x v)))) ∧
    (∀ f t lit, Waits (i f) (fun v s => (i = .await → v.a < 16) ∧ v.who = .lane t lit ∧ (s.lane t lit).woken = none ∧
        ((s.lane t lit).waits = true → (s.lane t lit).arrived.get 0 (x v) ≠ s.phase t (x v)))
      fun v s =>
        let s1 := if (s.lane t lit).waits = false ∧ (s.lane t lit).arrived.get 0 (x v) = s.phase t (x v) then s.arrive t lit (x v) else s
        (((s1.leaveGang t lit).modLane t lit fun l => { l with st := .barrier, bar := x v, rep := none, waits := false })).checkBar t (x v))) ∧
  (∀ (s : State) a t x, x < 2 ∨ (s.team t).drained = false → s.leaveBar a t x = s.acquire a (if x = 1 then 1 else 0)) ∧
  (∀ (s : State) a t x, 2 ≤ x → (s.team t).drained = true → ∀ l ∈ (s.leaveBar a t x).l1, l.core ≠ (s.team t).core) ∧
  (∀ f, Faults (.await f) (fun v _ => 16 ≤ v.a) fun _ _ => { code := 0x06 }) ∧
  (∀ f t lit, Completes (.arrive f) (fun v s => v.who = .lane t lit ∧ v.a < 16 ∧
      (s.lane t lit).arrived.get 0 (2 + v.a) ≠ s.phase t (2 + v.a) + 1)
    fun v s => ((s.arrive t lit (2 + v.a)).checkBar t (2 + v.a), .done)) ∧
  (∀ f t lit, Faults (.arrive f) (fun v s => v.who = .lane t lit ∧ (16 ≤ v.a ∨ (s.lane t lit).arrived.get 0 (2 + v.a) = s.phase t (2 + v.a) + 1))
    fun _ _ => { code := 0x06 }) ∧
  (∀ (s : State) t lit x, s.arrive t lit x =
    ((s.modLane t lit fun l => { l with arrived := l.arrived.put 0 x (s.phase t x + 1) }).release (.lane t lit) (if x = 1 then 1 else 0))) ∧
  (∀ (s : State) t x, s.barFull t x = false → s.checkBar t x = s) ∧
  (∀ (s : State) t x, s.barFull t x = true → ¬(x = 0 ∧ (s.launchOf t).guarded = true) → s.checkBar t x = s.completePhase t x) ∧
  (∀ (s : State) t, s.barFull t 0 = true → (∀ lit ∈ s.liveLanes t, (s.lane t lit).arrived.get 0 0 = s.phase t 0 + 1) ∧ s.liveLanes t ≠ []) ∧
  CompletesBoth .mwait .mwaitW2 (fun v s => (s.laneOf v.who).woken = none ∧ (s.laneOf v.who).st ≠ .mwait ∧ (s.laneOf v.who).armed = none)
    (fun _ s => (s, .value 3)) ∧
  (∀ r, CompletesBoth .mwait .mwaitW2 (fun v s => (s.laneOf v.who).woken = none ∧ (s.laneOf v.who).st ≠ .mwait ∧
      (s.laneOf v.who).armed = some r ∧ r.written = true) (fun _ s => (s, .value 0))) ∧
  (∀ d, CompletesBoth .mwait .mwaitW2 (fun v s => (s.laneOf v.who).woken = some d)
    (fun v s =>
      let s1 := s.modLaneOf v.who fun l => { l with st := .ready }
      (if mbits v.f.m 2 0 = 0 then s1 else s1.acquire v.who (mbits v.f.m 2 0 - 1), .value d))) ∧
  (∀ f t lit r, Waits (.mwait f) (fun v s => v.who = .lane t lit ∧ (s.lane t lit).woken = none ∧ (s.lane t lit).st ≠ .mwait ∧
      (s.lane t lit).armed = some r ∧ r.written = false)
    fun v s => (s.leaveGang t lit).modLane t lit fun l => { l with st := .mwait, since := s.cycle, mwLimit := v.a, rep := none })

/-- A word that lies on no 4 bytes faults with 0x07, one outside the kernel's code with 0x02. A header with COUNT 0,
CLASS 7, a bit above 19, or a class of the other kind of agent faults with 0x06. A sequencer or a control program
whose fetch succeeds holds the clause at its first word, with the safe-point distance of a sequencer zero after S; an
error is taken as the fault. Lanes at a plain header, with no wait, join or convergence, form a gang with the clause;
when the fetch fails they take the fault. -/
def Obligations.ClauseFetches : Prop :=
  (∀ (s : State) a va, va % 4 ≠ 0 → s.fetchWord a va = (.error (.fault { code := 0x07, flags := 4, addr := va }), s)) ∧
  (∀ (s : State) a va, va % 4 = 0 → va < (s.codeOf a).1 ∨ (s.codeOf a).1 + (s.codeOf a).2 < va + 4 →
    s.fetchWord a va = (.error (.fault { code := 0x02, flags := 4, addr := va }), s)) ∧
  (∀ h ws stream, bits h 3 0 = 0 ∨ bits h 6 4 = 7 ∨ bits h 31 20 ≠ 0 ∨ (stream = true ∧ bits h 6 4 ≠ 5) ∨ (stream = false ∧ bits h 6 4 = 5) →
    clauseOk h ws stream = false) ∧
  (∀ c x (s u : State) t hdr h ws, s.cur = some (.seq t) → (s.seqOf t).haltReq = false → (s.seqOf t).inClause = false →
    s.fetchClause (.seq t) (s.seqOf t).pc = (.ok (h, ws), u) → bit h 7 = false ∨ u.pausing t = false →
    exec (.clauseFetch c x hdr) s = .next (u.modSeq t fun q =>
      { q with clause := some (State.clauseOf (s.seqOf t).pc h ws 0 none), hdr := (s.seqOf t).pc, pc := (s.seqOf t).pc + 4, inClause := true,
               dist := if bit h 7 then 0 else q.dist })) ∧
  (∀ c x (s u : State) w hdr h ws, s.cur = some (.prog w) → s.fetchClause (.prog w) (s.prog w).lane.pc = (.ok (h, ws), u) →
    State.waitsOn (u.prog w).lane h .pending = false →
    exec (.clauseFetch c x hdr) s = .next (u.modProg w fun p =>
      { p with clause := some (State.clauseOf (s.prog w).lane.pc h ws 0 none),
               lane := { p.lane with hdr := (s.prog w).lane.pc, pc := (s.prog w).lane.pc + 4, latches := [] } })) ∧
  (∀ c x (s u : State) w hdr r, s.cur = some (.prog w) → s.fetchClause (.prog w) (s.prog w).lane.pc = (.error r, u) →
    exec (.clauseFetch c x hdr) s = .next (u.takeRes (.prog w) r)) ∧
  (∀ (s u : State) c t hdr lead h ws, (∀ v, s.cur ≠ some (.seq v)) → (∀ w, s.cur ≠ some (.prog w)) →
    (s.team t).core = c → (s.team t).st = .resident → (s.team t).rollback = none → (∀ lit, (s.lane t lit).haltReq = false) →
    s.leaderAt c t hdr = some lead → (s.lane t lead).inClause = false → s.fetchClause (.lane t lead) hdr = (.ok (h, ws), u) →
    (∀ lit ∈ s.freeLanes t, acting u (.lane t lit) = true) → bit h 7 = false → bit h 8 = false → bits h 14 9 = 0 →
    isConvergent (bits h 6 4) ws = false → takeQuartets (s.launchOf t).width ((s.freeLanes t).filter fun lit => (s.lane t lit).sameSpot (s.lane t lead)) ≠ [] →
    Answers (.clauseFetch c t hdr) s fun v => v.gangs.look u.nextGang = some
      { core := c, team := t, lanes := takeQuartets (s.launchOf t).width ((s.freeLanes t).filter fun lit => (s.lane t lit).sameSpot (s.lane t lead)),
        clause := State.clauseOf hdr h ws 0 none, age := s.spotAge t lead, began := u.cycle }) ∧
  (∀ (s u : State) c t hdr lead r, (∀ v, s.cur ≠ some (.seq v)) → (∀ w, s.cur ≠ some (.prog w)) →
    (s.team t).core = c → (s.team t).st = .resident → (s.team t).rollback = none → (∀ lit, (s.lane t lit).haltReq = false) →
    s.leaderAt c t hdr = some lead → s.fetchClause (.lane t lead) hdr = (.error r, u) →
    exec (.clauseFetch c t hdr) s = .next (
      let lits := takeQuartets (s.launchOf t).width ((s.freeLanes t).filter fun lit => (s.lane t lit).sameSpot (s.lane t lead))
      (u.takeAll t lits r).joinGroups t lits))

/-- A swap gives the slot to the oldest pending group and takes it from the group that held it. From C = 1,024 on the
override marks the core and swaps the progress lane's group in. JOIN ends after 64 cycles, MWAIT with D = 1 after its
limit; before that nothing changes. The end of a stall lets the gang issue. A word that decodes to no instruction
raises fault 0x06 in every kind of agent. -/
def Obligations.IssueEvents : Prop :=
  (∀ (s : State) c slot p, s.oldestPending c = some p → slot < 8 → s.slotOpen c slot = true →
    exec (.groupSwap c slot) s = .next (s.swapIn c slot p)) ∧
  (∀ (s : State) c slot p, s.slotGroup c slot = none → p.2 < (s.team p.1).groups.length →
    (((s.swapIn c slot p).team p.1).groups.getD p.2 {}).slot = some slot ∧ SameMemory s (s.swapIn c slot p)) ∧
  (∀ (s : State) c slot p q, s.slotGroup c slot = some q → s.swapIn c slot p = (s.setSlot q none).setSlot p (some slot)) ∧
  (∀ (s : State) t k, k < (s.team t).groups.length → (((s.setSlot (t, k) none).team t).groups.getD k {}).slot = none) ∧
  (∀ (s : State) c slot, s.oldestPending c = none → exec (.groupSwap c slot) s = .next s) ∧
  (∀ (s : State) c, s.progress.get 0 c < 1024 → exec (.progressOverride c) s = .next s) ∧
  (∀ (s : State) c t lit, 1024 ≤ s.progress.get 0 c → s.override.contains c = false → s.progressLane c = some (t, lit) → s.groupActive t lit = true →
    exec (.progressOverride c) s = .next { s with override := s.override ++ [c] }) ∧
  (∀ (s : State) c t lit slot, 1024 ≤ s.progress.get 0 c → s.override.contains c = true → s.progressLane c = some (t, lit) →
    s.groupActive t lit = false → s.displaceable c = some slot →
    exec (.progressOverride c) s = .next (s.swapIn c slot (t, lit / (s.launchOf t).width))) ∧
  (∀ (s : State) c g x, s.gang g = some x → x.core = c →
    exec (.stallEnd c g) s = .next { s with gangs := s.gangs.insert g { x with stalled := false } }) ∧
  (∀ (s : State) t lit, (s.lane t lit).st = .join → (s.lane t lit).since + 64 ≤ s.cycle →
    exec (.joinTimeout t lit) s = .next (s.modLane t lit fun l => { l with st := .ready, readyAt := s.cycle, passJ := true })) ∧
  (∀ (s : State) t lit, s.cycle < (s.lane t lit).since + 64 → exec (.joinTimeout t lit) s = .next s) ∧
  (∀ (s : State) t lit, (s.lane t lit).st = .mwait → (s.lane t lit).mwLimit ≠ 0 → (s.lane t lit).since + (s.lane t lit).mwLimit ≤ s.cycle →
    exec (.mwaitTimeout t lit) s = .next (s.modLane t lit fun l => { l with st := .ready, readyAt := s.cycle, woken := some 1 })) ∧
  (∀ (s : State) t lit, (s.lane t lit).mwLimit = 0 ∨ s.cycle < (s.lane t lit).since + (s.lane t lit).mwLimit →
    exec (.mwaitTimeout t lit) s = .next s) ∧
  (∀ (s : State) op a cl, agentsOf s = some ([a], cl) → acting s a = true → (s.laneOf a).haltReq = false →
    exec (.unassignedOpcode op) s = .next (s.takeFault a { code := 0x06 })) ∧
  (∀ (s : State) op t, s.cur = some (.seq t) → exec (.unassignedOpcode op) s = .next (s.takeFault (.seq t) { code := 0x06 }))

/-- A copy command whose descriptors check, whose token is neither PENDING nor FAULTED, whose channel direction is
free and for which the unit has room makes its token PENDING with count 0 and hands the unit its pieces; memory is
unchanged at issue, a PENDING token stalls the lane in TOKEN, and a FAULTED one raises fault 0x06. TDSET writes one of
the agent's eight descriptor words. REPLAY makes a FAULTED token PENDING again and reissues only its missing pieces,
or abandons the command. The unit carries out a piece, and a fault of it marks it missing. -/
def Obligations.CopyCommands : Prop :=
  (∀ (op : Nat) (i : F1 → Instr) (j : F2 → Instr),
    (op = 1 ∧ i = .copy ∧ j = .copyW2) ∨ (op = 2 ∧ i = .copyw ∧ j = .copywW2) ∨ (op = 3 ∧ i = .gather ∧ j = .gatherW2) ∨
    (op = 4 ∧ i = .scatter ∧ j = .scatterW2) ∨ (op = 5 ∧ i = .combine ∧ j = .combineW2) ∨
    (op = 7 ∧ i = .chsend ∧ j = .chsendW2) ∨ (op = 8 ∧ i = .chrecv ∧ j = .chrecvW2) →
    (∀ x s1, CompletesBoth i j (fun v s => v.mismatch = false ∧ (s.tokenOf v.who (mbits v.f.m 2 0)).st ≠ .faulted ∧
        (s.tokenOf v.who (mbits v.f.m 2 0)).st ≠ .pending ∧ s.unitLoad (s.quadOf v.who) + gangSize s ≤ 512 ∧
        ((op = 7 ∨ op = 8) → s.channelBusy v.w (bits v.c 25 24) op = false ∧ s.channelBusy v.w x.channel op = false) ∧ s.stages v.who = false ∧
        s.checkCopy { quad := s.quadOf v.who, who := v.who, world := v.w, op := op, m := v.f.m, a := v.a, b := v.b, c := v.c,
                      ds := s.dsOf v.who, token := mbits v.f.m 2 0, pieces := [], bytes := [] } = .ok x ∧
        (if x.ro then s.addTile x else .ok s) = .ok s1 ∧ s1.stages v.who = false)
      fun v _ =>
        let ch := (s1.world v.w).channels.get {} x.channel
        let s2 := if (s1.tokenOf v.who (mbits v.f.m 2 0)).st = .done then
          (match s1.coreOf v.who with | some c => s1.l1Flush c | none => s1) else s1
        let s3 := s2.startCopy { x with ctr := if op = 7 then ch.send else if op = 8 then ch.recv else 0,
                                        keyed := if op = 7 ∨ op = 8 then ch.keyCount else 0 }
        (match v.who with
          | .lane t lit => if op = 7 ∨ op = 8 then s3.modLane t lit fun l => { l with issued := true } else s3
          | _ => s3, .done)) ∧
    FaultsBoth i j (fun v s => v.mismatch = false ∧ (s.tokenOf v.who (mbits v.f.m 2 0)).st = .faulted) (fun _ _ => { code := 0x06 }) ∧
    (∀ f, Stalls (i f) (fun v s => (s.tokenOf v.who (mbits v.f.m 2 0)).st = .pending) fun v s => s.modLaneOf v.who fun l => { l with st := .token }) ∧
    ∀ f, Stalls (j f) (fun v s => (s.tokenOf v.who (mbits v.f.m 2 0)).st = .pending) fun v s => s.modLaneOf v.who fun l => { l with st := .token }) ∧
  (∀ (s : State) x, (s.startCopy x).copies.look s.nextCopy = some x ∧ SameMemory s (s.startCopy x)) ∧
  (∀ t lit, CompletesBoth .tdset .tdsetW2 (fun v _ => v.mismatch = false ∧ v.b < 8 ∧ v.who = .lane t lit) fun v s =>
    (s.modTeam t fun y => { y with groups := y.groups.mapIdx fun k g =>
      if k = lit / v.width then { g with ds := g.ds.put 0 v.b (BitVec.ofNat 64 v.a) } else g }, .done)) ∧
  (∀ c x, CompletesBoth .replay .replayW2 (fun v s => v.f.m.getLsbD 6 = false ∧ s.unitLoad (s.quadOf v.who) + gangSize s ≤ 512 ∧
      (s.tokenOf v.who (mbits v.f.m 2 0)).st = .faulted ∧
      s.copies.find? (fun (_, x) => x.who == v.who && x.token == mbits v.f.m 2 0 && !x.pending) = some (c, x))
    fun v s => (((s.setToken v.who (mbits v.f.m 2 0) { s.tokenOf v.who (mbits v.f.m 2 0) with st := .pending }).modCopy c fun x =>
      { x with pending := true, reported := [], pieces := x.pieces.map fun p => if p = .missing then .todo else p }).nextPiece c, .done)) ∧
  (∀ c x, CompletesBoth .replay .replayW2 (fun v s => v.f.m.getLsbD 6 = true ∧
      (s.tokenOf v.who (mbits v.f.m 2 0)).st = .faulted ∧ s.copies.look c = some x ∧ x.op ≠ 7 ∧
      s.copies.find? (fun (_, x) => x.who == v.who && x.token == mbits v.f.m 2 0 && !x.pending) = some (c, x))
    fun v s =>
      let s1 := s.setToken v.who (mbits v.f.m 2 0) { s.tokenOf v.who (mbits v.f.m 2 0) with st := .idle }
      let s2 := ({ s1 with copies := s1.copies.erase c }).wakeGangs
      (if x.op = 8 then s2.wakeStalled x.world else s2, .done)) ∧
  (∀ s c i x src dst s1, s.copies.look c = some x → x.pending → x.pieces.findIdx? (· == .todo) = some i → x.pieces[i]? = some .todo →
    s.copyHeld x = false → State.progSide x = false → (x.op = 1 ∨ x.op = 2 ∨ x.op = 3 ∨ x.op = 4) →
    s.pieceSpots x (x.runs.getD i []) = (.ok (src, dst), s1) → s1.pieceReads x src dst = [] →
    Machine.exec (.copyPieceComplete c i) s = .next (s1.movePiece c i x (x.runs.getD i []) src dst [])) ∧
  (∀ (s : State) c i x, s.copies.look c = some x →
    s.pieceDone c i = ((((s.dropWalks c i).setToken x.who x.token { (s.dropWalks c i).tokenOf x.who x.token with
        count := (((s.dropWalks c i).tokenOf x.who x.token).count + x.bytes.getD i 0) % 2 ^ 32 }).meter x.world 7
          (if x.op = 5 then 0 else x.bytes.getD i 0)).modCopy c fun x => { x with pieces := x.pieces.set i .done }).nextPiece c) ∧
  (∀ s c i x e flags va s1, s.copies.look c = some x → x.pending → x.pieces.findIdx? (· == .todo) = some i → x.pieces[i]? = some .todo →
    s.copyHeld x = false → State.progSide x = false → (x.op = 1 ∨ x.op = 2 ∨ x.op = 3 ∨ x.op = 4) →
    s.pieceSpots x (x.runs.getD i []) = (.error ⟨e, flags, va⟩, s1) → e.code = 1 → e.ask = none →
    Machine.exec (.copyPieceComplete c i) s = .next
      ((((s1.dropWalks c i).copyRecord c e flags va).modCopy c fun x => { x with pieces := x.pieces.set i .missing }).nextPiece c))

/-- The sequencer's integer instructions put the value of their operands under R227 into D, its branches go to header
plus byte offset or to the next header. WALK takes the extents of A and B and the first tuple; ENDWALK visits the next
one, or ends the walk when each was visited. ARRIVE records an arrival, AWAIT and SWAIT wait (an AWAIT that a restore
runs again does not arrive twice), SQEXIT ends the sequencer when no pass of the team is left. -/
def Obligations.SequencerControl : Prop :=
  (∀ (i : F1 → Instr) (j : F2 → Instr) (g : BitVec 8 → Nat → Nat → Nat),
    (i = .seqIadd ∧ j = .seqIaddW2 ∧ g = fun m a b => fit 32 m (extM 32 m a + extM 32 m b)) ∨
    (i = .seqIsub ∧ j = .seqIsubW2 ∧ g = fun m a b => fit 32 m (extM 32 m a - extM 32 m b)) ∨
    (i = .seqImul ∧ j = .seqImulW2 ∧ g = fun m a b => fit 32 m (extM 32 m a * extM 32 m b)) ∨
    (i = .seqImin ∧ j = .seqIminW2 ∧ g = fun m a b => wrapInt 32 (min (extM 32 m a) (extM 32 m b))) ∨
    (i = .seqImax ∧ j = .seqImaxW2 ∧ g = fun m a b => wrapInt 32 (max (extM 32 m a) (extM 32 m b))) ∨
    (i = .seqAnd ∧ j = .seqAndW2 ∧ g = fun _ a b => a &&& b) ∨ (i = .seqOr ∧ j = .seqOrW2 ∧ g = fun _ a b => a ||| b) ∨
    (i = .seqXor ∧ j = .seqXorW2 ∧ g = fun _ a b => a ^^^ b) ∨
    (i = .seqShl ∧ j = .seqShlW2 ∧ g = fun m a b => a * 2 ^ (if m.getLsbD 0 then b % 32 else min (b % 2 ^ 32) 32) % 2 ^ 32) ∨
    (i = .seqShr ∧ j = .seqShrW2 ∧ g = fun m a b => a % 2 ^ 32 / 2 ^ (if m.getLsbD 0 then b % 32 else min (b % 2 ^ 32) 32)) ∨
    (i = .seqMov ∧ j = .seqMovW2 ∧ g = fun _ a _ => a) →
    SeqCompletesBoth i j (fun _ _ => True) fun v s => (s, .value (g v.f.m v.a v.b))) ∧
  (∀ d imm, SeqCompletes (.seqMovi d imm) (fun _ _ => True) fun _ s => (s, .value (imm.signExtend 32).toNat)) ∧
  (∀ d imm, SeqCompletes (.seqMoviW2 d imm) (fun _ _ => True) fun _ s => (s, .value imm.toNat)) ∧
  (∀ (i : Opd → Opd → BitVec 32 → Instr) (c : Nat → Nat → Bool),
    (i = .seqBeq ∧ c = fun x y => x == y) ∨ (i = .seqBne ∧ c = fun x y => x != y) ∨
    (i = .seqBlt ∧ c = fun x y => decide (sext 32 x < sext 32 y)) ∨ (i = .seqBge ∧ c = fun x y => decide (sext 32 y ≤ sext 32 x)) →
    ∀ a b off, SeqCompletes (i a b off) (fun _ _ => True) fun v s => (s, .jump (if c v.a v.b then codeAt v.hdr off.toInt else v.next))) ∧
  (∀ off, SeqCompletes (.seqBra off) (fun _ _ => True) fun v s => (s, .jump (codeAt v.hdr (4 * off.toInt)))) ∧
  (∀ off, SeqCompletes (.seqBraW2 off) (fun _ _ => True) fun v s => (s, .jump (codeAt v.hdr off.toInt))) ∧
  (∀ n : Fin 240, SeqCompletesBoth .walk .walkW2 (fun v s => v.f.d = .reg n ∧ n.val ≤ 29 ∧ v.a < 2 ^ 28 ∧ bits v.a 15 12 = 0 ∧ v.b < 2 ^ 12 ∧
      (s.seqOf v.t).walk = none ∧ (bits v.a 27 16 + 1) * (bits v.a 11 0 + 1) * (bits v.b 11 0 + 1) ≤ 4096)
    fun v s =>
      let w : Walk := { e0 := bits v.a 27 16 + 1, e1 := bits v.a 11 0 + 1, e2 := bits v.b 11 0 + 1, d := n.val,
                        order := v.f.m.getLsbD 0 || (s.launchOf v.t).ordered, body := v.next, visited := [], current := 0 }
      ((s.nextTuple w).2.modSeq v.t fun q => q.setTuple w (s.nextTuple w).1, .value (w.tuple (s.nextTuple w).1).1)) ∧
  (∀ (s : State) w, w.order = true → (∀ i, i < w.size → i ∈ w.visited → i ≤ w.current) → (s.nextTuple w).2 = s) ∧
  (∀ (w : Walk) x y z, x < w.e0 → y < w.e1 → z < w.e2 → w.tuple (x * (w.e1 * w.e2) + y * w.e2 + z) = (x, y, z)) ∧
  (∀ w, SeqCompletesBoth .endwalk .endwalkW2 (fun v s => (s.seqOf v.t).walk = some w ∧ w.current ∉ w.visited ∧ w.visited.length + 1 = w.size)
    fun v s => (s.modSeq v.t fun q => { q with walk := none }, .done)) ∧
  (∀ w, SeqCompletesBoth .endwalk .endwalkW2 (fun v s => (s.seqOf v.t).walk = some w ∧ w.current ∉ w.visited ∧ w.visited.length + 1 ≠ w.size)
    fun v s =>
      let w := { w with visited := w.visited ++ [w.current] }
      ((s.nextTuple w).2.modSeq v.t fun q => q.setTuple w (s.nextTuple w).1, .jump w.body)) ∧
  (∀ f, SeqCompletes (.seqArrive f) (fun v s => v.a < 16 ∧ (s.seqOf v.t).arrived.get 0 (2 + v.a) ≠ s.phase v.t (2 + v.a) + 1)
    fun v s => ((s.seqArrival v.t (2 + v.a)).checkBar v.t (2 + v.a), .done)) ∧
  (∀ f, SeqWaits (.seqAwait f) (fun v s => v.a < 16 ∧ ((s.seqOf v.t).waits = true → (s.seqOf v.t).arrived.get 0 (2 + v.a) ≠ s.phase v.t (2 + v.a)))
    fun v s =>
      let s1 := if (s.seqOf v.t).waits = false ∧ (s.seqOf v.t).arrived.get 0 (2 + v.a) = s.phase v.t (2 + v.a) then s.seqArrival v.t (2 + v.a) else s
      (s1.modSeq v.t fun q => { q with st := .barrier, bar := 2 + v.a, barD := v.f.d, waits := false }).checkBar v.t (2 + v.a)) ∧
  (∀ f, SeqCompletes (.seqAwait f) (fun v s => v.a < 16 ∧ (s.seqOf v.t).waits = true ∧ (s.seqOf v.t).arrived.get 0 (2 + v.a) = s.phase v.t (2 + v.a))
    fun v s => (s.modSeq v.t fun q => { q with waits := false }, .value (s.phase v.t (2 + v.a)))) ∧
  (∀ (s : State) t x p cl, (s.seqOf t).st = .barrier → (s.seqOf t).bar = x → (s.seqOf t).clause = some cl →
    s.wakeSeq t x p = seqAdvance (s.modSeq t fun q => { q.writeOpd q.barD 1 p with st := .running, dist := q.dist + 1 }) t (cl.advance 1 none) none) ∧
  (∀ f, SeqCompletes (.swait f) (fun v s => s.passesOf v.t = []) fun _ s => (s, .done)) ∧
  (∀ f, SeqWaits (.swait f) (fun v s => s.passesOf v.t ≠ []) fun v s => s.modSeq v.t fun q => { q with st := .swait }) ∧
  (∀ f, SeqCompletes (.sqexit f) (fun v s => s.passesOf v.t = [] ∧ (s.seqOf v.t).walk = none) fun v s =>
    (((((s.modSeq v.t fun q => { q with st := .exited, held := [] })).checkBars v.t).checkRetire v.t).wakeGangs, .done)) ∧
  (∀ f, SeqWaits (.sqexit f) (fun v s => s.passesOf v.t ≠ [] ∧ (s.seqOf v.t).walk = none) fun v s =>
    s.modSeq v.t fun q => { q with st := .swait, exiting := true }) ∧
  (∀ f, SeqFaults (.sqexit f) (fun v s => (s.seqOf v.t).walk ≠ none) fun _ _ => { code := 0x06 })

/-- A pass that passes the checks of R387 goes into the quad's table with the sequencer's active record and epilogue,
and the sequencer goes on; one that finds no entry waits in POSTING; a refused one faults. MLOAD names the shadow
plane, MSWAP exchanges the planes, MEPI sets the epilogue. A grant takes the arbiter's choice and applies its effect,
at its completion where its operand lies in a peer's memory: MCLEAR zeroes B cells at A; a chunk of an .i8 cell is the
saturated exact sum. -/
def Obligations.MatrixPasses : Prop :=
  (∀ (op : Nat) (i : F1 → Instr) (j : F2 → Instr),
    (op = 0 ∧ i = .mload ∧ j = .mloadW2) ∨ (op = 1 ∧ i = .mswap ∧ j = .mswapW2) ∨ (op = 2 ∧ i = .mstream ∧ j = .mstreamW2) ∨
    (op = 3 ∧ i = .mvstream ∧ j = .mvstreamW2) ∨ (op = 4 ∧ i = .mdist ∧ j = .mdistW2) ∨ (op = 5 ∧ i = .mtopk ∧ j = .mtopkW2) ∨
    (op = 7 ∧ i = .mdrain ∧ j = .mdrainW2) ∨ (op = 8 ∧ i = .mclear ∧ j = .mclearW2) →
    let pass := fun (v : SeqEnv) (s : State) =>
      ({ team := v.t, op := op, m := v.f.m, a := v.a, b := v.b, c := v.c, plane := (s.seqOf v.t).active, epi := (s.seqOf v.t).epi,
         epiScale := (s.seqOf v.t).epiScale, epiBias := (s.seqOf v.t).epiBias, draw := (s.seqOf v.t).draw, va := 0, pages := [],
         posted := s.cycle, prio := (s.launchOf v.t).prio } : Pass)
    (∀ pages s1, SeqCompletesBoth i j (fun v s =>
        (pass v s).check (s.launchOf v.t).desc.scratch ((s.launchOf v.t).desc.accum * 65536) = none ∧
        s.passPages v.t (pass v s) = (.ok pages, s1) ∧ s1.stages (.seq v.t) = false ∧ s1.tableFull v.t = false)
      fun v s => ((s1.dropAnswers (.seq v.t)).insertPass v.t { pass v s with va := (pass v s).globalVa, pages := pages }, .done)) ∧
    (∀ f pages s1, SeqWaits (j f) (fun v s =>
        (pass v s).check (s.launchOf v.t).desc.scratch ((s.launchOf v.t).desc.accum * 65536) = none ∧
        s.passPages v.t (pass v s) = (.ok pages, s1) ∧ s1.stages (.seq v.t) = false ∧ s1.tableFull v.t = true)
      fun v _ => s1.modSeq v.t fun q => { q with st := .posting }) ∧
    ∀ f y, SeqFaults (j f) (fun v s =>
        (pass v s).check (s.launchOf v.t).desc.scratch ((s.launchOf v.t).desc.accum * 65536) = some y) fun _ _ => y) ∧
  (∀ (s : State) t p, (s.insertPass t p).passes.look s.nextPass = some p) ∧
  (∀ (s : State) t p q, (s.team t).seq = some q → ((s.insertPass t p).seqOf t).active = (if p.op = 1 then q.shadow else q.active) ∧
    ((s.insertPass t p).seqOf t).shadow = (if p.op = 0 then
        some { off := p.a, fmt := passFmt p.m, sc := passSc p.m, k := bits p.b 9 0 + 1, n := bits p.b 24 16 + 1, soff := p.c, load := s.nextPass + 1 }
      else if p.op = 1 then q.active else q.shadow)) ∧
  SeqCompletesBoth .mepi .mepiW2 (fun v _ => epiOk (BitVec.ofNat 64 v.a) ∧ v.b % 4 = 0 ∧ v.c % 4 = 0)
    (fun v s => (s.modSeq v.t fun q => { q with epi := BitVec.ofNat 64 v.a, epiScale := v.b, epiBias := v.c }, .done)) ∧
  (∀ s q i p, (∀ e ∈ s.quadPasses q, e.2.granted = false) → s.arbiter q = some (i, p) → State.passReads p = [] →
    Machine.exec (.passGrant q) s = .next (
      let s1 := ({ s with passes := s.passes.insert i { p with granted := true } } : State).meterPass p
      ((if p.op = 0 then s1.markLoad p.team i else s1).runPass p []).pushOnce (.passComplete q))) ∧
  (∀ s q i p, (∀ e ∈ s.quadPasses q, e.2.granted = false) → s.arbiter q = some (i, p) → State.passReads p ≠ [] →
    Machine.exec (.passGrant q) s = .next ((({ s with passes := s.passes.insert i { p with granted := true } } : State).meterPass p).askPass i p)) ∧
  (∀ (s : State) p rs k, p.op = 8 → (k < p.a ∨ p.a + 4 * p.b ≤ k → (s.runPass p rs).byte (.acc p.team) k = s.byte (.acc p.team) k) ∧
    (p.a ≤ k → k < p.a + 4 * p.b → (s.runPass p rs).byte (.acc p.team) k = 0)) ∧
  (∀ s q, (∀ e ∈ s.quadPasses q, e.2.granted = false) → Machine.exec (.passComplete q) s = .next s) ∧
  (∀ s q i p, (s.quadPasses q).find? (fun e => e.2.granted) = some (i, p) → (s.team p.team).st ≠ .gone → State.passReads p = [] →
    (∀ r ∈ s.passReqs i, r.st ≠ .waiting) →
    Machine.exec (.passComplete q) s =
      .next (((((({ s with passes := s.passes.erase i, reqs := s.reqs.filter fun r => r.pass != some i } : State).releaseHeld p.team i).trimPast
        p.team).wakePosters q).grantNext q).wakeGangs)) ∧
  (∀ s q i p r, (s.quadPasses q).find? (fun e => e.2.granted) = some (i, p) → (s.team p.team).st ≠ .gone → r ∈ s.passReqs i → r.st = .waiting →
    Machine.exec (.passComplete q) s = .next s) ∧
  (∀ s q e p, (s.quadPasses q).find? (fun (i, p) => i == e && !p.granted && decide (p.posted + 65536 ≤ s.cycle)) = some (e, p) →
    Machine.exec (.entryAge q e) s = .next { s with passes := s.passes.insert e { p with prio := 0 } }) ∧
  (∀ (a w : Run) K acc k0, a.f = 3 → accChunk false a w K acc k0 =
    satInt 32 false (sext 32 acc + ((List.range (min 16 (K - k0))).map fun k => a.int (k0 + k) * w.int (k0 + k)).sum))

/-- SREAD delivers and SWRITE sets the register that A selects, under the privilege of the selector. LAUNCH reads a
128-byte record, gives a lane's child its derived key and puts it into the world's queue. QREAD copies the record at a
ring's head and advances it (D[31:0] = 1 for an empty ring), EVREAD and EVWAIT take the oldest event, SIGNAL sends a
vector, TLBINV drops cached translations, KEYOP acts on keys. Each completes. -/
def Obligations.SystemInstructions : Prop :=
  (∀ x, CompletesBoth .sread .sreadW2 (fun v s => selectorFault v.who v.a = none ∧ v.a < 0x400 ∧ selectorGet s v.who v.a = some x)
      (fun _ s => (s, .value x))) ∧
  (∀ x, CompletesBoth .sread .sreadW2 (fun v s => selectorFault v.who v.a = none ∧ 0x400 ≤ v.a ∧ v.a ≠ 0x407 ∧ s.dbgGet v.w v.a = some x)
      (fun _ s => (s, .value x))) ∧
  (∀ (s : State) t lit, selectorGet s (.lane t lit) 0 =
      some (if (s.launchOf t).prot then (s.lane t lit).flags ||| (s.lane t lit).sflags else (s.lane t lit).flags).toNat ∧
    selectorGet s (.lane t lit) 3 = some (s.lane t lit).sptr.toNat ∧ selectorGet s (.lane t lit) 4 = some (s.lane t lit).dist ∧
    selectorGet s (.lane t lit) 0x18 = some (s.launchOf t).world ∧ selectorGet s (.lane t lit) 0x1A = some (s.clock % 2 ^ 64)) ∧
  CompletesBoth .swrite .swriteW2 (fun v _ => selectorFault v.who v.a = none ∧ v.a = 0) (fun v s =>
    (s.modLaneOf v.who fun l => { l with flags := BitVec.ofNat 5 v.b, sflags := BitVec.ofNat 5 (if v.prot then v.b' else 0) }, .done)) ∧
  CompletesBoth .swrite .swriteW2 (fun v _ => selectorFault v.who v.a = none ∧ v.a = 3) (fun v s =>
    (s.modLaneOf v.who fun l => { l with sptr := BitVec.ofNat 32 v.b }, .done)) ∧
  FaultsBoth .sread .sreadW2 (fun v _ => 0x400 ≤ v.a ∧ v.a < 0x1000 ∧ ∃ t lit, v.who = .lane t lit ∧ (v.a ≤ 0x4FF ∨ 0x800 ≤ v.a))
    (fun _ _ => { code := 0x13 }) ∧
  (∀ t lit p sp x s1 s2 raw, CompletesBoth .launch .launchW2 (fun v s => s.activating = false ∧
      releaseReady v s (v.f.m.getLsbD 0) 3 ∧ v.mismatch = false ∧ s.awaitedReq v.who = none ∧ v.who = .lane t lit ∧
      s.globalPlace v.who v.a 128 .read 0 = (.ok p, s1) ∧ p.isLocal ∧ p.at? = some (sp, x) ∧
      s1.loadAt v.who sp x 128 .weak = (some raw, s2) ∧ s1.stagedPoison v.who p.target.key 128 = false ∧
      (s2.release v.who (if v.f.m.getLsbD 0 then 3 else 2)).stages v.who = false)
    fun v _ =>
      let r := (s2.release v.who (if v.f.m.getLsbD 0 then 3 else 2)).enqueue v.w (s2.childRecord t lit (s2.ownView v.who p.target.key raw))
      (r.2.modLane t lit fun l => { l with spawn := l.spawn + 1 }, .value r.1)) ∧
  (∀ (s : State) w bs, s.queueLength (s.world w).ctl (bits (parseRecord bs).lflags.toNat 1 0) < 1024 →
    (s.enqueue w bs).1 = 0 ∧ ((s.enqueue w bs).2.launches.look s.nextLaunch).map (·.recBytes) = some bs) ∧
  (∀ (s : State) w bs, 1024 ≤ s.queueLength (s.world w).ctl (bits (parseRecord bs).lflags.toNat 1 0) → s.enqueue w bs = (1, s)) ∧
  CompletesBoth .qread .qreadW2 (fun v s => v.a < 8 ∧ (State.ring (s.world v.w) v.a).enabled ∧
      v.b % 128 = 0 ∧ v.b + 128 ≤ (s.prog v.w).privSize ∧ (State.ring (s.world v.w) v.a).head = (State.ring (s.world v.w) v.a).tail)
    (fun v s => (s, .value (s.operand v.who (s.laneOf v.who) false v.f.d 2 / 2 ^ 32 * 2 ^ 32 + 1))) ∧
  (∀ p sp x s1 s2 bs, CompletesBoth .qread .qreadW2 (fun v s => s.awaitedReq v.who = none ∧ v.a < 8 ∧ (State.ring (s.world v.w) v.a).enabled ∧
      v.b % 128 = 0 ∧ v.b + 128 ≤ (s.prog v.w).privSize ∧ (State.ring (s.world v.w) v.a).head ≠ (State.ring (s.world v.w) v.a).tail ∧
      s.globalPlace v.who ((State.ring (s.world v.w) v.a).recordVa (State.ring (s.world v.w) v.a).head.toNat) 128 .read 0 = (.ok p, s1) ∧
      p.isLocal ∧ p.at? = some (sp, x) ∧ s1.loadAt v.who sp x 128 .home = (some bs, s2))
    fun v s =>
      let r := State.ring (s.world v.w) v.a
      ((s2.write (.priv v.w) v.b bs).modWorld v.w fun y => { y with rings := y.rings.insert v.a { r with head := r.head + 1 } },
        .value (r.head.toNat * 2 ^ 32))) ∧
  (∀ e s1, CompletesBoth .evread .evreadW2 (fun v s => v.a % 32 = 0 ∧ v.a + 32 ≤ (s.prog v.w).privSize ∧ s.takeEvent v.w = (some e, s1))
    fun v _ => (s1.write (.priv v.w) v.a e.bytes, .value 0)) ∧
  (∀ e s1 f, Completes (.evwait f) (fun v s => v.a % 32 = 0 ∧ v.a + 32 ≤ (s.prog v.w).privSize ∧ s.takeEvent v.w = (some e, s1))
    fun v _ => (s1.write (.priv v.w) v.a e.bytes, .value 0)) ∧
  (∀ s1, CompletesBoth .evread .evreadW2 (fun v s => v.a % 32 = 0 ∧ v.a + 32 ≤ (s.prog v.w).privSize ∧ s.takeEvent v.w = (none, s1))
    fun _ _ => (s1, .value 1)) ∧
  CompletesBoth .signal .signalW2 (fun v s => releaseReady v s true 3 ∧ v.a < 64) (fun v s => (s.signal v.w v.a, .done)) ∧
  CompletesBoth .tlbinv .tlbinvW2 (fun v s => (∀ e ∈ s.passes, (s.launchOf e.2.team).world ≠ v.w) ∧
      ∀ r ∈ s.reqs, r.inner.isSome = true → r.world = v.w → r.st ≠ .waiting) (fun v s =>
    let s1 : State := { s with reqs := s.reqs.filter fun r => !(r.inner.isSome && r.world == v.w && r.st != .waiting) }
    (if v.f.m.getLsbD 0 then s1.tlbDropAll v.w else s1.tlbDropPage v.w (v.a % 2 ^ 52 / 65536), .done)) ∧
  (∀ c, CompletesBoth .keyop .keyopW2 (fun v _ => v.who = .firm c) fun v s => ((s.keyOp c v.a v.b).2, .value (s.keyOp c v.a v.b).1)) ∧
  (∀ f g, Traps (.qread f) ∧ Traps (.qreadW2 g) ∧ Traps (.evread f) ∧ Traps (.evreadW2 g) ∧ Traps (.evwait f) ∧ Traps (.signal f) ∧
    Traps (.signalW2 g) ∧ Traps (.keyop f) ∧ Traps (.keyopW2 g))

/-- A slice command that breaks a check of R48 ends with the status the rules name, and no command has any effect
while another runs. A command that is accepted does what its operation does, on the node, world, owner and argument
that SLC_CMD and SLC_CMD_ARG name. COMMAND_DONE ends it: SLC_CMDSTAT takes its status and its time, GO clears,
operations held meanwhile come next, and vector 0 of world 0 is sent. -/
def Obligations.SliceCommandRules : Prop :=
  (∀ p ∈ [(1, Instr.create), (2, .destroy), (3, .merge), (4, .split), (5, .attach), (6, .detach), (7, .quiesce), (8, .resume), (9, .reset), (9, .worldReset)],
    ∀ (s : State) cmd, TakesCommand s p.1 cmd → (p.2 0 = .reset 0 → cmdWorld cmd = 0) → (p.2 0 = .worldReset 0 → cmdWorld cmd ≠ 0) →
      ∀ st, (s.accepting cmd).commandCheck (s.commandOf cmd) = some st → exec (p.2 cmd) s = .next ((s.accepting cmd).endCommand st)) ∧
  (∀ (s : State) (c : Command), c.node = 0 → s.commandCheck c = some 2) ∧
  (∀ (s : State) (c : Command), c.node ≠ 0 → c.arg &&& ~~~argMask c.op ≠ 0 → s.commandCheck c = some 2) ∧
  (∀ (s : State) (c : Command), 5 ≤ c.op → 96 < c.world → s.commandCheck c = some 2) ∧
  (∀ (s : State) (c : Command), (c.op = 5 ∨ c.op = 6) → c.world = 0 → s.commandCheck c = some 2) ∧
  (∀ (s : State) (c : Command), c.node ≠ 0 → c.arg &&& ~~~argMask c.op = 0 → c.world ≠ 0 → c.world ≤ 96 → c.op ≠ 1 → c.op ≠ 3 →
    (s.slice (nodeCtl c.node)).st = .empty ∨ (s.slice (nodeCtl c.node)).node ≠ c.node → s.commandCheck c = some 4) ∧
  (∀ p ∈ [Instr.create, .destroy, .merge, .split, .attach, .detach, .quiesce, .resume, .reset, .worldReset],
    ∀ (s : State) cmd, s.command ≠ none → exec (p cmd) s = .next s) ∧
  (∀ p ∈ [Instr.track, .harvest, .exportWorld, .importWorld, .untrack], ∀ (s : State) w, s.command ≠ none → exec (p w) s = .next s) ∧
  (∀ (s : State) c st, s.command = some c → c.op < 0x80 → c.ended = some st → Answers .commandDone s fun t =>
    t = s.finishCommand c st) ∧
  (∀ (s : State) c st, s.command = some c → c.op < 0x80 → c.op ≠ 5 → c.ended = some st → s.activating = false → Answers .commandDone s fun t =>
    t.command = none ∧ t.slcStatus = st ∧ t.slcElapsed = min 0xFFFFFF ((s.clock - c.start) / 1000) ∧ t.slcCmd = s.slcCmd &&& ~~~1#32 ∧
    t.held = [] ∧ t.agenda = s.held.map Move.event ++ s.agenda ∧
    ((s.world 0).unmasked.contains 0 = true → t.out = s.out ++ [.msix 0 0]) ∧ SameMemory s t)

/-- CREATE of a free node draws the slice key, makes every page of the slice fresh, so that its HBM reads as zero,
stages the new Palette calendars, and loads the template page by page; an overlap ends it with OVERLAP, a bad template
area with CONFIG. SLICE_READY ends the creation, and the template's timeout undoes it with TEMPLATE. RESET does the
same with the worlds' work ended and the slice kept BUSY. DESTROY detaches every world and discards the key, and
DESTROYING then ends EMPTY. A fatal error takes a slice to FAILED with its cause. -/
def Obligations.SliceLife : Prop :=
  (∀ (s : State) cmd, TakesCommand s 1 cmd → (s.accepting cmd).commandCheck (s.commandOf cmd) = none →
    let n := cmdNode cmd
    let k := nodeCtl n
    let sl := s.slice k
    (s.slices.any (fun e => e.2.st != .empty && (isAncestor e.2.node n || isAncestor n e.2.node)) = true →
      exec (.create cmd) s = .next ((s.accepting cmd).endCommand 3)) ∧
    (s.slices.any (fun e => e.2.st != .empty && (isAncestor e.2.node n || isAncestor n e.2.node)) = false →
      (8 < bits s.slcArg.toNat 3 0 ∨ State.tmplOk sl n = false → exec (.create cmd) s = .next ((s.accepting cmd).endCommand 5)) ∧
      (bits s.slcArg.toNat 3 0 ≤ 8 → State.tmplOk sl n = true → ∃ u : State,
        exec (.create cmd) s = .next (u.loadTemplate k) ∧ (u.slice k).st = .creating ∧ (u.slice k).node = n ∧
        (u.slice k).owner = cmdOwner cmd ∧ (u.slice k).winWays = bits s.slcArg.toNat 3 0 ∧ (u.slice k).key = some (s.keys + 1) ∧
        (u.slice k).worlds = [] ∧ (u.slice k).area = State.tmplArea sl ∧ (u.slice k).template = some 0 ∧ u.palPend = some (s.cycle / 512 + 1) ∧
        u.command = (s.accepting cmd).command ∧ (∀ a, ctlBase k ≤ a → a < ctlBase k + nodeBytes n → u.byte .hbm a = 0)))) ∧
  (∀ (s : State) c, (s.slice c).template = some 0 → (s.slice c).tmplSize.toNat < 4096 →
    s.loadTemplate c = (s.modSlice c fun x => { x with template := none }).pushOnce (.sliceReady c)) ∧
  (∀ (s : State) c k bs, (s.slice c).template = some k → s.hostRead 0 (State.tmplPage (s.slice c) k) 4096 = some bs →
    s.loadStep c k = (((s.atsHold 0 (State.tmplPage (s.slice c) k / 4096)).write .hbm
      (ctlBase c + (s.slice c).tmplDest.toNat + 4096 * k) bs).meterSlice c 7 4096).modSlice c fun x => { x with template := some (k + 1) }) ∧
  (∀ (s : State) c d, (s.slice c).st = .creating → (s.slice c).template = none → s.command = some d → Answers (.sliceReady c) s fun t =>
    (t.slice c).st = .ready ∧ t.command = some { d with ended := some 0 }) ∧
  (∀ (s : State) c d, (s.slice c).st = .creating → (s.slice c).template.isSome → s.command = some d → nodeCtl d.node = c →
    s.activating = false → d.bound + 49000000 ≤ s.clock → Answers (.templateTimeout c) s fun t =>
      (t.slice c).st = .empty ∧ (t.slice c).key = none ∧ t.command = some { d with ended := some 7 }) ∧
  (∀ (s : State) cmd, TakesCommand s 9 cmd → cmdWorld cmd = 0 → (s.accepting cmd).commandCheck (s.commandOf cmd) = none →
    exec (.reset cmd) s = .next ((s.accepting cmd).resetSlice (s.commandOf cmd))) ∧
  (∀ (s : State) (c : Command), (s.slice (nodeCtl c.node)).st ≠ .ready → (s.slice (nodeCtl c.node)).st ≠ .failed →
    s.resetSlice c = s.endCommand 4 ∧ s.destroySlice c = s.endCommand 4) ∧
  (∀ (s : State) cmd, TakesCommand s 2 cmd → (s.accepting cmd).commandCheck (s.commandOf cmd) = none →
    ((s.slice (nodeCtl (cmdNode cmd))).st = .ready ∨ (s.slice (nodeCtl (cmdNode cmd))).st = .failed) →
    Answers (.destroy cmd) s fun t => let x := t.slice (nodeCtl (cmdNode cmd))
      x.st = .destroying ∧ x.key = none ∧ x.events = [] ∧ x.heldEvents = [] ∧ Instr.destroyingDone (nodeCtl (cmdNode cmd)) ∈ t.due) ∧
  (∀ (s : State) c, (s.slice c).st = .destroying → Answers (.destroyingDone c) s fun t => ∃ u : State,
    t = (u.stageCalendar.checkAll).endCommand 0 ∧ u.worlds = s.worlds ∧ SameMemory s u ∧
    u.slices = (s.slices.insert c { (State.keptRegisters (s.slice c)) with
      meter := (s.slice c).meter.put 0 13 (((s.slice c).meter.get 0 13 + (s.clock - (s.slice c).residSince) / 1000) % 2 ^ 64) }).map
        fun e => (e.1, { e.2 with lend := e.2.lend &&& ~~~(1#16 <<< c) })) ∧
  (∀ (s : State) c cause, (s.slice c).st ≠ .ready → (s.slice c).st ≠ .busy → exec (.fatalSliceError c cause) s = .next s) ∧
  (∀ (s : State) c cause, ((s.slice c).st = .ready ∨ (s.slice c).st = .busy) → s.command = none → (s.slice c).worlds = [] →
    (∀ e ∈ s.worlds, e.2.st ≠ .resetting) → bits s.relBase.toNat 3 0 < 6 → Answers (.fatalSliceError c cause) s fun t =>
      (t.slice c).st = .failed ∧ (t.slice c).cause = cause.toNat ∧ t.errors.length = min 64 (s.errors.length + 1) ∧ t.relOvf = true ∧
      SameMemory s t) ∧
  (∀ (s : State) f, s.palPend = some f → f ≤ s.cycle / 512 →
    exec .calendarSwitch s = .next { s with calendar := s.calendarNext, palPend := none }) ∧
  (∀ (s : State) f, s.palPend = some f → s.cycle / 512 < f → exec .calendarSwitch s = .next s)

/-- ATTACH ends with STATE, WORLDS or CONFIG, or gives the world its region, masks, first segment, a new key and the
lowest empty position, and makes its region fresh. Setting EN starts the world, clearing it stops its program; while
QUIESCED both only store EN. QUIESCE stops the program and saves the teams, RESUME goes on as EN says, and starts the
program again from ENTRY where EN was cleared and set again meanwhile. A reset ends all work, empties rings and queue,
and comes back ATTACHED with a new key and a fresh region; a function level reset waits for a command of its slice.
DETACH frees the world and discards its keys. -/
def Obligations.WorldLife : Prop :=
  (∀ (s : State) cmd, TakesCommand s 5 cmd → (s.accepting cmd).commandCheck (s.commandOf cmd) = none →
    let w := cmdWorld cmd
    let k := nodeCtl (cmdNode cmd)
    let base := bits s.slcArg.toNat 9 0
    let size := bits s.slcArg.toNat 21 12
    let win := s.slcArg.extractLsb' 32 16
    let cache := s.slcArg.extractLsb' 48 16
    ((s.slice k).st ≠ .ready ∨ (s.world w).st ≠ .free → exec (.attach cmd) s = .next ((s.accepting cmd).endCommand 4)) ∧
    ((s.slice k).st = .ready → (s.world w).st = .free →
      (6 ≤ (s.slice k).worlds.length → exec (.attach cmd) s = .next ((s.accepting cmd).endCommand 8)) ∧
      ((s.slice k).worlds.length < 6 →
        ((s.accepting cmd).attachBad k base size (s.slcArg.getLsbD 10) win cache = true →
          exec (.attach cmd) s = .next ((s.accepting cmd).endCommand 5)) ∧
        ((s.accepting cmd).attachBad k base size (s.slcArg.getLsbD 10) win cache = false → Answers (.attach cmd) s fun t => ∃ u : State,
          t = ((u.tdiError w).openChain w (s.commandOf cmd).start false).endCommand 0 ∧ (u.world w).st = .attached ∧ (u.world w).ctl = k ∧
          (u.world w).base = base ∧ (u.world w).size = size ∧ (u.world w).windowMask = win ∧ (u.world w).cacheMask = cache ∧
          (u.world w).key = some (s.keys + 1) ∧ (u.world w).en = false ∧ (u.world w).adopted = s.slcArg.getLsbD 10 ∧
          (u.world w).segments = [(0, State.segZero base size)] ∧
          (u.slice k).wlist = (s.slice k).wlist.set ((s.slice k).wlist.findIdx (· == 0)) w ∧
          (s.slcArg.getLsbD 10 = false → ∀ a, ctlBase k + base * giB ≤ a → a < ctlBase k + base * giB + size * giB → u.byte .hbm a = 0))))) ∧
  (∀ (s : State) w, (s.world w).st = .attached → exec (.wldCtlEnSet w) s = .next (s.startWorld w)) ∧
  (∀ (s : State) w, (s.world w).st = .quiesced → exec (.wldCtlEnSet w) s = .next (s.modWorld w fun x => { x with en := true }) ∧
    exec (.wldCtlEnClear w) s = .next (s.modWorld w fun x => { x with en := false, enDropped := true })) ∧
  (∀ (s : State) w, (s.world w).st = .running → Answers (.wldCtlEnClear w) s fun t =>
    (t.world w).st = .attached ∧ (t.world w).en = false ∧ (t.prog w).st = .stopped ∧ t.launches = s.launches ∧ t.teams = s.teams) ∧
  (∀ (s : State) w, ((s.world w).st = .free ∨ (s.world w).st = .resetting) →
    exec (.wldCtlEnSet w) s = .next s ∧ exec (.wldCtlEnClear w) s = .next s) ∧
  (∀ (s : State) w, (s.world w).cprog.getLsbD 0 = false → ∃ u : State, s.startProg w = u.checkMeasured w ∧
    (u.prog w).st = .running ∧ (u.prog w).custom = false ∧ (u.prog w).fifo = {} ∧ (u.world w).progDigest = Config.sha384 (s.imageBody 6)) ∧
  (∀ (s : State) cmd ws, TakesCommand s 7 cmd → (s.accepting cmd).commandCheck (s.commandOf cmd) = none →
    (s.accepting cmd).namedWorlds (s.commandOf cmd) .running = some ws →
    exec (.quiesce cmd) s = .next ((ws.foldl (fun s w => s.quiesceWorld w 2) (s.accepting cmd)).pushOnce .commandDone)) ∧
  (∀ (s : State) cmd ws, TakesCommand s 8 cmd → (s.accepting cmd).commandCheck (s.commandOf cmd) = none →
    (s.accepting cmd).namedWorlds (s.commandOf cmd) .quiesced = some ws →
    exec (.resume cmd) s = .next ((ws.foldl (fun s w => s.resumeWorld w) (s.accepting cmd)).endCommand 0)) ∧
  (∀ (s : State) w k, s.quiesceWorld w k =
    ((s.modWorld w fun x => { x with st := .quiesced, enDropped := !x.en }).saveWorld w k).decide' (s.world w).ctl) ∧
  (∀ (s : State) w, (s.world w).en = true → (s.world w).enDropped = false → s.resumeWorld w =
    (s.modWorld w fun x => { x with st := .running, enDropped := false, exported := false, dropWrites := false }).wakeGangs.decide' (s.world w).ctl) ∧
  (∀ (s : State) w, (s.world w).en = true → (s.world w).enDropped = true → s.resumeWorld w =
    ((((s.modWorld w fun x => { x with st := .running, enDropped := false, exported := false, dropWrites := false }).readContext w).startProg w).wakeGangs).decide'
      (s.world w).ctl) ∧
  (∀ (s : State) w, (s.world w).en = false → s.resumeWorld w =
    (((s.modWorld w fun x => { x with st := .attached, enDropped := false, exported := false, dropWrites := false }).stopProg w).tlbDropAll w).wakeGangs.decide'
      (s.world w).ctl) ∧
  (∀ (s : State) cmd, TakesCommand s 9 cmd → cmdWorld cmd ≠ 0 → (s.accepting cmd).commandCheck (s.commandOf cmd) = none →
    let k := nodeCtl (cmdNode cmd)
    ((s.slice k).st = .ready ∨ (s.slice k).st = .failed) → (s.accepting cmd).slotted k (cmdWorld cmd) = true →
    ((s.world (cmdWorld cmd)).st = .attached ∨ (s.world (cmdWorld cmd)).st = .running ∨ (s.world (cmdWorld cmd)).st = .quiesced) →
    exec (.worldReset cmd) s = .next (((s.accepting cmd).beginReset (cmdWorld cmd) 2).pushOnce (.resettingDone (cmdWorld cmd)))) ∧
  (∀ (s : State) w c, let x := (s.beginReset w c).world w
    x.st = .resetting ∧ x.lastReset = c ∧ x.en = false ∧ x.context = none ∧ x.secondKey = none ∧ x.tracking = false ∧
    ∀ r ∈ x.rings, r.2.head = 0 ∧ r.2.tail = 0 ∧ r.2.badNotify = false) ∧
  (∀ (s : State) w, w ≠ 0 → ((s.world w).st = .attached ∨ (s.world w).st = .running ∨ (s.world w).st = .quiesced) →
    (s.activating = false → s.sliceCommanded w = false → exec (.functionLevelReset w) s = .next (((s.resetVectors w).beginReset w 1).pushOnce (.resettingDone w))) ∧
    (s.activating = true ∨ s.sliceCommanded w = true → s.held.contains (.functionLevelReset w) = false →
      exec (.functionLevelReset w) s = .next { s with held := s.held ++ [.functionLevelReset w] })) ∧
  (∀ (s : State) w, (s.world w).st = .resetting → s.command = none → Answers (.resettingDone w) s fun t =>
    (t.world w).st = .attached ∧ (t.world w).en = false ∧ (t.world w).key = some (s.keys + 1) ∧ (t.world w).window = [] ∧
    ∀ a, (State.regionRange (s.world w)).1 ≤ a → a < (State.regionRange (s.world w)).1 + (State.regionRange (s.world w)).2 → t.byte .hbm a = 0) ∧
  (∀ (s : State) cmd, TakesCommand s 6 cmd → (s.accepting cmd).commandCheck (s.commandOf cmd) = none →
    let k := nodeCtl (cmdNode cmd)
    ((s.slice k).st = .ready ∨ (s.slice k).st = .failed) → (s.accepting cmd).slotted k (cmdWorld cmd) = true →
    ((s.world (cmdWorld cmd)).st = .attached ∨ (s.world (cmdWorld cmd)).st = .quiesced) →
    exec (.detach cmd) s = .next (((s.accepting cmd).detachWorld (cmdWorld cmd)).endCommand 0)) ∧
  (∀ (s : State) w, w ≠ 0 → let t := s.detachWorld w
    (t.world w).st = .free ∧ (t.world w).key = none ∧ (t.world w).segments = [] ∧ w ∉ (t.slice (s.world w).ctl).wlist)

/-- MERGE needs two READY children of one owner group and window size, at most 6 worlds and 4,096 events together, or
ends with STATE, OWNER, CONFIG, WORLDS or EVENTS. SPLIT needs a READY node below 16 and regions that lie in their
children, or ends with STATE, CONFIG or MEMORY; it holds placement until the teams that must move are saved, then
takes effect, or, 40 ms after it was taken up, ends with TIMEOUT and the slice whole; a cluster that is saved in part
is saved whole then. A moved world keeps its bytes: its region base and the targets of its device segments shift by
the same amount. -/
def Obligations.MergeAndSplit : Prop :=
  (∀ (s : State) cmd, TakesCommand s 3 cmd → (s.accepting cmd).commandCheck (s.commandOf cmd) = none →
    let n := cmdNode cmd
    let a := s.slice (nodeCtl (2 * n))
    let b := s.slice (nodeCtl (2 * n + 1))
    let u := s.accepting cmd
    (16 ≤ n ∨ a.st ≠ .ready ∨ a.node ≠ 2 * n ∨ b.st ≠ .ready ∨ b.node ≠ 2 * n + 1 → exec (.merge cmd) s = .next (u.endCommand 4)) ∧
    (n < 16 → a.st = .ready → a.node = 2 * n → b.st = .ready → b.node = 2 * n + 1 →
      (a.owner ≠ b.owner → exec (.merge cmd) s = .next (u.endCommand 9)) ∧
      (a.owner = b.owner → a.winWays ≠ b.winWays → exec (.merge cmd) s = .next (u.endCommand 5)) ∧
      (a.owner = b.owner → a.winWays = b.winWays → 6 < a.worlds.length + b.worlds.length → exec (.merge cmd) s = .next (u.endCommand 8)) ∧
      (a.owner = b.owner → a.winWays = b.winWays → a.worlds.length + b.worlds.length ≤ 6 → 4096 < a.events.length + b.events.length →
        exec (.merge cmd) s = .next (u.endCommand 10)) ∧
      (a.owner = b.owner → a.winWays = b.winWays → a.worlds.length + b.worlds.length ≤ 6 → a.events.length + b.events.length ≤ 4096 →
        exec (.merge cmd) s = .next (u.mergeSlices n (2 * n) (2 * n + 1))))) ∧
  (∀ (s : State) w ctl base n, let t := s.moveWorld w ctl base n
    (t.world w).ctl = ctl ∧ (t.world w).base = base ∧ (t.world w).size = (s.world w).size ∧ (t.world w).key = (s.world w).key ∧
    (t.world w).windowMask = (s.world w).windowMask ∧ (t.world w).segments = (s.world w).segments.map (fun e => (e.1, State.shiftSegment e.2 n)) ∧
    SameMemory s t ∧ ∀ u, u ≠ w → t.world u = s.world u) ∧
  (∀ (g : BitVec 128) n, g.getLsbD 127 = true → g.extractLsb' 125 2 = 0 → n < 2 ^ 32 →
    (State.shiftSegment g n).extractLsb' 64 32 = g.extractLsb' 64 32 + BitVec.ofNat 32 n ∧
    (State.shiftSegment g n).extractLsb' 0 64 = g.extractLsb' 0 64 ∧ (State.shiftSegment g n).extractLsb' 96 32 = g.extractLsb' 96 32) ∧
  (∀ (g : BitVec 128) n, g.getLsbD 127 = false ∨ g.extractLsb' 125 2 ≠ 0 → State.shiftSegment g n = g) ∧
  (∀ (s : State) cmd, TakesCommand s 4 cmd → (s.accepting cmd).commandCheck (s.commandOf cmd) = none →
    let k := nodeCtl (cmdNode cmd)
    let u := s.accepting cmd
    ((s.slice k).st ≠ .ready → exec (.split cmd) s = .next (u.endCommand 4)) ∧
    ((s.slice k).st = .ready → 16 ≤ cmdNode cmd → exec (.split cmd) s = .next (u.endCommand 5)) ∧
    ((s.slice k).st = .ready → cmdNode cmd < 16 → u.splitBad (s.commandOf cmd) = true → exec (.split cmd) s = .next (u.endCommand 6)) ∧
    ((s.slice k).st = .ready → cmdNode cmd < 16 → u.splitBad (s.commandOf cmd) = false → (s.slice k).worlds = [] →
      exec (.split cmd) s = .next ((u.modSlice k fun x => { x with st := .busy, splitting := true }).pushOnce .commandDone)) ∧
    ((s.slice k).st = .ready → cmdNode cmd < 16 → u.splitBad (s.commandOf cmd) = false → ∃ v : State,
      exec (.split cmd) s = .next (v.pushOnce .commandDone))) ∧
  (∀ (s : State) c, s.command = some c → c.op = 4 → c.ended = none → (s.slice (nodeCtl c.node)).splitting = true → s.splitReady c = true →
    exec .commandDone s = .next ((s.splitSlice c).finishCommand c 0)) ∧
  (∀ (s : State) c, s.command = some c → c.op = 4 → c.ended = none → s.splitReady c = false →
    exec .commandDone s = .next s) ∧
  (∀ (s : State) k d, s.command = some d → d.op = 4 → nodeCtl d.node = k → d.ended = none → (s.slice k).splitting = true →
    s.activating = false → d.bound + 40000000 ≤ s.clock → s.splitReady d = false → exec (.splitTimeout k) s = .next
      (((s.teams.filter fun e => (s.launch e.2.launch).ctl == k && e.2.savePending == some 3 &&
          !s.teams.any fun f => f.2.st == .saved && f.2.launch == e.2.launch && f.2.cluster == e.2.cluster).foldl (fun s e => s.cancelSave e.1)
        (s.modSlice k fun x => { x with splitting := false })).endCommand 11))

/-- While EN = 1 a write of WLD_RBASE or WLD_CPROG is ignored; an accepted write of WLD_RBASE stores its fields and
sets head and tail to 0. A notify write is ignored silently unless the world is RUNNING and the ring ACTIVE. It is
ignored with BADNOTIFY when it lies more than N records past the head or past the accepted tail. Else it is the new
tail, and one NOTIFY event is posted when it moves the tail, no NOTIFY of the ring is unread and the ring holds no
record. -/
def Obligations.RingRegisters : Prop :=
  (∀ (s : State) w r v, (s.world w).en = true → exec (.wldRbaseWrite w r v) s = .next s ∧ exec (.wldCprogWrite w v) s = .next s) ∧
  (∀ (s : State) w v, (s.world w).en = false →
    exec (.wldCprogWrite w v) s = .next (s.modWorld w fun x => { x with cprog := v &&& 0x000FFFFFFFFFFF01 })) ∧
  (∀ (s : State) w r v, (s.world w).en = false → r < 8 → Answers (.wldRbaseWrite w r v) s fun t =>
    State.ring (t.world w) r = { State.ring (s.world w) r with base := v &&& 0x000FFFFFFFFFF00F, head := 0, tail := 0 } ∧
    (∀ q, q ≠ r → State.ring (t.world w) q = State.ring (s.world w) q) ∧ ∀ u, u ≠ w → t.world u = s.world u) ∧
  (∀ (s : State) w r v, ((s.world w).st ≠ .running ∨ (State.ring (s.world w) r).enabled = false) →
    exec (.wldNotifyWrite w r v) s = .next s) ∧
  (∀ (s : State) w r v, r < 8 → (s.world w).st = .running → (s.world w).tdi ≠ .error →
    let g := State.ring (s.world w) r
    g.enabled = true → (2 ^ g.log < (v - g.head).toNat ∨ 2 ^ g.log < (v - g.tail).toNat) →
    exec (.wldNotifyWrite w r v) s = .next (s.modWorld w fun x => { x with rings := x.rings.insert r { g with badNotify := true } })) ∧
  (∀ (s : State) w r v, r < 8 → (s.world w).st = .running → (s.world w).tdi ≠ .error →
    let g := State.ring (s.world w) r
    let told := s.modWorld w fun x => { x with rings := x.rings.insert r { g with tail := v } }
    let unread := ((s.slice (s.world w).ctl).events ++ (s.slice (s.world w).ctl).heldEvents).any fun e => e.world == w && e.type == 6 && e.aux == r
    g.enabled = true → (v - g.head).toNat ≤ 2 ^ g.log → (v - g.tail).toNat ≤ 2 ^ g.log →
    (v = g.tail ∨ unread = true ∨ g.head ≠ g.tail → exec (.wldNotifyWrite w r v) s = .next told) ∧
    (v ≠ g.tail → unread = false → g.head = g.tail →
      exec (.wldNotifyWrite w r v) s = .next (told.postEvent w { type := 6, world := w, aux := r })))

/-- UAL_STATION takes a number only while every slice is EMPTY. A routing entry keeps VALID only with ports of its
slice. SLC_AGE_LIMIT, SLC_LEND and SLC_QUANTUM store what the rules admit. A segment is stored but for a bound TDI,
and stays invalid with KIND 3 or when a device segment reaches outside its region. WLD_TCTX is stored while EN = 0.
KEY_TAGBASE and KEY_ROT act but for a bound TDI. REL_STAT clears OVF and LOST by a one, MET_PERIOD takes 100 to
60,000. A write of a whole register through a BAR does what the register does; elsewhere it does nothing. -/
def Obligations.DeviceRegisters : Prop :=
  (∀ (s : State) v, ((∀ e ∈ s.slices, e.2.st = .empty) → exec (.ualStationWrite v) s = .next { s with station := v.extractLsb' 0 10 }) ∧
    ((∃ e ∈ s.slices, e.2.st ≠ .empty) → exec (.ualStationWrite v) s = .next s)) ∧
  (∀ (s : State) c n v, c < 16 → n < 1024 → (s.slice c).node ≠ 0 → Answers (.routingEntryWrite c n v) s fun t =>
    let e := (t.slice c).routes.get 0 n
    e.extractLsb' 0 39 = v.extractLsb' 0 39 ∧ e.extractLsb' 40 5 = v.extractLsb' 40 5 ∧ e.extractLsb' 48 10 = v.extractLsb' 48 10 ∧
    ((∃ q < 32, v.getLsbD q = true ∧ q ∉ nodeQuads (s.slice c).node) ∨ v.extractLsb' 0 32 = 0 → e.getLsbD 63 = false) ∧
    ((∀ q < 32, v.getLsbD q = true → q ∈ nodeQuads (s.slice c).node) → v.extractLsb' 0 32 ≠ 0 → e.getLsbD 63 = v.getLsbD 63)) ∧
  (∀ (s : State) c v, c < 16 → exec (.slcAgeLimitWrite c v) s =
    .next ((s.modSlice c fun x => { x with ageLimit := v.toNat % 256 }).decide' c)) ∧
  (∀ (s : State) c v, c < 16 → exec (.slcQuantumWrite c v) s =
    .next (s.modSlice c fun x => { x with quantum := min 1000 (v.toNat % 65536) })) ∧
  (∀ (s : State) c v, c < 16 → Answers (.slcLendWrite c v) s fun t => ∃ u : State, t = u.checkAll ∧
    (u.slice c).lend = BitVec.ofNat 16 (bitSet ((List.range 16).filter fun k => bit v.toNat k && k != c &&
      ((s.slice k).st == .ready || (s.slice k).st == .busy) && (s.slice k).owner == (s.slice c).owner))) ∧
  (∀ (s : State) w i v, 1 ≤ w → w ≤ 96 → i < 16 → s.tdiBound w = false → Answers (.segmentWrite w i v) s fun t =>
    let g := (t.world w).segments.get 0 i
    let x := s.world w
    let lo := (v.extractLsb' 64 32).toNat
    g.extractLsb' 0 106 = v.extractLsb' 0 106 ∧ g.extractLsb' 125 2 = v.extractLsb' 125 2 ∧
    (v.extractLsb' 125 2 = 3 → g.getLsbD 127 = false) ∧
    (v.extractLsb' 125 2 = 0 → lo < x.base * 16384 ∨ (x.base + x.size) * 16384 < lo + (v.extractLsb' 32 32).toNat → g.getLsbD 127 = false) ∧
    (v.extractLsb' 125 2 = 0 → x.base * 16384 ≤ lo → lo + (v.extractLsb' 32 32).toNat ≤ (x.base + x.size) * 16384 → g.getLsbD 127 = v.getLsbD 127) ∧
    (v.extractLsb' 125 2 = 1 ∨ v.extractLsb' 125 2 = 2 → g.getLsbD 127 = v.getLsbD 127)) ∧
  (∀ (s : State) w i v, s.tdiBound w = true → exec (.segmentWrite w i v) s = .next s ∧
    exec (.keyTagbaseWrite w (v.setWidth 64)) s = .next s ∧ exec (.keyRotStart w) s = .next s) ∧
  (∀ (s : State) w v, ((s.world w).en = true → exec (.wldTctxWrite w v) s = .next s) ∧
    ((s.world w).en = false → exec (.wldTctxWrite w v) s = .next (s.modWorld w fun x => { x with tctx := v &&& 0x0000FFFFFFFFFFC0 }))) ∧
  (∀ (s : State) w v, 1 ≤ w → w ≤ 96 → s.tdiBound w = false →
    ((s.world w).tracking = false ∨ v.getLsbD 0 = false →
      exec (.keyTagbaseWrite w v) s = .next (s.modWorld w fun x => { x with tagBase := v &&& 0x0000FFFFFFFF0001 })) ∧
    ((s.world w).tracking = true → v.getLsbD 0 = true → exec (.keyTagbaseWrite w v) s = .next s) ∧
    ((s.world w).st ≠ .free → exec (.keyRotStart w) s = .next (s.startRotation w 0).2)) ∧
  (∀ (s : State) v, (v.getLsbD 31 = true → exec (.relStatWrite v) s = .next { s with relOvf := false, relLost := 0 }) ∧
    (v.getLsbD 31 = false → exec (.relStatWrite v) s = .next s)) ∧
  (∀ (s : State) v, let p := (v.extractLsb' 0 17).toNat
    (100 ≤ p → p ≤ 60000 → exec (.metPeriodWrite v) s = .next { s with metPeriod := p }) ∧
    (p < 100 ∨ 60000 < p → exec (.metPeriodWrite v) s = .next s)) ∧
  (∀ (s : State) w v, (s.world w).st ≠ .free → ∀ u, s.wpaWrite w (State.contextAddr (s.world w) + 0x1C) (leBytes 4 v.toNat) = some u →
    exec (.fqHeadWrite w v) s = .next (u.flushRecords w (u.waitingRecords w))) ∧
  (∀ (s : State) fn off r (v : BitVec 64), barReg fn off = some r → r.base = off → 1 ≤ r.bytes → r.bytes ≤ 8 → v.toNat < 256 ^ r.bytes →
    exec (.registerWrite fn off (8 * r.bytes) v) s = .next (s.regPut r.reg v.toNat)) ∧
  (∀ (s : State) fn off v, barReg fn off = none → exec (.registerWrite fn off 8 v) s = .next s)

/-- A firmware command with a bad image ends with BADCMD, ACTIVATE of MEMT or LINK too, of an image that is not staged
with NOSTAGE. STAGE copies host bytes into the inactive bank and checks signature and version; the management port
stages beside it and answers with the status. An activation makes the staged bank the active one, the activation
counter advances by one, and what was held runs first. A cold reset loads the images in their order, each from either
bank; one that fails in both, or a link below its rate or width, is reported and ends nothing; else a bring-up starts
with the counter 0, and the configuration space answers Retry until it ends. Counters are committed by COUNTER_COMMIT
and POWER_DOWN, and what was not committed is lost with the power. -/
def Obligations.Firmware : Prop :=
  (∀ p ∈ [(1, Instr.stage), (2, .activate), (3, .discard)], ∀ (s : State) cmd, fwOp cmd = p.1 → cmd.getLsbD 0 = true →
    (s.fw ≠ none → exec (p.2 cmd) s = .next s) ∧
    (s.fw = none → (fwImage cmd = 0 ∨ 5 < fwImage cmd) →
      exec (p.2 cmd) s = .next ({ s with fwaCmd := cmd &&& 0xFF0000F1 }.endFw 2 s.clock))) ∧
  (∀ (s : State) cmd, cmd.getLsbD 0 = true → s.fw = none → 1 ≤ fwImage cmd → fwImage cmd ≤ 5 →
    (fwOp cmd = 1 → State.stageable s.fwaAddr.toNat s.fwaSize.toNat = true → exec (.stage cmd) s = .next { s with
      fwaCmd := cmd &&& 0xFF0000F1, fw := some ⟨1, fwImage cmd, s.clock, s.fwaAddr.toNat, s.fwaSize.toNat, 0⟩ }) ∧
    (fwOp cmd = 1 → State.stageable s.fwaAddr.toNat s.fwaSize.toNat = false →
      exec (.stage cmd) s = .next ({ s with fwaCmd := cmd &&& 0xFF0000F1 }.endFw 2 s.clock)) ∧
    (fwOp cmd = 2 → (fwImage cmd = 2 ∨ fwImage cmd = 3) → exec (.activate cmd) s = .next ({ s with fwaCmd := cmd &&& 0xFF0000F1 }.endFw 2 s.clock)) ∧
    (fwOp cmd = 2 → fwImage cmd ≠ 2 → fwImage cmd ≠ 3 → (s.staged.map (·.1)) ≠ some (fwImage cmd) →
      exec (.activate cmd) s = .next ({ s with fwaCmd := cmd &&& 0xFF0000F1 }.endFw 5 s.clock)) ∧
    (∀ b, fwOp cmd = 2 → fwImage cmd ≠ 2 → fwImage cmd ≠ 3 → s.staged = some (fwImage cmd, b) →
      exec (.activate cmd) s = .next { s with fwaCmd := cmd &&& 0xFF0000F1, fw := some ⟨2, fwImage cmd, s.clock, 0, 0, b⟩ }) ∧
    (fwOp cmd = 3 → Answers (.discard cmd) s fun t => t.staged = none ∧ t.fwaStatus = 0 ∧ t.fwaCmd.getLsbD 0 = false)) ∧
  (∀ (s : State) status start, (s.endFw status start).fw = none ∧ (s.endFw status start).fwaStatus = status ∧
    (s.endFw status start).fwaElapsed = min 0xFFFFFF ((s.clock - start) / 1000) ∧ (s.endFw status start).fwaCmd = s.fwaCmd &&& ~~~1#32) ∧
  (∀ (s : State) (f : FwCommand) body, s.hostRead 0 f.addr f.size = some body →
    let bank := 1 - s.bootBank.get 0 f.image
    let status := if Config.imageSigned f.image body = false then 3 else if Config.imageVersion f.image body < s.fuses.get 0 f.image then 4 else 0
    ∃ u : State, s.stageCopy f = (status, u) ∧
      u.banks = s.banks.insert (2 * f.image + bank) ⟨some body, Config.imageSigned f.image body, Config.imageVersion f.image body⟩ ∧
      (status = 0 → u.staged = some (f.image, bank)) ∧ (status ≠ 0 → s.staged ≠ some (f.image, bank) → u.staged = s.staged)) ∧
  (∀ (s : State) f, s.fw = some f → f.op = 1 → exec (.stageDone false) s = .next ((s.stageCopy f).2.endFw (s.stageCopy f).1 f.start)) ∧
  (∀ (s : State) f, s.portFw = some f → exec (.stageDone true) s = .next
    ({ (s.stageCopy f).2 with portFw := none }.send (.reply 0 [BitVec.ofNat 8 (s.stageCopy f).1]))) ∧
  (∀ (s : State) f, s.fw = some f → f.op = 2 → Answers .activationDone s fun t => ∃ u : State,
    t = u.releaseHeldOps.emitAll ∧ u.activations = s.activations + 1 ∧ u.fw = none ∧ u.fwaStatus = 0 ∧
    (s.staged = some (f.image, f.bank) → u.staged = none) ∧ u.bootBank = s.bootBank.put 0 f.image f.bank ∧
    u.builds = s.builds.insert f.image (((s.banks.get {} (2 * f.image + f.bank)).body).getD (Config.factoryImage f.image)) ∧ u.held = s.held) ∧
  (∀ (s : State), s.activating = false → s.releaseHeldOps = { s with agenda := s.held.map Move.event ++ s.agenda, held := [] }) ∧
  (∀ (s : State), s.activating = true → s.releaseHeldOps = s) ∧
  (∀ (s : State) image addr size, s.portFw = none → image ≠ 0 → image.toNat ≤ 5 → State.stageable addr.toNat size.toNat = true →
    exec (.firmwareStaging image addr size) s = .next { s with portFw := some ⟨1, image.toNat, s.clock, addr.toNat, size.toNat, 0⟩ }) ∧
  (∀ (s : State) image addr size, s.portFw = none → (image = 0 ∨ 5 < image.toNat ∨ State.stageable addr.toNat size.toNat = false) →
    exec (.firmwareStaging image addr size) s = .next (s.send (.reply 0 [2#8]))) ∧
  (∀ (s : State) rate width, 32 ≤ rate → 8 ≤ width → (∀ i < 5, ∃ b, s.bootOf (i + 1) = .ok b) → Answers (.coldReset ⟨rate, width⟩) s fun t =>
    t.up = false ∧ t.link.up = true ∧ t.upAt = some (t.clock + 900000000) ∧ t.activations = 0 ∧ t.frozen = none ∧
    t.slices = [] ∧ t.hbm = [] ∧ t.teams = [] ∧ t.clock = s.clockCommitted + 600000000000 ∧ t.host = s.host ∧
    t.life.get 0 0x330 = min 0xFFFFFFFF (s.life.get 0 0x330 + 1)) ∧
  (∀ (s : State) rate width, (rate < 32 ∨ width < 8) → (∀ i < 5, ∃ b, s.bootOf (i + 1) = .ok b) → Answers (.coldReset ⟨rate, width⟩) s fun t =>
    t.up = false ∧ t.upAt = none ∧ t.link.up = false ∧ t.out.getLast? = some (.linkDown rate width)) ∧
  (∀ (s : State) rate width i c, i < 5 → (∀ j < i, ∃ b, s.bootOf (j + 1) = .ok b) → s.bootOf (i + 1) = .error c →
    Answers (.coldReset ⟨rate, width⟩) s fun t =>
      t.up = false ∧ t.upAt = none ∧ t.bootFailed = i + 1 ∧ t.bootCause = c ∧ t.out.getLast? = some (.bootFailed (i + 1) c)) ∧
  (∀ (s : State) fn off, (s.bootFailed ≠ 0 ∨ s.link.up = false) → exec (.configurationRequest ⟨fn, off⟩) s = .next s) ∧
  (∀ (s : State) fn off, s.bootFailed = 0 → s.link.up = true →
    (s.up = false → s.upAt ≠ none → exec (.configurationRequest ⟨fn, off⟩) s = .next (s.send .configRetry)) ∧
    (s.up = true → fn ≤ 96 → exec (.configurationRequest ⟨fn, off⟩) s = .next (s.answer (leBytes 4 (configWord fn off))))) ∧
  configWord 0 0 = 0x96001D9C ∧ (∀ fn, fn ≠ 0 → configWord fn 0 = 0x96011D9C) ∧
  (∀ (s : State), Answers .counterCommit s fun t => t.lifePending = [] ∧ t.clockCommitted = s.clock ∧
    t.life = s.lifePending.foldl (fun m e => m.put 0 e.1 (min 0xFFFFFFFF (m.get 0 e.1 + e.2))) s.life) ∧
  (∀ (s : State), exec .powerDown s = .next { s.commitCounters with up := false, upAt := none }) ∧
  (∀ (s : State), exec .powerLoss s = .next { s with lifePending := [], up := false, upAt := none }) ∧
  (∀ (s : State) v w, fwOp v = 0 ∨ 3 < fwOp v → v.getLsbD 0 = true → s.fw = none →
    exec (.badcmd 1 w v) s = .next ({ s with fwaCmd := v &&& 0xFF0000F1 }.endFw 2 s.clock)) ∧
  (∀ (s : State) v w, cmdOp v = 0 ∨ 9 < cmdOp v → v.getLsbD 0 = true → s.command = none → s.held.any isCommand = false → s.activating = false →
    Answers (.badcmd 0 w v) s fun t => (t.command.map fun c => (c.op, c.ended)) = some (0, some 2) ∧ Instr.commandDone ∈ t.due) ∧
  (∀ (s : State) v w, 1 ≤ w → w ≤ 96 → cmdOp v = 0 ∨ 5 < cmdOp v → v.getLsbD 0 = true → s.command = none → s.held.any isCommand = false →
    s.activating = false → Answers (.badcmd 2 w v) s fun t =>
      (t.command.map fun c => (c.op, c.world, c.ended)) = some (0x80, w, some 2) ∧ Instr.migrationCommandDone w ∈ t.due)

/-- GET_VERSION, GET_CAPABILITIES, which sets the version, and NEGOTIATE_ALGORITHMS answer with the fixed values;
another version is a mismatch. Outside an activation GET_DIGESTS, GET_CERTIFICATE, CHALLENGE, GET_MEASUREMENTS and
KEY_EXCHANGE answer what they name; a bad slot, a bad index or a third session is an error, and a signing request
without the ExtAsym algorithm is unsupported. During an activation these five receive ResponseNotReady with a new
token, and RESPOND_IF_READY carries the request out once it has ended. A signed measurement says whether an activation
completed within its transcript. FINISH, KEY_UPDATE and END_SESSION act on a session that stands. Another request code
is unsupported. That values are opaque is the model's (log entries 10, 19, 20). -/
def Obligations.SpdmAnswers : Prop :=
  (∀ (s : State) w, Answers (.getVersion w) s fun t => t.out = s.out ++ [.reply 0 [0x12#8, 0x13#8]] ∧ (t.world w).spdm.transcript = some s.activations) ∧
  (∀ (s : State) w v, (v = 0x12#8 ∨ v = 0x13#8) → Answers (.getCapabilities ⟨w, v⟩) s fun t =>
    t.out = s.out ++ [.reply 0 (leBytes 4 4096 ++ leBytes 4 4096)] ∧ (t.world w).spdm.speaks = v.toNat) ∧
  (∀ (s : State) w v, v ≠ 0x12#8 → v ≠ 0x13#8 →
    exec (.getCapabilities ⟨w, v⟩) s = .next (s.send (.reply 5 [BitVec.ofNat 8 (s.world w).spdm.speaks, 0x7F#8, 0x41#8, 0#8]))) ∧
  (∀ (s : State) w ext, Answers (.negotiateAlgorithms w ext) s fun t => (t.world w).spdm.ext = ext ∧
    (t.world w).spdm.algorithms = some (fixedAlgorithms ext) ∧ t.out = s.out ++ [.reply 0 (fixedAlgorithms ext).bytes]) ∧
  (∀ (s : State) w, s.activating = false →
    exec (.getDigests w) s = .next (s.send (.reply 0 (leBytes 48 (Config.sha384 s.chainBytes))))) ∧
  (∀ (s : State) w off len, s.activating = false →
    exec (.getCertificate w 0 off len) s = .next (s.send (.reply 0 ((s.chainBytes.drop off).take (min len 4088))))) ∧
  (∀ (s : State) w slot off len, s.activating = false → slot ≠ 0 → (s.world w).spdm.ext = true →
    exec (.getCertificate w slot off len) s = .next (s.send (.reply 5 [BitVec.ofNat 8 (s.world w).spdm.speaks, 0x7F#8, 0x01#8, 0#8])) ∧
    exec (.challenge w slot) s = .next (s.send (.reply 5 [BitVec.ofNat 8 (s.world w).spdm.speaks, 0x7F#8, 0x01#8, 0#8])) ∧
    exec (.keyExchange w slot) s = .next (s.send (.reply 5 [BitVec.ofNat 8 (s.world w).spdm.speaks, 0x7F#8, 0x01#8, 0#8]))) ∧
  (∀ (s : State) w slot, s.activating = false → (s.world w).spdm.ext = false →
    exec (.challenge w slot) s = .next (s.send (.reply 5 [BitVec.ofNat 8 (s.world w).spdm.speaks, 0x7F#8, 0x07#8, 0x83#8])) ∧
    exec (.keyExchange w slot) s = .next (s.send (.reply 5 [BitVec.ofNat 8 (s.world w).spdm.speaks, 0x7F#8, 0x07#8, 0xE4#8])) ∧
    exec (.getMeasurements w slot true) s = .next (s.send (.reply 5 [BitVec.ofNat 8 (s.world w).spdm.speaks, 0x7F#8, 0x07#8, 0xE0#8]))) ∧
  (∀ (s : State) w, s.activating = false → (s.world w).spdm.ext = true → exec (.challenge w 0) s = .next (s.send (.reply 0
    (let bs := leBytes 48 (Config.sha384 s.chainBytes) ++ (List.range 8).flatMap fun i => s.measurementBytes w (i + 1)
     bs ++ leBytes 96 (Config.sign s.aliasKey bs))))) ∧
  (∀ (s : State) w idx sg, s.activating = false → (sg = true → (s.world w).spdm.ext = true) → (idx = 0 ∨ 8 < idx) →
    exec (.getMeasurements w idx sg) s = .next (s.send (.reply 5 [BitVec.ofNat 8 (s.world w).spdm.speaks, 0x7F#8, 0x01#8, 0#8]))) ∧
  (∀ (s : State) w idx, s.activating = false → 1 ≤ idx → idx ≤ 8 → Answers (.getMeasurements w idx false) s fun t =>
    t.out = s.out ++ [.reply 0 (0#8 :: s.measurementBytes w idx)] ∧
    (t.world w).spdm.transcript = some ((s.world w).spdm.transcript.getD s.activations)) ∧
  (∀ (s : State) w idx n, s.activating = false → (s.world w).spdm.ext = true → (s.world w).spdm.transcript = some n → 1 ≤ idx → idx ≤ 8 →
    Answers (.getMeasurements w idx true) s fun t => let bs := (if n = s.activations then 2#8 else 1#8) :: s.measurementBytes w idx
      t.out = s.out ++ [.reply 0 (bs ++ leBytes 96 (Config.sign s.aliasKey bs))] ∧ (t.world w).spdm.transcript = none) ∧
  (∀ (s : State) w, s.measurementBytes w 6 = leBytes 4 s.activations) ∧
  (∀ (s : State) w, s.activating = false → (s.world w).spdm.ext = true →
    (2 ≤ (s.world w).spdm.sessions.length → exec (.keyExchange w 0) s = .next (s.send (.reply 5 [BitVec.ofNat 8 (s.world w).spdm.speaks, 0x7F#8, 0x0A#8, 0#8]))) ∧
    ((s.world w).spdm.sessions = [] → Answers (.keyExchange w 0) s fun t =>
      (t.world w).spdm.sessions = [{ id := 1, secret := Config.sessionSecret (s.keys + 1) 0 }] ∧
      t.out = s.out ++ [.reply 0 ([1#8, 0#8] ++ leBytes 96 (Config.sign s.aliasKey [1#8, 0#8]))])) ∧
  (∀ (s : State) w i code f, (i, code) ∈ [(Instr.getDigests w, 0x81#8), (.getCertificate w 0 0 0, 0x82#8), (.challenge w 0, 0x83#8),
      (.getMeasurements w 1 false, 0xE0#8), (.getMeasurements w 1 true, 0xE0#8), (.keyExchange w 0, 0xE4#8)] → s.fw = some f → f.op = 2 →
    Answers i s fun t => (t.world w).spdm.deferred = some (((s.world w).spdm.tokens + 1) % 256, i) ∧
      (code = 0xE0#8 → (t.world w).spdm.transcript = some ((s.world w).spdm.transcript.getD s.activations)) ∧ t.out = s.out ++ [.reply 5 [BitVec.ofNat 8 (s.world w).spdm.speaks, 0x7F#8, 0x42#8, 0#8, BitVec.ofNat 8 (log2Up (250000 - (s.clock - f.start) / 1000)), code,
        BitVec.ofNat 8 ((s.world w).spdm.tokens + 1), 2#8]]) ∧
  (∀ (s : State) w token i code, (s.world w).spdm.deferred = some (token, i) → State.deferredCode i = some code.toNat → s.activating = false →
    exec (.respondIfReady w token code) s = .next ((s.modSpdm w fun x => { x with deferred := none }).carryOut i)) ∧
  (∀ (s : State) w token code, (s.world w).spdm.deferred = none →
    exec (.respondIfReady w token code) s = .next (s.send (.reply 5 [BitVec.ofNat 8 (s.world w).spdm.speaks, 0x7F#8, 0x04#8, 0#8]))) ∧
  (∀ (s : State) w sess x, s.session? w sess = some x → Answers (.finish w sess) s fun t =>
    t.out = s.out ++ [.reply 0 []] ∧ ∀ y ∈ (t.world w).spdm.sessions, y.id = sess → y.established = true) ∧
  (∀ (s : State) w sess, s.inSession w sess = true → Answers (.keyUpdate w sess) s fun t =>
    t.out = s.out ++ [.reply 0 []] ∧ (t.world w).spdm.sessions = (s.world w).spdm.sessions.map fun y => if y.id = sess then
      { y with updates := y.updates + 1, secret := Config.sessionSecret y.secret (y.updates + 1) } else y) ∧
  (∀ (s : State) w sess x, s.session? w sess = some x → (s.world w).lockSession ≠ sess → Answers (.endSession w sess) s fun t =>
    t.out = s.out ++ [.reply 0 []] ∧ ∀ y ∈ (t.world w).spdm.sessions, y.id ≠ sess) ∧
  (∀ (s : State) w sess, s.session? w sess = none → exec (.finish w sess) s = .next (s.send (.reply 5 [BitVec.ofNat 8 (s.world w).spdm.speaks, 0x7F#8, 0x02#8, 0#8])) ∧
    exec (.endSession w sess) s = .next (s.send (.reply 5 [BitVec.ofNat 8 (s.world w).spdm.speaks, 0x7F#8, 0x02#8, 0#8]))) ∧
  (∀ (s : State) w code, code ≠ 0xFE#8 → Answers (.spdmUnsupportedRequest w code) s fun t =>
    t.out = s.out ++ [.reply 5 [BitVec.ofNat 8 (s.world w).spdm.speaks, 0x7F#8, 0x07#8, code]])

/-- A TDISP message needs an established session. LOCK_INTERFACE_REQUEST locks an unlocked, ATTACHED world with EN = 0
and freezes its measurements, that of its program as the selected one (log entry 62); START makes it RUN; STOP leaves
any other state than CONFIG_UNLOCKED, ends the work, makes the region fresh under a new key. In another state each
receives INVALID_INTERFACE_STATE. The report gives the BAR0 block, the world and its node. CHKEY waits for pending
commands of its channel, then sets both counters to 0 and the channel LIVE under a new key; CHSTATUS returns state and
counters. IDE_KM, in a session of world 0, binds a stream to a world. -/
def Obligations.TdispAndChannels : Prop :=
  (∀ i ∈ [Instr.lockInterfaceRequest, .startInterfaceRequest, .stopInterfaceRequest, .getDeviceInterfaceReport], ∀ (s : State) w sess,
    s.inSession w sess = false → exec (i w sess) s = .next (s.send (.reply 5 [BitVec.ofNat 8 (s.world w).spdm.speaks, 0x7F#8, 0x02#8, 0#8]))) ∧
  (∀ (s : State) w sess, s.inSession w sess = true → w ≠ 0 → (s.world w).tdi = .unlocked → (s.world w).st = .attached → (s.world w).en = false →
    Answers (.lockInterfaceRequest w sess) s fun t => (t.world w).tdi = .locked ∧ (t.world w).lockSession = sess ∧
      (t.world w).measured = s.measurement7 w ++ [s.lockDigest w] ∧ t.out = s.out ++ [.reply 0 []] ∧ SameMemory s t) ∧
  (∀ (s : State) w, (s.world w).cprog.getLsbD 0 = false → s.lockDigest w = s.defaultDigest) ∧
  (∀ (s : State) w sess, s.inSession w sess = true → s.tdispQuery w sess 0x81 = s.send (.reply 0 [0x10#8]) ∧
    s.tdispQuery w sess 0x82 = s.send (.reply 0 (zeros 4)) ∧
    s.tdispQuery w sess 0x85 = s.send (.reply 0 [BitVec.ofNat 8 (State.tdiCode (s.world w).tdi)])) ∧
  (∀ (s : State) w sess, s.inSession w sess = true → ((s.world w).tdi ≠ .unlocked ∨ (s.world w).st ≠ .attached ∨ (s.world w).en = true) →
    exec (.lockInterfaceRequest w sess) s = .next (s.send (.reply 4 []))) ∧
  (∀ (s : State) w sess, s.inSession w sess = true → (s.world w).tdi = .locked → Answers (.startInterfaceRequest w sess) s fun t =>
    (t.world w).tdi = .run ∧ t.out = s.out ++ [.reply 0 []]) ∧
  (∀ (s : State) w sess, s.inSession w sess = true → (s.world w).tdi ≠ .locked →
    exec (.startInterfaceRequest w sess) s = .next (s.send (.reply 4 []))) ∧
  (∀ (s : State) w sess, s.inSession w sess = true → (s.world w).tdi = .unlocked →
    exec (.stopInterfaceRequest w sess) s = .next (s.send (.reply 4 []))) ∧
  (∀ (s : State) w sess, s.inSession w sess = true → (s.world w).tdi ≠ .unlocked → (s.world w).st ≠ .free → ∃ u : State,
    u = ((s.modWorld w fun x => { x with tdi := .unlocked }).dropWorld w).drawKey.2 ∧
    exec (.stopInterfaceRequest w sess) s = .next (((u.freshen (State.regionRange (u.world w)).1 (State.regionRange (u.world w)).2).modWorld w
      fun x => { x with key := some u.keys }).send (.reply 0 []))) ∧
  (∀ (s : State) w sess, s.inSession w sess = true → ((s.world w).tdi = .locked ∨ (s.world w).tdi = .run) →
    exec (.getDeviceInterfaceReport w sess) s = .next (s.send (.reply 0 (leBytes 8 (0x20000 + 0x100 * w) ++ leBytes 4 w ++ leBytes 4 (s.nodeOf w))))) ∧
  (∀ (s : State) w sess ch, s.inSession w sess = true → ch ≤ 3 → s.channelPending w ch = false → Answers (.chkey w sess ch) s fun t =>
    let c := (t.world w).channels.get {} ch
    let old := (s.world w).channels.get {} ch
    c.st = 1 ∧ c.send = 0 ∧ c.recv = 0 ∧ c.keyCount = old.keyCount + 1 ∧
    c.key = Config.channelKey (((s.session? w sess).map (·.secret)).getD 0) ch old.keyCount ∧ t.out = s.out ++ [.reply 0 []]) ∧
  (∀ (s : State) w sess ch, s.inSession w sess = true → ch ≤ 3 → s.channelPending w ch = true → s.held.contains (.chkey w sess ch) = false →
    exec (.chkey w sess ch) s = .next { s with held := s.held ++ [.chkey w sess ch] }) ∧
  (∀ (s : State) w sess ch, s.inSession w sess = true → ch ≤ 3 → exec (.chstatus w sess ch) s = .next (s.send (.reply 0
    (let c := (s.world w).channels.get {} ch; leBytes 1 c.st ++ leBytes 8 c.send ++ leBytes 8 c.recv)))) ∧
  (∀ (s : State) w sess ch, s.inSession w sess = true → 3 < ch →
    exec (.chkey w sess ch) s = .next (s.send (.reply 5 [BitVec.ofNat 8 (s.world w).spdm.speaks, 0x7F#8, 0x01#8, 0#8])) ∧
    exec (.chstatus w sess ch) s = .next (s.send (.reply 5 [BitVec.ofNat 8 (s.world w).spdm.speaks, 0x7F#8, 0x01#8, 0#8]))) ∧
  (∀ (s : State) stream world, stream ≤ 16 → (∃ x ∈ (s.world 0).spdm.sessions, x.established = true) → Answers (.ideKm stream world true) s fun t =>
    (stream, if stream = 0 then 0 else world) ∈ t.ide ∧ ∀ e ∈ t.ide, e.1 = stream → e.2 = if stream = 0 then 0 else world) ∧
  (∀ (s : State) stream world, stream ≤ 16 → (∃ x ∈ (s.world 0).spdm.sessions, x.established = true) → Answers (.ideKm stream world false) s fun t => ∀ e ∈ t.ide, e.1 ≠ stream)

/-- A decoder commits when its range lies in a world's region in units of 256 MiB, else it shows Error Not Committed.
An HDM read answers the bytes of the region, an error outside every decoder, poison through one that is closed or over
poisoned bytes; an HDM write stores the bytes or is dropped with a record. A snoop answers from the L2 host lines and
takes what the host writes. An ATS invalidation drops the held translations of its pages and completes at once where
no pass is posted; a PRG Response that no group waits for does nothing, one for a group replays its records or makes
them fatal. -/
def Obligations.HostLinks : Prop :=
  (∀ (s : State) k base size w roff, k < 8 → Answers (.hdmDecoderCommit k base size w roff) s fun t => ∃ d, t.decoders.look k = some d ∧
    d.base = base ∧ d.size = size ∧ d.world = w ∧ d.roff = roff ∧ d.error = !d.committed ∧
    (d.committed = true ↔ base % 2 ^ 28 = 0 ∧ size % 2 ^ 28 = 0 ∧ roff % 2 ^ 28 = 0 ∧ size ≠ 0 ∧ w ≠ 0 ∧ (s.world w).st ≠ .free ∧
      roff + size ≤ (s.world w).size * giB) ∧ SameMemory s t) ∧
  (∀ (s : State) addr n d, s.decoderAt addr n = some d →
    (s.decoderOpen d = false → exec (.hdmRead addr n) s = .next (s.send (.reply 3 []))) ∧
    (s.decoderOpen d = true → s.poisoned .hbm (s.decoderAddr d addr) n = true → exec (.hdmRead addr n) s = .next (s.send (.reply 3 []))) ∧
    (s.decoderOpen d = true → s.poisoned .hbm (s.decoderAddr d addr) n = false →
      exec (.hdmRead addr n) s = .next (s.send (.reply 0 (s.read .hbm (s.decoderAddr d addr) n))))) ∧
  (∀ (s : State) addr n, s.decoderAt addr n = none → exec (.hdmRead addr n) s = .next ((s.isolation 0 addr).send (.reply 1 []))) ∧
  (∀ (s : State) addr bs d, s.decoderAt addr bs.length = some d → s.decoderOpen d = true → (s.world d.world).dropWrites = false →
    exec (.hdmWrite addr bs) s = .next (s.write .hbm (s.decoderAddr d addr) bs)) ∧
  (∀ (s : State) addr bs d, s.decoderAt addr bs.length = some d → (s.decoderOpen d = false ∨ (s.world d.world).dropWrites = true) →
    exec (.hdmWrite addr bs) s = .next (s.isolation d.world addr)) ∧
  (∀ (s : State) addr bs, s.decoderAt addr bs.length = none → exec (.hdmWrite addr bs) s = .next (s.isolation 0 addr)) ∧
  (∀ (s : State) d addr, s.decoderAddr d addr = ctlBase (s.world d.world).ctl + (s.world d.world).base * giB + d.roff + (addr - d.base)) ∧
  (∀ (s : State) addr bs, Answers (.hostSnoop addr bs) s fun t =>
    let hit := fun (l : HostLine) => addr / 64 ≤ l.line && l.line ≤ (addr + bs.length - 1) / 64 || l.line == addr / 64
    let dirty := s.hostLines.any fun l => l.line == addr / 64 && l.dirty
    (∀ sp a, t.byte sp a = (s.write .host addr bs).byte sp a) ∧
    t.out = s.out ++ [.snooped (s.hostLines.any hit) (if dirty then s.read .host (addr / 64 * 64) 64 else [])] ∧
    (bs ≠ [] → ∀ l ∈ t.hostLines, l ∈ s.hostLines ∧ hit l = false) ∧
    (bs = [] → ∀ l ∈ t.hostLines, hit l = true → l.dirty = false)) ∧
  (∀ (s : State) w page count, Answers (.atsInvalidation w page count) s fun t =>
    t.atsHeld = s.atsHeld.filter (fun e => !(e.1.1 == w && decide (page ≤ e.2.1 ∧ e.2.1 < page + count))) ∧ t.atsTable = s.atsTable ∧
    t.tlb = s.tlb ∧ SameMemory s t ∧ (s.passes = [] → t.out = s.out ++ [.invalidated w page count] ∧ ∀ i ∈ t.held, i ∈ s.held)) ∧
  (∀ (s : State) w vpage ok, (∀ g ∈ (s.world w).priGroups, g.vpage ≠ vpage) → exec (.prgResponse w vpage ok) s = .next s) ∧
  (∀ (s : State) w vpage ok, w ≠ 0 → (∃ g ∈ (s.world w).priGroups, g.vpage = vpage) →
    let u := s.modWorld w fun x => { x with priGroups := x.priGroups.filter (·.vpage != vpage) }
    exec (.prgResponse w vpage ok) s = .next (((u.world w).records.filter fun r => r.ats && r.vpage == vpage && r.src != 2).foldl
      (fun s r => s.settleRecord w r ok) u))

/-- An inbound request is served when its target is a READY slice that holds the world and has a valid entry for the
requester, and its WPA passes the segment table: a read answers the bytes and counts them, a write stores them, an
atomic updates and answers the old value and is kept under its tag. Else a read or an atomic answers an error, a write
is dropped, each with an ISOLATION record. A repeated atomic is answered from the kept result, another one under the
same tag with MISMATCH. A response settles the request of its world under its tag; one without data is poison; one
that 2 ms pass without is indeterminate, with a REMOTE record where nobody waits for it. -/
def Obligations.PeerRequests : Prop :=
  (∀ (s : State) station snode sworld node world wpa len sp a, s.inboundTarget station snode sworld node world wpa len false = some (sp, a) →
    (s.poisoned sp a len = false → exec (.ualinkInboundRead station snode sworld node world wpa len) s =
      .next ((s.meter world 10 len).send (.reply 0 (s.read sp a len)))) ∧
    (s.poisoned sp a len = true → exec (.ualinkInboundRead station snode sworld node world wpa len) s = .next (s.send (.reply 1 [])))) ∧
  (∀ (s : State) station snode sworld node world wpa bs sp a, s.inboundTarget station snode sworld node world wpa bs.length true = some (sp, a) →
    exec (.ualinkInboundWrite station snode sworld node world wpa bs) s =
      .next (((s.write sp a bs).meter world 11 bs.length).send (.reply 0 []))) ∧
  (∀ (s : State) station snode sworld node world wpa len bs tag op b c,
    (s.inboundTarget station snode sworld node world wpa len false = none →
      exec (.ualinkInboundRead station snode sworld node world wpa len) s = .next ((s.isolation 0 wpa).send (.reply 1 []))) ∧
    (s.inboundTarget station snode sworld node world wpa bs.length true = none →
      exec (.ualinkInboundWrite station snode sworld node world wpa bs) s = .next (s.isolation 0 wpa)) ∧
    (s.inboundTarget station snode sworld node world wpa (atomBytes op) true = none →
      exec (.ualinkInboundAtomic station snode sworld node world wpa tag op b c) s = .next ((s.isolation 0 wpa).send (.reply 1 [])))) ∧
  (∀ (s : State) station snode sworld node world wpa n write, s.inboundOk station snode sworld node world = false →
    s.inboundTarget station snode sworld node world wpa n write = none) ∧
  (∀ (s : State) station snode sworld node world wpa n, (s.world world).dropWrites = true →
    s.inboundTarget station snode sworld node world wpa n true = none) ∧
  (∀ (s : State) station snode sworld node world wpa tag op b c sp a, op < 16 → atomBytes op = 8 →
    s.inboundTarget station snode sworld node world wpa 8 true = some (sp, a) → s.keptAtomic station snode sworld tag = none →
    s.poisoned sp a 8 = false → Answers (.ualinkInboundAtomic station snode sworld node world wpa tag op b c) s fun t =>
      let old := ofLe (s.read sp a 8)
      (∀ sq k, t.byte sq k = (s.write sp a (leBytes 8 (atomNew op old b.toNat 0))).byte sq k) ∧
      t.out = s.out ++ [.reply 0 (leBytes 8 old)] ∧
      ⟨station, snode, sworld, tag, wpa, node, world, op, b, 0, old⟩ ∈ t.kept) ∧
  (∀ (s : State) station snode sworld node world wpa tag op b c sp a q, op < 16 → atomBytes op = 8 →
    s.inboundTarget station snode sworld node world wpa 8 true = some (sp, a) → s.keptAtomic station snode sworld tag = some q →
    Answers (.ualinkInboundAtomic station snode sworld node world wpa tag op b c) s fun t => SameMemory s t ∧
      (q.op = op → q.wpa = wpa → q.node = node → q.world = world → q.b = b → q.cnew = 0 → t.out = s.out ++ [.reply 0 (leBytes 8 q.result)]) ∧
      (q.op ≠ op ∨ q.wpa ≠ wpa ∨ q.node ≠ node ∨ q.world ≠ world ∨ q.b ≠ b ∨ q.cnew ≠ 0 → t.out = s.out ++ [.reply 2 []])) ∧
  (∀ (s : State) w tag mismatch bs, s.waitingReq w tag.toNat = none →
    exec (.ualinkResponse ⟨w, tag⟩ mismatch bs) s = .next s ∧ exec (.requestTimeout ⟨w, tag⟩) s = .next s) ∧
  (∀ (s : State) w tag bs r, s.waitingReq w tag.toNat = some r →
    (bs ≠ [] → exec (.ualinkResponse ⟨w, tag⟩ false bs) s = .next ((s.meter w 11 bs.length).settleReq r (.ok bs))) ∧
    ((r.awaited = true ∨ r.write = false) → exec (.ualinkResponse ⟨w, tag⟩ false []) s = .next ((s.meter w 11 0).settleReq r .poison)) ∧
    exec (.ualinkResponse ⟨w, tag⟩ true bs) s = .next ((s.meter w 11 bs.length).settleReq r .mismatch)) ∧
  (∀ (s : State) w tag r, s.waitingReq w tag = some r → r ∈ s.reqs ∧ r.world = w ∧ r.tag = tag ∧ r.st = .waiting) ∧
  (∀ (s : State) (r : Req) st, r.copyPiece = none → r.pass = none → r.inner = none → r.awaited = true → s.settleReq r st =
    ({ s with reqs := s.reqs.map fun q => if q = r then { q with st := st } else q } : State).wakeGangs) ∧
  (∀ (s : State) w tag r, s.waitingReq w tag.toNat = some r → s.cycle < r.sent + 2100000 → exec (.requestTimeout ⟨w, tag⟩) s = .next s) ∧
  (∀ (s : State) w tag r, s.waitingReq w tag.toNat = some r → r.sent + 2100000 ≤ s.cycle → State.orphan r = false →
    exec (.requestTimeout ⟨w, tag⟩) s = .next (s.settleReq r .indeterminate)) ∧
  (∀ (s : State) w tag r, s.waitingReq w tag.toNat = some r → r.sent + 2100000 ≤ s.cycle → State.orphan r = true →
    exec (.requestTimeout ⟨w, tag⟩) s = .next ((s.errorRecord 8 6 w r.wpa (s.portOf w r.accel r.wpa) 0 0 r.team (BitVec.ofNat 64 r.cookie) 1 0).settleReq
      r .indeterminate))

/-- A reply of RETRY takes the record off the list and makes every agent that was parked on it ready to replay its
step; a reply of FAIL ends each of them with code 0x01. A reply to a record that the device does not watch, or to one
of a copy, does nothing. -/
def Obligations.FaultReplies : Prop :=
  (∀ (s : State) w seq r, s.recordOf w seq.toNat = some r →
    exec (.replyRetry w seq) s = .next (s.settleRecord w r true) ∧ exec (.replyFail w seq) s = .next (s.settleRecord w r false)) ∧
  (∀ (s : State) w seq, s.recordOf w seq.toNat = none → exec (.replyRetry w seq) s = .next s ∧ exec (.replyFail w seq) s = .next s) ∧
  (∀ (s : State) w r retry, s.settleRecord w r retry = (r.who.foldl (fun s a => if retry then s.replay r.src a else s.endAgent a 1)
    (s.modWorld w fun x => { x with records := x.records.filter (· != r) })).wakeGangs) ∧
  (∀ (s : State) src t lit, lit < (s.team t).lanes.length → (s.lane t lit).st = .parked →
    (s.replay src (.lane t lit)).lane t lit = { s.lane t lit with st := .ready, readyAt := s.cycle }) ∧
  (∀ (s : State) src t lit j, j ≠ lit → (s.replay src (.lane t lit)).lane t j = s.lane t j) ∧
  (∀ (s : State) src w, (s.prog w).st = .parked → ((s.replay src (.prog w)).prog w).st = .running) ∧
  (∀ (s : State) w seq r, s.recordOf w seq = some r → r ∈ (s.world w).records ∧ r.seq = seq ∧ r.queued = false ∧ r.src ≠ 2)

/-- A migration command that nothing holds up begins at once with WLD_MIGCMD showing it; while another command runs
the write does nothing. TRACK of a world in use makes it tracked with every page ever written dirty; it ends with
STATE or CONFIG otherwise. UNTRACK ends the tracking. HARVEST puts the bitmap into the buffer and clears every bit, or
ends with MEMORY. The end of a command clears GO, sets the status and the elapsed time and signals vector 0. A
rotation step moves the boundary on by one page; past the last page the new key is the world's. -/
def Obligations.TrackAndHarvest : Prop :=
  (∀ (s : State) w, 0 < w → w ≤ 96 → s.command = none → s.held.any isCommand = false → s.activating = false →
    let written := if (s.world w).migCmd.getLsbD 0 then s.cmdWritten else s.clock
    let u := fun (op : Nat) => ({ { s with cmdWritten := written }.modWorld w fun x => { x with migCmd := BitVec.ofNat 32 (op * 2 ^ 24 + 1) } with
      command := some { op := 0x80 + op % 128, world := w, node := 0, owner := 0, arg := 0, start := written, bound := s.clock } } : State)
    exec (.track w) s = .next ((u 1).trackWorld w) ∧ exec (.harvest w) s = .next ((u 2).harvestWorld w) ∧
    exec (.exportWorld w) s = .next ((u 3).exportStart w) ∧ exec (.importWorld w) s = .next ((u 4).importStart w) ∧
    exec (.untrack w) s = .next ((u 5).untrackWorld w)) ∧
  (∀ (s : State) w i, s.command ≠ none → i ∈ [Instr.track w, .harvest w, .exportWorld w, .importWorld w, .untrack w] → exec i s = .next s) ∧
  (∀ (s : State) c st, s.command = some c →
    s.endMigration st = ({ s with command := some { c with ended := some st } } : State).pushOnce (.migrationCommandDone c.world)) ∧
  (∀ (s : State) w, (s.world w).st = .attached ∨ (s.world w).st = .running ∨ (s.world w).st = .quiesced → (s.world w).tdi = .unlocked →
    (s.world w).tagBase.getLsbD 0 = false → (s.world w).rotation = none → ∃ t, s.trackWorld w = t.endMigration 0 ∧
      (t.world w).tracking = true ∧ (∀ p, p ∈ (t.world w).dirty.map (·.1) ↔
        p ∈ (keepRange s.written ((State.regionRange (s.world w)).1 / 65536) ((s.world w).size * 16384)).map fun e => e.1 - (State.regionRange (s.world w)).1 / 65536) ∧
      SameMemory s t) ∧
  (∀ (s : State) w, (s.world w).st = .free ∨ (s.world w).tdi ≠ .unlocked → s.trackWorld w = s.endMigration 4) ∧
  (∀ (s : State) w, (s.world w).st = .running → (s.world w).tdi = .unlocked →
    (s.world w).tagBase.getLsbD 0 = true ∨ (s.world w).rotation ≠ none → s.trackWorld w = s.endMigration 0x0C) ∧
  (∀ (s : State) w, s.untrackWorld w = (s.modWorld w fun x => { x with tracking := false, dirty := [] }).endMigration 0) ∧
  (∀ (s u : State) w, (s.world w).st ≠ .free → (s.world w).tdi = .unlocked → s.migPut w (s.dirtyMap w) = some u →
    s.harvestWorld w = (u.modWorld w fun x => { x with dirty := [] }).endMigration 0) ∧
  (∀ (s : State) w, (s.world w).st ≠ .free → (s.world w).tdi = .unlocked → s.migPut w (s.dirtyMap w) = none → s.harvestWorld w = s.endMigration 6) ∧
  (∀ (s : State) w, (s.world w).tdi ≠ .unlocked → s.harvestWorld w = s.endMigration 4) ∧
  (∀ (s : State) c st, s.command = some c → 0x80 ≤ c.op → c.op ≠ 0x84 → c.ended = some st → s.activating = false → ∃ t,
    exec (.migrationCommandDone c.world) s = .next t ∧ t.command = none ∧ (t.world c.world).migStatus = st ∧
    (t.world c.world).migElapsed = min 0x3FFFFF ((s.clock - c.start) / 1000) ∧
    (t.world c.world).migCmd = (s.world c.world).migCmd &&& ~~~1#32 ∧ SameMemory s t) ∧
  (∀ (s : State) w p, (s.world w).rotation = some p → p < State.units (s.world w) →
    Answers (.rotationStep w) s fun t => (t.world w).rotation = some (p + 1) ∧ (t.world w).key = (s.world w).key ∧ SameMemory s t) ∧
  (∀ (s : State) w p, (s.world w).rotation = some p → State.units (s.world w) ≤ p →
    Answers (.rotationStep w) s fun t => (t.world w).rotation = none ∧ (t.world w).key = (s.world w).secondKey ∧
      (t.world w).secondKey = none ∧ SameMemory s t)

/-- EXPORT of a tracked world drops its writes from then on and quiesces it; of an untracked world it ends with STATE.
When the saves have ended, the image goes to the buffer, the dirty bits clear and the world is exported, else MEMORY.
A save unfinished after 40 ms ends the command with SAVE TIMEOUT, before it nothing changes. IMPORT ends with STATE
unless the world is ATTACHED, not enabled and unlocked, with IMAGE when the image cannot be read or breaks a check of
R476, and else takes the image, waiting first for code that lies at a peer: the world is QUIESCED and its event names
it. A bound world is neither harvested nor exported. -/
def Obligations.ExportAndImport : Prop :=
  (∀ (s : State) w, (s.world w).tracking = false ∨ (s.world w).tdi ≠ .unlocked → s.exportStart w = s.endMigration 4) ∧
  (∀ (s : State) w, (s.world w).tracking = true → (s.world w).tdi = .unlocked → (s.world w).st ≠ .running → (s.world w).st ≠ .attached →
    s.exportStart w = (s.modWorld w fun x => { x with dropWrites := true }).pushOnce (.migrationCommandDone w)) ∧
  (∀ (s : State) w, (s.world w).tracking = true → (s.world w).tdi = .unlocked → (s.world w).st = .running →
    s.exportStart w = ((s.quiesceWorld w 4).modWorld w fun x => { x with dropWrites := true }).pushOnce (.migrationCommandDone w)) ∧
  (∀ (s u : State) c, s.command = some c → c.op = 0x83 → c.ended = none → s.exportReady c.world = true →
    s.migPut c.world (s.exportImage c.world) = some u → exec (.migrationCommandDone c.world) s =
      .next ((u.modWorld c.world fun x => { x with dirty := [], exported := true }).finishMigration c 0)) ∧
  (∀ (s : State) c, s.command = some c → c.op = 0x83 → c.ended = none → s.exportReady c.world = true →
    s.migPut c.world (s.exportImage c.world) = none → exec (.migrationCommandDone c.world) s = .next (s.finishMigration c 6)) ∧
  (∀ (s : State) c, s.command = some c → c.op ≠ 0x84 → c.ended = none → s.exportReady c.world = false →
    exec (.migrationCommandDone c.world) s = .next s) ∧
  (∀ (s : State) c, s.command = some c → c.op = 0x83 → c.ended = none → s.activating = false → c.bound + 40000000 ≤ s.clock → s.quiesceDone c.world = false →
    exec (.exportTimeout c.world) s = .next (s.endMigration 0x0B)) ∧
  (∀ (s : State) c, s.command = some c → (s.activating = true ∨ s.clock < c.bound + 40000000) → exec (.exportTimeout c.world) s = .next s) ∧
  (∀ (s : State) w, (s.world w).st ≠ .attached ∨ (s.world w).en = true ∨ (s.world w).tdi ≠ .unlocked → s.importStart w = s.endMigration 4) ∧
  (∀ (s : State) w h im, (s.world w).st = .attached → (s.world w).en = false → (s.world w).tdi = .unlocked →
    s.hostRead 0 ((s.world w).migBuf.toNat / 4096 * 4096) 256 = some h → field h 8 4 ≤ (s.world w).migSize.toNat / 4096 * 4096 →
    s.hostRead 0 ((s.world w).migBuf.toNat / 4096 * 4096) (field h 8 4) = some im →
    (s.importOk w im = false → s.importStart w = s.endMigration 5) ∧
    (s.importOk w im = true → s.importAsk w im = none → s.importStart w = (s.importImage w im).endMigration 0) ∧
    (∀ q, s.importOk w im = true → s.importAsk w im = some q → s.importStart w = s.askInner (.prog w) w q)) ∧
  (∀ (s : State) c, s.command = some c → c.op = 0x84 → c.ended = none → s.asking (.prog c.world) = false →
    exec (.migrationCommandDone c.world) s = .next (s.importStart c.world)) ∧
  (∀ (s : State) w, (s.world w).st = .attached → (s.world w).en = false → (s.world w).tdi = .unlocked →
    s.hostRead 0 ((s.world w).migBuf.toNat / 4096 * 4096) 256 = none → s.importStart w = s.endMigration 5) ∧
  (∀ (s : State) w im, ∃ u : State, s.importImage w im = (u.modWorld w fun x => { x with
      window := putBytes [] 0 ((imagePart im 7).take (field im 0x18 4)), st := .quiesced, enDropped := !x.en, records := [], priGroups := [] }).postEvent w
        { type := 5, world := w, aux := field im 6 1, cookie := BitVec.ofNat 64 (field im 0x40 8), count := field im 0x0E 2 })

/-- A core has room for a team only if it holds fewer than four teams, its groups stay within 32 and its registers
within 196,608, and the scratchpad and accumulator ranges given lie in the store and clear of every other team's. A
head fits only at an origin of the slice where every core that a rank needs has room. A decision step places nothing
while a SPLIT stops placement or the slice is neither READY nor BUSY; a returning head goes first, and the first of
the other heads is placed where it fits. The turn of the control programs goes on round the six places. At the end of
its quantum a world gives way to the next one with work, and its clusters are saved. -/
def Obligations.Placement : Prop :=
  (∀ (s : State) core l a b, s.roomAt core l = some (a, b) → (s.holders core).length < 4 ∧
    ((s.holders core).map fun x => (s.launch x.launch).desc.groups).foldl (· + ·) l.desc.groups ≤ 32 ∧
    ((s.holders core).map fun x => (s.launch x.launch).desc.coreRegs).foldl (· + ·) l.desc.coreRegs ≤ 196608 ∧
    a + l.desc.scratch ≤ 2 ^ 23 ∧ b + l.desc.accum * 65536 ≤ 2 ^ 22 ∧
    (∀ x ∈ s.holders core, (s.launch x.launch).desc.scratch ≠ 0 →
      x.scrBase + (s.launch x.launch).desc.scratch ≤ a ∨ a + l.desc.scratch ≤ x.scrBase) ∧
    (∀ x ∈ s.holders core, (s.launch x.launch).desc.accum ≠ 0 →
      x.accBase + (s.launch x.launch).desc.accum * 65536 ≤ b ∨ b + l.desc.accum * 65536 ≤ x.accBase)) ∧
  (∀ (s : State) h o, s.fits h = some o → (s.launch h.launch).st = .active ∧ o ∈ s.origins (s.launch h.launch) ∧
    ∀ r ∈ s.headRanks h, ∃ p, s.roomAt (State.rankCore (s.launch h.launch) o r) (s.launch h.launch) = some p) ∧
  (∀ (s : State) h o, s.fits h = some o → h.back = false →
    (s.launch h.launch).slotsUsed.length + (s.launch h.launch).clusterSize ≤ slotCount (s.launch h.launch)) ∧
  (∀ (s : State) c, (s.slice c).splitting = true ∨ ((s.slice c).st ≠ .ready ∧ (s.slice c).st ≠ .busy) → exec (.decisionStep c) s = .next s) ∧
  (∀ (s : State) c, (s.slice c).splitting = false → (s.slice c).st = .ready ∨ (s.slice c).st = .busy →
    let u := ((s.freeOldPrivate c).gatherReturning c).electChecked c 7
    (u.asking (.firm c) = false → exec (.decisionStep c) s = .next (u.decideHead c)) ∧
    (u.asking (.firm c) = true → exec (.decisionStep c) s = .next u)) ∧
  (∀ (s : State) c k, let u := (List.range 4).foldl (fun s q => s.checkHeads c q (s.launches.length + 1)) (s.electWorld c)
    (∀ w, (u.slice c).eligible = some w → u.hasWork w = true → s.electChecked c (k + 1) = u) ∧
    (∀ w, (u.slice c).eligible = some w → u.hasWork w = false → s.electChecked c (k + 1) = u.electChecked c k)) ∧
  (∀ (s : State) c h, ((List.range 4).filterMap (s.headOf c)).find? (·.back) = some h →
    (∀ o, s.fits h = some o → s.decideHead c = (s.place h o).decide' c) ∧ (s.fits h = none → s.decideHead c = s)) ∧
  (∀ (s : State) c h o, ((List.range 4).filterMap (s.headOf c)).find? (·.back) = none → (s.slice c).draining = false →
    (s.slice c).blocked = some (h.launch, h.cluster) → (s.slice c).age < (s.slice c).ageLimit →
    ((List.range 4).filterMap (s.headOf c)).head? = some h → s.fits h = some o →
    s.decideHead c = (((s.modSlice c fun x => { x with blocked := none, age := 0, draining := false }).place h o).decide' c)) ∧
  (∀ (s : State) c, Answers (.turnEnd c) s fun t =>
    t.slice c = { s.slice c with turnPos := ((s.slice c).turnPos + 1) % 6, turnCount := 0 } ∧ SameMemory s t) ∧
  (∀ (s : State) c w, (s.slice c).eligible = some w → (s.slice c).quantum = 0 ∨ s.clock < (s.slice c).eligibleSince + (s.slice c).quantum * 1000000 →
    exec (.quantumExpiry c) s = .next s) ∧
  (∀ (s : State) c w v, (s.slice c).eligible = some w → (s.slice c).quantum ≠ 0 → (s.slice c).eligibleSince + (s.slice c).quantum * 1000000 ≤ s.clock →
    s.nextWorld c ((s.slice c).wlist.findIdx (· == w) + 1) = some v → v ≠ w →
    exec (.quantumExpiry c) s = .next (((s.setEligible c (some v)).saveWorld w 1).decide' c) ∧
    ((s.setEligible c (some v)).slice c).eligible = some v ∧ ((s.setEligible c (some v)).slice c).eligibleSince = s.clock)

/-- A launch that has nothing left to do is done once its event enters the queue; a full queue holds it; before that
LAUNCH_COMPLETE does nothing. The event names the launch's cookie and its retired teams, or the status, code and team
of its failure. A stopped team ends, is saved or commits its interval; a team that does none of these stays. A
rollback that nothing asks for does nothing; one with an overflow or after two others ends the team. The Varnish
performs a team's entries in order up to the first that is lost, and the team is gone; a plain write lands at its
place. -/
def Obligations.CompletionAndRelease : Prop :=
  (∀ (s : State) l, s.finished l = false → exec (.launchComplete l) s = .next s) ∧
  (∀ (s : State) l, s.finished l = true → s.eventRoom (s.launch l).world = true →
    (∀ e ∈ (s.slice (s.launch l).ctl).heldEvents, e.world ≠ (s.launch l).world) → ∃ n,
    exec (.launchComplete l) s = .next (((s.setLaunch l { s.launch l with st := .done, doneSeq := n, raceHeld := false, raceWords := [], returning := [] }).enterEvent
      (s.launch l).world (State.launchEvent (s.launch l))).decide' (s.launch l).ctl)) ∧
  (∀ (s : State) l, s.finished l = true → s.eventRoom (s.launch l).world = false →
    ((s.launch l).st ≠ .holding → exec (.launchComplete l) s =
      .next ((s.setLaunch l { s.launch l with st := .holding }).decide' (s.launch l).ctl)) ∧
    ((s.launch l).st = .holding → exec (.launchComplete l) s = .next s)) ∧
  (∀ l : Launch, l.fail = none → (State.launchEvent l).type = 1 ∧ (State.launchEvent l).cookie = l.record.cookie ∧
    (State.launchEvent l).count = l.retired % 2 ^ 32) ∧
  (∀ (l : Launch) st code team, l.fail = some (st, code, team) → (State.launchEvent l).type = 2 ∧ (State.launchEvent l).status = st ∧
    (State.launchEvent l).aux = code ∧ (State.launchEvent l).cookie = l.record.cookie ∧ (State.launchEvent l).team = team % 2 ^ 32) ∧
  (∀ (s : State) t, (s.team t).st = .resident → (s.team t).rollback = none →
    ((s.team t).ending = true → s.teamStopped t = true →
      exec (.contextSave t) s = .next ((s.removeTeam t).pushOnce (.launchComplete (s.team t).launch))) ∧
    (∀ k, (s.team t).ending = false → (s.team t).savePending = some k →
      exec (.contextSave t) s = .next (if s.clusterStopped t then s.saveTeam t k else s)) ∧
    ((s.team t).ending = false → (s.team t).savePending = none → (s.team t).snapshot = true → s.seqStopped t = true →
      exec (.contextSave t) s = .next (s.commitInterval t)) ∧
    ((s.team t).ending = false → (s.team t).savePending = none → (s.team t).snapshot = false → exec (.contextSave t) s = .next s)) ∧
  (∀ (s : State) t, (s.team t).rollback = none → exec (.rollback t) s = .next s) ∧
  (∀ (s : State) t code addr unit tier, (s.team t).rollback = some (code, addr, unit, tier) → (s.team t).st = .resident → s.rollbackReady t = true →
    ((s.team t).overflow = true ∨ (s.team t).rollbacks = 2 → exec (.rollback t) s =
      .next ((s.faultErrorRecord 0x05 t 1 code addr (if code = 0x0A then 3 else unit) tier).endTeam t code)) ∧
    ((s.team t).overflow = false → (s.team t).rollbacks ≠ 2 → exec (.rollback t) s = .next (s.rollBack t))) ∧
  (∀ (s : State) l, s.varnishTeam l = none → exec (.varnishRelease l) s = .next s) ∧
  (∀ (s : State) l t, s.varnishTeam l = some t → ∃ x, (t, x) ∈ s.teams ∧ x.st = .retired ∧ x.launch = l ∧
    ((s.launch l).ordered = true → x.index = (s.launch l).released)) ∧
  (∀ (s u : State) l t, s.varnishTeam l = some t → s.performAll t (s.team t).staged = (u, [], none) →
    exec (.varnishRelease l) s = .next ((((((u.modTeam t fun y => { y with st := .gone, staged := [], releasing := false }).modLaunch l
      fun y => { y with released := y.released + 1 }).pushOnce (.varnishRelease l)).pushOnce (.launchComplete l))).decide'
        (((u.modTeam t fun y => { y with st := .gone, staged := [], releasing := false }).modLaunch l fun y => { y with released := y.released + 1 }).launch l).ctl)) ∧
  (∀ (s : State) t e es u, (s.perform t e = (u, .done) → s.performAll t (e :: es) = u.performAll t es) ∧
    (s.perform t e = (u, .full) → s.performAll t (e :: es) = (u, e :: es, none)) ∧
    ∀ c, s.perform t e = (u, .failed c) → s.performAll t (e :: es) = (u.releaseRecord t e c, es, some c)) ∧
  (∀ (s : State) t e bs a, e.op = .write bs → e.target = .device a → e.sealed = false →
    s.perform t e = (((s.l1DropRange (s.team t).core .hbm a bs.length).write .hbm a bs).poisonAt .hbm a e.poison, .done))

/-- A corrected error changes no byte and no poison; it opens a window of its unit and location, or counts in the one
that is open; after 1 ms, not before, the window closes with its record. An uncorrectable error of HBM poisons the
64-byte sector, and one of a dirty line, and leaves every byte; one of a clean copy poisons nothing; of a host line of
the L2 a written one poisons the host memory's sector and the line leaves. A sensor hour counts in its two bins. An
evicted line leaves its core's L1 and its instruction cache, an evicted host line the L2, and no byte changes. -/
def Obligations.Errors : Prop :=
  (∀ (s : State) unit loc addr syn, (∀ m ∈ s.merges, ¬(m.unit = unit ∧ m.loc = loc)) →
    Answers (.correctedError unit loc addr syn) s fun t => t.merges = s.merges ++ [⟨unit, loc, addr.toNat, syn.toNat, 1, s.clock⟩] ∧
      t.poison = s.poison ∧ SameMemory s t) ∧
  (∀ (s : State) unit loc addr syn m, s.merges.find? (fun m => m.unit == unit && m.loc == loc) = some m →
    Answers (.correctedError unit loc addr syn) s fun t => { m with count := m.count + 1 } ∈ t.merges ∧
      t.merges.length = s.merges.length ∧ t.poison = s.poison ∧ SameMemory s t) ∧
  (∀ (s : State) unit loc m, s.merges.find? (fun m => m.unit == unit && m.loc == loc) = some m → s.clock < m.opened + 1000000 →
    exec (.correctedMergeEnd unit loc) s = .next s) ∧
  (∀ (s : State) unit loc m, s.merges.find? (fun m => m.unit == unit && m.loc == loc) = some m → m.opened + 1000000 ≤ s.clock → unit = 2 ∨ unit = 3 →
    exec (.correctedMergeEnd unit loc) s = .next
      (({ s with merges := s.merges.filter (· != m) } : State).errorRecordAt 0 1 m.unit 0 m.addr m.loc 0 0 0xFFFFFFFF 0 m.count m.syn)) ∧
  (∀ (s : State) node cls unit w addr loc code flags team cookie count syn,
    bits s.relBase.toNat 3 0 < 6 ∨ 2 ^ bits s.relBase.toNat 3 0 ≤ (s.relTail - s.relHead).toNat → ∃ b,
    s.errorRecordAt node cls unit w addr loc code flags team cookie count syn =
      { s with errors := (ErrRec.mk b :: s.errors).take 64, relOvf := true, relLost := min 0xFFFF (s.relLost + 1) } ∧ b.length = 64 ∧
    b.take 4 = [BitVec.ofNat 8 cls, BitVec.ofNat 8 unit, BitVec.ofNat 8 w, BitVec.ofNat 8 node]) ∧
  (∀ (s : State) kind loc addr syn, kind = 0 ∨ (kind = 2 ∧ addr.toNat < 2 ^ 48) →
    Answers (.uncorrectableError kind loc addr syn) s fun t => ∃ u node unit w off,
      u.poisoned .hbm addr.toNat 1 = true ∧ SameMemory s u ∧ t = u.uncorrectedRecord node unit w off loc 0 0xFFFFFFFF 0 syn.toNat) ∧
  (∀ (s : State) kind loc addr syn, kind = 1 ∨ kind = 5 → Answers (.uncorrectableError kind loc addr syn) s fun t => ∃ u node unit w off,
      u.poison = s.poison ∧ SameMemory s u ∧ t = u.uncorrectedRecord node unit w off loc 2 0xFFFFFFFF 0 syn.toNat) ∧
  (∀ (s : State) loc addr syn l, s.hostLines.find? (fun l => l.line == addr.toNat / 64) = some l →
    Answers (.uncorrectableError 6 loc addr syn) s fun t => ∃ u, SameMemory s u ∧ (∀ m ∈ u.hostLines, m.line ≠ addr.toNat / 64) ∧
      (if l.dirty then u.poisoned .host addr.toNat 1 = true else u.poison = s.poison) ∧
      t = u.uncorrectedRecord (u.nodeOf l.world) 1 l.world addr.toNat loc (if l.dirty then 0 else 2) 0xFFFFFFFF 0 syn.toNat) ∧
  (∀ (s : State) a n, (s.poisonRange .hbm a n).poison = s.poison ++ ((granules .hbm a n).filter fun g => !s.poison.contains (.hbm, g)).map fun g => (.hbm, g)) ∧
  (∀ a, granules .hbm a 1 = [a / 64]) ∧
  (∀ (s : State) tb vb, tb < 16 → vb < 16 → Answers (.sensorHour tb vb) s fun t =>
    t.lifePending.get 0 (0x310 + tb) = s.lifePending.get 0 (0x310 + tb) + 1 ∧ t.lifePending.get 0 (0x320 + vb) = s.lifePending.get 0 (0x320 + vb) + 1 ∧
    t.life = s.life ∧ SameMemory s t) ∧
  (∀ (s : State) core line, core < 128 → Answers (.lineEviction core line) s fun t => (∀ l ∈ t.l1, ¬(l.core = core ∧ l.space = .hbm ∧ l.line = line)) ∧
    (∀ l ∈ s.l1, l.core ≠ core ∨ l.space ≠ .hbm ∨ l.line ≠ line → l ∈ t.l1) ∧
    (∀ l ∈ t.icache, ¬(l.core = core ∧ l.line = line)) ∧ (∀ l ∈ s.icache, l.core ≠ core ∨ l.line ≠ line → l ∈ t.icache) ∧ SameMemory s t) ∧
  (∀ (s : State) core line, 128 ≤ core → Answers (.lineEviction core line) s fun t => (∀ l ∈ t.hostLines, l.line / 2 ≠ line) ∧
    (∀ l ∈ s.hostLines, l.line / 2 ≠ line → l ∈ t.hostLines) ∧ t.l1 = s.l1 ∧ t.icache = s.icache ∧ SameMemory s t)

/-- FRZ_CMD freezes the package with cause 1 only for its one value, the pin with cause 2 only where the fuse enables
it, and a frozen package keeps its first freeze. The read-out of a frozen package begins with FDMP and its 128-byte
header and ends with a signature over all before it; without a freeze it is an error. A lifetime counter reads as 4
bytes, the stored and the pending counts together, and saturates; an index outside the table is an error. Telemetry
answers a report. None of them changes memory. -/
def Obligations.FreezeAndPort : Prop :=
  (∀ (s : State) v, s.frozen = none → exec (.freeze v) s = .next (if v = 0x0000A501#32 then { s with frozen := some ⟨1, s.clock⟩ } else s)) ∧
  (∀ (s : State) v f, s.frozen = some f → exec (.freeze v) s = .next s ∧ exec .freezeN s = .next s) ∧
  (∀ s : State, s.frozen = none → exec .freezeN s = .next (if Config.freezePin then { s with frozen := some ⟨2, s.clock⟩ } else s)) ∧
  (∀ (s : State) f, s.frozen = some f → ∃ b sig, exec .freezeReadout s = .next (s.send (.reply 0 (b ++ leBytes 96 sig))) ∧ sig = Config.sign s.aliasKey b ∧
    b.take 4 = [0x46#8, 0x44#8, 0x4D#8, 0x50#8] ∧ b.take 128 = s.dumpHeader f ∧ (s.dumpHeader f).length = 128) ∧
  (∀ s : State, s.frozen = none → exec .freezeReadout s = .next (s.send (.reply 1 []))) ∧
  (∀ (s : State) k, k ≤ 0x330 → exec (.lifetimeCounterRead k) s =
    .next (s.send (.reply 0 (leBytes 4 (min 0xFFFFFFFF (s.life.get 0 k + s.lifePending.get 0 k)))))) ∧
  (∀ (s : State) k, 0x330 < k → exec (.lifetimeCounterRead k) s = .next (s.send (.reply 1 []))) ∧
  (∀ s : State, exec .powerTelemetry s = .next (s.send (.reply 0 (Config.telemetry s.clock)))) ∧
  (∀ s o, SameMemory s (s.send o))

/-- Before the next multiple of PERIOD a period boundary does nothing; at it every world that is not FREE is cut, and
the next boundary is the next multiple after now. A cut of a world without a chain does nothing. A record carries
KFTD, its world, its sequence number, chain, times, counters and their increases, and a signature over all before; it
is 512 bytes. FLAGS show the first and the last record of a chain. A counter block reads 0 for indices 14 and 15. -/
def Obligations.Metering : Prop :=
  (∀ s : State, s.clock < s.metNext * 1000000 → exec .periodBoundary s = .next s) ∧
  (∀ s : State, s.metNext * 1000000 ≤ s.clock → ∃ u : State,
    u = (s.worlds.map (·.1)).foldl (fun s w => if w ≠ 0 && (s.world w).st ≠ .free then s.cutWorld w false else s) s ∧
    exec .periodBoundary s = .next { u with metNext := (u.clock / 1000000 / u.metPeriod + 1) * u.metPeriod }) ∧
  (∀ (s : State) w last, (s.world w).usage.chain = none → s.cutWorld w last = s) ∧
  (∀ (s : State) w k, 14 ≤ k → s.counter w k = 0) ∧
  (∀ (h : HeldRec) w key n, (h.bytes w key n).length = 512 ∧ (h.bytes w key n).take 4 = [0x44#8, 0x46#8, 0x54#8, 0x4B#8] ∧
    h.bytes w key n = h.body w n ++ leBytes 96 (Config.sign key (h.body w n))) ∧
  (∀ h : HeldRec, (bit h.flags 0 = true ↔ h.at'.seq = 0) ∧ (bit h.flags 1 = true ↔ h.last = true) ∧ (bit h.flags 2 = true ↔ h.at'.changed = true) ∧
    (bit h.flags 3 = true ↔ h.at'.imported = true)) ∧
  (∀ (h : HeldRec) k, h.at'.totals.get 0 k < 2 ^ 64 → h.delta k < 2 ^ 64 ∧ (h.at'.totals.get 0 k + h.delta k) % 2 ^ 64 = h.totals.get 0 k % 2 ^ 64) ∧
  (∀ (s : State) v, 100 ≤ bits v.toNat 16 0 → bits v.toNat 16 0 ≤ 60000 → exec (.metPeriodWrite v) s = .next { s with metPeriod := bits v.toNat 16 0 })

/-- A command with no such team, or while one runs, sets ERR and does nothing else. HALT halts the lanes of the group
or team that can be halted, and its report falls due: a READY lane is HALTED, one in BARRIER, MWAIT or PARKED halts
when it leaves that state. RESUME lets the HALTED lanes go on: a lane halted by the debugger is READY where it stood,
one halted on a TRAP at the next clause header, one halted on a BRK at another address than DBG_DISPPC stays HALTED
with ERR. STEP sets BUSY and lets each HALTED lane run one step; with a lane of the group running it sets ERR. -/
def Obligations.DebugCommands : Prop :=
  (∀ (s : State) w, s.dbgTeam w = none ∨ (s.world w).dbg.busy = true →
    exec (.haltGroup w) s = .next (s.dbgErr w) ∧ exec (.resumeGroup w) s = .next (s.dbgErr w) ∧ exec (.stepGroup w) s = .next (s.dbgErr w) ∧
    exec (.haltTeam w) s = .next (s.dbgErr w) ∧ exec (.resumeTeam w) s = .next (s.dbgErr w)) ∧
  (∀ (s : State) w, ((s.dbgErr w).world w).dbg = { (s.world w).dbg with err := true } ∧ SameMemory s (s.dbgErr w)) ∧
  (∀ (s : State) w t, s.dbgTeam w = some t → (s.world w).dbg.busy = false → s.dbgGroup w < (s.launchOf t).desc.groups →
    exec (.haltGroup w) s = .next ((s.haltTarget t (s.dbgGroup w) false).dbgDue w [⟨t, s.dbgGroup w, false, 2, 0, 0⟩]) ∧
    ((s.team t).st = .resident → exec (.resumeGroup w) s = .next (s.resumeTarget t (s.dbgGroup w) false)) ∧
    ((s.team t).st = .resident → (s.liveOf t (s.dbgGroup w)).all (fun lit => State.haltedOrWaiting (s.lane t lit)) = true →
      exec (.stepGroup w) s = .next (((s.liveOf t (s.dbgGroup w)).foldl (fun s lit => s.resumeLane t lit true)
        (s.modDebug w fun d => { d with busy := true, running := some ⟨3, t, s.dbgGroup w, 3, 0, 0⟩ })).wakeGangs)) ∧
    ((s.team t).st = .resident → (s.liveOf t (s.dbgGroup w)).all (fun lit => State.haltedOrWaiting (s.lane t lit)) = false →
      exec (.stepGroup w) s = .next (s.dbgErr w))) ∧
  (∀ (s : State) w t, s.dbgTeam w = some t → (s.world w).dbg.busy = false → (s.team t).st = .resident →
    exec (.haltTeam w) s = .next ((s.haltTarget t (s.dbgGroup w) true).dbgDue w
      ((((s.haltTarget t (s.dbgGroup w) true).liveGroups t).map fun k => ⟨t, k, false, 2, 0, 0⟩) ++
        if (s.haltTarget t (s.dbgGroup w) true).seqLiveOrSaved t then [⟨t, 0, true, 2, 0, 0⟩] else [])) ∧
    exec (.resumeTeam w) s = .next (s.resumeTarget t (s.dbgGroup w) true)) ∧
  (∀ (s : State) w rs, ((s.dbgDue w rs).world w).dbg.held = (s.world w).dbg.held ++ rs ∧ Instr.dbgReport w ∈ (s.dbgDue w rs).due) ∧
  (∀ (s : State) t lit, lit < (s.team t).lanes.length → (s.lane t lit).st = .ready ∨ (s.lane t lit).st = .token ∨ (s.lane t lit).st = .join ∨
    (s.lane t lit).st = .converge → (s.lane t lit).issued = false → ((s.debugHalt t lit).lane t lit).st = .halted ∧ ((s.debugHalt t lit).lane t lit).haltFrom = (s.lane t lit).st ∧
      ((s.debugHalt t lit).lane t lit).pc = (s.lane t lit).pc ∧ ((s.debugHalt t lit).lane t lit).regs = (s.lane t lit).regs) ∧
  (∀ (s : State) t lit, lit < (s.team t).lanes.length → (s.lane t lit).st = .barrier ∨ (s.lane t lit).st = .mwait ∨ (s.lane t lit).st = .parked →
    (s.debugHalt t lit).lane t lit = { s.lane t lit with haltReq := true }) ∧
  (∀ (s : State) t lit step, lit < (s.team t).lanes.length → (s.lane t lit).st = .halted → (s.lane t lit).code = 0 → (s.lane t lit).haltFrom = .ready →
    (s.resumeLane t lit step).lane t lit =
      { s.lane t lit with st := .ready, readyAt := s.cycle, byDebug := false, haltReq := step, stepReq := step, code := 0 }) ∧
  (∀ (s : State) t lit step, lit < (s.team t).lanes.length → (s.lane t lit).st = .halted → (s.lane t lit).code = 0x0C → (s.lane t lit).haltFrom = .ready →
    ((s.resumeLane t lit step).lane t lit).st = .ready ∧ ((s.resumeLane t lit step).lane t lit).pc = s.clauseEnd t (s.lane t lit)) ∧
  (∀ (s : State) t l pc, l.after = some pc → s.clauseEnd t l = pc) ∧
  (∀ (s : State) t lit, lit < (s.team t).lanes.length → (s.lane t lit).st = .ready → (s.lane t lit).issued = true →
    (s.debugHalt t lit).lane t lit = { s.lane t lit with haltReq := true }) ∧
  (∀ (s : State) t lit step, (s.lane t lit).st = .halted → (s.lane t lit).code = 0x0E →
    (s.world (s.launchOf t).world).dbg.dispPc.toNat ≠ (s.lane t lit).pc → s.resumeLane t lit step = s.dbgErr (s.launchOf t).world)

/-- A report that is due is written into the mailbox while NEW is 0: MSEQ counts, NEW is set and the report leaves the
held ones; while NEW is 1 it waits. A one written to NEW or ERR clears it. DBG_RDATA reads and writes a register or a
latch of a HALTED lane; another target sets ERR, the read gives 0 and the write does nothing else. A watchpoint of
KIND 3 sets ERR and is stored unarmed; any other is stored as written, its reserved bit 0. A write of another OP to
DBG_CMD sets ERR. -/
def Obligations.DebugRegisters : Prop :=
  (∀ (s : State) w r rest, (s.world w).dbg.stops = [] → (s.world w).dbg.running = none → (s.world w).dbg.held = r :: rest → (s.world w).dbg.new = false →
    Answers (.dbgReport w) s fun t => (t.world w).dbg.new = true ∧ (t.world w).dbg.mseq = (s.world w).dbg.mseq + 1 ∧ (t.world w).dbg.held = rest ∧
      SameMemory s t) ∧
  (∀ (s : State) w, (s.world w).dbg.stops = [] → (s.world w).dbg.running = none → (s.world w).dbg.held = [] ∨ (s.world w).dbg.new = true →
    exec (.dbgReport w) s = .next s) ∧
  (∀ (s : State) w v, Answers (.dbgStatWrite w v) s fun t => (t.world w).dbg.new = ((s.world w).dbg.new && !v.getLsbD 0) ∧
    (t.world w).dbg.err = ((s.world w).dbg.err && !v.getLsbD 2) ∧ (t.world w).dbg.mseq = (s.world w).dbg.mseq ∧ SameMemory s t) ∧
  (∀ (s : State) w t lit o, s.dbgOperand w = some (t, lit, o) →
    exec (.dbgRdataRead w) s = .next (s.send (.reply 0 (leBytes 8 (s.operand (.lane t lit) (s.lane t lit) false o 1)))) ∧ (s.lane t lit).st = .halted) ∧
  (∀ (s : State) w v t lit o, s.dbgOperand w = some (t, lit, o) → (s.launchOf t).prot = false → (s.team t).bad = [] → Answers (.dbgRdataWrite w v) s fun u =>
    u.lane t lit = (s.lane t lit).writeOpd false o 1 (v.toNat % 2 ^ 32) ∧ (∀ j, j ≠ lit → u.lane t j = s.lane t j) ∧ SameMemory s u) ∧
  (∀ (s : State) w v, s.dbgOperand w = none → exec (.dbgRdataRead w) s = .next ((s.dbgErr w).send (.reply 0 (leBytes 8 0))) ∧
    exec (.dbgRdataWrite w v) s = .next (s.dbgErr w)) ∧
  (∀ (s : State) w n v, n < 4 → v.extractLsb' 61 2 = 3#2 → Answers (.dbgWpWrite w n v) s fun t => (t.world w).dbg.err = true ∧
    ((t.world w).dbg.wp.get 0 n).getLsbD 63 = false) ∧
  (∀ (s : State) w n v, n < 4 → v.extractLsb' 61 2 ≠ 3#2 → v.getLsbD 52 = false → Answers (.dbgWpWrite w n v) s fun t => (t.world w).dbg.wp.get 0 n = v ∧
    (t.world w).dbg.err = (s.world w).dbg.err) ∧
  (∀ (s : State) w v, 5 < bits v.toNat 7 0 ∨ bits v.toNat 7 0 = 0 → ((s.dbgCommand w v).world w).dbg = { (s.world w).dbg with cmd := v &&& 0xFF, err := true })
end

