-- ==== Sys2Proof/Laws/SMap.lean ====
section
/-! SUPPORT. Sparse maps: what a read gives after an update, and that every update keeps the canonical form. -/

namespace Sys2Proof.SMap

variable {α : Type}

/-- The canonical form as a property of the list: keys rise strictly and no value is the default. -/
theorem wf_iff [DecidableEq α] (d : α) (m : SMap α) :
    wf d m = true ↔ m.Pairwise (fun x y => x.1 < y.1) ∧ ∀ e ∈ m, e.2 ≠ d := by
  induction m with
  | nil => simp [wf]
  | cons e m ih =>
    obtain ⟨i, v⟩ := e
    cases m with
    | nil => simp [wf]
    | cons f m =>
      obtain ⟨j, u⟩ := f
      have step : wf d ((i, v) :: (j, u) :: m) = (v != d && decide (i < j) && wf d ((j, u) :: m)) := by rw [wf]
      rw [step, Bool.and_eq_true, Bool.and_eq_true, ih, decide_eq_true_eq, bne_iff_ne]
      constructor
      · rintro ⟨⟨hv, hij⟩, hp, hm⟩
        have hp' := List.pairwise_cons.mp hp
        refine ⟨List.pairwise_cons.mpr ⟨?_, hp⟩, ?_⟩
        · intro x hx
          rcases List.mem_cons.mp hx with rfl | hx
          · exact hij
          · exact Nat.lt_trans hij (hp'.1 x hx)
        · intro e he
          rcases List.mem_cons.mp he with rfl | he
          · exact hv
          · exact hm e he
      · rintro ⟨hp, hm⟩
        have hp' := List.pairwise_cons.mp hp
        exact ⟨⟨hm (i, v) (by simp), hp'.1 (j, u) (by simp)⟩, hp'.2, fun e he => hm e (List.mem_cons_of_mem _ he)⟩

@[simp] theorem get_nil (d : α) (k : Nat) : get d ([] : SMap α) k = d := rfl
@[simp] theorem look_nil (k : Nat) : look ([] : SMap α) k = none := rfl

/-- A read is what look finds, else the default. -/
theorem get_eq_look (d : α) (m : SMap α) (k : Nat) : get d m k = (look m k).getD d := by
  induction m with
  | nil => rfl
  | cons e m ih => simp only [get, look]; split <;> simp_all

/-- A key below every listed one is not listed. -/
theorem get_map (d : α) (m : SMap α) (f : α → α) (hd : f d = d) (k : Nat) :
    get d ((m.map fun e => (e.1, f e.2)) : SMap α) k = f (get d m k) := by
  induction m with
  | nil => exact hd.symm
  | cons e m ih =>
    obtain ⟨i, v⟩ := e
    simp only [List.map_cons, get]
    split
    · rfl
    · exact ih

theorem get_of_lt (d : α) (m : SMap α) (k : Nat) (h : ∀ e ∈ m, k < e.1) : get d m k = d := by
  induction m with
  | nil => rfl
  | cons e m ih =>
    have he := h e (by simp)
    rw [get, if_neg (by omega)]
    exact ih fun x hx => h x (List.mem_cons_of_mem _ hx)

@[simp] theorem get_insert_self (d : α) (m : SMap α) (k : Nat) (v : α) : get d (insert m k v) k = v := by
  induction m with
  | nil => simp [insert, get]
  | cons e m ih =>
    simp only [insert]
    split
    · simp [get]
    · split
      · simp [get]
      · rw [get, if_neg (by omega), ih]

theorem get_insert_ne (d : α) (m : SMap α) (k j : Nat) (v : α) (h : j ≠ k) : get d (insert m k v) j = get d m j := by
  induction m with
  | nil => simp [insert, get, Ne.symm h]
  | cons e m ih =>
    simp only [insert]
    split
    · rw [get, if_neg (Ne.symm h)]
    · split
      · next hk => subst hk; simp only [get, if_neg (Ne.symm h)]
      · simp only [get, ih]

@[simp] theorem look_insert_self (m : SMap α) (k : Nat) (v : α) : look (insert m k v) k = some v := by
  induction m with
  | nil => simp [insert, look]
  | cons e m ih =>
    simp only [insert]
    split
    · simp [look]
    · split
      · simp [look]
      · rw [look, if_neg (by omega), ih]

theorem look_insert_ne (m : SMap α) (k j : Nat) (v : α) (h : j ≠ k) : look (insert m k v) j = look m j := by
  induction m with
  | nil => simp [insert, look, Ne.symm h]
  | cons e m ih =>
    simp only [insert]
    split
    · rw [look, if_neg (Ne.symm h)]
    · split
      · next hk => subst hk; simp only [look, if_neg (Ne.symm h)]
      · simp only [look, ih]

theorem get_erase_ne (d : α) (m : SMap α) (k j : Nat) (h : j ≠ k) : get d (erase m k) j = get d m j := by
  induction m with
  | nil => rfl
  | cons e m ih =>
    simp only [erase]
    split
    · next hk => subst hk; rw [ih, get, if_neg (Ne.symm h)]
    · simp only [get, ih]

@[simp] theorem get_erase_self (d : α) (m : SMap α) (k : Nat) : get d (erase m k) k = d := by
  induction m with
  | nil => rfl
  | cons e m ih =>
    simp only [erase]
    split
    · exact ih
    · next hk => rw [get, if_neg hk, ih]

/-- Reading back what was put. -/
@[simp] theorem get_put_self [DecidableEq α] (d : α) (m : SMap α) (k : Nat) (v : α) : get d (put d m k v) k = v := by
  unfold put
  split
  · next hv => rw [get_erase_self, hv]
  · simp

/-- A put leaves every other key alone. -/
theorem get_put_ne [DecidableEq α] (d : α) (m : SMap α) (k j : Nat) (v : α) (h : j ≠ k) :
    get d (put d m k v) j = get d m j := by
  unfold put
  split
  · exact get_erase_ne d m k j h
  · exact get_insert_ne d m k j v h

theorem mem_insert (m : SMap α) (k : Nat) (v : α) (e : Nat × α) (h : e ∈ insert m k v) : e = (k, v) ∨ e ∈ m := by
  induction m with
  | nil => left; simpa [insert] using h
  | cons f m ih =>
    simp only [insert] at h
    split at h
    · rcases List.mem_cons.mp h with h | h
      · exact .inl h
      · exact .inr h
    · split at h
      · rcases List.mem_cons.mp h with h | h
        · exact .inl h
        · exact .inr (List.mem_cons_of_mem _ h)
      · rcases List.mem_cons.mp h with h | h
        · exact .inr (by simp [h])
        · rcases ih h with h | h
          · exact .inl h
          · exact .inr (List.mem_cons_of_mem _ h)

theorem erase_sublist (m : SMap α) (k : Nat) : (erase m k).Sublist m := by
  induction m with
  | nil => exact .slnil
  | cons e m ih =>
    simp only [erase]
    split
    · exact ih.cons _
    · exact ih.cons_cons _

theorem pairwise_insert (m : SMap α) (k : Nat) (v : α) (h : m.Pairwise (fun x y => x.1 < y.1)) :
    (insert m k v).Pairwise (fun x y => x.1 < y.1) := by
  induction m with
  | nil => simp [insert]
  | cons e m ih =>
    have hp := List.pairwise_cons.mp h
    simp only [insert]
    split
    · next hk =>
      refine List.pairwise_cons.mpr ⟨?_, h⟩
      intro x hx
      rcases List.mem_cons.mp hx with rfl | hx
      · exact hk
      · exact Nat.lt_trans hk (hp.1 x hx)
    · split
      · next hk => subst hk; exact List.pairwise_cons.mpr ⟨hp.1, hp.2⟩
      · refine List.pairwise_cons.mpr ⟨?_, ih hp.2⟩
        intro x hx
        rcases mem_insert m k v x hx with rfl | hx
        · simp only; omega
        · exact hp.1 x hx

/-- A sublist of a map in canonical form has it too. -/
theorem wf_sublist [DecidableEq α] (d : α) (m m' : SMap α) (hs : m'.Sublist m) (h : wf d m = true) : wf d m' = true := by
  rw [wf_iff] at *
  exact ⟨h.1.sublist hs, fun e he => h.2 e (hs.subset he)⟩

theorem wf_filter [DecidableEq α] (d : α) (m : SMap α) (p : Nat × α → Bool) (h : wf d m = true) : wf d (m.filter p) = true :=
  wf_sublist d m _ (List.filter_sublist) h

/-- A put keeps the canonical form. -/
theorem wf_put [DecidableEq α] (d : α) (m : SMap α) (k : Nat) (v : α) (h : wf d m = true) : wf d (put d m k v) = true := by
  unfold put
  split
  · exact wf_sublist d m _ (erase_sublist m k) h
  · next hv =>
    rw [wf_iff] at *
    refine ⟨pairwise_insert m k v h.1, fun e he => ?_⟩
    rcases mem_insert m k v e he with rfl | he
    · exact hv
    · exact h.2 e he

/-- Maps in canonical form that read alike are equal. -/
theorem eq_of_get [DecidableEq α] (d : α) (m m' : SMap α) (h : wf d m = true) (h' : wf d m' = true)
    (hg : ∀ k, get d m k = get d m' k) : m = m' := by
  rw [wf_iff] at h h'
  induction m generalizing m' with
  | nil =>
    cases m' with
    | nil => rfl
    | cons e m' =>
      have := hg e.1
      simp [get] at this
      exact absurd this.symm (h'.2 e (by simp))
  | cons e m ih =>
    have hp := List.pairwise_cons.mp h.1
    cases m' with
    | nil =>
      have := hg e.1
      simp [get] at this
      exact absurd this (h.2 e (by simp))
    | cons f m' =>
      have hp' := List.pairwise_cons.mp h'.1
      have he : get d (e :: m) e.1 = e.2 := by simp [get]
      have hf : get d (f :: m') f.1 = f.2 := by simp [get]
      have key : e.1 = f.1 := by
        rcases Nat.lt_trichotomy e.1 f.1 with hlt | heq | hlt
        · have : get d (f :: m') e.1 = d := get_of_lt d _ _ (by
            intro x hx
            rcases List.mem_cons.mp hx with rfl | hx
            · exact hlt
            · exact Nat.lt_trans hlt (hp'.1 x hx))
          rw [← hg, he] at this
          exact absurd this (h.2 e (by simp))
        · exact heq
        · have : get d (e :: m) f.1 = d := get_of_lt d _ _ (by
            intro x hx
            rcases List.mem_cons.mp hx with rfl | hx
            · exact hlt
            · exact Nat.lt_trans hlt (hp.1 x hx))
          rw [hg, hf] at this
          exact absurd this (h'.2 f (by simp))
      have val : e.2 = f.2 := by rw [← he, ← hf, hg, key]
      have hef : e = f := Prod.ext key val
      subst hef
      congr 1
      refine ih m' ⟨hp.2, fun x hx => h.2 x (List.mem_cons_of_mem _ hx)⟩
        ⟨hp'.2, fun x hx => h'.2 x (List.mem_cons_of_mem _ hx)⟩ fun k => ?_
      have hk := hg k
      obtain ⟨i, v⟩ := e
      by_cases hik : i = k
      · subst hik
        rw [get_of_lt d m _ hp.1, get_of_lt d m' _ hp'.1]
      · simpa [get, hik] using hk

end Sys2Proof.SMap
end

