-- ==== Sys2Proof/Laws/State.lean ====
section
/-! SUPPORT. What each update of State changes: one lemma per field per update, true by rfl, and the reads of the tables of
State after an update of one of them. -/

namespace Sys2Proof.Machine.State

/-! setWorld -/

@[simp] theorem setWorld_agenda (s : State) (w : Nat) (x : World) : (s.setWorld w x).agenda = s.agenda := rfl
@[simp] theorem setWorld_due (s : State) (w : Nat) (x : World) : (s.setWorld w x).due = s.due := rfl
@[simp] theorem setWorld_out (s : State) (w : Nat) (x : World) : (s.setWorld w x).out = s.out := rfl
@[simp] theorem setWorld_cur (s : State) (w : Nat) (x : World) : (s.setWorld w x).cur = s.cur := rfl
@[simp] theorem setWorld_turn (s : State) (w : Nat) (x : World) : (s.setWorld w x).turn = s.turn := rfl
@[simp] theorem setWorld_freeCtr (s : State) (w : Nat) (x : World) : (s.setWorld w x).freeCtr = s.freeCtr := rfl
@[simp] theorem setWorld_cycle (s : State) (w : Nat) (x : World) : (s.setWorld w x).cycle = s.cycle := rfl
@[simp] theorem setWorld_clock (s : State) (w : Nat) (x : World) : (s.setWorld w x).clock = s.clock := rfl
@[simp] theorem setWorld_clockCommitted (s : State) (w : Nat) (x : World) : (s.setWorld w x).clockCommitted = s.clockCommitted := rfl
@[simp] theorem setWorld_up (s : State) (w : Nat) (x : World) : (s.setWorld w x).up = s.up := rfl
@[simp] theorem setWorld_upAt (s : State) (w : Nat) (x : World) : (s.setWorld w x).upAt = s.upAt := rfl
@[simp] theorem setWorld_bootFailed (s : State) (w : Nat) (x : World) : (s.setWorld w x).bootFailed = s.bootFailed := rfl
@[simp] theorem setWorld_bootCause (s : State) (w : Nat) (x : World) : (s.setWorld w x).bootCause = s.bootCause := rfl
@[simp] theorem setWorld_link (s : State) (w : Nat) (x : World) : (s.setWorld w x).link = s.link := rfl
@[simp] theorem setWorld_frozen (s : State) (w : Nat) (x : World) : (s.setWorld w x).frozen = s.frozen := rfl
@[simp] theorem setWorld_life (s : State) (w : Nat) (x : World) : (s.setWorld w x).life = s.life := rfl
@[simp] theorem setWorld_lifePending (s : State) (w : Nat) (x : World) : (s.setWorld w x).lifePending = s.lifePending := rfl
@[simp] theorem setWorld_activations (s : State) (w : Nat) (x : World) : (s.setWorld w x).activations = s.activations := rfl
@[simp] theorem setWorld_keys (s : State) (w : Nat) (x : World) : (s.setWorld w x).keys = s.keys := rfl
@[simp] theorem setWorld_fwaCmd (s : State) (w : Nat) (x : World) : (s.setWorld w x).fwaCmd = s.fwaCmd := rfl
@[simp] theorem setWorld_fwaStatus (s : State) (w : Nat) (x : World) : (s.setWorld w x).fwaStatus = s.fwaStatus := rfl
@[simp] theorem setWorld_fwaElapsed (s : State) (w : Nat) (x : World) : (s.setWorld w x).fwaElapsed = s.fwaElapsed := rfl
@[simp] theorem setWorld_fwaAddr (s : State) (w : Nat) (x : World) : (s.setWorld w x).fwaAddr = s.fwaAddr := rfl
@[simp] theorem setWorld_fwaSize (s : State) (w : Nat) (x : World) : (s.setWorld w x).fwaSize = s.fwaSize := rfl
@[simp] theorem setWorld_fw (s : State) (w : Nat) (x : World) : (s.setWorld w x).fw = s.fw := rfl
@[simp] theorem setWorld_portFw (s : State) (w : Nat) (x : World) : (s.setWorld w x).portFw = s.portFw := rfl
@[simp] theorem setWorld_staged (s : State) (w : Nat) (x : World) : (s.setWorld w x).staged = s.staged := rfl
@[simp] theorem setWorld_builds (s : State) (w : Nat) (x : World) : (s.setWorld w x).builds = s.builds := rfl
@[simp] theorem setWorld_banks (s : State) (w : Nat) (x : World) : (s.setWorld w x).banks = s.banks := rfl
@[simp] theorem setWorld_bootBank (s : State) (w : Nat) (x : World) : (s.setWorld w x).bootBank = s.bootBank := rfl
@[simp] theorem setWorld_fuses (s : State) (w : Nat) (x : World) : (s.setWorld w x).fuses = s.fuses := rfl
@[simp] theorem setWorld_held (s : State) (w : Nat) (x : World) : (s.setWorld w x).held = s.held := rfl
@[simp] theorem setWorld_slcCmd (s : State) (w : Nat) (x : World) : (s.setWorld w x).slcCmd = s.slcCmd := rfl
@[simp] theorem setWorld_slcArg (s : State) (w : Nat) (x : World) : (s.setWorld w x).slcArg = s.slcArg := rfl
@[simp] theorem setWorld_slcStatus (s : State) (w : Nat) (x : World) : (s.setWorld w x).slcStatus = s.slcStatus := rfl
@[simp] theorem setWorld_slcElapsed (s : State) (w : Nat) (x : World) : (s.setWorld w x).slcElapsed = s.slcElapsed := rfl
@[simp] theorem setWorld_cmdWritten (s : State) (w : Nat) (x : World) : (s.setWorld w x).cmdWritten = s.cmdWritten := rfl
@[simp] theorem setWorld_command (s : State) (w : Nat) (x : World) : (s.setWorld w x).command = s.command := rfl
@[simp] theorem setWorld_slices (s : State) (w : Nat) (x : World) : (s.setWorld w x).slices = s.slices := rfl
@[simp] theorem setWorld_worlds (s : State) (w : Nat) (x : World) : (s.setWorld w x).worlds = s.worlds.insert w x := rfl
@[simp] theorem setWorld_launches (s : State) (w : Nat) (x : World) : (s.setWorld w x).launches = s.launches := rfl
@[simp] theorem setWorld_nextLaunch (s : State) (w : Nat) (x : World) : (s.setWorld w x).nextLaunch = s.nextLaunch := rfl
@[simp] theorem setWorld_teams (s : State) (w : Nat) (x : World) : (s.setWorld w x).teams = s.teams := rfl
@[simp] theorem setWorld_nextTeam (s : State) (w : Nat) (x : World) : (s.setWorld w x).nextTeam = s.nextTeam := rfl
@[simp] theorem setWorld_gangs (s : State) (w : Nat) (x : World) : (s.setWorld w x).gangs = s.gangs := rfl
@[simp] theorem setWorld_nextGang (s : State) (w : Nat) (x : World) : (s.setWorld w x).nextGang = s.nextGang := rfl
@[simp] theorem setWorld_progress (s : State) (w : Nat) (x : World) : (s.setWorld w x).progress = s.progress := rfl
@[simp] theorem setWorld_override (s : State) (w : Nat) (x : World) : (s.setWorld w x).override = s.override := rfl
@[simp] theorem setWorld_copies (s : State) (w : Nat) (x : World) : (s.setWorld w x).copies = s.copies := rfl
@[simp] theorem setWorld_nextCopy (s : State) (w : Nat) (x : World) : (s.setWorld w x).nextCopy = s.nextCopy := rfl
@[simp] theorem setWorld_passes (s : State) (w : Nat) (x : World) : (s.setWorld w x).passes = s.passes := rfl
@[simp] theorem setWorld_nextPass (s : State) (w : Nat) (x : World) : (s.setWorld w x).nextPass = s.nextPass := rfl
@[simp] theorem setWorld_hbm (s : State) (w : Nat) (x : World) : (s.setWorld w x).hbm = s.hbm := rfl
@[simp] theorem setWorld_written (s : State) (w : Nat) (x : World) : (s.setWorld w x).written = s.written := rfl
@[simp] theorem setWorld_host (s : State) (w : Nat) (x : World) : (s.setWorld w x).host = s.host := rfl
@[simp] theorem setWorld_poison (s : State) (w : Nat) (x : World) : (s.setWorld w x).poison = s.poison := rfl
@[simp] theorem setWorld_meets (s : State) (w : Nat) (x : World) : (s.setWorld w x).meets = s.meets := rfl
@[simp] theorem setWorld_meetsNext (s : State) (w : Nat) (x : World) : (s.setWorld w x).meetsNext = s.meetsNext := rfl
@[simp] theorem setWorld_l1 (s : State) (w : Nat) (x : World) : (s.setWorld w x).l1 = s.l1 := rfl
@[simp] theorem setWorld_icache (s : State) (w : Nat) (x : World) : (s.setWorld w x).icache = s.icache := rfl
@[simp] theorem setWorld_oldCode (s : State) (w : Nat) (x : World) : (s.setWorld w x).oldCode = s.oldCode := rfl
@[simp] theorem setWorld_hostLines (s : State) (w : Nat) (x : World) : (s.setWorld w x).hostLines = s.hostLines := rfl
@[simp] theorem setWorld_tlb (s : State) (w : Nat) (x : World) : (s.setWorld w x).tlb = s.tlb := rfl
@[simp] theorem setWorld_atsTable (s : State) (w : Nat) (x : World) : (s.setWorld w x).atsTable = s.atsTable := rfl
@[simp] theorem setWorld_atsHeld (s : State) (w : Nat) (x : World) : (s.setWorld w x).atsHeld = s.atsHeld := rfl
@[simp] theorem setWorld_reqs (s : State) (w : Nat) (x : World) : (s.setWorld w x).reqs = s.reqs := rfl
@[simp] theorem setWorld_tags (s : State) (w : Nat) (x : World) : (s.setWorld w x).tags = s.tags := rfl
@[simp] theorem setWorld_kept (s : State) (w : Nat) (x : World) : (s.setWorld w x).kept = s.kept := rfl
@[simp] theorem setWorld_station (s : State) (w : Nat) (x : World) : (s.setWorld w x).station = s.station := rfl
@[simp] theorem setWorld_palSel (s : State) (w : Nat) (x : World) : (s.setWorld w x).palSel = s.palSel := rfl
@[simp] theorem setWorld_palPend (s : State) (w : Nat) (x : World) : (s.setWorld w x).palPend = s.palPend := rfl
@[simp] theorem setWorld_calendar (s : State) (w : Nat) (x : World) : (s.setWorld w x).calendar = s.calendar := rfl
@[simp] theorem setWorld_calendarNext (s : State) (w : Nat) (x : World) : (s.setWorld w x).calendarNext = s.calendarNext := rfl
@[simp] theorem setWorld_relBase (s : State) (w : Nat) (x : World) : (s.setWorld w x).relBase = s.relBase := rfl
@[simp] theorem setWorld_relHead (s : State) (w : Nat) (x : World) : (s.setWorld w x).relHead = s.relHead := rfl
@[simp] theorem setWorld_relTail (s : State) (w : Nat) (x : World) : (s.setWorld w x).relTail = s.relTail := rfl
@[simp] theorem setWorld_relOvf (s : State) (w : Nat) (x : World) : (s.setWorld w x).relOvf = s.relOvf := rfl
@[simp] theorem setWorld_relLost (s : State) (w : Nat) (x : World) : (s.setWorld w x).relLost = s.relLost := rfl
@[simp] theorem setWorld_errors (s : State) (w : Nat) (x : World) : (s.setWorld w x).errors = s.errors := rfl
@[simp] theorem setWorld_merges (s : State) (w : Nat) (x : World) : (s.setWorld w x).merges = s.merges := rfl
@[simp] theorem setWorld_metBase (s : State) (w : Nat) (x : World) : (s.setWorld w x).metBase = s.metBase := rfl
@[simp] theorem setWorld_metHead (s : State) (w : Nat) (x : World) : (s.setWorld w x).metHead = s.metHead := rfl
@[simp] theorem setWorld_metTail (s : State) (w : Nat) (x : World) : (s.setWorld w x).metTail = s.metTail := rfl
@[simp] theorem setWorld_metPeriod (s : State) (w : Nat) (x : World) : (s.setWorld w x).metPeriod = s.metPeriod := rfl
@[simp] theorem setWorld_metNext (s : State) (w : Nat) (x : World) : (s.setWorld w x).metNext = s.metNext := rfl
@[simp] theorem setWorld_decoders (s : State) (w : Nat) (x : World) : (s.setWorld w x).decoders = s.decoders := rfl
@[simp] theorem setWorld_ide (s : State) (w : Nat) (x : World) : (s.setWorld w x).ide = s.ide := rfl

/-! setSlice -/

@[simp] theorem setSlice_agenda (s : State) (c : Nat) (x : Slice) : (s.setSlice c x).agenda = s.agenda := rfl
@[simp] theorem setSlice_due (s : State) (c : Nat) (x : Slice) : (s.setSlice c x).due = s.due := rfl
@[simp] theorem setSlice_out (s : State) (c : Nat) (x : Slice) : (s.setSlice c x).out = s.out := rfl
@[simp] theorem setSlice_cur (s : State) (c : Nat) (x : Slice) : (s.setSlice c x).cur = s.cur := rfl
@[simp] theorem setSlice_turn (s : State) (c : Nat) (x : Slice) : (s.setSlice c x).turn = s.turn := rfl
@[simp] theorem setSlice_freeCtr (s : State) (c : Nat) (x : Slice) : (s.setSlice c x).freeCtr = s.freeCtr := rfl
@[simp] theorem setSlice_cycle (s : State) (c : Nat) (x : Slice) : (s.setSlice c x).cycle = s.cycle := rfl
@[simp] theorem setSlice_clock (s : State) (c : Nat) (x : Slice) : (s.setSlice c x).clock = s.clock := rfl
@[simp] theorem setSlice_clockCommitted (s : State) (c : Nat) (x : Slice) : (s.setSlice c x).clockCommitted = s.clockCommitted := rfl
@[simp] theorem setSlice_up (s : State) (c : Nat) (x : Slice) : (s.setSlice c x).up = s.up := rfl
@[simp] theorem setSlice_upAt (s : State) (c : Nat) (x : Slice) : (s.setSlice c x).upAt = s.upAt := rfl
@[simp] theorem setSlice_bootFailed (s : State) (c : Nat) (x : Slice) : (s.setSlice c x).bootFailed = s.bootFailed := rfl
@[simp] theorem setSlice_bootCause (s : State) (c : Nat) (x : Slice) : (s.setSlice c x).bootCause = s.bootCause := rfl
@[simp] theorem setSlice_link (s : State) (c : Nat) (x : Slice) : (s.setSlice c x).link = s.link := rfl
@[simp] theorem setSlice_frozen (s : State) (c : Nat) (x : Slice) : (s.setSlice c x).frozen = s.frozen := rfl
@[simp] theorem setSlice_life (s : State) (c : Nat) (x : Slice) : (s.setSlice c x).life = s.life := rfl
@[simp] theorem setSlice_lifePending (s : State) (c : Nat) (x : Slice) : (s.setSlice c x).lifePending = s.lifePending := rfl
@[simp] theorem setSlice_activations (s : State) (c : Nat) (x : Slice) : (s.setSlice c x).activations = s.activations := rfl
@[simp] theorem setSlice_keys (s : State) (c : Nat) (x : Slice) : (s.setSlice c x).keys = s.keys := rfl
@[simp] theorem setSlice_fwaCmd (s : State) (c : Nat) (x : Slice) : (s.setSlice c x).fwaCmd = s.fwaCmd := rfl
@[simp] theorem setSlice_fwaStatus (s : State) (c : Nat) (x : Slice) : (s.setSlice c x).fwaStatus = s.fwaStatus := rfl
@[simp] theorem setSlice_fwaElapsed (s : State) (c : Nat) (x : Slice) : (s.setSlice c x).fwaElapsed = s.fwaElapsed := rfl
@[simp] theorem setSlice_fwaAddr (s : State) (c : Nat) (x : Slice) : (s.setSlice c x).fwaAddr = s.fwaAddr := rfl
@[simp] theorem setSlice_fwaSize (s : State) (c : Nat) (x : Slice) : (s.setSlice c x).fwaSize = s.fwaSize := rfl
@[simp] theorem setSlice_fw (s : State) (c : Nat) (x : Slice) : (s.setSlice c x).fw = s.fw := rfl
@[simp] theorem setSlice_portFw (s : State) (c : Nat) (x : Slice) : (s.setSlice c x).portFw = s.portFw := rfl
@[simp] theorem setSlice_staged (s : State) (c : Nat) (x : Slice) : (s.setSlice c x).staged = s.staged := rfl
@[simp] theorem setSlice_builds (s : State) (c : Nat) (x : Slice) : (s.setSlice c x).builds = s.builds := rfl
@[simp] theorem setSlice_banks (s : State) (c : Nat) (x : Slice) : (s.setSlice c x).banks = s.banks := rfl
@[simp] theorem setSlice_bootBank (s : State) (c : Nat) (x : Slice) : (s.setSlice c x).bootBank = s.bootBank := rfl
@[simp] theorem setSlice_fuses (s : State) (c : Nat) (x : Slice) : (s.setSlice c x).fuses = s.fuses := rfl
@[simp] theorem setSlice_held (s : State) (c : Nat) (x : Slice) : (s.setSlice c x).held = s.held := rfl
@[simp] theorem setSlice_slcCmd (s : State) (c : Nat) (x : Slice) : (s.setSlice c x).slcCmd = s.slcCmd := rfl
@[simp] theorem setSlice_slcArg (s : State) (c : Nat) (x : Slice) : (s.setSlice c x).slcArg = s.slcArg := rfl
@[simp] theorem setSlice_slcStatus (s : State) (c : Nat) (x : Slice) : (s.setSlice c x).slcStatus = s.slcStatus := rfl
@[simp] theorem setSlice_slcElapsed (s : State) (c : Nat) (x : Slice) : (s.setSlice c x).slcElapsed = s.slcElapsed := rfl
@[simp] theorem setSlice_cmdWritten (s : State) (c : Nat) (x : Slice) : (s.setSlice c x).cmdWritten = s.cmdWritten := rfl
@[simp] theorem setSlice_command (s : State) (c : Nat) (x : Slice) : (s.setSlice c x).command = s.command := rfl
@[simp] theorem setSlice_slices (s : State) (c : Nat) (x : Slice) : (s.setSlice c x).slices = s.slices.insert c x := rfl
@[simp] theorem setSlice_worlds (s : State) (c : Nat) (x : Slice) : (s.setSlice c x).worlds = s.worlds := rfl
@[simp] theorem setSlice_launches (s : State) (c : Nat) (x : Slice) : (s.setSlice c x).launches = s.launches := rfl
@[simp] theorem setSlice_nextLaunch (s : State) (c : Nat) (x : Slice) : (s.setSlice c x).nextLaunch = s.nextLaunch := rfl
@[simp] theorem setSlice_teams (s : State) (c : Nat) (x : Slice) : (s.setSlice c x).teams = s.teams := rfl
@[simp] theorem setSlice_nextTeam (s : State) (c : Nat) (x : Slice) : (s.setSlice c x).nextTeam = s.nextTeam := rfl
@[simp] theorem setSlice_gangs (s : State) (c : Nat) (x : Slice) : (s.setSlice c x).gangs = s.gangs := rfl
@[simp] theorem setSlice_nextGang (s : State) (c : Nat) (x : Slice) : (s.setSlice c x).nextGang = s.nextGang := rfl
@[simp] theorem setSlice_progress (s : State) (c : Nat) (x : Slice) : (s.setSlice c x).progress = s.progress := rfl
@[simp] theorem setSlice_override (s : State) (c : Nat) (x : Slice) : (s.setSlice c x).override = s.override := rfl
@[simp] theorem setSlice_copies (s : State) (c : Nat) (x : Slice) : (s.setSlice c x).copies = s.copies := rfl
@[simp] theorem setSlice_nextCopy (s : State) (c : Nat) (x : Slice) : (s.setSlice c x).nextCopy = s.nextCopy := rfl
@[simp] theorem setSlice_passes (s : State) (c : Nat) (x : Slice) : (s.setSlice c x).passes = s.passes := rfl
@[simp] theorem setSlice_nextPass (s : State) (c : Nat) (x : Slice) : (s.setSlice c x).nextPass = s.nextPass := rfl
@[simp] theorem setSlice_hbm (s : State) (c : Nat) (x : Slice) : (s.setSlice c x).hbm = s.hbm := rfl
@[simp] theorem setSlice_written (s : State) (c : Nat) (x : Slice) : (s.setSlice c x).written = s.written := rfl
@[simp] theorem setSlice_host (s : State) (c : Nat) (x : Slice) : (s.setSlice c x).host = s.host := rfl
@[simp] theorem setSlice_poison (s : State) (c : Nat) (x : Slice) : (s.setSlice c x).poison = s.poison := rfl
@[simp] theorem setSlice_meets (s : State) (c : Nat) (x : Slice) : (s.setSlice c x).meets = s.meets := rfl
@[simp] theorem setSlice_meetsNext (s : State) (c : Nat) (x : Slice) : (s.setSlice c x).meetsNext = s.meetsNext := rfl
@[simp] theorem setSlice_l1 (s : State) (c : Nat) (x : Slice) : (s.setSlice c x).l1 = s.l1 := rfl
@[simp] theorem setSlice_icache (s : State) (c : Nat) (x : Slice) : (s.setSlice c x).icache = s.icache := rfl
@[simp] theorem setSlice_oldCode (s : State) (c : Nat) (x : Slice) : (s.setSlice c x).oldCode = s.oldCode := rfl
@[simp] theorem setSlice_hostLines (s : State) (c : Nat) (x : Slice) : (s.setSlice c x).hostLines = s.hostLines := rfl
@[simp] theorem setSlice_tlb (s : State) (c : Nat) (x : Slice) : (s.setSlice c x).tlb = s.tlb := rfl
@[simp] theorem setSlice_atsTable (s : State) (c : Nat) (x : Slice) : (s.setSlice c x).atsTable = s.atsTable := rfl
@[simp] theorem setSlice_atsHeld (s : State) (c : Nat) (x : Slice) : (s.setSlice c x).atsHeld = s.atsHeld := rfl
@[simp] theorem setSlice_reqs (s : State) (c : Nat) (x : Slice) : (s.setSlice c x).reqs = s.reqs := rfl
@[simp] theorem setSlice_tags (s : State) (c : Nat) (x : Slice) : (s.setSlice c x).tags = s.tags := rfl
@[simp] theorem setSlice_kept (s : State) (c : Nat) (x : Slice) : (s.setSlice c x).kept = s.kept := rfl
@[simp] theorem setSlice_station (s : State) (c : Nat) (x : Slice) : (s.setSlice c x).station = s.station := rfl
@[simp] theorem setSlice_palSel (s : State) (c : Nat) (x : Slice) : (s.setSlice c x).palSel = s.palSel := rfl
@[simp] theorem setSlice_palPend (s : State) (c : Nat) (x : Slice) : (s.setSlice c x).palPend = s.palPend := rfl
@[simp] theorem setSlice_calendar (s : State) (c : Nat) (x : Slice) : (s.setSlice c x).calendar = s.calendar := rfl
@[simp] theorem setSlice_calendarNext (s : State) (c : Nat) (x : Slice) : (s.setSlice c x).calendarNext = s.calendarNext := rfl
@[simp] theorem setSlice_relBase (s : State) (c : Nat) (x : Slice) : (s.setSlice c x).relBase = s.relBase := rfl
@[simp] theorem setSlice_relHead (s : State) (c : Nat) (x : Slice) : (s.setSlice c x).relHead = s.relHead := rfl
@[simp] theorem setSlice_relTail (s : State) (c : Nat) (x : Slice) : (s.setSlice c x).relTail = s.relTail := rfl
@[simp] theorem setSlice_relOvf (s : State) (c : Nat) (x : Slice) : (s.setSlice c x).relOvf = s.relOvf := rfl
@[simp] theorem setSlice_relLost (s : State) (c : Nat) (x : Slice) : (s.setSlice c x).relLost = s.relLost := rfl
@[simp] theorem setSlice_errors (s : State) (c : Nat) (x : Slice) : (s.setSlice c x).errors = s.errors := rfl
@[simp] theorem setSlice_merges (s : State) (c : Nat) (x : Slice) : (s.setSlice c x).merges = s.merges := rfl
@[simp] theorem setSlice_metBase (s : State) (c : Nat) (x : Slice) : (s.setSlice c x).metBase = s.metBase := rfl
@[simp] theorem setSlice_metHead (s : State) (c : Nat) (x : Slice) : (s.setSlice c x).metHead = s.metHead := rfl
@[simp] theorem setSlice_metTail (s : State) (c : Nat) (x : Slice) : (s.setSlice c x).metTail = s.metTail := rfl
@[simp] theorem setSlice_metPeriod (s : State) (c : Nat) (x : Slice) : (s.setSlice c x).metPeriod = s.metPeriod := rfl
@[simp] theorem setSlice_metNext (s : State) (c : Nat) (x : Slice) : (s.setSlice c x).metNext = s.metNext := rfl
@[simp] theorem setSlice_decoders (s : State) (c : Nat) (x : Slice) : (s.setSlice c x).decoders = s.decoders := rfl
@[simp] theorem setSlice_ide (s : State) (c : Nat) (x : Slice) : (s.setSlice c x).ide = s.ide := rfl

/-! setTeam -/

@[simp] theorem setTeam_agenda (s : State) (t : Nat) (x : Team) : (s.setTeam t x).agenda = s.agenda := rfl
@[simp] theorem setTeam_due (s : State) (t : Nat) (x : Team) : (s.setTeam t x).due = s.due := rfl
@[simp] theorem setTeam_out (s : State) (t : Nat) (x : Team) : (s.setTeam t x).out = s.out := rfl
@[simp] theorem setTeam_cur (s : State) (t : Nat) (x : Team) : (s.setTeam t x).cur = s.cur := rfl
@[simp] theorem setTeam_turn (s : State) (t : Nat) (x : Team) : (s.setTeam t x).turn = s.turn := rfl
@[simp] theorem setTeam_freeCtr (s : State) (t : Nat) (x : Team) : (s.setTeam t x).freeCtr = s.freeCtr := rfl
@[simp] theorem setTeam_cycle (s : State) (t : Nat) (x : Team) : (s.setTeam t x).cycle = s.cycle := rfl
@[simp] theorem setTeam_clock (s : State) (t : Nat) (x : Team) : (s.setTeam t x).clock = s.clock := rfl
@[simp] theorem setTeam_clockCommitted (s : State) (t : Nat) (x : Team) : (s.setTeam t x).clockCommitted = s.clockCommitted := rfl
@[simp] theorem setTeam_up (s : State) (t : Nat) (x : Team) : (s.setTeam t x).up = s.up := rfl
@[simp] theorem setTeam_upAt (s : State) (t : Nat) (x : Team) : (s.setTeam t x).upAt = s.upAt := rfl
@[simp] theorem setTeam_bootFailed (s : State) (t : Nat) (x : Team) : (s.setTeam t x).bootFailed = s.bootFailed := rfl
@[simp] theorem setTeam_bootCause (s : State) (t : Nat) (x : Team) : (s.setTeam t x).bootCause = s.bootCause := rfl
@[simp] theorem setTeam_link (s : State) (t : Nat) (x : Team) : (s.setTeam t x).link = s.link := rfl
@[simp] theorem setTeam_frozen (s : State) (t : Nat) (x : Team) : (s.setTeam t x).frozen = s.frozen := rfl
@[simp] theorem setTeam_life (s : State) (t : Nat) (x : Team) : (s.setTeam t x).life = s.life := rfl
@[simp] theorem setTeam_lifePending (s : State) (t : Nat) (x : Team) : (s.setTeam t x).lifePending = s.lifePending := rfl
@[simp] theorem setTeam_activations (s : State) (t : Nat) (x : Team) : (s.setTeam t x).activations = s.activations := rfl
@[simp] theorem setTeam_keys (s : State) (t : Nat) (x : Team) : (s.setTeam t x).keys = s.keys := rfl
@[simp] theorem setTeam_fwaCmd (s : State) (t : Nat) (x : Team) : (s.setTeam t x).fwaCmd = s.fwaCmd := rfl
@[simp] theorem setTeam_fwaStatus (s : State) (t : Nat) (x : Team) : (s.setTeam t x).fwaStatus = s.fwaStatus := rfl
@[simp] theorem setTeam_fwaElapsed (s : State) (t : Nat) (x : Team) : (s.setTeam t x).fwaElapsed = s.fwaElapsed := rfl
@[simp] theorem setTeam_fwaAddr (s : State) (t : Nat) (x : Team) : (s.setTeam t x).fwaAddr = s.fwaAddr := rfl
@[simp] theorem setTeam_fwaSize (s : State) (t : Nat) (x : Team) : (s.setTeam t x).fwaSize = s.fwaSize := rfl
@[simp] theorem setTeam_fw (s : State) (t : Nat) (x : Team) : (s.setTeam t x).fw = s.fw := rfl
@[simp] theorem setTeam_portFw (s : State) (t : Nat) (x : Team) : (s.setTeam t x).portFw = s.portFw := rfl
@[simp] theorem setTeam_staged (s : State) (t : Nat) (x : Team) : (s.setTeam t x).staged = s.staged := rfl
@[simp] theorem setTeam_builds (s : State) (t : Nat) (x : Team) : (s.setTeam t x).builds = s.builds := rfl
@[simp] theorem setTeam_banks (s : State) (t : Nat) (x : Team) : (s.setTeam t x).banks = s.banks := rfl
@[simp] theorem setTeam_bootBank (s : State) (t : Nat) (x : Team) : (s.setTeam t x).bootBank = s.bootBank := rfl
@[simp] theorem setTeam_fuses (s : State) (t : Nat) (x : Team) : (s.setTeam t x).fuses = s.fuses := rfl
@[simp] theorem setTeam_held (s : State) (t : Nat) (x : Team) : (s.setTeam t x).held = s.held := rfl
@[simp] theorem setTeam_slcCmd (s : State) (t : Nat) (x : Team) : (s.setTeam t x).slcCmd = s.slcCmd := rfl
@[simp] theorem setTeam_slcArg (s : State) (t : Nat) (x : Team) : (s.setTeam t x).slcArg = s.slcArg := rfl
@[simp] theorem setTeam_slcStatus (s : State) (t : Nat) (x : Team) : (s.setTeam t x).slcStatus = s.slcStatus := rfl
@[simp] theorem setTeam_slcElapsed (s : State) (t : Nat) (x : Team) : (s.setTeam t x).slcElapsed = s.slcElapsed := rfl
@[simp] theorem setTeam_cmdWritten (s : State) (t : Nat) (x : Team) : (s.setTeam t x).cmdWritten = s.cmdWritten := rfl
@[simp] theorem setTeam_command (s : State) (t : Nat) (x : Team) : (s.setTeam t x).command = s.command := rfl
@[simp] theorem setTeam_slices (s : State) (t : Nat) (x : Team) : (s.setTeam t x).slices = s.slices := rfl
@[simp] theorem setTeam_worlds (s : State) (t : Nat) (x : Team) : (s.setTeam t x).worlds = s.worlds := rfl
@[simp] theorem setTeam_launches (s : State) (t : Nat) (x : Team) : (s.setTeam t x).launches = s.launches := rfl
@[simp] theorem setTeam_nextLaunch (s : State) (t : Nat) (x : Team) : (s.setTeam t x).nextLaunch = s.nextLaunch := rfl
@[simp] theorem setTeam_teams (s : State) (t : Nat) (x : Team) : (s.setTeam t x).teams = s.teams.insert t x := rfl
@[simp] theorem setTeam_nextTeam (s : State) (t : Nat) (x : Team) : (s.setTeam t x).nextTeam = s.nextTeam := rfl
@[simp] theorem setTeam_gangs (s : State) (t : Nat) (x : Team) : (s.setTeam t x).gangs = s.gangs := rfl
@[simp] theorem setTeam_nextGang (s : State) (t : Nat) (x : Team) : (s.setTeam t x).nextGang = s.nextGang := rfl
@[simp] theorem setTeam_progress (s : State) (t : Nat) (x : Team) : (s.setTeam t x).progress = s.progress := rfl
@[simp] theorem setTeam_override (s : State) (t : Nat) (x : Team) : (s.setTeam t x).override = s.override := rfl
@[simp] theorem setTeam_copies (s : State) (t : Nat) (x : Team) : (s.setTeam t x).copies = s.copies := rfl
@[simp] theorem setTeam_nextCopy (s : State) (t : Nat) (x : Team) : (s.setTeam t x).nextCopy = s.nextCopy := rfl
@[simp] theorem setTeam_passes (s : State) (t : Nat) (x : Team) : (s.setTeam t x).passes = s.passes := rfl
@[simp] theorem setTeam_nextPass (s : State) (t : Nat) (x : Team) : (s.setTeam t x).nextPass = s.nextPass := rfl
@[simp] theorem setTeam_hbm (s : State) (t : Nat) (x : Team) : (s.setTeam t x).hbm = s.hbm := rfl
@[simp] theorem setTeam_written (s : State) (t : Nat) (x : Team) : (s.setTeam t x).written = s.written := rfl
@[simp] theorem setTeam_host (s : State) (t : Nat) (x : Team) : (s.setTeam t x).host = s.host := rfl
@[simp] theorem setTeam_poison (s : State) (t : Nat) (x : Team) : (s.setTeam t x).poison = s.poison := rfl
@[simp] theorem setTeam_meets (s : State) (t : Nat) (x : Team) : (s.setTeam t x).meets = s.meets := rfl
@[simp] theorem setTeam_meetsNext (s : State) (t : Nat) (x : Team) : (s.setTeam t x).meetsNext = s.meetsNext := rfl
@[simp] theorem setTeam_l1 (s : State) (t : Nat) (x : Team) : (s.setTeam t x).l1 = s.l1 := rfl
@[simp] theorem setTeam_icache (s : State) (t : Nat) (x : Team) : (s.setTeam t x).icache = s.icache := rfl
@[simp] theorem setTeam_oldCode (s : State) (t : Nat) (x : Team) : (s.setTeam t x).oldCode = s.oldCode := rfl
@[simp] theorem setTeam_hostLines (s : State) (t : Nat) (x : Team) : (s.setTeam t x).hostLines = s.hostLines := rfl
@[simp] theorem setTeam_tlb (s : State) (t : Nat) (x : Team) : (s.setTeam t x).tlb = s.tlb := rfl
@[simp] theorem setTeam_atsTable (s : State) (t : Nat) (x : Team) : (s.setTeam t x).atsTable = s.atsTable := rfl
@[simp] theorem setTeam_atsHeld (s : State) (t : Nat) (x : Team) : (s.setTeam t x).atsHeld = s.atsHeld := rfl
@[simp] theorem setTeam_reqs (s : State) (t : Nat) (x : Team) : (s.setTeam t x).reqs = s.reqs := rfl
@[simp] theorem setTeam_tags (s : State) (t : Nat) (x : Team) : (s.setTeam t x).tags = s.tags := rfl
@[simp] theorem setTeam_kept (s : State) (t : Nat) (x : Team) : (s.setTeam t x).kept = s.kept := rfl
@[simp] theorem setTeam_station (s : State) (t : Nat) (x : Team) : (s.setTeam t x).station = s.station := rfl
@[simp] theorem setTeam_palSel (s : State) (t : Nat) (x : Team) : (s.setTeam t x).palSel = s.palSel := rfl
@[simp] theorem setTeam_palPend (s : State) (t : Nat) (x : Team) : (s.setTeam t x).palPend = s.palPend := rfl
@[simp] theorem setTeam_calendar (s : State) (t : Nat) (x : Team) : (s.setTeam t x).calendar = s.calendar := rfl
@[simp] theorem setTeam_calendarNext (s : State) (t : Nat) (x : Team) : (s.setTeam t x).calendarNext = s.calendarNext := rfl
@[simp] theorem setTeam_relBase (s : State) (t : Nat) (x : Team) : (s.setTeam t x).relBase = s.relBase := rfl
@[simp] theorem setTeam_relHead (s : State) (t : Nat) (x : Team) : (s.setTeam t x).relHead = s.relHead := rfl
@[simp] theorem setTeam_relTail (s : State) (t : Nat) (x : Team) : (s.setTeam t x).relTail = s.relTail := rfl
@[simp] theorem setTeam_relOvf (s : State) (t : Nat) (x : Team) : (s.setTeam t x).relOvf = s.relOvf := rfl
@[simp] theorem setTeam_relLost (s : State) (t : Nat) (x : Team) : (s.setTeam t x).relLost = s.relLost := rfl
@[simp] theorem setTeam_errors (s : State) (t : Nat) (x : Team) : (s.setTeam t x).errors = s.errors := rfl
@[simp] theorem setTeam_merges (s : State) (t : Nat) (x : Team) : (s.setTeam t x).merges = s.merges := rfl
@[simp] theorem setTeam_metBase (s : State) (t : Nat) (x : Team) : (s.setTeam t x).metBase = s.metBase := rfl
@[simp] theorem setTeam_metHead (s : State) (t : Nat) (x : Team) : (s.setTeam t x).metHead = s.metHead := rfl
@[simp] theorem setTeam_metTail (s : State) (t : Nat) (x : Team) : (s.setTeam t x).metTail = s.metTail := rfl
@[simp] theorem setTeam_metPeriod (s : State) (t : Nat) (x : Team) : (s.setTeam t x).metPeriod = s.metPeriod := rfl
@[simp] theorem setTeam_metNext (s : State) (t : Nat) (x : Team) : (s.setTeam t x).metNext = s.metNext := rfl
@[simp] theorem setTeam_decoders (s : State) (t : Nat) (x : Team) : (s.setTeam t x).decoders = s.decoders := rfl
@[simp] theorem setTeam_ide (s : State) (t : Nat) (x : Team) : (s.setTeam t x).ide = s.ide := rfl

/-! setLaunch -/

@[simp] theorem setLaunch_agenda (s : State) (l : Nat) (x : Launch) : (s.setLaunch l x).agenda = s.agenda := rfl
@[simp] theorem setLaunch_due (s : State) (l : Nat) (x : Launch) : (s.setLaunch l x).due = s.due := rfl
@[simp] theorem setLaunch_out (s : State) (l : Nat) (x : Launch) : (s.setLaunch l x).out = s.out := rfl
@[simp] theorem setLaunch_cur (s : State) (l : Nat) (x : Launch) : (s.setLaunch l x).cur = s.cur := rfl
@[simp] theorem setLaunch_turn (s : State) (l : Nat) (x : Launch) : (s.setLaunch l x).turn = s.turn := rfl
@[simp] theorem setLaunch_freeCtr (s : State) (l : Nat) (x : Launch) : (s.setLaunch l x).freeCtr = s.freeCtr := rfl
@[simp] theorem setLaunch_cycle (s : State) (l : Nat) (x : Launch) : (s.setLaunch l x).cycle = s.cycle := rfl
@[simp] theorem setLaunch_clock (s : State) (l : Nat) (x : Launch) : (s.setLaunch l x).clock = s.clock := rfl
@[simp] theorem setLaunch_clockCommitted (s : State) (l : Nat) (x : Launch) : (s.setLaunch l x).clockCommitted = s.clockCommitted := rfl
@[simp] theorem setLaunch_up (s : State) (l : Nat) (x : Launch) : (s.setLaunch l x).up = s.up := rfl
@[simp] theorem setLaunch_upAt (s : State) (l : Nat) (x : Launch) : (s.setLaunch l x).upAt = s.upAt := rfl
@[simp] theorem setLaunch_bootFailed (s : State) (l : Nat) (x : Launch) : (s.setLaunch l x).bootFailed = s.bootFailed := rfl
@[simp] theorem setLaunch_bootCause (s : State) (l : Nat) (x : Launch) : (s.setLaunch l x).bootCause = s.bootCause := rfl
@[simp] theorem setLaunch_link (s : State) (l : Nat) (x : Launch) : (s.setLaunch l x).link = s.link := rfl
@[simp] theorem setLaunch_frozen (s : State) (l : Nat) (x : Launch) : (s.setLaunch l x).frozen = s.frozen := rfl
@[simp] theorem setLaunch_life (s : State) (l : Nat) (x : Launch) : (s.setLaunch l x).life = s.life := rfl
@[simp] theorem setLaunch_lifePending (s : State) (l : Nat) (x : Launch) : (s.setLaunch l x).lifePending = s.lifePending := rfl
@[simp] theorem setLaunch_activations (s : State) (l : Nat) (x : Launch) : (s.setLaunch l x).activations = s.activations := rfl
@[simp] theorem setLaunch_keys (s : State) (l : Nat) (x : Launch) : (s.setLaunch l x).keys = s.keys := rfl
@[simp] theorem setLaunch_fwaCmd (s : State) (l : Nat) (x : Launch) : (s.setLaunch l x).fwaCmd = s.fwaCmd := rfl
@[simp] theorem setLaunch_fwaStatus (s : State) (l : Nat) (x : Launch) : (s.setLaunch l x).fwaStatus = s.fwaStatus := rfl
@[simp] theorem setLaunch_fwaElapsed (s : State) (l : Nat) (x : Launch) : (s.setLaunch l x).fwaElapsed = s.fwaElapsed := rfl
@[simp] theorem setLaunch_fwaAddr (s : State) (l : Nat) (x : Launch) : (s.setLaunch l x).fwaAddr = s.fwaAddr := rfl
@[simp] theorem setLaunch_fwaSize (s : State) (l : Nat) (x : Launch) : (s.setLaunch l x).fwaSize = s.fwaSize := rfl
@[simp] theorem setLaunch_fw (s : State) (l : Nat) (x : Launch) : (s.setLaunch l x).fw = s.fw := rfl
@[simp] theorem setLaunch_portFw (s : State) (l : Nat) (x : Launch) : (s.setLaunch l x).portFw = s.portFw := rfl
@[simp] theorem setLaunch_staged (s : State) (l : Nat) (x : Launch) : (s.setLaunch l x).staged = s.staged := rfl
@[simp] theorem setLaunch_builds (s : State) (l : Nat) (x : Launch) : (s.setLaunch l x).builds = s.builds := rfl
@[simp] theorem setLaunch_banks (s : State) (l : Nat) (x : Launch) : (s.setLaunch l x).banks = s.banks := rfl
@[simp] theorem setLaunch_bootBank (s : State) (l : Nat) (x : Launch) : (s.setLaunch l x).bootBank = s.bootBank := rfl
@[simp] theorem setLaunch_fuses (s : State) (l : Nat) (x : Launch) : (s.setLaunch l x).fuses = s.fuses := rfl
@[simp] theorem setLaunch_held (s : State) (l : Nat) (x : Launch) : (s.setLaunch l x).held = s.held := rfl
@[simp] theorem setLaunch_slcCmd (s : State) (l : Nat) (x : Launch) : (s.setLaunch l x).slcCmd = s.slcCmd := rfl
@[simp] theorem setLaunch_slcArg (s : State) (l : Nat) (x : Launch) : (s.setLaunch l x).slcArg = s.slcArg := rfl
@[simp] theorem setLaunch_slcStatus (s : State) (l : Nat) (x : Launch) : (s.setLaunch l x).slcStatus = s.slcStatus := rfl
@[simp] theorem setLaunch_slcElapsed (s : State) (l : Nat) (x : Launch) : (s.setLaunch l x).slcElapsed = s.slcElapsed := rfl
@[simp] theorem setLaunch_cmdWritten (s : State) (l : Nat) (x : Launch) : (s.setLaunch l x).cmdWritten = s.cmdWritten := rfl
@[simp] theorem setLaunch_command (s : State) (l : Nat) (x : Launch) : (s.setLaunch l x).command = s.command := rfl
@[simp] theorem setLaunch_slices (s : State) (l : Nat) (x : Launch) : (s.setLaunch l x).slices = s.slices := rfl
@[simp] theorem setLaunch_worlds (s : State) (l : Nat) (x : Launch) : (s.setLaunch l x).worlds = s.worlds := rfl
@[simp] theorem setLaunch_launches (s : State) (l : Nat) (x : Launch) : (s.setLaunch l x).launches = s.launches.insert l x := rfl
@[simp] theorem setLaunch_nextLaunch (s : State) (l : Nat) (x : Launch) : (s.setLaunch l x).nextLaunch = s.nextLaunch := rfl
@[simp] theorem setLaunch_teams (s : State) (l : Nat) (x : Launch) : (s.setLaunch l x).teams = s.teams := rfl
@[simp] theorem setLaunch_nextTeam (s : State) (l : Nat) (x : Launch) : (s.setLaunch l x).nextTeam = s.nextTeam := rfl
@[simp] theorem setLaunch_gangs (s : State) (l : Nat) (x : Launch) : (s.setLaunch l x).gangs = s.gangs := rfl
@[simp] theorem setLaunch_nextGang (s : State) (l : Nat) (x : Launch) : (s.setLaunch l x).nextGang = s.nextGang := rfl
@[simp] theorem setLaunch_progress (s : State) (l : Nat) (x : Launch) : (s.setLaunch l x).progress = s.progress := rfl
@[simp] theorem setLaunch_override (s : State) (l : Nat) (x : Launch) : (s.setLaunch l x).override = s.override := rfl
@[simp] theorem setLaunch_copies (s : State) (l : Nat) (x : Launch) : (s.setLaunch l x).copies = s.copies := rfl
@[simp] theorem setLaunch_nextCopy (s : State) (l : Nat) (x : Launch) : (s.setLaunch l x).nextCopy = s.nextCopy := rfl
@[simp] theorem setLaunch_passes (s : State) (l : Nat) (x : Launch) : (s.setLaunch l x).passes = s.passes := rfl
@[simp] theorem setLaunch_nextPass (s : State) (l : Nat) (x : Launch) : (s.setLaunch l x).nextPass = s.nextPass := rfl
@[simp] theorem setLaunch_hbm (s : State) (l : Nat) (x : Launch) : (s.setLaunch l x).hbm = s.hbm := rfl
@[simp] theorem setLaunch_written (s : State) (l : Nat) (x : Launch) : (s.setLaunch l x).written = s.written := rfl
@[simp] theorem setLaunch_host (s : State) (l : Nat) (x : Launch) : (s.setLaunch l x).host = s.host := rfl
@[simp] theorem setLaunch_poison (s : State) (l : Nat) (x : Launch) : (s.setLaunch l x).poison = s.poison := rfl
@[simp] theorem setLaunch_meets (s : State) (l : Nat) (x : Launch) : (s.setLaunch l x).meets = s.meets := rfl
@[simp] theorem setLaunch_meetsNext (s : State) (l : Nat) (x : Launch) : (s.setLaunch l x).meetsNext = s.meetsNext := rfl
@[simp] theorem setLaunch_l1 (s : State) (l : Nat) (x : Launch) : (s.setLaunch l x).l1 = s.l1 := rfl
@[simp] theorem setLaunch_icache (s : State) (l : Nat) (x : Launch) : (s.setLaunch l x).icache = s.icache := rfl
@[simp] theorem setLaunch_oldCode (s : State) (l : Nat) (x : Launch) : (s.setLaunch l x).oldCode = s.oldCode := rfl
@[simp] theorem setLaunch_hostLines (s : State) (l : Nat) (x : Launch) : (s.setLaunch l x).hostLines = s.hostLines := rfl
@[simp] theorem setLaunch_tlb (s : State) (l : Nat) (x : Launch) : (s.setLaunch l x).tlb = s.tlb := rfl
@[simp] theorem setLaunch_atsTable (s : State) (l : Nat) (x : Launch) : (s.setLaunch l x).atsTable = s.atsTable := rfl
@[simp] theorem setLaunch_atsHeld (s : State) (l : Nat) (x : Launch) : (s.setLaunch l x).atsHeld = s.atsHeld := rfl
@[simp] theorem setLaunch_reqs (s : State) (l : Nat) (x : Launch) : (s.setLaunch l x).reqs = s.reqs := rfl
@[simp] theorem setLaunch_tags (s : State) (l : Nat) (x : Launch) : (s.setLaunch l x).tags = s.tags := rfl
@[simp] theorem setLaunch_kept (s : State) (l : Nat) (x : Launch) : (s.setLaunch l x).kept = s.kept := rfl
@[simp] theorem setLaunch_station (s : State) (l : Nat) (x : Launch) : (s.setLaunch l x).station = s.station := rfl
@[simp] theorem setLaunch_palSel (s : State) (l : Nat) (x : Launch) : (s.setLaunch l x).palSel = s.palSel := rfl
@[simp] theorem setLaunch_palPend (s : State) (l : Nat) (x : Launch) : (s.setLaunch l x).palPend = s.palPend := rfl
@[simp] theorem setLaunch_calendar (s : State) (l : Nat) (x : Launch) : (s.setLaunch l x).calendar = s.calendar := rfl
@[simp] theorem setLaunch_calendarNext (s : State) (l : Nat) (x : Launch) : (s.setLaunch l x).calendarNext = s.calendarNext := rfl
@[simp] theorem setLaunch_relBase (s : State) (l : Nat) (x : Launch) : (s.setLaunch l x).relBase = s.relBase := rfl
@[simp] theorem setLaunch_relHead (s : State) (l : Nat) (x : Launch) : (s.setLaunch l x).relHead = s.relHead := rfl
@[simp] theorem setLaunch_relTail (s : State) (l : Nat) (x : Launch) : (s.setLaunch l x).relTail = s.relTail := rfl
@[simp] theorem setLaunch_relOvf (s : State) (l : Nat) (x : Launch) : (s.setLaunch l x).relOvf = s.relOvf := rfl
@[simp] theorem setLaunch_relLost (s : State) (l : Nat) (x : Launch) : (s.setLaunch l x).relLost = s.relLost := rfl
@[simp] theorem setLaunch_errors (s : State) (l : Nat) (x : Launch) : (s.setLaunch l x).errors = s.errors := rfl
@[simp] theorem setLaunch_merges (s : State) (l : Nat) (x : Launch) : (s.setLaunch l x).merges = s.merges := rfl
@[simp] theorem setLaunch_metBase (s : State) (l : Nat) (x : Launch) : (s.setLaunch l x).metBase = s.metBase := rfl
@[simp] theorem setLaunch_metHead (s : State) (l : Nat) (x : Launch) : (s.setLaunch l x).metHead = s.metHead := rfl
@[simp] theorem setLaunch_metTail (s : State) (l : Nat) (x : Launch) : (s.setLaunch l x).metTail = s.metTail := rfl
@[simp] theorem setLaunch_metPeriod (s : State) (l : Nat) (x : Launch) : (s.setLaunch l x).metPeriod = s.metPeriod := rfl
@[simp] theorem setLaunch_metNext (s : State) (l : Nat) (x : Launch) : (s.setLaunch l x).metNext = s.metNext := rfl
@[simp] theorem setLaunch_decoders (s : State) (l : Nat) (x : Launch) : (s.setLaunch l x).decoders = s.decoders := rfl
@[simp] theorem setLaunch_ide (s : State) (l : Nat) (x : Launch) : (s.setLaunch l x).ide = s.ide := rfl

/-! push -/

@[simp] theorem push_agenda (s : State) (i : Instr) : (s.push i).agenda = s.agenda := rfl
@[simp] theorem push_due (s : State) (i : Instr) : (s.push i).due = s.due ++ [i] := rfl
@[simp] theorem push_out (s : State) (i : Instr) : (s.push i).out = s.out := rfl
@[simp] theorem push_cur (s : State) (i : Instr) : (s.push i).cur = s.cur := rfl
@[simp] theorem push_turn (s : State) (i : Instr) : (s.push i).turn = s.turn := rfl
@[simp] theorem push_freeCtr (s : State) (i : Instr) : (s.push i).freeCtr = s.freeCtr := rfl
@[simp] theorem push_cycle (s : State) (i : Instr) : (s.push i).cycle = s.cycle := rfl
@[simp] theorem push_clock (s : State) (i : Instr) : (s.push i).clock = s.clock := rfl
@[simp] theorem push_clockCommitted (s : State) (i : Instr) : (s.push i).clockCommitted = s.clockCommitted := rfl
@[simp] theorem push_up (s : State) (i : Instr) : (s.push i).up = s.up := rfl
@[simp] theorem push_upAt (s : State) (i : Instr) : (s.push i).upAt = s.upAt := rfl
@[simp] theorem push_bootFailed (s : State) (i : Instr) : (s.push i).bootFailed = s.bootFailed := rfl
@[simp] theorem push_bootCause (s : State) (i : Instr) : (s.push i).bootCause = s.bootCause := rfl
@[simp] theorem push_link (s : State) (i : Instr) : (s.push i).link = s.link := rfl
@[simp] theorem push_frozen (s : State) (i : Instr) : (s.push i).frozen = s.frozen := rfl
@[simp] theorem push_life (s : State) (i : Instr) : (s.push i).life = s.life := rfl
@[simp] theorem push_lifePending (s : State) (i : Instr) : (s.push i).lifePending = s.lifePending := rfl
@[simp] theorem push_activations (s : State) (i : Instr) : (s.push i).activations = s.activations := rfl
@[simp] theorem push_keys (s : State) (i : Instr) : (s.push i).keys = s.keys := rfl
@[simp] theorem push_fwaCmd (s : State) (i : Instr) : (s.push i).fwaCmd = s.fwaCmd := rfl
@[simp] theorem push_fwaStatus (s : State) (i : Instr) : (s.push i).fwaStatus = s.fwaStatus := rfl
@[simp] theorem push_fwaElapsed (s : State) (i : Instr) : (s.push i).fwaElapsed = s.fwaElapsed := rfl
@[simp] theorem push_fwaAddr (s : State) (i : Instr) : (s.push i).fwaAddr = s.fwaAddr := rfl
@[simp] theorem push_fwaSize (s : State) (i : Instr) : (s.push i).fwaSize = s.fwaSize := rfl
@[simp] theorem push_fw (s : State) (i : Instr) : (s.push i).fw = s.fw := rfl
@[simp] theorem push_portFw (s : State) (i : Instr) : (s.push i).portFw = s.portFw := rfl
@[simp] theorem push_staged (s : State) (i : Instr) : (s.push i).staged = s.staged := rfl
@[simp] theorem push_builds (s : State) (i : Instr) : (s.push i).builds = s.builds := rfl
@[simp] theorem push_banks (s : State) (i : Instr) : (s.push i).banks = s.banks := rfl
@[simp] theorem push_bootBank (s : State) (i : Instr) : (s.push i).bootBank = s.bootBank := rfl
@[simp] theorem push_fuses (s : State) (i : Instr) : (s.push i).fuses = s.fuses := rfl
@[simp] theorem push_held (s : State) (i : Instr) : (s.push i).held = s.held := rfl
@[simp] theorem push_slcCmd (s : State) (i : Instr) : (s.push i).slcCmd = s.slcCmd := rfl
@[simp] theorem push_slcArg (s : State) (i : Instr) : (s.push i).slcArg = s.slcArg := rfl
@[simp] theorem push_slcStatus (s : State) (i : Instr) : (s.push i).slcStatus = s.slcStatus := rfl
@[simp] theorem push_slcElapsed (s : State) (i : Instr) : (s.push i).slcElapsed = s.slcElapsed := rfl
@[simp] theorem push_cmdWritten (s : State) (i : Instr) : (s.push i).cmdWritten = s.cmdWritten := rfl
@[simp] theorem push_command (s : State) (i : Instr) : (s.push i).command = s.command := rfl
@[simp] theorem push_slices (s : State) (i : Instr) : (s.push i).slices = s.slices := rfl
@[simp] theorem push_worlds (s : State) (i : Instr) : (s.push i).worlds = s.worlds := rfl
@[simp] theorem push_launches (s : State) (i : Instr) : (s.push i).launches = s.launches := rfl
@[simp] theorem push_nextLaunch (s : State) (i : Instr) : (s.push i).nextLaunch = s.nextLaunch := rfl
@[simp] theorem push_teams (s : State) (i : Instr) : (s.push i).teams = s.teams := rfl
@[simp] theorem push_nextTeam (s : State) (i : Instr) : (s.push i).nextTeam = s.nextTeam := rfl
@[simp] theorem push_gangs (s : State) (i : Instr) : (s.push i).gangs = s.gangs := rfl
@[simp] theorem push_nextGang (s : State) (i : Instr) : (s.push i).nextGang = s.nextGang := rfl
@[simp] theorem push_progress (s : State) (i : Instr) : (s.push i).progress = s.progress := rfl
@[simp] theorem push_override (s : State) (i : Instr) : (s.push i).override = s.override := rfl
@[simp] theorem push_copies (s : State) (i : Instr) : (s.push i).copies = s.copies := rfl
@[simp] theorem push_nextCopy (s : State) (i : Instr) : (s.push i).nextCopy = s.nextCopy := rfl
@[simp] theorem push_passes (s : State) (i : Instr) : (s.push i).passes = s.passes := rfl
@[simp] theorem push_nextPass (s : State) (i : Instr) : (s.push i).nextPass = s.nextPass := rfl
@[simp] theorem push_hbm (s : State) (i : Instr) : (s.push i).hbm = s.hbm := rfl
@[simp] theorem push_written (s : State) (i : Instr) : (s.push i).written = s.written := rfl
@[simp] theorem push_host (s : State) (i : Instr) : (s.push i).host = s.host := rfl
@[simp] theorem push_poison (s : State) (i : Instr) : (s.push i).poison = s.poison := rfl
@[simp] theorem push_meets (s : State) (i : Instr) : (s.push i).meets = s.meets := rfl
@[simp] theorem push_meetsNext (s : State) (i : Instr) : (s.push i).meetsNext = s.meetsNext := rfl
@[simp] theorem push_l1 (s : State) (i : Instr) : (s.push i).l1 = s.l1 := rfl
@[simp] theorem push_icache (s : State) (i : Instr) : (s.push i).icache = s.icache := rfl
@[simp] theorem push_oldCode (s : State) (i : Instr) : (s.push i).oldCode = s.oldCode := rfl
@[simp] theorem push_hostLines (s : State) (i : Instr) : (s.push i).hostLines = s.hostLines := rfl
@[simp] theorem push_tlb (s : State) (i : Instr) : (s.push i).tlb = s.tlb := rfl
@[simp] theorem push_atsTable (s : State) (i : Instr) : (s.push i).atsTable = s.atsTable := rfl
@[simp] theorem push_atsHeld (s : State) (i : Instr) : (s.push i).atsHeld = s.atsHeld := rfl
@[simp] theorem push_reqs (s : State) (i : Instr) : (s.push i).reqs = s.reqs := rfl
@[simp] theorem push_tags (s : State) (i : Instr) : (s.push i).tags = s.tags := rfl
@[simp] theorem push_kept (s : State) (i : Instr) : (s.push i).kept = s.kept := rfl
@[simp] theorem push_station (s : State) (i : Instr) : (s.push i).station = s.station := rfl
@[simp] theorem push_palSel (s : State) (i : Instr) : (s.push i).palSel = s.palSel := rfl
@[simp] theorem push_palPend (s : State) (i : Instr) : (s.push i).palPend = s.palPend := rfl
@[simp] theorem push_calendar (s : State) (i : Instr) : (s.push i).calendar = s.calendar := rfl
@[simp] theorem push_calendarNext (s : State) (i : Instr) : (s.push i).calendarNext = s.calendarNext := rfl
@[simp] theorem push_relBase (s : State) (i : Instr) : (s.push i).relBase = s.relBase := rfl
@[simp] theorem push_relHead (s : State) (i : Instr) : (s.push i).relHead = s.relHead := rfl
@[simp] theorem push_relTail (s : State) (i : Instr) : (s.push i).relTail = s.relTail := rfl
@[simp] theorem push_relOvf (s : State) (i : Instr) : (s.push i).relOvf = s.relOvf := rfl
@[simp] theorem push_relLost (s : State) (i : Instr) : (s.push i).relLost = s.relLost := rfl
@[simp] theorem push_errors (s : State) (i : Instr) : (s.push i).errors = s.errors := rfl
@[simp] theorem push_merges (s : State) (i : Instr) : (s.push i).merges = s.merges := rfl
@[simp] theorem push_metBase (s : State) (i : Instr) : (s.push i).metBase = s.metBase := rfl
@[simp] theorem push_metHead (s : State) (i : Instr) : (s.push i).metHead = s.metHead := rfl
@[simp] theorem push_metTail (s : State) (i : Instr) : (s.push i).metTail = s.metTail := rfl
@[simp] theorem push_metPeriod (s : State) (i : Instr) : (s.push i).metPeriod = s.metPeriod := rfl
@[simp] theorem push_metNext (s : State) (i : Instr) : (s.push i).metNext = s.metNext := rfl
@[simp] theorem push_decoders (s : State) (i : Instr) : (s.push i).decoders = s.decoders := rfl
@[simp] theorem push_ide (s : State) (i : Instr) : (s.push i).ide = s.ide := rfl

/-! send -/

@[simp] theorem send_agenda (s : State) (o : Output) : (s.send o).agenda = s.agenda := rfl
@[simp] theorem send_due (s : State) (o : Output) : (s.send o).due = s.due := rfl
@[simp] theorem send_out (s : State) (o : Output) : (s.send o).out = s.out ++ [o] := rfl
@[simp] theorem send_cur (s : State) (o : Output) : (s.send o).cur = s.cur := rfl
@[simp] theorem send_turn (s : State) (o : Output) : (s.send o).turn = s.turn := rfl
@[simp] theorem send_freeCtr (s : State) (o : Output) : (s.send o).freeCtr = s.freeCtr := rfl
@[simp] theorem send_cycle (s : State) (o : Output) : (s.send o).cycle = s.cycle := rfl
@[simp] theorem send_clock (s : State) (o : Output) : (s.send o).clock = s.clock := rfl
@[simp] theorem send_clockCommitted (s : State) (o : Output) : (s.send o).clockCommitted = s.clockCommitted := rfl
@[simp] theorem send_up (s : State) (o : Output) : (s.send o).up = s.up := rfl
@[simp] theorem send_upAt (s : State) (o : Output) : (s.send o).upAt = s.upAt := rfl
@[simp] theorem send_bootFailed (s : State) (o : Output) : (s.send o).bootFailed = s.bootFailed := rfl
@[simp] theorem send_bootCause (s : State) (o : Output) : (s.send o).bootCause = s.bootCause := rfl
@[simp] theorem send_link (s : State) (o : Output) : (s.send o).link = s.link := rfl
@[simp] theorem send_frozen (s : State) (o : Output) : (s.send o).frozen = s.frozen := rfl
@[simp] theorem send_life (s : State) (o : Output) : (s.send o).life = s.life := rfl
@[simp] theorem send_lifePending (s : State) (o : Output) : (s.send o).lifePending = s.lifePending := rfl
@[simp] theorem send_activations (s : State) (o : Output) : (s.send o).activations = s.activations := rfl
@[simp] theorem send_keys (s : State) (o : Output) : (s.send o).keys = s.keys := rfl
@[simp] theorem send_fwaCmd (s : State) (o : Output) : (s.send o).fwaCmd = s.fwaCmd := rfl
@[simp] theorem send_fwaStatus (s : State) (o : Output) : (s.send o).fwaStatus = s.fwaStatus := rfl
@[simp] theorem send_fwaElapsed (s : State) (o : Output) : (s.send o).fwaElapsed = s.fwaElapsed := rfl
@[simp] theorem send_fwaAddr (s : State) (o : Output) : (s.send o).fwaAddr = s.fwaAddr := rfl
@[simp] theorem send_fwaSize (s : State) (o : Output) : (s.send o).fwaSize = s.fwaSize := rfl
@[simp] theorem send_fw (s : State) (o : Output) : (s.send o).fw = s.fw := rfl
@[simp] theorem send_portFw (s : State) (o : Output) : (s.send o).portFw = s.portFw := rfl
@[simp] theorem send_staged (s : State) (o : Output) : (s.send o).staged = s.staged := rfl
@[simp] theorem send_builds (s : State) (o : Output) : (s.send o).builds = s.builds := rfl
@[simp] theorem send_banks (s : State) (o : Output) : (s.send o).banks = s.banks := rfl
@[simp] theorem send_bootBank (s : State) (o : Output) : (s.send o).bootBank = s.bootBank := rfl
@[simp] theorem send_fuses (s : State) (o : Output) : (s.send o).fuses = s.fuses := rfl
@[simp] theorem send_held (s : State) (o : Output) : (s.send o).held = s.held := rfl
@[simp] theorem send_slcCmd (s : State) (o : Output) : (s.send o).slcCmd = s.slcCmd := rfl
@[simp] theorem send_slcArg (s : State) (o : Output) : (s.send o).slcArg = s.slcArg := rfl
@[simp] theorem send_slcStatus (s : State) (o : Output) : (s.send o).slcStatus = s.slcStatus := rfl
@[simp] theorem send_slcElapsed (s : State) (o : Output) : (s.send o).slcElapsed = s.slcElapsed := rfl
@[simp] theorem send_cmdWritten (s : State) (o : Output) : (s.send o).cmdWritten = s.cmdWritten := rfl
@[simp] theorem send_command (s : State) (o : Output) : (s.send o).command = s.command := rfl
@[simp] theorem send_slices (s : State) (o : Output) : (s.send o).slices = s.slices := rfl
@[simp] theorem send_worlds (s : State) (o : Output) : (s.send o).worlds = s.worlds := rfl
@[simp] theorem send_launches (s : State) (o : Output) : (s.send o).launches = s.launches := rfl
@[simp] theorem send_nextLaunch (s : State) (o : Output) : (s.send o).nextLaunch = s.nextLaunch := rfl
@[simp] theorem send_teams (s : State) (o : Output) : (s.send o).teams = s.teams := rfl
@[simp] theorem send_nextTeam (s : State) (o : Output) : (s.send o).nextTeam = s.nextTeam := rfl
@[simp] theorem send_gangs (s : State) (o : Output) : (s.send o).gangs = s.gangs := rfl
@[simp] theorem send_nextGang (s : State) (o : Output) : (s.send o).nextGang = s.nextGang := rfl
@[simp] theorem send_progress (s : State) (o : Output) : (s.send o).progress = s.progress := rfl
@[simp] theorem send_override (s : State) (o : Output) : (s.send o).override = s.override := rfl
@[simp] theorem send_copies (s : State) (o : Output) : (s.send o).copies = s.copies := rfl
@[simp] theorem send_nextCopy (s : State) (o : Output) : (s.send o).nextCopy = s.nextCopy := rfl
@[simp] theorem send_passes (s : State) (o : Output) : (s.send o).passes = s.passes := rfl
@[simp] theorem send_nextPass (s : State) (o : Output) : (s.send o).nextPass = s.nextPass := rfl
@[simp] theorem send_hbm (s : State) (o : Output) : (s.send o).hbm = s.hbm := rfl
@[simp] theorem send_written (s : State) (o : Output) : (s.send o).written = s.written := rfl
@[simp] theorem send_host (s : State) (o : Output) : (s.send o).host = s.host := rfl
@[simp] theorem send_poison (s : State) (o : Output) : (s.send o).poison = s.poison := rfl
@[simp] theorem send_meets (s : State) (o : Output) : (s.send o).meets = s.meets := rfl
@[simp] theorem send_meetsNext (s : State) (o : Output) : (s.send o).meetsNext = s.meetsNext := rfl
@[simp] theorem send_l1 (s : State) (o : Output) : (s.send o).l1 = s.l1 := rfl
@[simp] theorem send_icache (s : State) (o : Output) : (s.send o).icache = s.icache := rfl
@[simp] theorem send_oldCode (s : State) (o : Output) : (s.send o).oldCode = s.oldCode := rfl
@[simp] theorem send_hostLines (s : State) (o : Output) : (s.send o).hostLines = s.hostLines := rfl
@[simp] theorem send_tlb (s : State) (o : Output) : (s.send o).tlb = s.tlb := rfl
@[simp] theorem send_atsTable (s : State) (o : Output) : (s.send o).atsTable = s.atsTable := rfl
@[simp] theorem send_atsHeld (s : State) (o : Output) : (s.send o).atsHeld = s.atsHeld := rfl
@[simp] theorem send_reqs (s : State) (o : Output) : (s.send o).reqs = s.reqs := rfl
@[simp] theorem send_tags (s : State) (o : Output) : (s.send o).tags = s.tags := rfl
@[simp] theorem send_kept (s : State) (o : Output) : (s.send o).kept = s.kept := rfl
@[simp] theorem send_station (s : State) (o : Output) : (s.send o).station = s.station := rfl
@[simp] theorem send_palSel (s : State) (o : Output) : (s.send o).palSel = s.palSel := rfl
@[simp] theorem send_palPend (s : State) (o : Output) : (s.send o).palPend = s.palPend := rfl
@[simp] theorem send_calendar (s : State) (o : Output) : (s.send o).calendar = s.calendar := rfl
@[simp] theorem send_calendarNext (s : State) (o : Output) : (s.send o).calendarNext = s.calendarNext := rfl
@[simp] theorem send_relBase (s : State) (o : Output) : (s.send o).relBase = s.relBase := rfl
@[simp] theorem send_relHead (s : State) (o : Output) : (s.send o).relHead = s.relHead := rfl
@[simp] theorem send_relTail (s : State) (o : Output) : (s.send o).relTail = s.relTail := rfl
@[simp] theorem send_relOvf (s : State) (o : Output) : (s.send o).relOvf = s.relOvf := rfl
@[simp] theorem send_relLost (s : State) (o : Output) : (s.send o).relLost = s.relLost := rfl
@[simp] theorem send_errors (s : State) (o : Output) : (s.send o).errors = s.errors := rfl
@[simp] theorem send_merges (s : State) (o : Output) : (s.send o).merges = s.merges := rfl
@[simp] theorem send_metBase (s : State) (o : Output) : (s.send o).metBase = s.metBase := rfl
@[simp] theorem send_metHead (s : State) (o : Output) : (s.send o).metHead = s.metHead := rfl
@[simp] theorem send_metTail (s : State) (o : Output) : (s.send o).metTail = s.metTail := rfl
@[simp] theorem send_metPeriod (s : State) (o : Output) : (s.send o).metPeriod = s.metPeriod := rfl
@[simp] theorem send_metNext (s : State) (o : Output) : (s.send o).metNext = s.metNext := rfl
@[simp] theorem send_decoders (s : State) (o : Output) : (s.send o).decoders = s.decoders := rfl
@[simp] theorem send_ide (s : State) (o : Output) : (s.send o).ide = s.ide := rfl

/-! The updates of a part are updates of its whole -/

theorem modWorld_eq (s : State) (w : Nat) (f : World → World) : s.modWorld w f = s.setWorld w (f (s.world w)) := rfl
theorem modSlice_eq (s : State) (c : Nat) (f : Slice → Slice) : s.modSlice c f = s.setSlice c (f (s.slice c)) := rfl
theorem modTeam_eq (s : State) (t : Nat) (f : Team → Team) : s.modTeam t f = s.setTeam t (f (s.team t)) := rfl
theorem modLaunch_eq (s : State) (l : Nat) (f : Launch → Launch) : s.modLaunch l f = s.setLaunch l (f (s.launch l)) := rfl
theorem modProg_eq (s : State) (w : Nat) (f : Prog → Prog) :
    s.modProg w f = s.modWorld w fun x => { x with prog := f x.prog } := rfl
theorem modLane_eq (s : State) (t lit : Nat) (f : Lane → Lane) :
    s.modLane t lit f = s.modTeam t fun x => { x with lanes := x.lanes.set lit (f (x.lanes.getD lit { st := .exited })) } := rfl
theorem modSeq_eq (s : State) (t : Nat) (f : Seq → Seq) : s.modSeq t f = s.modTeam t fun x => { x with seq := x.seq.map f } := rfl

/-! Reads of the tables -/

@[simp] theorem world_setWorld (s : State) (w : Nat) (x : World) : (s.setWorld w x).world w = x :=
  SMap.get_insert_self _ _ _ _
theorem world_setWorld_ne (s : State) (w j : Nat) (x : World) (h : j ≠ w) : (s.setWorld w x).world j = s.world j :=
  SMap.get_insert_ne _ _ _ _ _ h
@[simp] theorem slice_setWorld (s : State) (w j : Nat) (x : World) : (s.setWorld w x).slice j = s.slice j := rfl
@[simp] theorem team_setWorld (s : State) (w j : Nat) (x : World) : (s.setWorld w x).team j = s.team j := rfl
@[simp] theorem launch_setWorld (s : State) (w j : Nat) (x : World) : (s.setWorld w x).launch j = s.launch j := rfl

@[simp] theorem slice_setSlice (s : State) (c : Nat) (x : Slice) : (s.setSlice c x).slice c = x :=
  SMap.get_insert_self _ _ _ _
theorem slice_setSlice_ne (s : State) (c j : Nat) (x : Slice) (h : j ≠ c) : (s.setSlice c x).slice j = s.slice j :=
  SMap.get_insert_ne _ _ _ _ _ h
@[simp] theorem world_setSlice (s : State) (c j : Nat) (x : Slice) : (s.setSlice c x).world j = s.world j := rfl
@[simp] theorem team_setSlice (s : State) (c j : Nat) (x : Slice) : (s.setSlice c x).team j = s.team j := rfl
@[simp] theorem launch_setSlice (s : State) (c j : Nat) (x : Slice) : (s.setSlice c x).launch j = s.launch j := rfl

@[simp] theorem team_setTeam (s : State) (t : Nat) (x : Team) : (s.setTeam t x).team t = x :=
  SMap.get_insert_self _ _ _ _
theorem team_setTeam_ne (s : State) (t j : Nat) (x : Team) (h : j ≠ t) : (s.setTeam t x).team j = s.team j :=
  SMap.get_insert_ne _ _ _ _ _ h
@[simp] theorem world_setTeam (s : State) (t j : Nat) (x : Team) : (s.setTeam t x).world j = s.world j := rfl
@[simp] theorem slice_setTeam (s : State) (t j : Nat) (x : Team) : (s.setTeam t x).slice j = s.slice j := rfl
@[simp] theorem launch_setTeam (s : State) (t j : Nat) (x : Team) : (s.setTeam t x).launch j = s.launch j := rfl

@[simp] theorem launch_setLaunch (s : State) (l : Nat) (x : Launch) : (s.setLaunch l x).launch l = x :=
  SMap.get_insert_self _ _ _ _
theorem launch_setLaunch_ne (s : State) (l j : Nat) (x : Launch) (h : j ≠ l) : (s.setLaunch l x).launch j = s.launch j :=
  SMap.get_insert_ne _ _ _ _ _ h
@[simp] theorem world_setLaunch (s : State) (l j : Nat) (x : Launch) : (s.setLaunch l x).world j = s.world j := rfl
@[simp] theorem slice_setLaunch (s : State) (l j : Nat) (x : Launch) : (s.setLaunch l x).slice j = s.slice j := rfl
@[simp] theorem team_setLaunch (s : State) (l j : Nat) (x : Launch) : (s.setLaunch l x).team j = s.team j := rfl

@[simp] theorem world_push (s : State) (i : Instr) (j : Nat) : (s.push i).world j = s.world j := rfl
@[simp] theorem slice_push (s : State) (i : Instr) (j : Nat) : (s.push i).slice j = s.slice j := rfl
@[simp] theorem team_push (s : State) (i : Instr) (j : Nat) : (s.push i).team j = s.team j := rfl
@[simp] theorem launch_push (s : State) (i : Instr) (j : Nat) : (s.push i).launch j = s.launch j := rfl
@[simp] theorem world_send (s : State) (o : Output) (j : Nat) : (s.send o).world j = s.world j := rfl
@[simp] theorem slice_send (s : State) (o : Output) (j : Nat) : (s.send o).slice j = s.slice j := rfl
@[simp] theorem team_send (s : State) (o : Output) (j : Nat) : (s.send o).team j = s.team j := rfl
@[simp] theorem launch_send (s : State) (o : Output) (j : Nat) : (s.send o).launch j = s.launch j := rfl

/-! Lanes -/

/-- The lane just changed. -/
theorem lane_modLane_self (s : State) (t lit : Nat) (f : Lane → Lane) (h : lit < (s.team t).lanes.length) :
    (s.modLane t lit f).lane t lit = f (s.lane t lit) := by
  simp [modLane_eq, modTeam_eq, lane, List.getD, h]

/-- The other lanes of the team. -/
theorem lane_modLane_ne (s : State) (t lit j : Nat) (f : Lane → Lane) (h : j ≠ lit) :
    (s.modLane t lit f).lane t j = s.lane t j := by
  simp [modLane_eq, modTeam_eq, lane, List.getD, List.getElem?_set_ne (Ne.symm h)]

/-- The lanes of other teams. -/
theorem lane_modLane_team (s : State) (t u lit j : Nat) (f : Lane → Lane) (h : u ≠ t) :
    (s.modLane t lit f).lane u j = s.lane u j := by
  simp [modLane_eq, modTeam_eq, lane, team_setTeam_ne _ _ _ _ h]

end Sys2Proof.Machine.State
end

