-- ==== Sys2Proof/Laws/Memory.lean ====
section
/-! SUPPORT. Memory: reads after writes, and that every operation that changes the bytes of a store keeps the canonical
form of every store. -/

namespace Sys2Proof.Machine

/-! Bytes -/

@[simp] theorem leBytes_length (n v : Nat) : (leBytes n v).length = n := by
  induction n generalizing v with
  | zero => rfl
  | succ n ih => simp [leBytes, ih]

/-- The number that the low bytes of v hold. -/
theorem ofLe_leBytes (n v : Nat) : ofLe (leBytes n v) = v % 256 ^ n := by
  induction n generalizing v with
  | zero => simp [leBytes, ofLe, Nat.mod_one]
  | succ n ih =>
    show (BitVec.ofNat 8 v).toNat + 256 * ofLe (leBytes n (v / 256)) = _
    rw [ih, Nat.pow_succ', Nat.mod_mul]
    rfl

theorem putBytes_wf (m : SMap Byte) (a : Nat) (bs : List Byte) (h : Memory.wf m = true) :
    Memory.wf (putBytes m a bs) = true := by
  induction bs generalizing m a with
  | nil => exact h
  | cons b bs ih => exact ih _ _ (SMap.wf_put _ _ _ _ h)

/-- A byte outside the range that was written. -/
theorem get_putBytes_out (m : SMap Byte) (a : Nat) (bs : List Byte) (k : Nat) (h : k < a ∨ a + bs.length ≤ k) :
    (putBytes m a bs).get unlisted k = m.get unlisted k := by
  induction bs generalizing m a with
  | nil => rfl
  | cons b bs ih =>
    simp only [List.length_cons] at h
    rw [putBytes, ih _ _ (by omega), SMap.get_put_ne _ _ _ _ _ (by omega)]

/-- A byte of the range that was written. -/
theorem get_putBytes_in (m : SMap Byte) (a : Nat) (bs : List Byte) (k : Nat) (h : k < bs.length) :
    (putBytes m a bs).get unlisted (a + k) = bs[k] := by
  induction bs generalizing m a k with
  | nil => simp at h
  | cons b bs ih =>
    rw [putBytes]
    cases k with
    | zero =>
      rw [get_putBytes_out _ _ _ _ (by omega)]
      exact SMap.get_put_self _ _ _ _
    | succ k =>
      have := ih (m.put unlisted a b) (a + 1) k (by simpa using h)
      simpa [Nat.add_assoc, Nat.add_comm 1 k] using this

theorem dropRange_wf (m : SMap Byte) (a n : Nat) (h : Memory.wf m = true) : Memory.wf (dropRange m a n) = true :=
  SMap.wf_filter _ _ _ h
theorem keepRange_wf (m : SMap Byte) (a n : Nat) (h : Memory.wf m = true) : Memory.wf (keepRange m a n) = true :=
  SMap.wf_filter _ _ _ h

/-- A write to a pattern of bytes read back as a number. -/
theorem map_range_get (m : SMap Byte) (a : Nat) (bs : List Byte) :
    (List.range bs.length).map (fun i => (putBytes m a bs).get unlisted (a + i)) = bs := by
  apply List.ext_getElem
  · simp
  · intro i h1 h2
    simp only [List.getElem_map, List.getElem_range]
    exact get_putBytes_in m a bs i h2

namespace State

/-! The stores of State -/

@[simp] theorem bytesOf_withBytes_hbm (s : State) (m : SMap Byte) : (s.withBytes .hbm m).bytesOf .hbm = m := rfl
@[simp] theorem bytesOf_withBytes_host (s : State) (m : SMap Byte) : (s.withBytes .host m).bytesOf .host = m := rfl
@[simp] theorem bytesOf_withBytes_window (s : State) (w : Nat) (m : SMap Byte) :
    (s.withBytes (.window w) m).bytesOf (.window w) = m := by
  simp [withBytes, bytesOf, modWorld_eq]
@[simp] theorem bytesOf_withBytes_scratch (s : State) (t : Nat) (m : SMap Byte) :
    (s.withBytes (.scratch t) m).bytesOf (.scratch t) = m := by
  simp [withBytes, bytesOf, modTeam_eq]
@[simp] theorem bytesOf_withBytes_acc (s : State) (t : Nat) (m : SMap Byte) :
    (s.withBytes (.acc t) m).bytesOf (.acc t) = m := by
  simp [withBytes, bytesOf, modTeam_eq]
@[simp] theorem bytesOf_withBytes_priv (s : State) (w : Nat) (m : SMap Byte) :
    (s.withBytes (.priv w) m).bytesOf (.priv w) = m := by
  simp [withBytes, bytesOf, prog, modProg_eq, modWorld_eq]

/-- Replacing the bytes of a store. -/
theorem bytesOf_withBytes (s : State) (sp : Space) (m : SMap Byte) : (s.withBytes sp m).bytesOf sp = m := by
  cases sp <;> simp

/-- The other stores. -/
theorem bytesOf_withBytes_ne (s : State) (sp sq : Space) (m : SMap Byte) (h : sq ≠ sp) :
    (s.withBytes sp m).bytesOf sq = s.bytesOf sq := by
  cases sp <;> cases sq <;> first
    | exact absurd rfl h
    | rfl
    | (rename_i v w
       by_cases hvw : w = v
       · subst hvw
         first
           | exact absurd rfl h
           | simp [withBytes, bytesOf, prog, modProg_eq, modWorld_eq, modTeam_eq]
       · simp [withBytes, bytesOf, prog, modProg_eq, modWorld_eq, modTeam_eq, world_setWorld_ne, team_setTeam_ne, hvw])

/-! What the parts of a write change besides -/

@[simp] theorem bytesOf_cleanPoison (s : State) (sp sq : Space) (a n : Nat) : (s.cleanPoison sp a n).bytesOf sq = s.bytesOf sq := by
  cases sq <;> rfl
@[simp] theorem bytesOf_poisonRange (s : State) (sp sq : Space) (a n : Nat) : (s.poisonRange sp a n).bytesOf sq = s.bytesOf sq := by
  cases sq <;> rfl

/-- A read of a list of entries whose values were changed. -/
theorem get_map {α β : Type} (d : α) (d' : β) (f : α → β) (hf : f d = d') (m : SMap α) (k : Nat) :
    SMap.get d' (m.map fun e => (e.1, f e.2)) k = f (m.get d k) := by
  induction m with
  | nil => exact hf.symm
  | cons e m ih =>
    simp only [List.map_cons, SMap.get]
    split
    · rfl
    · exact ih

/-- A write seen by the monitors of a world's program. -/
theorem world_notifyWrite (s : State) (sp : Space) (a n w : Nat) :
    (s.notifyWrite sp a n).world w =
      { s.world w with prog := { (s.world w).prog with lane := wakeLane s.cycle sp a n (s.world w).prog.lane } } :=
  get_map (α := World) (β := World) {} {} (fun x : World => { x with prog := { x.prog with lane := wakeLane s.cycle sp a n x.prog.lane } }) rfl
    s.worlds w
/-- And by those of a team's lanes. -/
theorem team_notifyWrite (s : State) (sp : Space) (a n t : Nat) :
    (s.notifyWrite sp a n).team t = { s.team t with lanes := (s.team t).lanes.map (wakeLane s.cycle sp a n) } :=
  get_map (α := Team) (β := Team) { launch := 0, index := 0, rank := 0, cluster := 0, core := 0, st := .gone }
    { launch := 0, index := 0, rank := 0, cluster := 0, core := 0, st := .gone }
    (fun x : Team => { x with lanes := x.lanes.map (wakeLane s.cycle sp a n) }) rfl s.teams t

@[simp] theorem bytesOf_notifyWrite (s : State) (sp sq : Space) (a n : Nat) : (s.notifyWrite sp a n).bytesOf sq = s.bytesOf sq := by
  cases sq with
  | hbm => rfl
  | host => rfl
  | window w => exact (congrArg World.window (world_notifyWrite s sp a n w)).trans rfl
  | priv w => exact (congrArg (fun x : World => x.prog.priv) (world_notifyWrite s sp a n w)).trans rfl
  | scratch t => exact (congrArg Team.scratch (team_notifyWrite s sp a n t)).trans rfl
  | acc t => exact (congrArg Team.acc (team_notifyWrite s sp a n t)).trans rfl

/-- A change of a world that leaves its window and its program's private memory. -/
theorem bytesOf_setWorld (s : State) (w : Nat) (x : World) (sq : Space) (h1 : x.window = (s.world w).window)
    (h2 : x.prog.priv = (s.world w).prog.priv) : (s.setWorld w x).bytesOf sq = s.bytesOf sq := by
  cases sq with
  | hbm => rfl
  | host => rfl
  | scratch t => rfl
  | acc t => rfl
  | window v =>
    by_cases h : v = w
    · subst h; simpa [bytesOf] using h1
    · simp [bytesOf, world_setWorld_ne _ _ _ _ h]
  | priv v =>
    by_cases h : v = w
    · subst h; simpa [bytesOf, prog] using h2
    · simp [bytesOf, prog, world_setWorld_ne _ _ _ _ h]

/-- A change of a team that leaves its tiers. -/
theorem bytesOf_setTeam (s : State) (t : Nat) (x : Team) (sq : Space) (h1 : x.scratch = (s.team t).scratch)
    (h2 : x.acc = (s.team t).acc) : (s.setTeam t x).bytesOf sq = s.bytesOf sq := by
  cases sq with
  | hbm => rfl
  | host => rfl
  | window w => rfl
  | priv w => rfl
  | scratch u =>
    by_cases h : u = t
    · subst h; simpa [bytesOf] using h1
    · simp [bytesOf, team_setTeam_ne _ _ _ _ h]
  | acc u =>
    by_cases h : u = t
    · subst h; simpa [bytesOf] using h2
    · simp [bytesOf, team_setTeam_ne _ _ _ _ h]

/-- An update of a lane leaves every byte store as it is. -/
@[simp] theorem bytesOf_modLaneOf (s : State) (a : Agent) (f : Lane → Lane) (sq : Space) :
    (s.modLaneOf a f).bytesOf sq = s.bytesOf sq := by
  cases a with
  | lane t lit => exact bytesOf_setTeam s t _ sq rfl rfl
  | prog w => exact bytesOf_setWorld s w _ sq rfl rfl
  | firm c => cases sq <;> rfl
  | seq t => rfl

/-- A fold of steps that keep a store keeps it. -/
theorem bytesOf_foldl {α : Type} (f : State → α → State) (sq : Space) (h : ∀ s x, (f s x).bytesOf sq = s.bytesOf sq)
    (l : List α) (s : State) : (l.foldl f s).bytesOf sq = s.bytesOf sq := by
  induction l generalizing s with
  | nil => rfl
  | cons x l ih => exact (ih _).trans (h s x)

@[simp] theorem bytesOf_touchPages (s : State) (sq : Space) (a n : Nat) : (s.touchPages a n).bytesOf sq = s.bytesOf sq := by
  unfold touchPages
  split
  · rfl
  · refine bytesOf_foldl _ sq (fun s i => ?_) _ _
    simp only
    split
    · split
      · rw [modWorld_eq, bytesOf_setWorld _ _ _ sq (by rfl) (by rfl)]; cases sq <;> rfl
      · cases sq <;> rfl
    · cases sq <;> rfl

@[simp] theorem bytesOf_beforeScratch (s : State) (sq : Space) (t a n : Nat) :
    (s.beforeScratch t a n).bytesOf sq = s.bytesOf sq := by
  unfold beforeScratch
  split
  · rfl
  · simp only
    split
    · refine (bytesOf_foldl _ sq (fun s i => ?_) _ _).trans (bytesOf_setTeam _ _ _ sq (by rfl) (by rfl))
      split
      · rfl
      · split <;> exact bytesOf_setTeam _ _ _ sq (by rfl) (by rfl)
    · exact bytesOf_setTeam _ _ _ sq (by rfl) (by rfl)

@[simp] theorem bytesOf_changeCode (s : State) (sp sq : Space) (a n : Nat) : (s.changeCode sp a n).bytesOf sq = s.bytesOf sq := by
  unfold changeCode
  dsimp only
  split <;> cases sq <;> rfl

@[simp] theorem bytesOf_keepPast (s : State) (sq : Space) (t a n : Nat) : (s.keepPast t a n).bytesOf sq = s.bytesOf sq := by
  unfold keepPast
  dsimp only
  split
  · exact bytesOf_setTeam _ _ _ sq (by rfl) (by rfl)
  · rfl

/-! The write -/

/-- What a write leaves in its store. -/
theorem bytesOf_write (s : State) (sp : Space) (a : Nat) (bs : List Byte) :
    (s.write sp a bs).bytesOf sp = putBytes (s.bytesOf sp) a bs := by
  unfold write
  cases sp <;> simp [bytesOf_withBytes]

/-- A write leaves every other store alone. -/
theorem bytesOf_write_ne (s : State) (sp sq : Space) (a : Nat) (bs : List Byte) (h : sq ≠ sp) :
    (s.write sp a bs).bytesOf sq = s.bytesOf sq := by
  unfold write
  cases sp <;> simp [bytesOf_withBytes_ne _ _ _ _ h]

/-- One byte after a write: outside the written bytes nothing changes, in this store or another. -/
theorem byte_write_out (s : State) (sp sq : Space) (a k : Nat) (bs : List Byte) (h : sq ≠ sp ∨ k < a ∨ a + bs.length ≤ k) :
    (s.write sp a bs).byte sq k = s.byte sq k := by
  by_cases hs : sq = sp
  · subst hs
    have h : k < a ∨ a + bs.length ≤ k := h.resolve_left (fun h => h rfl)
    simp only [byte, bytesOf_write]
    exact get_putBytes_out _ _ _ _ h
  · simp only [byte, bytesOf_write_ne _ _ _ _ _ hs]

/-- One byte of those that were written. -/
theorem byte_write_in (s : State) (sp : Space) (a k : Nat) (bs : List Byte) (h : k < bs.length) :
    (s.write sp a bs).byte sp (a + k) = bs[k] := by
  simp only [byte, bytesOf_write]
  exact get_putBytes_in _ _ _ _ h

/-- A read gives back what a write put there. -/
theorem read_write (s : State) (sp : Space) (a : Nat) (bs : List Byte) :
    (s.write sp a bs).read sp a bs.length = bs := by
  simp only [read, bytesOf_write]
  exact map_range_get _ _ _

/-- A write keeps the canonical form of every store. -/
theorem write_wf (s : State) (sp sq : Space) (a : Nat) (bs : List Byte) (h : Memory.wf (s.bytesOf sq) = true) :
    Memory.wf ((s.write sp a bs).bytesOf sq) = true := by
  by_cases hs : sq = sp
  · subst hs; rw [bytesOf_write]; exact putBytes_wf _ _ _ h
  · rwa [bytesOf_write_ne _ _ _ _ _ hs]

/-- So does putting bytes back. -/
theorem restoreBytes_wf (s : State) (sp sq : Space) (a : Nat) (bs : List Byte) (h : Memory.wf (s.bytesOf sq) = true) :
    Memory.wf ((s.restoreBytes sp a bs).bytesOf sq) = true := by
  unfold restoreBytes
  by_cases hs : sq = sp
  · subst hs; rw [bytesOf_withBytes]; exact putBytes_wf _ _ _ h
  · rwa [bytesOf_withBytes_ne _ _ _ _ hs]

/-- And marking a range fresh. -/
theorem freshen_wf (s : State) (sq : Space) (a n : Nat) (h : Memory.wf (s.bytesOf sq) = true) :
    Memory.wf ((s.freshen a n).bytesOf sq) = true := by
  cases sq with
  | hbm => exact dropRange_wf _ _ _ h
  | _ => exact h

/-- A dropped key reads as an unlisted one. -/
theorem get_dropRange_in {α : Type} (d : α) (m : SMap α) (a n k : Nat) (h1 : a ≤ k) (h2 : k < a + n) : SMap.get d (dropRange m a n) k = d := by
  induction m with
  | nil => rfl
  | cons e m ih =>
    unfold dropRange at ih ⊢
    rw [List.filter_cons]
    split
    · rename_i hp
      have hp' : e.1 < a ∨ a + n ≤ e.1 := by simpa using hp
      have : e.1 ≠ k := by omega
      simp [SMap.get, this, ih]
    · exact ih

/-- A fresh page reads as zero (R35). -/
theorem byte_freshen_in (s : State) (a n k : Nat) (h1 : a ≤ k) (h2 : k < a + n) : (s.freshen a n).byte .hbm k = 0 :=
  get_dropRange_in _ _ _ _ _ h1 h2

/-- Nothing is sent, and the L2 keeps its host lines. -/
def Quiet (s u : State) : Prop := u.out = s.out ∧ u.hostLines = s.hostLines

theorem Quiet.trans {s u v : State} (h : Quiet s u) (h1 : Quiet u v) : Quiet s v := ⟨h1.1.trans h.1, h1.2.trans h.2⟩

/-- A fold of quiet steps is quiet. -/
theorem quiet_foldl {α : Type} (f : State → α → State) (h : ∀ s x, Quiet s (f s x)) (l : List α) (s : State) : Quiet s (l.foldl f s) := by
  induction l generalizing s with
  | nil => exact ⟨rfl, rfl⟩
  | cons x l ih => exact (h s x).trans (ih _)

/-- A write sends nothing, and leaves the L2's host lines. -/
theorem quiet_write (s : State) (sp : Space) (a : Nat) (bs : List Byte) : Quiet s (s.write sp a bs) := by
  have h1 : ∀ (u : State) sq m, Quiet u (u.withBytes sq m) := fun u sq m => by cases sq <;> exact ⟨rfl, rfl⟩
  have h2 : ∀ (u : State) a n, Quiet u (u.touchPages a n) := by
    intro u a n
    unfold touchPages
    split
    · exact ⟨rfl, rfl⟩
    · refine quiet_foldl _ (fun s i => ?_) _ _
      dsimp only
      split
      · split <;> exact ⟨rfl, rfl⟩
      · exact ⟨rfl, rfl⟩
  have h3 : ∀ (u : State) t a n, Quiet u (u.beforeScratch t a n) := by
    intro u t a n
    unfold beforeScratch
    split
    · exact ⟨rfl, rfl⟩
    · dsimp only
      split
      · refine Quiet.trans (u := _) (⟨rfl, rfl⟩ : Quiet u _) (quiet_foldl _ (fun s i => ?_) _ _)
        split
        · exact ⟨rfl, rfl⟩
        · split <;> exact ⟨rfl, rfl⟩
      · exact ⟨rfl, rfl⟩
  have h4 : ∀ (u : State) sq a n, Quiet u (u.changeCode sq a n) := by
    intro u sq a n
    unfold changeCode
    dsimp only
    split <;> exact ⟨rfl, rfl⟩
  have h5 : ∀ (u : State) t a n, Quiet u (u.keepPast t a n) := by
    intro u t a n
    unfold keepPast
    dsimp only
    split <;> exact ⟨rfl, rfl⟩
  have h6 : ∀ (u : State) sq a n, Quiet u (u.cleanPoison sq a n) := fun u sq a n => ⟨rfl, rfl⟩
  have h7 : ∀ (u : State) sq a n, Quiet u (u.notifyWrite sq a n) := fun u sq a n => ⟨rfl, rfl⟩
  unfold write
  dsimp only
  cases sp with
  | hbm => exact (h4 _ _ _ _).trans ((h1 _ _ _).trans ((h6 _ _ _ _).trans ((h2 _ _ _).trans (h7 _ _ _ _))))
  | scratch t => exact (h3 _ _ _ _).trans ((h5 _ _ _ _).trans ((h1 _ _ _).trans ((h6 _ _ _ _).trans (h7 _ _ _ _))))
  | host => exact (h4 _ _ _ _).trans ((h1 _ _ _).trans ((h6 _ _ _ _).trans (h7 _ _ _ _)))
  | window w => exact (h1 _ _ _).trans ((h6 _ _ _ _).trans (h7 _ _ _ _))
  | acc t => exact (h1 _ _ _).trans ((h6 _ _ _ _).trans (h7 _ _ _ _))
  | priv w => exact (h1 _ _ _).trans ((h6 _ _ _ _).trans (h7 _ _ _ _))

theorem out_write (s : State) (sp : Space) (a : Nat) (bs : List Byte) : (s.write sp a bs).out = s.out := (quiet_write s sp a bs).1

theorem hostLines_write (s : State) (sp : Space) (a : Nat) (bs : List Byte) : (s.write sp a bs).hostLines = s.hostLines :=
  (quiet_write s sp a bs).2

end State
end Sys2Proof.Machine
end

