-- ==== Sys2Proof/Laws/Access.lean ====
section
/-! SUPPORT. Accesses of the instructions: what the L2's host lines, the L1 and a store through it leave of the bytes, and
when an access needs no answer of a peer. -/

namespace Sys2Proof.Machine

theorem foldl_hostLines (f : State → Nat → State) (hf : ∀ s i, ∃ h, f s i = { s with hostLines := h }) (l : List Nat) (s : State) :
    ∃ h, l.foldl f s = { s with hostLines := h } := by
  induction l generalizing s with
  | nil => exact ⟨_, rfl⟩
  | cons i l ih =>
    obtain ⟨h, hh⟩ := hf s i
    obtain ⟨g, hg⟩ := ih (f s i)
    exact ⟨g, by rw [List.foldl_cons, hg, hh]⟩

/-- Keeping host lines changes no byte, and no core's L1. -/
theorem holdHost_lines (s : State) (w : Nat) (sp : Space) (a n : Nat) (d : Bool) : ∃ h, s.holdHost w sp a n d = { s with hostLines := h } := by
  unfold State.holdHost
  split
  · exact ⟨_, rfl⟩
  · exact foldl_hostLines _ (fun s i => ⟨_, rfl⟩) _ _

@[simp] theorem bytesOf_holdHost (s : State) (w : Nat) (sp sq : Space) (a n : Nat) (d : Bool) :
    (s.holdHost w sp a n d).bytesOf sq = s.bytesOf sq := by
  obtain ⟨h, hh⟩ := holdHost_lines s w sp a n d
  rw [hh]; cases sq <;> rfl

/-- Only lines of host memory are kept there. -/
theorem holdHost_ne (s : State) (w : Nat) (sp : Space) (a n : Nat) (d : Bool) (h : sp ≠ .host) : s.holdHost w sp a n d = s := by
  simp [State.holdHost, h]

theorem bytesOf_l1Drop (s : State) (core : Nat) (sp sq : Space) (a : Nat) : (s.l1Drop core sp a).bytesOf sq = s.bytesOf sq := by
  cases sq <;> rfl

/-- A store through the L1 leaves the bytes beside it. -/
theorem byte_storeAt_out (s : State) (who : Agent) (sp sq : Space) (a k : Nat) (bs : List Byte) (h : sq ≠ sp ∨ k < a ∨ a + bs.length ≤ k) :
    (s.storeAt who sp a bs).byte sq k = s.byte sq k := by
  unfold State.storeAt State.byte
  rw [bytesOf_holdHost]
  refine (State.byte_write_out _ _ _ _ _ _ h).trans ?_
  unfold State.byte
  cases s.coreOf who
  · rfl
  · exact congrArg (fun m => SMap.get unlisted m k) (bytesOf_l1Drop _ _ _ _ _)

/-- And its own bytes read as written. -/
theorem byte_storeAt_in (s : State) (who : Agent) (sp : Space) (a k : Nat) (bs : List Byte) (h : k < bs.length) :
    (s.storeAt who sp a bs).byte sp (a + k) = bs[k] := by
  unfold State.storeAt State.byte
  rw [bytesOf_holdHost]
  exact State.byte_write_in _ _ _ _ _ h

/-- An undo log of private memory keeps old bytes and changes none. -/
@[simp] theorem bytesOf_beforePrivate (s : State) (who : Agent) (sp sq : Space) (x n : Nat) :
    (s.beforePrivate who sp x n).bytesOf sq = s.bytesOf sq := by
  unfold State.beforePrivate
  split
  · split
    · rfl
    · refine State.bytesOf_foldl _ sq (fun s i => ?_) _ _
      dsimp only
      split
      · rfl
      · rw [State.modTeam_eq, State.bytesOf_setTeam] <;> rfl
  · rfl

/-- An access that this device serves itself asks no peer. -/
theorem peerReady_local {v : Env} {s s1 : State} {va n : Nat} {need : Need} {p : Place} (write : Bool) (op : Nat) (bs : List Byte)
    (tag : Option Nat) (h : s.awaitedReq v.who = none) (h1 : s.globalPlace v.who va n need 0 = (.ok p, s1)) (h2 : p.isLocal = true) :
    peerReady v s va n need write op bs tag = (s, true) := by
  obtain ⟨tg, at'⟩ := p
  unfold peerReady
  split
  · rfl
  · simp only [h, h1]
    cases tg <;> first | rfl | simp [Place.isLocal] at h2

/-- Nor does one whose address faults. -/
theorem peerReady_fault {v : Env} {s s1 : State} {va n : Nat} {need : Need} {r : Res} (write : Bool) (op : Nat) (bs : List Byte)
    (tag : Option Nat) (h : s.awaitedReq v.who = none) (h1 : s.globalPlace v.who va n need 0 = (.error r, s1)) :
    peerReady v s va n need write op bs tag = (s, true) := by
  unfold peerReady
  split
  · rfl
  · simp only [h, h1]

/-- A global address that is not aligned. -/
theorem globalPlace_misaligned {s : State} {a : Agent} {va n : Nat} (need : Need) (flags : Nat) (h : va % n ≠ 0) :
    s.globalPlace a va n need flags = (.error (.fault { code := 0x07, flags := flags, addr := va % 2 ^ 52 }), s) := by
  simp [State.globalPlace, h]

end Sys2Proof.Machine
end

