-- ==== Sys2Proof/Laws/Boot.lean ====
section
/-! SUPPORT. A boot (R52): what loading the images leaves, and the image at which it ends. -/

namespace Sys2Proof.Machine.State

/-- What the load of one image does to the state. -/
def bootOne (s : State) (i : Nat) : State :=
  if s.bootFailed ≠ 0 then s else
  match s.bootOf (i + 1) with
  | .ok b => { s with
      builds := match (s.banks.get {} (2 * (i + 1) + b)).body with
        | some x => s.builds.insert (i + 1) x
        | none => s.builds.filter fun e => e.1 != i + 1
      bootBank := s.bootBank.put 0 (i + 1) b }
  | .error c => { s with bootFailed := i + 1, bootCause := c }

theorem bootImages_eq (s : State) : s.bootImages = (List.range 5).foldl bootOne s := rfl

/-- An image's bank depends on no other image's. -/
theorem bootOf_of {s t : State} {i : Nat} (h : t.staged = s.staged) (h1 : t.banks = s.banks) (h2 : t.fuses = s.fuses)
    (h3 : t.bootBank.get 0 i = s.bootBank.get 0 i) : t.bootOf i = s.bootOf i := by
  unfold bootOf bankStatus
  rw [h, h1, h2, h3]

/-- Once an image has failed, nothing more is loaded. -/
theorem bootOne_failed (l : List Nat) (s : State) (h : s.bootFailed ≠ 0) : l.foldl bootOne s = s := by
  induction l with
  | nil => rfl
  | cons i l ih => rw [List.foldl_cons, show bootOne s i = s from if_pos h, ih]

/-- Images that run leave the state, but for what runs and from where. -/
theorem bootOnes_ok (l : List Nat) (hl : l.Nodup) (s : State) (h0 : s.bootFailed = 0) (h : ∀ i ∈ l, ∃ b, s.bootOf (i + 1) = .ok b) :
    ∃ x y, l.foldl bootOne s = { s with builds := x, bootBank := y } ∧ ∀ k, (∀ i ∈ l, i + 1 ≠ k) → y.get 0 k = s.bootBank.get 0 k := by
  induction l generalizing s with
  | nil => exact ⟨_, _, rfl, fun k _ => rfl⟩
  | cons i l ih =>
    obtain ⟨b, hb⟩ := h i (by simp)
    have hi : i ∉ l := (List.nodup_cons.1 hl).1
    have e : ∃ x, bootOne s i = { s with builds := x, bootBank := s.bootBank.put 0 (i + 1) b } := by
      refine ⟨match (s.banks.get {} (2 * (i + 1) + b)).body with
        | some x => s.builds.insert (i + 1) x
        | none => s.builds.filter fun e => e.1 != i + 1, ?_⟩
      unfold bootOne
      rw [if_neg (by simp [h0]), hb]
    obtain ⟨x, e⟩ := e
    have hn : ∀ j ∈ l, (bootOne s i).bootOf (j + 1) = s.bootOf (j + 1) := by
      intro j hj
      rw [e]
      exact bootOf_of (s := s) rfl rfl rfl (SMap.get_put_ne _ _ _ _ _ (by rintro h; simp at h; exact hi (h ▸ hj)))
    obtain ⟨x', y', h1, h2⟩ := ih (List.nodup_cons.1 hl).2 (bootOne s i) (by rw [e]; exact h0)
      (fun j hj => (h j (by simp [hj])).imp fun _ hc => (hn j hj).trans hc)
    refine ⟨x', y', by rw [List.foldl_cons, h1, e], fun k hk => ?_⟩
    rw [h2 k fun j hj => hk j (by simp [hj]), e]
    exact SMap.get_put_ne _ _ _ _ _ (Ne.symm (hk i (by simp)))

/-- Every image runs: a boot changes only what runs, and from which bank. -/
theorem bootImages_ok (s : State) (h0 : s.bootFailed = 0) (h : ∀ i < 5, ∃ b, s.bootOf (i + 1) = .ok b) :
    ∃ x y, s.bootImages = { s with builds := x, bootBank := y } := by
  obtain ⟨x, y, e, -⟩ := bootOnes_ok (List.range 5) (by decide) s h0 fun i hi => h i (List.mem_range.1 hi)
  exact ⟨x, y, e⟩

/-- The first image that fails in both banks ends the boot, with its cause. -/
theorem bootImages_fail (s : State) (h0 : s.bootFailed = 0) (i c : Nat) (hi : i < 5) (h : ∀ j < i, ∃ b, s.bootOf (j + 1) = .ok b)
    (hc : s.bootOf (i + 1) = .error c) :
    ∃ x y, s.bootImages = { s with builds := x, bootBank := y, bootFailed := i + 1, bootCause := c } := by
  have hr : ∀ i < 5, List.range 5 = List.range i ++ i :: (List.range' (i + 1) (4 - i)) := by decide
  obtain ⟨x, y, e, hy⟩ := bootOnes_ok (List.range i) List.nodup_range s h0 fun j hj => h j (List.mem_range.1 hj)
  have hb : State.bootOf ({ s with builds := x, bootBank := y } : State) (i + 1) = .error c :=
    (bootOf_of (s := s) (t := { s with builds := x, bootBank := y }) (i := i + 1) rfl rfl rfl (hy (i + 1) fun j hj => by have := List.mem_range.1 hj; omega)).trans hc
  have e2 : bootOne { s with builds := x, bootBank := y } i = { s with builds := x, bootBank := y, bootFailed := i + 1, bootCause := c } := by
    unfold bootOne
    rw [if_neg (by simp [h0]), hb]
  refine ⟨x, y, ?_⟩
  rw [bootImages_eq, hr i hi, List.foldl_append, List.foldl_cons, e, e2]
  exact bootOne_failed _ _ (by simp)

end Sys2Proof.Machine.State
end

