-- ==== Sys2Proof/Laws/Events.lean ====
section
/-! SUPPORT. Lemmas about operations and events outside the clauses: how a slice command starts, what COMMAND_DONE leaves, and
that decision points only add to what is due. -/

namespace Sys2Proof.Machine

/-- A command that may start runs its operation, or ends with what the checks of R48 name. -/
theorem slcWrite_takes {s : State} {op : Nat} {cmd : BitVec 32} (h : TakesCommand s op cmd) (i : Instr) (run : State → Command → State) :
    s.slcWrite op cmd i run = match (s.accepting cmd).commandCheck (s.commandOf cmd) with
      | some st => (s.accepting cmd).endCommand st
      | none => run (s.accepting cmd) (s.commandOf cmd) := by
  have hg : cmd.getLsbD 0 = true := h.go
  have hi : s.command.isSome = false := by simp [h.idle]
  have e2 : (decide (cmdOp cmd ≠ op) || !cmd.getLsbD 0 || s.command.isSome || s.held.any isCommand) = false := by
    rw [hg, hi, h.noneHeld]; simp [h.op]
  have e3 : s.commandOf cmd = { op := op, world := cmdWorld cmd, node := cmdNode cmd, owner := cmdOwner cmd, arg := s.slcArg,
                                start := s.writtenAt, bound := s.clock } := by simp [State.commandOf, h.op]
  unfold State.slcWrite
  rw [e2, State.accepting, e3]
  simp only [Bool.false_eq_true, if_false]
  rw [if_neg (by simpa [State.activating] using h.noActivation)]
  rfl

/-- A changed world reads as changed. -/
theorem world_modWorld (s : State) (w : Nat) (f : World → World) : (s.modWorld w f).world w = f (s.world w) :=
  State.world_setWorld _ _ _

/-- A change of a world that leaves its bank window and its program's private memory alone leaves every byte alone. -/
theorem bytesOf_modWorld (s : State) (w : Nat) (f : World → World) (sp : Space) (h1 : (f (s.world w)).window = (s.world w).window)
    (h2 : (f (s.world w)).prog.priv = (s.world w).prog.priv) : (s.modWorld w f).bytesOf sp = s.bytesOf sp :=
  State.bytesOf_setWorld _ _ _ _ h1 h2

/-- A changed responder reads as changed; a reply changes no world. -/
theorem spdm_modSpdm (s : State) (w : Nat) (f : Spdm → Spdm) : ((s.modSpdm w f).world w).spdm = f (s.world w).spdm := by
  unfold State.modSpdm; rw [world_modWorld]
theorem world_send (s : State) (o : Output) (w : Nat) : (s.send o).world w = s.world w := rfl
theorem bytesOf_send (s : State) (o : Output) (sp : Space) : (s.send o).bytesOf sp = s.bytesOf sp := by cases sp <;> rfl
theorem world_answer (s : State) (bs : List Byte) (w : Nat) : (s.answer bs).world w = s.world w := rfl
theorem world_notReady (s : State) (v code token w : Nat) : (s.notReady v code token).world w = s.world w := rfl

/-- And a changed slice. -/
theorem slice_modSlice (s : State) (c : Nat) (f : Slice → Slice) : (s.modSlice c f).slice c = f (s.slice c) :=
  State.slice_setSlice _ _ _

/-- A due operation once more or not: nothing else of the state changes. -/
theorem pushOnce_due (s : State) (i : Instr) : ∃ d, s.pushOnce i = { s with due := d } := by
  unfold State.pushOnce State.push
  split
  · exact ⟨s.due, rfl⟩
  · exact ⟨_, rfl⟩

/-- What pushOnce names is due. -/
theorem mem_pushOnce (s : State) (i : Instr) : i ∈ (s.pushOnce i).due := by
  unfold State.pushOnce
  split
  · rename_i h; exact List.contains_iff_mem.1 h
  · simp [State.push]

/-- Decision points only add to what is due. -/
theorem decideAll_due (cs : List Nat) (s : State) : ∃ d, cs.foldl (fun s k => s.decide' k) s = { s with due := d } := by
  induction cs generalizing s with
  | nil => exact ⟨s.due, rfl⟩
  | cons c cs ih =>
    obtain ⟨d, hd⟩ := pushOnce_due s (.decisionStep c)
    obtain ⟨e, he⟩ := ih (s.decide' c)
    refine ⟨e, ?_⟩
    rw [List.foldl_cons, he, State.decide', hd]

/-- What releaseHeldOps does outside an activation. -/
theorem releaseHeldOps_idle {s : State} (h : s.activating = false) :
    s.releaseHeldOps = { s with agenda := s.held.map Move.event ++ s.agenda, held := [] } := by
  simp [State.releaseHeldOps, h]

/-- A signal changes only what goes outside, or the pending vectors of its world. -/
theorem signal_fields (s : State) (w v : Nat) :
    (s.signal w v).command = s.command ∧ (s.signal w v).slcStatus = s.slcStatus ∧ (s.signal w v).slcElapsed = s.slcElapsed ∧
    (s.signal w v).slcCmd = s.slcCmd ∧ (s.signal w v).held = s.held ∧ (s.signal w v).fw = s.fw ∧ (s.signal w v).slices = s.slices ∧
    ((s.world w).unmasked.contains v = true → (s.signal w v).out = s.out ++ [.msix w v]) ∧
    (∀ sp, (s.signal w v).bytesOf sp = s.bytesOf sp) := by
  by_cases h : (s.world w).unmasked.contains v = true
  · refine ⟨?_, ?_, ?_, ?_, ?_, ?_, ?_, fun _ => ?_, fun sp => ?_⟩ <;>
      (simp only [State.signal, h, if_true]) <;> first | rfl | (cases sp <;> rfl)
  · have h' : (s.world w).unmasked.contains v = false := by simpa using h
    refine ⟨?_, ?_, ?_, ?_, ?_, ?_, ?_, fun k => absurd k h, fun sp => ?_⟩
    all_goals first
      | (simp only [State.signal, h', Bool.false_eq_true, if_false]; rfl)
      | skip
    simp only [State.signal, h', Bool.false_eq_true, if_false]
    exact State.bytesOf_setWorld _ _ _ _ rfl rfl

/-- The end of every command: the interrupt, the operations that were held, and a decision point of every slice. -/
theorem wrapUp_fields (s : State) (cs : List Nat) (h : s.activating = false) :
    let t := cs.foldl (fun s k => s.decide' k) ((s.signal 0 0).releaseHeldOps)
    t.command = s.command ∧ t.slcStatus = s.slcStatus ∧ t.slcElapsed = s.slcElapsed ∧ t.slcCmd = s.slcCmd ∧ t.held = [] ∧
    t.agenda = s.held.map Move.event ++ s.agenda ∧
    ((s.world 0).unmasked.contains 0 = true → t.out = s.out ++ [.msix 0 0]) ∧ (∀ sp, t.bytesOf sp = s.bytesOf sp) := by
  obtain ⟨h1, h2, h3, h4, h5, h6, h7, h8, h9⟩ := signal_fields s 0 0
  have ha : (s.signal 0 0).activating = false := by simpa [State.activating, h6] using h
  obtain ⟨d, hd⟩ := decideAll_due cs (s.signal 0 0).releaseHeldOps
  intro t
  have ha' : (s.signal 0 0).agenda = s.agenda := by
    by_cases k : (s.world 0).unmasked.contains 0 = true
    · simp only [State.signal, k, if_true]; rfl
    · simp only [State.signal, Bool.eq_false_iff.2 k, Bool.false_eq_true, if_false]; rfl
  have ht : t = { (s.signal 0 0) with due := d, held := [], agenda := (s.signal 0 0).held.map Move.event ++ (s.signal 0 0).agenda } := by
    show List.foldl _ _ _ = _
    rw [hd, releaseHeldOps_idle ha]
  rw [ht]
  exact ⟨h1, h2, h3, h4, rfl, by rw [← h5, ← ha'], h8, fun sp => by rw [← h9 sp]; cases sp <;> rfl⟩

/-- A signal leaves a world as it is, but for the vectors that wait under a mask. -/
theorem signal_world (s : State) (w v u : Nat) : ∃ p, (s.signal w v).world u = { s.world u with pendingVectors := p } := by
  by_cases h : (s.world w).unmasked.contains v = true
  · exact ⟨(s.world u).pendingVectors, by simp only [State.signal, h, if_true]; rfl⟩
  · have h' : (s.world w).unmasked.contains v = false := by simpa using h
    simp only [State.signal, h', Bool.false_eq_true, if_false]
    by_cases hu : u = w
    · subst hu; exact ⟨_, world_modWorld _ _ _⟩
    · exact ⟨(s.world u).pendingVectors, by rw [State.modWorld, State.world_setWorld_ne _ _ _ _ hu]⟩

/-- So does the end of a command. -/
theorem wrapUp_world (s : State) (cs : List Nat) (h : s.activating = false) (u : Nat) :
    ∃ p, (cs.foldl (fun s k => s.decide' k) ((s.signal 0 0).releaseHeldOps)).world u = { s.world u with pendingVectors := p } := by
  have ha : (s.signal 0 0).activating = false := by simpa [State.activating, (signal_fields s 0 0).2.2.2.2.2.1] using h
  obtain ⟨d, hd⟩ := decideAll_due cs (s.signal 0 0).releaseHeldOps
  obtain ⟨p, hp⟩ := signal_world s 0 0 u
  refine ⟨p, ?_⟩
  rw [hd, releaseHeldOps_idle ha]
  exact hp

end Sys2Proof.Machine
end

