-- ==== Sys2Proof/Laws/Integer.lean ====
section
/-! SUPPORT. Bits of numbers, wrapping and sign extension: what the integer operations deliver, bit by bit. -/

namespace Sys2Proof.Machine

theorem bit_eq_testBit (x k : Nat) : bit x k = x.testBit k := by
  simp only [bit, Nat.testBit_eq_decide_div_mod_eq]
  rfl

theorem bit_ofBits (l : List Bool) (j : Nat) : bit (ofBits l) j = l.getD j false := by
  induction l generalizing j with
  | nil => simp [ofBits, bit]
  | cons b l ih =>
    have hc : ofBits (b :: l) = b.toNat + 2 * ofBits l := rfl
    cases j with
    | zero => rw [hc, bit_eq_testBit]; cases b <;> simp [Nat.testBit_zero] <;> omega
    | succ j =>
      have hd : (b.toNat + 2 * ofBits l) / 2 = ofBits l := by cases b <;> simp <;> omega
      rw [hc, bit_eq_testBit, Nat.testBit_succ, hd, ← bit_eq_testBit, ih]
      rfl

theorem ofBits_lt (l : List Bool) : ofBits l < 2 ^ l.length := by
  induction l with
  | nil => simp [ofBits]
  | cons b l ih =>
    have hc : ofBits (b :: l) = b.toNat + 2 * ofBits l := rfl
    rw [hc, List.length_cons, Nat.pow_succ]
    cases b <;> simp <;> omega

theorem getD_map_range (f : Nat → Bool) (n j : Nat) (h : j < n) : ((List.range n).map f).getD j false = f j := by
  simp [List.getD_eq_getElem?_getD, h]

theorem wrapInt_lt (w : Nat) (x : Int) : wrapInt w x < 2 ^ w := by
  have h0 : (0 : Int) < ((2 ^ w : Nat) : Int) := by exact_mod_cast Nat.two_pow_pos w
  have h1 := Int.emod_lt_of_pos x h0
  unfold wrapInt
  generalize 2 ^ w = n at *
  have h2 := Int.emod_nonneg x (b := (n : Int)) (by omega)
  omega

theorem wrapInt_coe (w : Nat) (x : Int) : ((wrapInt w x : Nat) : Int) = x % (2 ^ w : Nat) := by
  have h0 : (0 : Int) < (2 ^ w : Nat) := by exact_mod_cast Nat.two_pow_pos w
  exact Int.toNat_of_nonneg (Int.emod_nonneg x (Int.ne_of_gt h0))

theorem pow_half (w : Nat) (h : 0 < w) : 2 ^ w = 2 * 2 ^ (w - 1) := by
  conv => lhs; rw [← Nat.sub_add_cancel h, Nat.pow_succ, Nat.mul_comm]

theorem sext_range (w x : Nat) (h : 0 < w) : -((2 ^ (w - 1) : Nat) : Int) ≤ sext w x ∧ sext w x < ((2 ^ (w - 1) : Nat) : Int) := by
  have hp := pow_half w h
  have hm := Nat.mod_lt x (Nat.two_pow_pos w)
  unfold sext
  split <;> omega

theorem sext_emod (w x : Nat) : sext w x % ((2 ^ w : Nat) : Int) = (x : Int) % ((2 ^ w : Nat) : Int) := by
  have h : ((x % 2 ^ w : Nat) : Int) % ((2 ^ w : Nat) : Int) = (x : Int) % ((2 ^ w : Nat) : Int) := by
    generalize 2 ^ w = n
    exact congrArg Nat.cast (Nat.mod_mod x n)
  unfold sext
  split
  · exact h
  · rw [Int.sub_emod_right]; exact h

/-- A number of the signed range is the sign extension of its pattern. -/
theorem sext_wrapInt (w : Nat) (x : Int) (h : 0 < w) (h1 : -((2 ^ (w - 1) : Nat) : Int) ≤ x)
    (h2 : x < ((2 ^ (w - 1) : Nat) : Int)) : sext w (wrapInt w x) = x := by
  have hp := pow_half w h
  have hl := wrapInt_lt w x
  have hc := wrapInt_coe w x
  unfold sext
  rw [Nat.mod_eq_of_lt hl]
  by_cases hx : 0 ≤ x
  · have : x % ((2 ^ w : Nat) : Int) = x := Int.emod_eq_of_lt hx (by omega)
    rw [this] at hc
    rw [if_pos (by omega)]
    omega
  · have : x % ((2 ^ w : Nat) : Int) = x + ((2 ^ w : Nat) : Int) := by
      rw [← Int.add_emod_right]
      exact Int.emod_eq_of_lt (by omega) (by omega)
    rw [this] at hc
    rw [if_neg (by omega)]
    omega

end Sys2Proof.Machine
end

