-- ==== Sys2Proof/Laws/Issue.lean ====
section
/-! SUPPORT. What one instruction step does: the step of an agent that executes alone, by the outcome of its meaning, and the
step of a whole gang that only computes. The provers cite these and never unfold runLanes. -/

namespace Sys2Proof.Machine

theorem haltAtBoundary_of (s : State) (a : Agent) (h : (s.laneOf a).haltReq = false) : haltAtBoundary s a = s := by
  cases a with
  | lane t lit =>
    have h : (s.lane t lit).haltReq = false := h
    simp [haltAtBoundary, h]
  | _ => rfl

/-! One agent -/

variable {o : Op} {s s1 s2 : State} {a : Agent} {cl : Clause} {fn : LaneFn}

/-- The step of an agent that executes alone, once it is ready. -/
theorem runLanes_alone (h : Alone o s a cl) (ready : Env → State → State × Bool) (opens : Option Rep)
    (hr : ready (envOf o s a cl) s = (s1, true)) :
    runLanes o s fn ready opens =
      .next (advance (countIssue (stepAgent o cl [envOf o s a cl] fn s (s1, []) a).1 [a]) (cl.advance o.len opens)
        (stepAgent o cl [envOf o s a cl] fn s (s1, []) a).2) := by
  have hf : [a].foldl haltAtBoundary s = s := haltAtBoundary_of s a h.noHalt
  unfold runLanes
  rw [h.agents]
  simp only [h.cls, if_false, hf]
  simp [h.acts, h.clean, hr]

/-- It waits with the state that its readiness left: the instruction has not started. -/
theorem runLanes_stalls (h : Alone o s a cl) (ready : Env → State → State × Bool) (opens : Option Rep)
    (hr : ready (envOf o s a cl) s = (s1, false)) : runLanes o s fn ready opens = .next (stall s1) := by
  have hf : [a].foldl haltAtBoundary s = s := haltAtBoundary_of s a h.noHalt
  unfold runLanes
  rw [h.agents]
  simp only [h.cls, if_false, hf]
  simp [h.acts, h.clean, hr]

/-- The fields of the environment. -/
theorem envOf_f : (envOf o s a cl).f = (stepFields cl.rep o.e o.f).getD o.f := rfl

theorem stepAgent_ok (h : Alone o s a cl) {d d' : Nat} {fl fl' : FlagSet}
    (hf : fn [envOf o s a cl] (envOf o s a cl) s1 = (s2, .ok d d' fl fl')) (ha : acting s1 a = true)
    (hn : tooFar s1 a = false) :
    stepAgent o cl [envOf o s a cl] fn s (s1, []) a = (retire s2 a o.e (envOf o s a cl).f (.ok d d' fl fl'), []) := by
  simp [stepAgent, ha, h.clean, hf, hn]
theorem stepAgent_jump (h : Alone o s a cl) {pc : Nat}
    (hf : fn [envOf o s a cl] (envOf o s a cl) s1 = (s2, .jump pc)) (ha : acting s1 a = true) (hn : tooFar s1 a = false) :
    stepAgent o cl [envOf o s a cl] fn s (s1, []) a = (retire s2 a o.e (envOf o s a cl).f (.jump pc), [(a, pc)]) := by
  simp [stepAgent, ha, h.clean, hf, hn]
theorem stepAgent_wait (h : Alone o s a cl) (hf : fn [envOf o s a cl] (envOf o s a cl) s1 = (s2, .wait))
    (ha : acting s1 a = true) : stepAgent o cl [envOf o s a cl] fn s (s1, []) a = (s2, []) := by
  simp [stepAgent, ha, h.clean, hf]
theorem stepAgent_fault (h : Alone o s a cl) {y : Why}
    (hf : fn [envOf o s a cl] (envOf o s a cl) s1 = (s2, .fault y)) (ha : acting s1 a = true) :
    stepAgent o cl [envOf o s a cl] fn s (s1, []) a = (s1.takeFault a y, []) := by
  simp [stepAgent, ha, h.clean, hf]
theorem stepAgent_trouble (h : Alone o s a cl) {e : Trouble} {flags va : Nat}
    (hf : fn [envOf o s a cl] (envOf o s a cl) s1 = (s2, .trouble e flags va)) (ha : acting s1 a = true) :
    stepAgent o cl [envOf o s a cl] fn s (s1, []) a = (s1.takeTrouble a e flags va, []) := by
  simp [stepAgent, ha, h.clean, hf]

/-- A step whose meaning answers a value. -/
theorem alone_ok (h : Alone o s a cl) (ready : Env → State → State × Bool) (opens : Option Rep)
    (hr : ready (envOf o s a cl) s = (s1, true)) {d d' : Nat} {fl fl' : FlagSet}
    (hf : fn [envOf o s a cl] (envOf o s a cl) s1 = (s2, .ok d d' fl fl'))
    (ha : acting s1 a = true) (hn : tooFar s1 a = false) :
    runLanes o s fn ready opens = .next (stepDone o a cl s2 (.ok d d' fl fl') opens) := by
  rw [runLanes_alone h ready opens hr, stepAgent_ok h hf ha hn]; rfl

/-- A step whose meaning answers a transfer. -/
theorem alone_jump (h : Alone o s a cl) (ready : Env → State → State × Bool)
    (hr : ready (envOf o s a cl) s = (s1, true)) {pc : Nat}
    (hf : fn [envOf o s a cl] (envOf o s a cl) s1 = (s2, .jump pc))
    (ha : acting s1 a = true) (hn : tooFar s1 a = false) :
    runLanes o s fn ready = .next (stepDone o a cl s2 (.jump pc)) := by
  rw [runLanes_alone h ready none hr, stepAgent_jump h hf ha hn]; rfl

/-- A step whose meaning waits. -/
theorem alone_wait (h : Alone o s a cl) (ready : Env → State → State × Bool)
    (hr : ready (envOf o s a cl) s = (s1, true))
    (hf : fn [envOf o s a cl] (envOf o s a cl) s1 = (s2, .wait)) (ha : acting s1 a = true) :
    runLanes o s fn ready = .next (stepWaits o a cl s2) := by
  rw [runLanes_alone h ready none hr, stepAgent_wait h hf ha]; rfl

/-- A step whose meaning faults: nothing of the step stands, and the fault is taken. -/
theorem alone_fault (h : Alone o s a cl) (ready : Env → State → State × Bool)
    (hr : ready (envOf o s a cl) s = (s1, true)) {y : Why}
    (hf : fn [envOf o s a cl] (envOf o s a cl) s1 = (s2, .fault y)) (ha : acting s1 a = true) :
    runLanes o s fn ready = .next (stepWaits o a cl (s1.takeFault a y)) := by
  rw [runLanes_alone h ready none hr, stepAgent_fault h hf ha]; rfl

/-- A computing step of one agent. -/
theorem runAlu_alone (h : Alone o s a cl) (g : F2 → Nat → Nat → Nat → Nat × FlagSet) :
    runAlu o s g = .next (stepDone o a cl s
      (let v := envOf o s a cl
       let x := g v.f v.a v.b v.c
       let y := if v.prot then g v.f v.a' v.b' v.c' else (0, 0)
       .ok x.1 y.1 x.2 y.2)) :=
  alone_ok h _ _ rfl rfl h.acts h.near

/-! A gang that computes -/

theorem insert_insert {α : Type} (m : SMap α) (k : Nat) (u v : α) : SMap.insert (SMap.insert m k u) k v = SMap.insert m k v := by
  induction m with
  | nil => simp [SMap.insert]
  | cons e m ih =>
    simp only [SMap.insert]
    split
    · simp [SMap.insert]
    · split
      · simp [SMap.insert]
      · next h1 h2 => simp [SMap.insert, h1, h2, ih]

/-- Two updates of one team. -/
theorem setTeam_setTeam (s : State) (t : Nat) (x y : Team) : (s.setTeam t x).setTeam t y = s.setTeam t y := by
  simp only [State.setTeam, insert_insert]

/-- A computing lane retires: only its own lane changes, and what is recorded of bad registers. -/
theorem retire_lane (s : State) (t lit : Nat) (v : Env) (x y : Nat × FlagSet) (hp : v.prot = protOf s (.lane t lit)) :
    ∃ B, retire s (.lane t lit) v.e v.f (.ok x.1 y.1 x.2 y.2) =
      s.setTeam t { s.team t with bad := B, lanes := (s.team t).lanes.set lit ((s.lane t lit).computed v x y) } := by
  have hm : ∀ s' : State, (∃ B, s' = s ∨ s' = s.setTeam t { s.team t with bad := B }) →
      ∃ B, s'.modLaneOf (.lane t lit) (fun l =>
          let l := l.writeOpd false v.f.d v.e.dw x.1
          let l := if protOf s (.lane t lit) then l.writeOpd true v.f.d v.e.dw y.1 else l
          { l with flags := FlagSet.join l.flags x.2, sflags := FlagSet.join l.sflags y.2, dist := l.dist + 1,
                   skipWatch := false, stepReq := false, woken := if isBlocking v.e then none else l.woken }) =
        s.setTeam t { s.team t with bad := B, lanes := (s.team t).lanes.set lit ((s.lane t lit).computed v x y) } := by
    rintro s' ⟨B, rfl | rfl⟩
    · refine ⟨(s'.team t).bad, ?_⟩
      rw [← hp]
      rfl
    · refine ⟨B, ?_⟩
      rw [← hp]
      simp only [State.modLaneOf, State.modLane_eq, State.modTeam_eq, setTeam_setTeam, State.team_setTeam]
      rfl
  have hc : ∃ B, cleanRegs s (.lane t lit) v.f.d v.e.dw = s ∨
      cleanRegs s (.lane t lit) v.f.d v.e.dw = s.setTeam t { s.team t with bad := B } := by
    cases hd : v.f.d with
    | reg n =>
      simp only [cleanRegs]
      split
      · exact ⟨[], .inl rfl⟩
      · exact ⟨_, .inr rfl⟩
    | special k => exact ⟨[], .inl rfl⟩
    | latch k => exact ⟨[], .inl rfl⟩
  exact hm _ hc

theorem OnlyLanes.refl (T : Nat) (s : State) : OnlyLanes T s s :=
  ⟨⟨_, _, _, rfl⟩, fun _ _ => rfl, ⟨_, _, rfl⟩, fun _ => ⟨_, rfl⟩⟩

theorem OnlyLanes.trans {T : Nat} {s t u : State} (h : OnlyLanes T s t) (k : OnlyLanes T t u) : OnlyLanes T s u := by
  obtain ⟨B, L, hl⟩ := h.own
  obtain ⟨B', L', hl'⟩ := k.own
  obtain ⟨a, b, c, e⟩ := h.rest
  obtain ⟨a', b', c', e'⟩ := k.rest
  refine ⟨⟨a', b', c', by rw [e', e]⟩, fun v hv => (k.others v hv).trans (h.others v hv), ⟨B', L', by rw [hl', hl]⟩, fun w => ?_⟩
  obtain ⟨m, hm⟩ := h.worlds w
  obtain ⟨m', hm'⟩ := k.worlds w
  exact ⟨m', by rw [hm', hm]⟩

theorem OnlyLanes.cur {T : Nat} {s t : State} (h : OnlyLanes T s t) : t.cur = s.cur := by
  obtain ⟨a, b, c, e⟩ := h.rest; rw [e]
theorem OnlyLanes.launches {T : Nat} {s t : State} (h : OnlyLanes T s t) : t.launches = s.launches := by
  obtain ⟨a, b, c, e⟩ := h.rest; rw [e]

theorem OnlyLanes.bytes {T : Nat} {s t : State} (h : OnlyLanes T s t) (sp : Space) : t.bytesOf sp = s.bytesOf sp := by
  obtain ⟨a, b, c, e⟩ := h.rest
  have ht : ∀ u, (t.team u).scratch = (s.team u).scratch ∧ (t.team u).acc = (s.team u).acc := by
    intro u
    by_cases hu : u = T
    · subst hu
      obtain ⟨B, L, hl⟩ := h.own
      rw [hl]; exact ⟨rfl, rfl⟩
    · rw [h.others u hu]; exact ⟨rfl, rfl⟩
  have hw : ∀ w, (t.world w).window = (s.world w).window ∧ (t.world w).prog = (s.world w).prog := by
    intro w
    obtain ⟨m, hm⟩ := h.worlds w
    rw [hm]; exact ⟨rfl, rfl⟩
  cases sp with
  | hbm => rw [e]; rfl
  | host => rw [e]; rfl
  | window w => exact (hw w).1
  | scratch u => exact (ht u).1
  | acc u => exact (ht u).2
  | priv w => exact congrArg Prog.priv (hw w).2

theorem OnlyLanes.sameMemory {T : Nat} {s t : State} (h : OnlyLanes T s t) : SameMemory s t :=
  fun sp a => congrArg (fun m => SMap.get unlisted m a) (h.bytes sp)

/-- A new set of lanes for a team. -/
theorem OnlyLanes.of_setTeam (s : State) (T : Nat) (B : List (Nat × Nat × Bool)) (L : List Lane) :
    OnlyLanes T s (s.setTeam T { s.team T with bad := B, lanes := L }) :=
  ⟨⟨_, _, _, rfl⟩, fun u hu => by simp [State.team_setTeam_ne, hu], ⟨B, L, by simp⟩, fun _ => ⟨_, rfl⟩⟩

theorem OnlyLanes.modLane (s : State) (T j : Nat) (f : Lane → Lane) : OnlyLanes T s (s.modLane T j f) :=
  OnlyLanes.of_setTeam s T (s.team T).bad _

theorem OnlyLanes.setGangs (s : State) (T : Nat) (G : SMap Gang) : OnlyLanes T s { s with gangs := G } :=
  ⟨⟨_, _, _, rfl⟩, fun _ _ => rfl, ⟨_, _, rfl⟩, fun _ => ⟨_, rfl⟩⟩

theorem OnlyLanes.launchOf {T : Nat} {s t : State} (h : OnlyLanes T s t) : t.launchOf T = s.launchOf T := by
  obtain ⟨B, L, hl⟩ := h.own
  simp only [State.launchOf, State.launch, h.launches, hl]

/-- A lane of the team that still stands as it stood: the checks before its step answer alike. -/
theorem OnlyLanes.same {T : Nat} {s t : State} (h : OnlyLanes T s t) (j : Nat) (hj : t.lane T j = s.lane T j) :
    acting t (.lane T j) = acting s (.lane T j) ∧ tooFar t (.lane T j) = tooFar s (.lane T j) ∧
      protOf t (.lane T j) = protOf s (.lane T j) := by
  obtain ⟨B, L, hl⟩ := h.own
  have hst : (t.team T).st = (s.team T).st := by rw [hl]
  have hr : (t.team T).rollback = (s.team T).rollback := by rw [hl]
  simp only [acting, tooFar, protOf, h.launchOf, hj, hst, hr, and_self]

theorem lane_in_range (s : State) (T j : Nat) (h : acting s (.lane T j) = true) : j < (s.team T).lanes.length := by
  refine Nat.lt_of_not_le fun hn => ?_
  simp only [acting, State.lane, List.getD_eq_getElem?_getD, List.getElem?_eq_none hn] at h
  simp at h

/-- A lane after an update of lane j. -/
theorem getD_set (L : List Lane) (j k : Nat) (l d : Lane) (h : j < L.length) :
    (L.set j l).getD k d = if k = j then l else L.getD k d := by
  simp only [List.getD_eq_getElem?_getD, List.getElem?_set]
  by_cases hk : j = k
  · subst hk; simp [h]
  · have hk' : ¬k = j := fun e => hk e.symm
    simp [hk, hk']

/-- A meaning that computes from the registers alone. -/
def pureFn (h : List Env → Env → (Nat × FlagSet) × (Nat × FlagSet)) : LaneFn :=
  fun envs v s => (s, .ok (h envs v).1.1 (h envs v).2.1 (h envs v).1.2 (h envs v).2.2)

/-- One lane of a gang computes. -/
theorem stepAgent_pure {o : Op} {cl : Clause} {envs : List Env} {s0 s : State} {T j : Nat}
    (g : List Env → Env → (Nat × FlagSet) × (Nat × FlagSet)) (js : List (Agent × Nat))
    (ho : OnlyLanes T s0 s) (hl : s.lane T j = s0.lane T j) (ha : acting s0 (.lane T j) = true)
    (hc : preFault o s0 (.lane T j) cl = none) (hn : tooFar s0 (.lane T j) = false) :
    let v := envOf o s0 (.lane T j) cl
    let l := (s0.lane T j).computed v (g envs v).1 (g envs v).2
    ∃ t, stepAgent o cl envs (pureFn g) s0 (s, js) (.lane T j) = (t, js) ∧
      OnlyLanes T s0 t ∧ t.gangs = s.gangs ∧ t.lane T j = l ∧ ∀ k, k ≠ j → t.lane T k = s.lane T k := by
  intro v l
  obtain ⟨e1, e2, e3⟩ := ho.same j hl
  have hp : v.prot = protOf s (.lane T j) := e3.symm
  obtain ⟨B, hB⟩ := retire_lane s T j v (g envs v).1 (g envs v).2 hp
  refine ⟨_, ?_, ho.trans (OnlyLanes.of_setTeam s T B ((s.team T).lanes.set j ((s.lane T j).computed v (g envs v).1 (g envs v).2))), rfl, ?_, ?_⟩
  · rw [← hB]
    simp only [stepAgent, e1, ha, hc, e2, hn]
    rfl
  · have hr : j < (s.team T).lanes.length := lane_in_range s T j (by rw [e1]; exact ha)
    simp only [State.lane, State.team_setTeam, getD_set _ _ _ _ _ hr, if_true]
    rw [← State.lane, hl]
  · intro k hk
    have hr : j < (s.team T).lanes.length := lane_in_range s T j (by rw [e1]; exact ha)
    simp only [State.lane, State.team_setTeam, getD_set _ _ _ _ _ hr, if_neg hk]

/-- The lanes of a gang compute one after another; none sees another's result. -/
theorem foldl_pure {o : Op} {cl : Clause} {envs : List Env} {s0 : State} {T : Nat}
    (g : List Env → Env → (Nat × FlagSet) × (Nat × FlagSet)) (js : List (Agent × Nat)) (lits : List Nat) :
    ∀ s : State, OnlyLanes T s0 s → lits.Nodup → (∀ j ∈ lits, s.lane T j = s0.lane T j) →
    (∀ j ∈ lits, acting s0 (.lane T j) = true) → (∀ j ∈ lits, preFault o s0 (.lane T j) cl = none) →
    (∀ j ∈ lits, tooFar s0 (.lane T j) = false) →
    ∃ t, (lits.map (Agent.lane T)).foldl (stepAgent o cl envs (pureFn g) s0) (s, js) = (t, js) ∧
      OnlyLanes T s0 t ∧ t.gangs = s.gangs ∧
      (∀ j ∈ lits,
        let v := envOf o s0 (.lane T j) cl
        t.lane T j = (s0.lane T j).computed v (g envs v).1 (g envs v).2) ∧
      ∀ k, k ∉ lits → t.lane T k = s.lane T k := by
  induction lits with
  | nil => intro s ho _ _ _ _ _; exact ⟨s, rfl, ho, rfl, by simp, fun _ _ => rfl⟩
  | cons j lits ih =>
    intro s ho hd hl ha hc hn
    obtain ⟨t, e, ho', eg, e1, e2⟩ := stepAgent_pure (envs := envs) g js ho (hl j (by simp)) (ha j (by simp)) (hc j (by simp)) (hn j (by simp))
    have hd' := List.nodup_cons.1 hd
    obtain ⟨u, f, ho'', fg, f1, f2⟩ := ih t ho' hd'.2
      (fun k hk => (e2 k (fun h => hd'.1 (h ▸ hk))).trans (hl k (by simp [hk])))
      (fun k hk => ha k (by simp [hk])) (fun k hk => hc k (by simp [hk])) (fun k hk => hn k (by simp [hk]))
    refine ⟨u, ?_, ho'', fg.trans eg, ?_, ?_⟩
    · rw [List.map_cons, List.foldl_cons, e]; exact f
    · intro k hk
      rcases List.mem_cons.1 hk with rfl | hk
      · intro v
        rw [f2 k hd'.1, e1]
      · exact f1 k hk
    · intro k hk
      rw [List.mem_cons, not_or] at hk
      rw [f2 k hk.2, e2 k hk.1]

/-- A lane only moves. -/
theorem Moved.refl (l : Lane) : Moved l l := ⟨_, _, _, _, _, _, _, _, rfl⟩
theorem Moved.trans {l m n : Lane} (h : Moved l m) (k : Moved m n) : Moved l n := by
  obtain ⟨a, b, c, d, e, f, g, i, rfl⟩ := h
  obtain ⟨a', b', c', d', e', f', g', i', rfl⟩ := k
  exact ⟨a', b', c', d', e', f', g', i', rfl⟩

/-- A result leaves the lane's state, and whether it has issued already. -/
theorem Lane.writeOpd_st (l : Lane) (sh : Bool) (o : Opd) (w v : Nat) : (l.writeOpd sh o w v).st = l.st := by
  unfold Lane.writeOpd; cases o <;> cases sh <;> rfl
theorem Lane.computed_st (l : Lane) (v : Env) (x y : Nat × FlagSet) : (l.computed v x y).st = l.st := by
  unfold Lane.computed; cases v.prot <;> simp [Lane.writeOpd_st]

/-- Updates of some lanes that only move them. -/
theorem foldl_moves (T : Nat) (f : Nat → Lane → Lane) (hf : ∀ j l, Moved l (f j l)) (lits : List Nat) :
    ∀ s : State, OnlyLanes T s (lits.foldl (fun s j => s.modLane T j (f j)) s) ∧
      (∀ k, Moved (s.lane T k) ((lits.foldl (fun s j => s.modLane T j (f j)) s).lane T k)) ∧
      ∀ k, k ∉ lits → (lits.foldl (fun s j => s.modLane T j (f j)) s).lane T k = s.lane T k := by
  induction lits with
  | nil => intro s; exact ⟨.refl T s, fun _ => .refl _, fun _ _ => rfl⟩
  | cons j lits ih =>
    intro s
    obtain ⟨h1, h2, h3⟩ := ih (s.modLane T j (f j))
    have hm : ∀ k, Moved (s.lane T k) ((s.modLane T j (f j)).lane T k) := by
      intro k
      by_cases hr : j < (s.team T).lanes.length
      · by_cases hk : k = j
        · subst hk
          simp only [State.modLane, State.modTeam, State.lane, State.team_setTeam, getD_set _ _ _ _ _ hr, if_true]
          exact hf _ _
        · simp only [State.modLane, State.modTeam, State.lane, State.team_setTeam, getD_set _ _ _ _ _ hr, if_neg hk]
          exact .refl _
      · simp only [State.modLane, State.modTeam, State.lane, State.team_setTeam, List.set_eq_of_length_le (Nat.le_of_not_lt hr)]
        exact .refl _
    refine ⟨(OnlyLanes.modLane s T j (f j)).trans h1, fun k => (hm k).trans (h2 k), fun k hk => ?_⟩
    rw [List.mem_cons, not_or] at hk
    simp only [List.foldl_cons]
    rw [h3 k hk.2]
    by_cases hr : j < (s.team T).lanes.length
    · simp only [State.modLane, State.modTeam, State.lane, State.team_setTeam, getD_set _ _ _ _ _ hr, if_neg hk.1]
    · simp only [State.modLane, State.modTeam, State.lane, State.team_setTeam, List.set_eq_of_length_le (Nat.le_of_not_lt hr)]

/-- An update of one lane, as another lane or the same sees it. -/
theorem lane_modLane (s : State) (t i j : Nat) (f : Lane → Lane) :
    (s.modLane t i f).lane t j = if j = i ∧ i < (s.team t).lanes.length then f (s.lane t j) else s.lane t j := by
  by_cases hr : i < (s.team t).lanes.length
  · by_cases hk : j = i
    · subst hk
      rw [if_pos ⟨rfl, hr⟩]
      simp only [State.modLane, State.modTeam, State.lane, State.team_setTeam, getD_set _ _ _ _ _ hr, if_true]
    · rw [if_neg fun h => hk h.1]
      simp only [State.modLane, State.modTeam, State.lane, State.team_setTeam, getD_set _ _ _ _ _ hr, if_neg hk]
  · rw [if_neg fun h => hr h.2]
    simp only [State.modLane, State.modTeam, State.lane, State.team_setTeam, List.set_eq_of_length_le (Nat.le_of_not_lt hr)]

/-- The release of a JOIN touches a lane outside it in passJ alone (R213). -/
theorem checkJoin_lane (s : State) (t k j : Nat) (h : (s.lane t j).st ≠ .join) :
    ∃ p, (s.checkJoin t k).lane t j = { s.lane t j with passJ := p } := by
  suffices H : ∀ (ls : List Nat) (s : State) (f : Nat → Lane → Lane), (∀ c l, l.st ≠ .join → ∃ p, f c l = { l with passJ := p }) →
      (s.lane t j).st ≠ .join →
      ∃ p, (ls.foldl (fun s lit => s.modLane t lit (f s.cycle)) s).lane t j = { s.lane t j with passJ := p } by
    unfold State.checkJoin
    dsimp only
    split
    · exact ⟨_, rfl⟩
    · split
      · exact H _ _ (fun c l => if l.st = .join then { l with st := .ready, readyAt := c, passJ := true } else { l with passJ := true })
          (fun c l hl => ⟨true, if_neg hl⟩) h
      · exact ⟨_, rfl⟩
  intro ls
  induction ls with
  | nil => intro s f _ _; exact ⟨_, rfl⟩
  | cons i ls ih =>
    intro s f hf hs
    obtain ⟨p, e⟩ : ∃ p, (s.modLane t i (f s.cycle)).lane t j = { s.lane t j with passJ := p } := by
      rw [lane_modLane]
      split
      · exact hf _ _ hs
      · exact ⟨_, rfl⟩
    obtain ⟨q, g⟩ := ih _ f hf (by rw [e]; exact hs)
    exact ⟨q, by rw [List.foldl_cons, g, e]⟩

/-- The lanes that a free channel wakes stand in TOKEN: every other lane stays as it is (R361). -/
theorem wakeStalled_team (s : State) (w t : Nat) : ∃ f : Lane → Lane, (∀ l, l.st ≠ .token → f l = l) ∧
    (s.wakeStalled w).team t = { s.team t with lanes := (s.team t).lanes.map f } := by
  have h := SMap.get_map (α := Team) { launch := 0, index := 0, rank := 0, cluster := 0, core := 0, st := .gone } s.teams
    (fun (x : Team) => if (s.launch x.launch).world = w then
      { x with lanes := x.lanes.map fun (l : Lane) => if l.st = LaneSt.token && l.inClause then { l with st := LaneSt.ready, readyAt := s.cycle } else l }
      else x) (by split <;> rfl) t
  have h' : (s.wakeStalled w).team t = _ := h
  rw [h']
  split
  · exact ⟨_, fun l hl => if_neg (by simp [hl]), rfl⟩
  · exact ⟨id, fun _ _ => rfl, by rw [List.map_id]; rfl⟩

theorem wakeStalled_lane (s : State) (w t j : Nat) (h : (s.lane t j).st ≠ .token) : (s.wakeStalled w).lane t j = s.lane t j := by
  obtain ⟨f, h1, h2⟩ := wakeStalled_team s w t
  show ((s.wakeStalled w).team t).lanes.getD j _ = _
  rw [h2]
  show ((s.team t).lanes.map f).getD j _ = (s.team t).lanes.getD j _
  have hj : ((s.team t).lanes.getD j { st := .exited }).st ≠ .token := h
  simp only [List.getD_eq_getElem?_getD, List.getElem?_map] at hj ⊢
  cases hq : (s.team t).lanes[j]? with
  | none => rfl
  | some l => rw [hq] at hj; exact h1 l hj

/-- Metering counts, and changes nothing else. -/
theorem OnlyLanes.meter (T : Nat) (s : State) (w k n : Nat) : OnlyLanes T s (s.meter w k n) := by
  refine ⟨⟨_, _, _, rfl⟩, fun _ _ => rfl, ⟨_, _, rfl⟩, fun v => ?_⟩
  by_cases h : v = w
  · subst h
    exact ⟨((s.world v).meter.put 0 k (((s.world v).meter.get 0 k + n) % 2 ^ 64)), by simp [State.meter, State.modWorld]⟩
  · exact ⟨(s.world v).meter, by simp [State.meter, State.modWorld, State.world_setWorld_ne, h]⟩

/-- The step of a gang that computes from its registers. -/
theorem runPure_gang {o : Op} {s : State} {k : Nat} {x : Gang} (h : GangRuns o s k x)
    (g : List Env → Env → (Nat × FlagSet) × (Nat × FlagSet)) :
    ∃ t, runLanes o s (pureFn g) = .next t ∧
    (∀ lit ∈ x.lanes,
      let v := envOf o s (.lane x.team lit) x.clause
      let r := g (gangEnvs o s x) v
      Moved ((s.lane x.team lit).computed v r.1 r.2) (t.lane x.team lit)) ∧
    (∀ lit, lit ∉ x.lanes → t.lane x.team lit = s.lane x.team lit) ∧ OnlyLanes x.team s t ∧ SameMemory s t := by
  have hag : agentsOf s = some (x.lanes.map (Agent.lane x.team), x.clause) := by simp [agentsOf, h.cur, h.gang]
  have hh : ∀ ls : List Nat, (∀ j ∈ ls, (s.lane x.team j).haltReq = false) →
      (ls.map (Agent.lane x.team)).foldl haltAtBoundary s = s := by
    intro ls
    induction ls with
    | nil => intro _; rfl
    | cons j ls ih =>
      intro hj
      rw [List.map_cons, List.foldl_cons, haltAtBoundary_of s (.lane x.team j) (hj j (by simp))]
      exact ih fun k hk => hj k (by simp [hk])
  have ha : (x.lanes.map (Agent.lane x.team)).filter (acting s) = x.lanes.map (Agent.lane x.team) :=
    List.filter_eq_self.2 fun a ha => by obtain ⟨j, hj, rfl⟩ := List.mem_map.1 ha; exact h.acts j hj
  have hc : (x.lanes.map (Agent.lane x.team)).filter (fun a => (preFault o s a x.clause).isNone) = x.lanes.map (Agent.lane x.team) :=
    List.filter_eq_self.2 fun a ha => by obtain ⟨j, hj, rfl⟩ := List.mem_map.1 ha; rw [h.clean j hj]; rfl
  have hne : (x.lanes.map (Agent.lane x.team)).isEmpty = false := by
    cases hx : x.lanes with
    | nil => exact absurd hx h.inhabited
    | cons j ls => rfl
  have henv : (x.lanes.map (Agent.lane x.team)).map (fun a => envOf o s a x.clause) = gangEnvs o s x := by
    simp [gangEnvs, List.map_map]
  obtain ⟨t, e, ho, hgs, h1, h2⟩ := foldl_pure (o := o) (cl := x.clause) (envs := gangEnvs o s x)
    g [] x.lanes s (.refl _ s) h.distinct (fun _ _ => rfl) h.acts h.clean h.near
  have hready : ∀ (vs : List Env), vs.foldl (fun (acc : State × Bool) (_ : Env) => (acc.1, acc.2 && true)) (s, true) = (s, true) := by
    intro vs
    induction vs with
    | nil => rfl
    | cons _ vs ih => exact ih
  refine ⟨advance (countIssue t (x.lanes.map (Agent.lane x.team))) (x.clause.advance o.len none) [], ?_, ?_⟩
  · unfold runLanes
    rw [hag]
    simp only [h.cls, if_false, hh x.lanes h.noHalt, ha, hne, Bool.false_eq_true]
    rw [hready]
    simp only [Bool.not_true, Bool.false_eq_true, if_false, hc, henv]
    rw [e]
  · -- the counters and the places in the code
    have hci : OnlyLanes x.team t (countIssue t (x.lanes.map (Agent.lane x.team))) := by
      cases hx : x.lanes with
      | nil => exact absurd hx h.inhabited
      | cons j ls => exact OnlyLanes.meter _ _ _ _ _
    have hcg : (countIssue t (x.lanes.map (Agent.lane x.team))).gangs = s.gangs := by
      cases hx : x.lanes with
      | nil => exact absurd hx h.inhabited
      | cons j ls => exact hgs
    have hcl : ∀ j, (countIssue t (x.lanes.map (Agent.lane x.team))).lane x.team j = t.lane x.team j := by
      intro j
      cases hx : x.lanes with
      | nil => exact absurd hx h.inhabited
      | cons j ls => rfl
    generalize countIssue t (x.lanes.map (Agent.lane x.team)) = c at hci hcl hcg
    have hoc := ho.trans hci
    have hg : c.cur = some (.gang k) := hoc.cur.trans h.cur
    have hgang : c.gang k = some x := by rw [State.gang, hcg]; exact h.gang
    let ready := if x.yields || (x.clause.advance o.len none).yield then c.cycle + 1 else x.age
    let cl := x.clause.advance o.len none
    let mv := fun (lit : Nat) (l : Lane) =>
        if cl.over then { l with pc := targetOf [] (.lane x.team lit) (cl.at cl.pos), inClause := false, rep := none,
                                 passJ := false, readyAt := ready, since := c.cycle, displaced := false, issued := false,
                                 primer := if ([] : List (Agent × Nat)).any fun j => j.1 == Agent.lane x.team lit && l.primer == some j.2 then none else l.primer }
        else { l with pc := cl.at cl.pos, rep := cl.rep, displaced := l.displaced && cl.rep.any fun r => r.idx != 0, issued := false }
    obtain ⟨m1, m2, m3⟩ := foldl_moves x.team mv
      (fun j l => by dsimp only [mv]; split <;> exact ⟨_, _, _, _, _, _, _, _, rfl⟩) x.lanes c
    have htok : (x.lanes.any fun lit => (c.lane x.team lit).st == .token) = false := by
      rw [List.any_eq_false]
      intro lit hlit
      have hst : (s.lane x.team lit).st = .ready := by
        have := h.acts lit hlit
        simp only [acting, Bool.and_eq_true, beq_iff_eq] at this
        exact this.1.2
      rw [hcl, h1 lit hlit, Lane.computed_st, hst]
      decide
    have hadv : ∃ G, advance c cl [] = { x.lanes.foldl (fun s lit => s.modLane x.team lit (mv lit)) c with gangs := G } := by
      simp only [advance, hg, hgang, htok, Bool.false_eq_true, if_false]
      by_cases hov : cl.over
      · simp only [hov, if_true, mv]; exact ⟨_, rfl⟩
      · simp only [hov, mv]; exact ⟨_, rfl⟩
    obtain ⟨G, hG⟩ := hadv
    show _ ∧ _
    rw [show x.clause.advance o.len none = cl from rfl, hG]
    have hall := (hoc.trans m1).trans (OnlyLanes.setGangs _ _ G)
    refine ⟨fun lit hlit => ?_, ?_, hall, hall.sameMemory⟩
    · intro v r
      have := m2 lit
      rw [hcl, h1 lit hlit] at this
      exact this
    · intro j hj
      exact (m3 j hj).trans ((hcl j).trans (h2 j hj))

theorem runAlu_eq (o : Op) (s : State) (g : F2 → Nat → Nat → Nat → Nat × FlagSet) :
    runAlu o s g = runLanes o s (pureFn fun _ v => (g v.f v.a v.b v.c, if v.prot then g v.f v.a' v.b' v.c' else (0, 0))) := rfl

/-! The sequencer -/

theorem runSeq_of {o : Op} {s : State} {t : Nat} {cl : Clause} (h : SeqRuns o s t cl) (fn : SeqEnv → State → State × Res)
    {s1 : State} {r : Res} (hf : fn (seqEnvOf o s t cl) s = (s1, r)) :
    runSeq o s fn = .next (match r with
      | .fault y => s.takeFault (.seq t) y
      | .trouble e flags va => s.takeTrouble (.seq t) e flags va
      | .wait => s1
      | .jump pc => seqDone o t (s.launchOf t).world cl s1 (.jump pc)
      | .ok d d' fl fl' => seqDone o t (s.launchOf t).world cl s1 (.ok d d' fl fl')) := by
  have hcls : (o.e.cls != 5 && o.e.cls != 7) = false := by rcases h.cls with e | e <;> rw [e] <;> rfl
  have hn : ¬ (s.launchOf t).desc.dist < (s.seqOf t).dist + 1 := Nat.not_lt.2 h.near
  unfold runSeq
  rw [h.cur]
  simp only [h.clause, h.noHalt, h.clean]
  have hcls' : ¬ ((o.e.cls ≠ 5 && o.e.cls ≠ 7) = true) := by rcases h.cls with e | e <;> simp [e]
  simp only [hcls', if_false, Bool.false_eq_true, Bool.not_true]
  unfold seqEnvOf at hf
  simp only [hf]
  cases r <;> simp only [hn, if_false] <;> rfl

/-! Statements of completion from the runner that a meaning calls -/

theorem combines_of {i : Instr} {g : List Env → Env → (Nat × FlagSet) × (Nat × FlagSet)}
    (he : ∀ s, Machine.exec i s = runLanes (issueOp i) s (pureFn g)) : Combines i g := by
  intro s k x h
  rw [he]
  exact runPure_gang h g

theorem computes_of {i : Instr} {g : F2 → Nat → Nat → Nat → Nat × FlagSet}
    (he : ∀ s, Machine.exec i s = runAlu (issueOp i) s g) : Computes i g :=
  combines_of fun s => (he s).trans (runAlu_eq _ s g)

/-- The step of an agent that executes alone, by the result of its meaning. -/
theorem runLanes_step {o : Op} {s : State} {a : Agent} {cl : Clause} {fn : LaneFn} (h : Alone o s a cl)
    (ready : Env → State → State × Bool) (opens : Option Rep) (hr : ready (envOf o s a cl) s = (s, true)) :
    runLanes o s fn ready opens = .next (match fn [envOf o s a cl] (envOf o s a cl) s with
      | (s2, .ok d d' fl fl') => stepDone o a cl s2 (.ok d d' fl fl') opens
      | (s2, .jump pc) => stepDone o a cl s2 (.jump pc) opens
      | (_, .fault y) => advance (countIssue (s.takeFault a y) [a]) (cl.advance o.len opens) []
      | (_, .trouble e flags va) => advance (countIssue (s.takeTrouble a e flags va) [a]) (cl.advance o.len opens) []
      | (s2, .wait) => advance (countIssue s2 [a]) (cl.advance o.len opens) []) := by
  rw [runLanes_alone h ready opens hr]
  rcases hf : fn [envOf o s a cl] (envOf o s a cl) s with ⟨s2, r⟩
  cases r with
  | ok d d' fl fl' => rw [stepAgent_ok h hf h.acts h.near]; rfl
  | jump pc => rw [stepAgent_jump h hf h.acts h.near]; rfl
  | fault y => rw [stepAgent_fault h hf h.acts]
  | trouble e flags va => rw [stepAgent_trouble h hf h.acts]
  | wait => rw [stepAgent_wait h hf h.acts]

/-- A result that retires. -/
def Res.retires : Res → Bool
  | .ok _ _ _ _ | .jump _ => true
  | _ => false

theorem completes_of {i : Instr} {P : Env → State → Prop} {Q : Env → State → State × Res} {fn : LaneFn}
    {ready : Env → State → State × Bool} (he : ∀ s, Machine.exec i s = runLanes (issueOp i) s fn ready)
    (hr : ∀ s a cl, Alone (issueOp i) s a cl → P (envOf (issueOp i) s a cl) s → ready (envOf (issueOp i) s a cl) s = (s, true))
    (hq : ∀ s a cl, Alone (issueOp i) s a cl → P (envOf (issueOp i) s a cl) s →
      fn [envOf (issueOp i) s a cl] (envOf (issueOp i) s a cl) s = Q (envOf (issueOp i) s a cl) s ∧
        (Q (envOf (issueOp i) s a cl) s).2.retires = true) : Completes i P Q := by
  intro s a cl h hp
  obtain ⟨h1, h2⟩ := hq s a cl h hp
  rw [he, runLanes_step h ready none (hr s a cl h hp), h1]
  rcases hQ : Q (envOf (issueOp i) s a cl) s with ⟨s2, r⟩
  rw [hQ] at h2
  cases r <;> first | rfl | cases h2

theorem faults_of {i : Instr} {P : Env → State → Prop} {y : Env → State → Why} {fn : LaneFn}
    {ready : Env → State → State × Bool} (he : ∀ s, Machine.exec i s = runLanes (issueOp i) s fn ready)
    (hr : ∀ s a cl, Alone (issueOp i) s a cl → P (envOf (issueOp i) s a cl) s → ready (envOf (issueOp i) s a cl) s = (s, true))
    (hq : ∀ s a cl, Alone (issueOp i) s a cl → P (envOf (issueOp i) s a cl) s →
      (fn [envOf (issueOp i) s a cl] (envOf (issueOp i) s a cl) s).2 = .fault (y (envOf (issueOp i) s a cl) s)) :
    Faults i P y := by
  intro s a cl h hp
  have h1 := hq s a cl h hp
  rw [he, runLanes_step h ready none (hr s a cl h hp)]
  rcases hQ : fn [envOf (issueOp i) s a cl] (envOf (issueOp i) s a cl) s with ⟨s2, r⟩
  rw [hQ] at h1
  cases r <;> first | (cases h1; rfl) | cases h1

theorem waits_of {i : Instr} {P : Env → State → Prop} {W : Env → State → State} {fn : LaneFn}
    {ready : Env → State → State × Bool} (he : ∀ s, Machine.exec i s = runLanes (issueOp i) s fn ready)
    (hr : ∀ s a cl, Alone (issueOp i) s a cl → P (envOf (issueOp i) s a cl) s → ready (envOf (issueOp i) s a cl) s = (s, true))
    (hq : ∀ s a cl, Alone (issueOp i) s a cl → P (envOf (issueOp i) s a cl) s →
      fn [envOf (issueOp i) s a cl] (envOf (issueOp i) s a cl) s = (W (envOf (issueOp i) s a cl) s, .wait)) :
    Waits i P W := by
  intro s a cl h hp
  rw [he, runLanes_step h ready none (hr s a cl h hp), hq s a cl h hp]
  rfl

theorem stalls_of {i : Instr} {P : Env → State → Prop} {W : Env → State → State} {fn : LaneFn}
    {ready : Env → State → State × Bool} (he : ∀ s, Machine.exec i s = runLanes (issueOp i) s fn ready)
    (hr : ∀ s a cl, Alone (issueOp i) s a cl → P (envOf (issueOp i) s a cl) s →
      ready (envOf (issueOp i) s a cl) s = (W (envOf (issueOp i) s a cl) s, false)) : Stalls i P W := by
  intro s a cl h hp
  rw [he, runLanes_stalls h ready none (hr s a cl h hp)]

theorem traps_of {i : Instr} {fn : LaneFn} {ready : Env → State → State × Bool} {opens : Option Rep} (hc : (issueOp i).e.cls ≠ 5)
    (he : ∀ s, Machine.exec i s = runLanes (issueOp i) s fn ready opens) (ho : ∀ cl : Clause, cl.advance (issueOp i).len opens = cl.advance (issueOp i).len none) :
    Traps i := by
  intro s a cl y hag hact hh hp
  have hf : [a].foldl haltAtBoundary s = s := haltAtBoundary_of s a hh
  rw [he]
  unfold runLanes
  rw [hag]
  simp only [hc, if_false, hf]
  simp [hact, hp, stepAgent, ho]
  rfl

/-- Both forms at once. -/
theorem completesBoth_of {i : F1 → Instr} {j : F2 → Instr} {P : Env → State → Prop} {Q : Env → State → State × Res} {fn : LaneFn}
    {ready : Env → State → State × Bool} (he : ∀ f s, Machine.exec (i f) s = runLanes (issueOp (i f)) s fn ready)
    (he' : ∀ f s, Machine.exec (j f) s = runLanes (issueOp (j f)) s fn ready)
    (hr : ∀ v s, P v s → ready v s = (s, true))
    (hq : ∀ E v s, P v s → fn E v s = Q v s ∧ (Q v s).2.retires = true) : CompletesBoth i j P Q :=
  ⟨fun f => completes_of (he f) (fun _ _ _ _ hp => hr _ _ hp) fun _ _ _ _ hp => hq _ _ _ hp,
   fun f => completes_of (he' f) (fun _ _ _ _ hp => hr _ _ hp) fun _ _ _ _ hp => hq _ _ _ hp⟩

theorem faultsBoth_of {i : F1 → Instr} {j : F2 → Instr} {P : Env → State → Prop} {y : Env → State → Why} {fn : LaneFn}
    {ready : Env → State → State × Bool} (he : ∀ f s, Machine.exec (i f) s = runLanes (issueOp (i f)) s fn ready)
    (he' : ∀ f s, Machine.exec (j f) s = runLanes (issueOp (j f)) s fn ready)
    (hr : ∀ v s, P v s → ready v s = (s, true))
    (hq : ∀ E v s, P v s → (fn E v s).2 = .fault (y v s)) : FaultsBoth i j P y :=
  ⟨fun f => faults_of (he f) (fun _ _ _ _ hp => hr _ _ hp) fun _ _ _ _ hp => hq _ _ _ hp,
   fun f => faults_of (he' f) (fun _ _ _ _ hp => hr _ _ hp) fun _ _ _ _ hp => hq _ _ _ hp⟩

theorem seqCompletes_of {i : Instr} {P : SeqEnv → State → Prop} {Q : SeqEnv → State → State × Res}
    {fn : SeqEnv → State → State × Res} (he : ∀ s t, s.cur = some (.seq t) → Machine.exec i s = runSeq (issueOp i) s fn)
    (hq : ∀ s t cl, SeqRuns (issueOp i) s t cl → P (seqEnvOf (issueOp i) s t cl) s →
      fn (seqEnvOf (issueOp i) s t cl) s = Q (seqEnvOf (issueOp i) s t cl) s ∧
        (Q (seqEnvOf (issueOp i) s t cl) s).2.retires = true) : SeqCompletes i P Q := by
  intro s t cl h hp
  obtain ⟨h1, h2⟩ := hq s t cl h hp
  rw [he s t h.cur]
  rcases hQ : Q (seqEnvOf (issueOp i) s t cl) s with ⟨s2, r⟩
  rw [hQ] at h1 h2
  rw [runSeq_of h fn h1]
  cases r <;> first | rfl | cases h2

theorem seqWaits_of {i : Instr} {P : SeqEnv → State → Prop} {W : SeqEnv → State → State}
    {fn : SeqEnv → State → State × Res} (he : ∀ s t, s.cur = some (.seq t) → Machine.exec i s = runSeq (issueOp i) s fn)
    (hq : ∀ s t cl, SeqRuns (issueOp i) s t cl → P (seqEnvOf (issueOp i) s t cl) s →
      fn (seqEnvOf (issueOp i) s t cl) s = (W (seqEnvOf (issueOp i) s t cl) s, .wait)) : SeqWaits i P W := by
  intro s t cl h hp
  rw [he s t h.cur, runSeq_of h fn (hq s t cl h hp)]

theorem seqFaults_of {i : Instr} {P : SeqEnv → State → Prop} {y : SeqEnv → State → Why}
    {fn : SeqEnv → State → State × Res} (he : ∀ s t, s.cur = some (.seq t) → Machine.exec i s = runSeq (issueOp i) s fn)
    (hq : ∀ s t cl, SeqRuns (issueOp i) s t cl → P (seqEnvOf (issueOp i) s t cl) s →
      (fn (seqEnvOf (issueOp i) s t cl) s).2 = .fault (y (seqEnvOf (issueOp i) s t cl) s)) : SeqFaults i P y := by
  intro s t cl h hp
  have h1 := hq s t cl h hp
  rw [he s t h.cur]
  rcases hQ : fn (seqEnvOf (issueOp i) s t cl) s with ⟨s2, r⟩
  rw [hQ] at h1
  rw [runSeq_of h fn hQ]
  cases r <;> first | (cases h1; rfl) | cases h1

end Sys2Proof.Machine
end

