-- ==== Sys2Proof/Tests/Slice0.lean ====
section
/-! SUPPORT. Tests on fixed values, taken from the spec's worked examples and tables, and for each statement of
Certificates/Slice0/Obligations.lean a witness that its hypotheses can be met together. -/

namespace Sys2Proof.Tests
open Sys2Proof Sys2Proof.Machine

/-! Ill-formed instructions, one for each check of WellFormed -/

/-- A well-formed instruction, and one with every operand form. -/
theorem test_wf_good : (Instr.iadd ⟨.reg 8, .reg 16, .reg 24⟩).wf = true ∧
    (Instr.imad ⟨.latch 3, .reg 1, .latch 0, .special 5, ⟨.rotate, 3⟩, .idle, 2⟩).wf = true := by decide
/-- R166: an unused destination, source or modifier bit is idle. -/
theorem test_wf_unused : (Instr.nop ⟨.reg 0, .z, .z⟩).wf = false ∧ (Instr.nop ⟨.z, .reg 1, .z⟩).wf = false ∧
    (Instr.nop ⟨.z, .z, .latch 0⟩).wf = false ∧ (Instr.nopW2 ⟨.z, .z, .z, .reg 3, .idle, .idle, 0⟩).wf = false ∧
    (Instr.nopW2 ⟨.z, .z, .z, .z, .idle, .idle, 1⟩).wf = false := by decide
/-- R167: a pair starts at an even number. -/
theorem test_wf_pair : (Instr.iadd64 ⟨.reg 1, .reg 2, .reg 4⟩).wf = false ∧ (Instr.iadd64 ⟨.reg 2, .reg 3, .reg 4⟩).wf = false ∧
    (Instr.iadd64 ⟨.reg 2, .reg 2, .latch 1⟩).wf = false ∧ (Instr.iadd64 ⟨.reg 2, .reg 2, .reg 4⟩).wf = true := by decide
/-- R74: 0xF7 is no source, and z alone of the special codes is a destination. -/
theorem test_wf_special : (Instr.iadd ⟨.reg 0, .special 7, .z⟩).wf = false ∧ (Instr.iadd ⟨.special 1, .reg 0, .z⟩).wf = false ∧
    (Instr.iadd ⟨.z, .reg 0, .special 6⟩).wf = true := by decide
/-- R168: class 5 takes s0 to s31, z, 0xF3 and 0xF6. -/
theorem test_wf_class5 : (Instr.seqIadd ⟨.reg 32, .reg 0, .z⟩).wf = false ∧ (Instr.seqIadd ⟨.reg 0, .special 1, .z⟩).wf = false ∧
    (Instr.seqIadd ⟨.reg 0, .reg 1, .latch 0⟩).wf = false ∧ (Instr.seqIadd ⟨.reg 31, .special 3, .special 6⟩).wf = true := by decide
/-- R169, R170: a pattern stands on a source that takes one; code 00 has argument 0; a latch has none. -/
theorem test_wf_pattern : (Instr.iaddW2 ⟨.reg 0, .reg 1, .reg 2, .z, ⟨.own, 1⟩, .idle, 0⟩).wf = false ∧
    (Instr.iaddW2 ⟨.reg 0, .latch 1, .reg 2, .z, ⟨.rotate, 1⟩, .idle, 0⟩).wf = false ∧
    (Instr.ldW2 ⟨.reg 0, .reg 2, .reg 4, .z, ⟨.broadcast, 1⟩, .idle, 5⟩).wf = false ∧
    (Instr.notW2 ⟨.reg 0, .reg 2, .z, .z, .idle, ⟨.rotate, 1⟩, 0⟩).wf = false ∧
    (Instr.iaddW2 ⟨.reg 0, .reg 1, .reg 2, .z, ⟨.rotate, 1⟩, ⟨.exclusiveOr, 4⟩, 0⟩).wf = true := by decide
/-- R165: modifier values that an entry does not define. -/
theorem test_wf_modifier : (Instr.iaddW2 ⟨.reg 0, .reg 1, .reg 2, .z, .idle, .idle, 0x80⟩).wf = false ∧
    (Instr.icmpW2 ⟨.reg 0, .reg 1, .reg 2, .z, .idle, .idle, 0x0E⟩).wf = false ∧
    (Instr.atomW2 ⟨.reg 0, .reg 2, .reg 4, .z, .idle, .idle, 0x1F⟩).wf = false := by decide
/-- R172: a byte offset is a multiple of four. -/
theorem test_wf_literal : (Instr.braW2 2).wf = false ∧ (Instr.beq (.reg 0) (.reg 1) 6).wf = false ∧ (Instr.seqBeq (.reg 0) (.reg 1) 1).wf = false ∧
    (Instr.callW2 3).wf = false ∧ (Instr.seqBraW2 5).wf = false ∧ (Instr.braW2 8).wf = true := by decide
/-- Operations and events have no words. -/
theorem test_wf_event : Instr.commandDone.wf = false ∧ (Instr.sliceReady 0).wf = false := by decide

/-! Words written out from the encoding tables, and the instructions they stand for -/

theorem test_decode_control_integer : decodeWords 0 [0x00F0F0F0#32] = .ok (.nop ⟨.z, .z, .z⟩) ∧
    decodeWords 0 [0x80F0F0F0#32, 0xF0000000#32] = .ok (.nopW2 ⟨.z, .z, .z, .z, .idle, .idle, 0⟩) ∧
    decodeWords 0 [0x03F80004#32] = .ok (.movi (.latch 0) 4) ∧
    decodeWords 0 [0x83F8F0F0#32, 0x00000100#32] = .ok (.moviW2 (.latch 0) 0x100) ∧
    decodeWords 0 [0x902021F8#32, 0xF0810000#32] = .ok (.iaddW2 ⟨.reg 0x20, .reg 0x21, .latch 0, .z, ⟨.rotate, 1⟩, .idle, 0⟩) ∧
    decodeWords 0 [0xAA0B0103#32, 0x04000001#32] = .ok (.funnel ⟨.reg 11, .reg 1, .reg 3, .reg 4, .idle, .idle, 1⟩) ∧
    decodeWords 0 [0x300C0105#32] = .ok (.bfx ⟨.reg 12, .reg 1, .reg 5⟩) ∧
    decodeWords 0 [0xA50F0103#32, 0x020000D8#32] = .ok (.lop3 ⟨.reg 15, .reg 1, .reg 3, .reg 2, .idle, .idle, 0xD8⟩) ∧
    decodeWords 0 [0x821414F0#32, 0xF0C10000#32] = .ok (.movW2 ⟨.reg 20, .reg 20, .z, .z, ⟨.exclusiveOr, 1⟩, .idle, 0⟩) := by
  refine ⟨?_, ?_, ?_, ?_, ?_, ?_, ?_, ?_, ?_⟩ <;> rfl
theorem test_decode_float : decodeWords 0 [0xD3030001#32, 0x02000000#32] = .ok (.ffma ⟨.reg 3, .reg 0, .reg 1, .reg 2, .idle, .idle, 0⟩) ∧
    decodeWords 0 [0x52040001#32] = .ok (.fmul ⟨.reg 4, .reg 0, .reg 1⟩) ∧
    decodeWords 0 [0xF00706F0#32, 0xF00000A0#32] = .ok (.cvt ⟨.reg 7, .reg 6, .z, .z, .idle, .idle, 0xA0⟩) ∧
    decodeWords 0 [0xF1050102#32, 0xF8000020#32] = .ok (.cvtpk ⟨.reg 5, .reg 1, .reg 2, .latch 0, .idle, .idle, 0x20⟩) := by
  refine ⟨?_, ?_, ?_, ?_⟩ <;> rfl
theorem test_decode_lanes : decodeWords 1 [0x910A0408#32, 0xF0000040#32] = .ok (.scanW2 ⟨.reg 10, .reg 4, .reg 8, .z, .idle, .idle, 0x40⟩) ∧
    decodeWords 1 [0x130C0408#32] = .ok (.ballot ⟨.reg 12, .reg 4, .reg 8⟩) := by constructor <;> rfl
theorem test_decode_memory : decodeWords 2 [0x81F0080C#32, 0x0B000006#32] = .ok (.stW2 ⟨.z, .reg 8, .reg 12, .reg 11, .idle, .idle, 6⟩) ∧
    decodeWords 2 [0x900A0206#32, 0x08000000#32] = .ok (.atomW2 ⟨.reg 10, .reg 2, .reg 6, .reg 8, .idle, .idle, 0⟩) ∧
    decodeWords 2 [0x99F00206#32, 0xF0000000#32] = .ok (.redslot ⟨.z, .reg 2, .reg 6, .z, .idle, .idle, 0⟩) := by
  refine ⟨?_, ?_, ?_⟩ <;> rfl
theorem test_decode_copy : decodeWords 3 [0x81F0020A#32, 0xF0000010#32] = .ok (.copyW2 ⟨.z, .reg 2, .reg 10, .z, .idle, .idle, 0x10⟩) ∧
    decodeWords 3 [0x88F00A0C#32, 0x0E000011#32] = .ok (.chrecvW2 ⟨.z, .reg 10, .reg 12, .reg 14, .idle, .idle, 0x11⟩) ∧
    decodeWords 3 [0x06F0F0F0#32] = .ok (.replay ⟨.z, .z, .z⟩) ∧
    decodeWords 3 [0x86F0F0F0#32, 0xF0000041#32] = .ok (.replayW2 ⟨.z, .z, .z, .z, .idle, .idle, 0x41⟩) := by
  refine ⟨?_, ?_, ?_, ?_⟩ <;> rfl
theorem test_decode_branches : decodeWords 4 [0x10F0F0F0#32] = .ok (.exit ⟨.z, .z, .z⟩) ∧ decodeWords 4 [0x06000004#32] = .ok (.bra 4) ∧
    decodeWords 4 [0x84F0F102#32, 0x0000001C#32] = .ok (.bltn (.special 1) (.reg 2) 0x1C) ∧
    decodeWords 2 [0x23F006F0#32] = .ok (.monitor ⟨.z, .reg 6, .z⟩) ∧
    decodeWords 4 [0x20F0F0F0#32] = .ok (.tbar ⟨.z, .z, .z⟩) := by refine ⟨?_, ?_, ?_, ?_, ?_⟩ <;> rfl
theorem test_decode_sequencer : decodeWords 5 [0x00F00203#32] = .ok (.mload ⟨.z, .reg 2, .reg 3⟩) ∧
    decodeWords 5 [0xAB07F0F0#32, 0x00010005#32] = .ok (.seqMoviW2 (.reg 7) 0x00010005) ∧
    decodeWords 5 [0x1BF0F0F0#32] = .ok (.sqexit ⟨.z, .z, .z⟩) ∧ decodeWords 5 [0x190A09F0#32] = .ok (.seqAwait ⟨.reg 10, .reg 9, .z⟩) ∧
    decodeWords 5 [0x85F00406#32, 0x070000A0#32] = .ok (.mtopkW2 ⟨.z, .reg 4, .reg 6, .reg 7, .idle, .idle, 0xA0⟩) := by
  refine ⟨?_, ?_, ?_, ?_, ?_⟩ <;> rfl
theorem test_decode_system : decodeWords 6 [0x020402F0#32] = .ok (.launch ⟨.reg 4, .reg 2, .z⟩) ∧
    decodeWords 6 [0x050AF0F0#32] = .ok (.evwait ⟨.reg 10, .z, .z⟩) := by constructor <;> rfl
/-- R178, R172: opcodes that no table of the class has, and what would be a REP in class 0. -/
theorem test_decode_refuses : decodeWords 0 [0x7EF0F0F0#32] = .error .unassigned ∧ decodeWords 5 [0x7EF0F0F0#32] = .error .unassigned ∧
    decodeWords 1 [0x010F8000#32] = .error .illegalField := by refine ⟨?_, ?_, ?_⟩ <;> rfl
/-- The encoder gives the word of the worked example, and the decoder gives back what was encoded. -/
theorem test_encode : encode (.iadd ⟨.reg 8, .reg 16, .reg 24⟩) = [0x10081018#32] ∧
    encode (.imad ⟨.reg 10, .reg 1, .reg 2, .reg 3, .idle, .idle, 2⟩) = [0x960A0102#32, 0x03000002#32] ∧
    encode (.bltn (.special 1) (.reg 2) 0x1C) = [0x84F0F102#32, 0x0000001C#32] := by refine ⟨?_, ?_, ?_⟩ <;> rfl

/-! One step each, on a small state; expected values from the worked examples and tables of the spec -/

/-- A lane of a resident team of one group, with the registers given, at the instruction of a table word. -/
noncomputable def placed (nbits w : Nat) (regs : List (Nat × Nat)) : State :=
  (State.reset.withFetchWord nbits w).modLane 0 0 fun l =>
    { l with regs := regs.foldl (fun m r => SMap.put 0 m r.1 (BitVec.ofNat 32 r.2)) [] }

/-- Registers of the placed lane after one step, and its sticky flags. -/
noncomputable def regsAfter (s : State) (ns : List Nat) : Option (List Nat × Nat) :=
  match step s with
  | .next t => some (ns.map fun n => (SMap.get 0 (t.lane 0 0).regs n).toNat, (t.lane 0 0).flags.toNat)
  | _ => none

/-- The inputs of the worked example of the integer chapter. -/
def intInputs : List (Nat × Nat) := [(1, 0x80000003), (2, 2), (3, 0xFFFFFFF0), (4, 4), (5, 0x81C), (6, 0x3B40), (7, 5), (8, 3), (9, 6)]

theorem test_iadd_wraps : regsAfter (placed 32 0x10081018 [(0x10, 0xFFFFFFFF), (0x18, 3)]) [8] = some ([2], 0) := by rfl
theorem test_imad_sat : regsAfter (placed 64 (0x03000002 * 2 ^ 32 + 0x960A0102) intInputs) [10] = some ([0x80000000], 0) := by rfl
theorem test_funnel : regsAfter (placed 64 (0x04000001 * 2 ^ 32 + 0xAA0B0103) intInputs) [11] = some ([0xFFFFFF08], 0) := by rfl
theorem test_bfx : regsAfter (placed 32 0x300C0105 intInputs) [12] = some ([0xFFFFFFF8], 0) := by rfl
theorem test_byteperm : regsAfter (placed 64 (0x03000000 * 2 ^ 32 + 0xBA0D0106) intInputs) [13] = some ([0x80FFF003], 0) := by rfl
theorem test_bzip3 : regsAfter (placed 64 (0x09000000 * 2 ^ 32 + 0xB70E0708) intInputs) [14] = some ([0x173], 0) := by rfl
theorem test_iaddco : regsAfter (placed 64 (0x02000000 * 2 ^ 32 + 0x93100101) intInputs) [16, 17] = some ([6, 1], 0) := by rfl
theorem test_ffma : regsAfter (placed 64 (0x02000000 * 2 ^ 32 + 0xD3030001) [(0, 0x3F800001), (1, 0x3F800001), (2, 0xBF800002)]) [3] =
    some ([0x28800000], 0) := by rfl
theorem test_fmul_inexact : regsAfter (placed 32 0x52040001 [(0, 0x3F800001), (1, 0x3F800001)]) [4] = some ([0x3F800002], 1) := by rfl
theorem test_cvt_even : regsAfter (placed 64 (0xF00000A0 * 2 ^ 32 + 0xF00706F0) [(6, 0x40200000)]) [7] = some ([2], 1) := by rfl
theorem test_cvt_invalid : regsAfter (placed 64 (0xF00000A0 * 2 ^ 32 + 0xF00706F0) [(6, 0x4F32D05E)]) [7] = some ([0x7FFFFFFF], 16) := by rfl
/-- The gang of the example of the collectives: lanes 0 to 7 with v4 = 5, 3, 7, 1, 4, 9, 2, 6 and v8 = 0xB6. -/
noncomputable def scanGang (nbits w : Nat) : State :=
  let s := State.reset.withFetchWord nbits w
  let lane := fun (a : Nat) => { s.lane 0 0 with regs := [(4, BitVec.ofNat 32 a), (8, 0xB6)] }
  { s.modTeam 0 fun t => { t with lanes := [5, 3, 7, 1, 4, 9, 2, 6].map lane } with
    gangs := s.gangs.map fun (k, x) => (k, { x with lanes := List.range 8 }) }
/-- Register n of lanes 0 to 7 after one step. -/
noncomputable def lanesAfter (s : State) (n : Nat) : Option (List Nat) :=
  match step s with
  | .next t => some ((List.range 8).map fun j => (SMap.get 0 (t.lane 0 j).regs n).toNat)
  | _ => none
theorem test_scan_excl : lanesAfter (scanGang 64 (0xF0000040 * 2 ^ 32 + 0x910A0408)) 10 = some [0, 0, 3, 0xA, 0xA, 0xE, 0x17, 0x17] := by rfl
theorem test_ballot : lanesAfter (scanGang 32 0x130C0408) 12 = some (List.replicate 8 0xB6) := by rfl

/-! Rounding, conversions and draws, by the tables of the float and number chapters -/

theorem test_rounding_modes : fused [(decodeNum .f32 0x3F800000, .one)] (some (decodeNum .f32 0x33800000)) .f32 0 false = (0x3F800000, FlagSet.inexact) ∧
    fused [(decodeNum .f32 0x3F800000, .one)] (some (decodeNum .f32 0x33800000)) .f32 2 false = (0x3F800001, FlagSet.inexact) := by
  decide
theorem test_fscale : fpScale 0 0x3F800000 (2 ^ 32 - 149) = (1, 0) ∧
    fpScale 0 0x3F800000 (2 ^ 32 - 150) = (0, FlagSet.underflow ||| FlagSet.inexact) := by decide +kernel
theorem test_exponent_mantissa : fpGetexp 3 = (0xC3140000, 0) ∧ fpGetman 3 = (0x3FC00000, 0) := by decide +kernel
theorem test_frcp : specialFn 0 0 false 0x40400000 = (0x3EAAAAAB, FlagSet.inexact) ∧ specialFn 0 1 false 0x40400000 = (0x3EAAAAAA, FlagSet.inexact) ∧
    specialFn 0 0 false 0 = (0x7F800000, FlagSet.divZero) := by decide +kernel
theorem test_fmin_fcmp : minMax .f32 false 0 0x80000000 = (0x80000000, 0) ∧ minMax .f32 false 0x7F800001 0x40000000 = (0x40000000, FlagSet.invalid) ∧
    floatCmp .f32 2 0x7FC00000 0x3F800000 = (false, FlagSet.invalid) ∧ floatCmp .f32 1 0x7FC00000 0x3F800000 = (true, 0) := by decide +kernel
theorem test_conversions : convert .f32 .n32 0 false 0 0xBFC00000 = (0, FlagSet.invalid) ∧
    convert .f32 .e4m3 0 false 0 0x43FA0000 = (0x7E, FlagSet.overflow ||| FlagSet.inexact) ∧
    convert .f32 .e4m3 0 false 0 0x7F800001 = (0x7F, FlagSet.invalid) ∧ convert .f32 .e2m1 0 false 0 0x40A00000 = (6, FlagSet.inexact) ∧
    convert .f32 .i8 0 false 0 0xC2FE0000 = (0xFFFFFF81, 0) ∧ convert .i32 .f16 0 false 0 0x10000 = (0x7C00, FlagSet.overflow ||| FlagSet.inexact) := by
  decide +kernel
/-- The first known-answer block of philox4x32-10 that the number chapter gives. -/
theorem test_philox : philox10 0 0 0 0 0 0 = (0x6627E8D5, 0xE169C58D, 0xBC57AC4C, 0x9B00DBD8) := by decide +kernel

/-! Registers of the package, by the worked example of the slice chapter -/

/-- CREATE of node 5 with owner group 2 and no template: the command word, then the state of the slice. -/
noncomputable def afterCreate : State :=
  match exec (.create 0x01002821) { State.reset with slcArg := 4 } with
  | .next t => t
  | _ => State.reset
theorem test_create : afterCreate.regGet .slcCmd = 0x01002821 ∧ (afterCreate.slice 4).st = .creating ∧ afterCreate.regGet (.slcL2 4) = 4 ∧
    afterCreate.regGet (.slcFresh 4) = 0x400000 ∧ afterCreate.regGet .slcStat / 2 ^ 24 = 1 := by
  refine ⟨?_, ?_, ?_, ?_, ?_⟩ <;> rfl
/-- SLICE_READY, and COMMAND_DONE after it: SLC_CMD, SLC_CMDSTAT and SLC_STATE of the example. -/
noncomputable def afterReady : State :=
  match exec (.sliceReady 4) { afterCreate with clock := 9000000 } with
  | .next t => match exec .commandDone t with
    | .next u => u
    | _ => State.reset
  | _ => State.reset
theorem test_create_done : afterReady.regGet .slcCmd = 0x01002820 ∧ afterReady.regGet .slcStat = 0x2328 ∧
    afterReady.regGet (.slcState 4) = 0x00052002 := by refine ⟨?_, ?_, ?_⟩ <;> rfl

/-! Witnesses: for each statement with hypotheses, states and operands that meet them together. -/

/-- The clause that holds one instruction alone, at a safe point. -/
def onlyClause (i : Instr) : Clause :=
  { hdr := 0x1000, cls := if (issueOp i).e.cls = 7 then 0 else (issueOp i).e.cls, yield := false, safe := true,
    words := List.replicate (issueOp i).len 0 }

/-- The tiers, a device segment, a peer's segment and its route, and translations of VA 0x10000 (R, W, X) and 0x20000 (the peer). -/
def wLaunch : Launch :=
  { placedLaunch with desc := { placedLaunch.desc with scratch := 4096, accum := 1, priv := 4096, codeBase := 0x1000 } }
def wWorld : World :=
  { st := .running, en := true, base := 0, size := 1, window := []
    segments := [(0, BitVec.ofNat 128 (2 ^ 127 + 16 * 2 ^ 32)), (1, BitVec.ofNat 128 (2 ^ 127 + 2 * 2 ^ 125 + 5 * 2 ^ 96 + 16 * 2 ^ 32 + 16))] }
def wSlice : Slice := { st := .ready, node := 16, routes := [(5, BitVec.ofNat 64 (2 ^ 63 + 1))], wlist := [1, 0, 0, 0, 0, 0] }
def wTlb : List TlbEntry := [⟨0, 1, 1, 0, true, true, true, false, 3, false⟩, ⟨0, 1, 2, 16, true, true, true, false, 3, false⟩]

/-- One lane of a resident team executes i, with the registers given. -/
def laneAt (i : Instr) (regs : List (Nat × Nat)) (f : State → State := id) : State :=
  f { State.reset with
    launches := [(0, wLaunch)], worlds := [(1, wWorld)], slices := [(0, wSlice)], tlb := wTlb, teams := [(0, { placedTeam (onlyClause i) false with
      lanes := [{ pc := 0x1004, hdr := 0x1000, inClause := true, regs := regs.map fun r => (r.1, BitVec.ofNat 32 r.2) }] })]
    gangs := [(0, { core := 0, team := 0, lanes := [0], clause := onlyClause i, age := 0, began := 0 })], cur := some (.gang 0) }
/-- The launch with LFLAGS n (ordered 4, guarded 8, protected 16) and staging; the protected one with a shadow that differs. -/
def wFlags (n : Nat) (s : State) : State :=
  { s with launches := [(0, { wLaunch with record := { lflags := BitVec.ofNat 32 n }, desc := { wLaunch.desc with stage := 4096 } })] }
def wLane (f : Lane → Lane) (s : State) : State := s.modLane 0 0 f
def wPending (s : State) : State := s.modTeam 0 fun t => { t with groups := [{}] }
def wMismatch (s : State) : State := (wFlags 16 s).modLane 0 0 fun l => { l with shadow := [(0, 1)] }
/-- A control program of world 1 executes i. -/
def progAt (i : Instr) (regs : List (Nat × Nat)) (f : State → State := id) : State :=
  f { State.reset with
    worlds := [(1, { wWorld with prog := { st := .running, custom := true, nregs := 240, privSize := 4096, clause := some (onlyClause i)
                                           lane := { regs := regs.map fun r => (r.1, BitVec.ofNat 32 r.2) } } })]
    slices := [(0, wSlice)], tlb := wTlb, cur := some (.prog 1) }
def wStack (n : Nat) (s : State) : State := s.modLaneOf (.prog 1) fun l => { l with sptr := BitVec.ofNat 32 n }
/-- A team's sequencer executes i. -/
def seqAt (i : Instr) (regs : List (Nat × Nat)) (f : State → State := id) : State :=
  f { State.reset with
    launches := [(0, wLaunch)], worlds := [(1, wWorld)], slices := [(0, wSlice)], tlb := wTlb, teams := [(0, { placedTeam (onlyClause i) true with
      seq := some { pc := 0x1004, hdr := 0x1000, clause := some { onlyClause i with cls := 5 }
                    s := regs.map fun r => (r.1, BitVec.ofNat 32 r.2) } })], cur := some (.seq 0) }

def gangB (o : Op) (s : State) (g : Nat) (x : Gang) : Bool :=
  decide (s.cur = some (.gang g)) && decide (s.gang g = some x) && decide (o.e.cls ≠ 5) && decide (x.lanes ≠ []) && decide x.lanes.Nodup &&
    x.lanes.all fun lit => acting s (.lane x.team lit) && !(s.lane x.team lit).haltReq && (preFault o s (.lane x.team lit) x.clause).isNone &&
      !tooFar s (.lane x.team lit)
theorem gang_runs (o : Op) (s : State) (g : Nat) (x : Gang) (h : gangB o s g x = true) : GangRuns o s g x := by
  simp only [gangB, Bool.and_eq_true, decide_eq_true_eq, List.all_eq_true, Bool.not_eq_true', Option.isNone_iff_eq_none] at h
  obtain ⟨⟨⟨⟨⟨a, b⟩, c⟩, d⟩, e⟩, f⟩ := h
  exact ⟨a, b, c, d, e, fun l m => (f l m).1.1.1, fun l m => (f l m).1.1.2, fun l m => (f l m).1.2, fun l m => (f l m).2⟩

def aloneB (o : Op) (s : State) (a : Agent) (cl : Clause) : Bool :=
  decide (agentsOf s = some ([a], cl)) && decide (o.e.cls ≠ 5) && acting s a && !(s.laneOf a).haltReq && (preFault o s a cl).isNone && !tooFar s a
theorem alone_of (o : Op) (s : State) (a : Agent) (cl : Clause) (h : aloneB o s a cl = true) : Alone o s a cl := by
  simp only [aloneB, Bool.and_eq_true, decide_eq_true_eq, Bool.not_eq_true', Option.isNone_iff_eq_none] at h
  obtain ⟨⟨⟨⟨⟨a, b⟩, c⟩, d⟩, e⟩, f⟩ := h
  exact ⟨a, b, c, d, e, f⟩

def seqB (o : Op) (s : State) (t : Nat) (cl : Clause) : Bool :=
  decide (s.cur = some (.seq t)) && decide ((s.seqOf t).clause = some cl) && decide (o.e.cls = 5 ∨ o.e.cls = 7) &&
    decide ((s.seqOf t).st = .running) && !(s.seqOf t).haltReq && seqPreFault o cl && decide ((s.seqOf t).dist + 1 ≤ (s.launchOf t).desc.dist)
theorem seq_runs (o : Op) (s : State) (t : Nat) (cl : Clause) (h : seqB o s t cl = true) : SeqRuns o s t cl := by
  simp only [seqB, Bool.and_eq_true, decide_eq_true_eq, Bool.not_eq_true'] at h
  obtain ⟨⟨⟨⟨⟨⟨a, b⟩, c⟩, d⟩, e⟩, f⟩, g⟩ := h
  exact ⟨a, b, c, d, e, f, g⟩

/-- What a statement that an instruction completes, waits or faults asks for can be met. -/
def Meets (i : Instr) (P : Env → State → Prop) : Prop := ∃ s a cl, Alone (issueOp i) s a cl ∧ P (envOf (issueOp i) s a cl) s
def SeqMeets (i : Instr) (P : SeqEnv → State → Prop) : Prop := ∃ s t cl, SeqRuns (issueOp i) s t cl ∧ P (seqEnvOf (issueOp i) s t cl) s
theorem lane_meets {i : Instr} {P : Env → State → Prop} (regs : List (Nat × Nat)) (f : State → State := id)
    (h : aloneB (issueOp i) (laneAt i regs f) (.lane 0 0) (onlyClause i) = true)
    (hp : P (envOf (issueOp i) (laneAt i regs f) (.lane 0 0) (onlyClause i)) (laneAt i regs f)) : Meets i P := ⟨_, _, _, alone_of _ _ _ _ h, hp⟩
theorem prog_meets {i : Instr} {P : Env → State → Prop} (regs : List (Nat × Nat)) (f : State → State := id)
    (h : aloneB (issueOp i) (progAt i regs f) (.prog 1) (onlyClause i) = true)
    (hp : P (envOf (issueOp i) (progAt i regs f) (.prog 1) (onlyClause i)) (progAt i regs f)) : Meets i P := ⟨_, _, _, alone_of _ _ _ _ h, hp⟩
theorem seq_meets {i : Instr} {P : SeqEnv → State → Prop} (regs : List (Nat × Nat)) (f : State → State := id)
    (h : seqB (issueOp i) (seqAt i regs f) 0 { onlyClause i with cls := 5 } = true)
    (hp : P (seqEnvOf (issueOp i) (seqAt i regs f) 0 { onlyClause i with cls := 5 }) (seqAt i regs f)) : SeqMeets i P :=
  ⟨_, _, _, seq_runs _ _ _ _ h, hp⟩
theorem ok_pair {ε α β : Type} [DecidableEq α] {x : Except ε α × β} (a : α)
    (h : (match x.1 with | .ok q => decide (q = a) | .error _ => false) = true) : x = (.ok a, x.2) := by
  obtain ⟨x, y⟩ := x
  cases x <;> simp_all
theorem some_pair {α β : Type} {x : Option α × β} (h : x.1.isSome = true) : x = (some (x.1.get h), x.2) := by
  obtain ⟨x, y⟩ := x
  cases x <;> simp_all
theorem forall_one {α : Type} {P : α → Prop} {x : α} (h : P x) : ∀ i ∈ [x], P i := by simpa using h
theorem forall_more {α : Type} {P : α → Prop} {x : α} {l : List α} (h : P x) (k : ∀ i ∈ l, P i) : ∀ i ∈ x :: l, P i := by
  simpa using ⟨h, k⟩

/-- Operand fields with a register wherever the entry uses the field. -/
def fields (e : Entry) (m : BitVec 8) : F2 :=
  ⟨if e.dw = 0 then .z else .reg 8, if e.aw = 0 then .z else .reg 0, if e.bw = 0 then .z else .reg 4, if e.cw = 0 then .z else .reg 16, .idle, .idle, m⟩
def two (j : F2 → Instr) (m : BitVec 8 := 0) : Instr := j (fields (issueOp (j ⟨.z, .z, .z, .z, .idle, .idle, m⟩)).e m)
def one (j : F1 → Instr) : Instr := let f := fields (issueOp (j ⟨.z, .z, .z⟩)).e 0; j ⟨f.d, f.a, f.b⟩

/-- A gang executes each of the instructions. -/
theorem gangs_run (l : List Instr) (h : (l.all fun i => gangB (issueOp i) (laneAt i []) 0
      { core := 0, team := 0, lanes := [0], clause := onlyClause i, age := 0, began := 0 }) = true) :
    ∀ i ∈ l, ∃ s x, GangRuns (issueOp i) s 0 x :=
  fun i m => ⟨_, _, gang_runs _ _ _ _ (List.all_eq_true.mp h i m)⟩
/-- An agent executes each of them alone. -/
theorem alone_run (l : List Instr) (h : (l.all fun i => aloneB (issueOp i) (laneAt i []) (.lane 0 0) (onlyClause i)) = true) :
    ∀ i ∈ l, Meets i fun _ _ => True := fun i m => lane_meets [] id (List.all_eq_true.mp h i m) trivial
/-- A lane's step of each is refused by a check before it. -/
theorem traps_run (l : List Instr) (h : (l.all fun i => (preFault (issueOp i) (laneAt i []) (.lane 0 0) (onlyClause i)).isSome) = true) :
    ∀ i ∈ l, ∃ s a cl y, agentsOf s = some ([a], cl) ∧ acting s a = true ∧ (s.laneOf a).haltReq = false ∧ preFault (issueOp i) s a cl = some y :=
  fun i m => ⟨laneAt i [], .lane 0 0, onlyClause i, _, rfl, rfl, rfl, (Option.some_get (List.all_eq_true.mp h i m)).symm⟩
/-- A sequencer executes each of them. -/
theorem seqs_run (l : List Instr) (h : (l.all fun i => seqB (issueOp i) (seqAt i []) 0 { onlyClause i with cls := 5 }) = true) :
    ∀ i ∈ l, SeqMeets i fun _ _ => True := fun i m => seq_meets [] id (List.all_eq_true.mp h i m) trivial

theorem witness_IntegerArithmetic : ∀ i ∈ [one .iadd, two .iaddW2, one .isub, two .isubW2, one .imul, two .imulW2, one .imulhi, two
    .imulhiW2, one .imin, two .iminW2, one .imax, two .imaxW2, one .iabs, two .iabsW2, one .icmp, two .icmpW2, two .iadd3, two .imad,
    two .sel, two .iaddco, two .imadwide], ∃ s x, GangRuns (issueOp i) s 0 x := gangs_run _ (by rfl)
theorem witness_IntegerLogic : ∀ i ∈ [one .and, two .andW2, one .or, two .orW2, one .xor, two .xorW2, one .andn, two .andnW2, one .not,
    two .notW2, one .shl, two .shlW2, one .shr, two .shrW2, one .sar, two .sarW2, one .rotl, two .rotlW2, two .lop3, two .funnel], ∃ s
    x, GangRuns (issueOp i) s 0 x := gangs_run _ (by rfl)
theorem witness_IntegerBits : ∀ i ∈ [one .bfx, two .bfxW2, one .popc, two .popcW2, one .clz, two .clzW2, one .ctz, two .ctzW2, one
    .brev, two .brevW2, one .bzip2, two .bzip2W2, one .bzip3, two .bzip3W2, one .bunzip2, two .bunzip2W2, one .bunzip3, two .bunzip3W2,
    one .byteperm, two .bytepermW2, two .bfi], ∃ s x, GangRuns (issueOp i) s 0 x := gangs_run _ (by rfl)
theorem witness_Integer64AndMoves : ∀ i ∈ [one .iadd64, two .iadd64W2, one .shl64, two .shl64W2, one .shr64, two .shr64W2, one .lea,
    two .leaW2, one .mov, two .movW2, one .nop, two .nopW2, .movi (.reg 8) 1, .moviW2 (.reg 8) 1], ∃ s x, GangRuns (issueOp i) s 0 x :=
    gangs_run _ (by rfl)
theorem witness_FloatArithmetic : ∀ i ∈ [one .fadd, two .faddW2, one .fsub, two .fsubW2, one .fmul, two .fmulW2, one .dadd, two
    .daddW2, one .dmul, two .dmulW2, one .fmin, two .fminW2, one .fmax, two .fmaxW2, one .fcmp, two .fcmpW2, one .dcmp, two .dcmpW2,
    one .fclass, two .fclassW2, two .ffma, two .dfma], ∃ s x, GangRuns (issueOp i) s 0 x := gangs_run _ (by rfl)
theorem witness_FloatPackedAndParts : ∀ i ∈ [one .hadd2, two .hadd2W2, one .hmul2, two .hmul2W2, one .hmin2, two .hmin2W2, one .hmax2,
    two .hmax2W2, one .frnd, two .frndW2, one .ffract, two .ffractW2, one .fscale, two .fscaleW2, one .fgetexp, two .fgetexpW2, one
    .fgetman, two .fgetmanW2, two .hfma2, two .dot2, two .dot4], ∃ s x, GangRuns (issueOp i) s 0 x := gangs_run _ (by rfl)
theorem witness_SpecialFunctions : ∀ i ∈ [one .frcp, two .frcpW2, one .frsq, two .frsqW2, one .fsqrt, two .fsqrtW2, one .fexp2, two
    .fexp2W2, one .flog2, two .flog2W2, one .fsin, two .fsinW2, one .fcos, two .fcosW2, one .ftanh, two .ftanhW2], ∃ s x, GangRuns
    (issueOp i) s 0 x := gangs_run _ (by rfl)
theorem witness_Collectives : ∀ i ∈ [one .reduce, two .reduceW2, one .scan, two .scanW2, one .vote, two .voteW2, one .ballot, two
    .ballotW2, one .matchGroup, one .laneget, two .matchW2, two .lanegetW2], ∃ s x, GangRuns (issueOp i) s 0 x := gangs_run _ (by rfl)
/-- Values that meet the arithmetic hypotheses of those statements, at the ends of their ranges. -/
theorem witness_IntegerWrap : 0 < 32 ∧ (0#8).getLsbD 1 = false ∧ ((3#8).getLsbD 1 = true ∧ (3#8).getLsbD 0 = true) ∧
    (2#8).getLsbD 1 = true ∧ (2#8).getLsbD 0 = false := by decide
theorem witness_fields : 0 < fieldLen 0x100 ∧ fieldLen 0x2000 = 32 ∧ fieldLen 0x1F20 = 0 ∧ fieldPos 0xFF = 32 ∧ (1#8).getLsbD 0 = true := by decide
theorem witness_numbers : (decodeNum .f32 0x7FC00000).isNan = true ∧ (decodeNum .f32 0xFF800000).isInf = true ∧
    (decodeNum .f32 0x80000000).isZero = true ∧ (decodeNum .f64 0).isNan = false ∧ 2 ≤ mbits 8#8 3 2 := by decide
theorem witness_sieve : (7 : Nat) ≠ 2 ∧ (7 : Nat) ≠ 6 ∧ ∀ j x, (fun j => if j = 0 then some (2 ^ 64 - 1) else none : Nat → Option Nat) j = some x →
    x < 2 ^ (if 4 ≤ 7 then 64 else 32) := by
  refine ⟨by decide, by decide, fun j x h => ?_⟩
  simp only at h
  split at h
  · cases h; decide
  · cases h
theorem witness_nodup : ((List.map (·.1) [(0, 5), (63, 7)] : List Nat)).Nodup := by decide

/-! Instructions with premises beyond the checks of the issue stage -/

theorem witness_ConversionsAndIndexed :
    Meets (two .cvt 0xA0) (fun v _ => rcOk v.c (Fmt.ofTarget (mbits v.f.m 7 4)).isFloat = true ∧ v.prot = false) ∧
    Meets (two .cvtpk 0x20) (fun v _ => rcOk v.c true = true) ∧ Meets (two .cvtunpk 0x20) (fun v _ => rcOk v.c true = true) ∧
    Meets (two .cvt 0x00) (fun v _ => rcOk v.c (Fmt.ofTarget (mbits v.f.m 7 4)).isFloat = false) ∧
    Meets (two .cvtpk 0x20) (fun v _ => rcOk v.c true = false) ∧ Meets (two .cvtunpk 0x22) (fun v _ => rcOk v.c true = false) ∧
    (∀ i ∈ [one .rget, two .rgetW2, one .rput, two .rputW2], Meets i (fun v s => v.a < s.nregsOf v.who)) ∧
    (∀ i ∈ [one .rget, two .rgetW2, one .rput, two .rputW2], Meets i (fun v s => s.nregsOf v.who ≤ v.a)) := by
  refine ⟨lane_meets [] id rfl ⟨rfl, rfl⟩, lane_meets [] id rfl rfl, lane_meets [] id rfl rfl,
    lane_meets [(16, 0xFFFF)] id rfl rfl, lane_meets [(16, 0xFFFF)] id rfl rfl, lane_meets [(16, 0xFFFF)] id rfl rfl, ?_, ?_⟩
  · refine forall_more ?_ (forall_more ?_ (forall_more ?_ (forall_one ?_))) <;> exact lane_meets [(0, 239)] id rfl (by decide +kernel)
  · refine forall_more ?_ (forall_more ?_ (forall_more ?_ (forall_one ?_))) <;> exact lane_meets [(0, 240)] id rfl (by decide +kernel)

theorem witness_Draws : (∀ i ∈ [one .draw, two .drawW2, one .drawf, two .drawfW2, one .drawn, two .drawnW2], Meets i (fun v _ => v.a % 2 ^ 16 ≠ 0xFFFF)) ∧
    (∀ i ∈ [one .sample, two .sampleW2], Meets i fun v s => v.a % 4 = 0 ∧ v.a + 4 * (v.b / 2 ^ 16 + 1) ≤ (s.launchOf v.t).desc.scratch ∧
      v.b % 2 ^ 16 ≠ 0xFFFF ∧ s.poisoned (.scratch v.t) v.a (4 * (v.b / 2 ^ 16 + 1)) = false) ∧
    (∀ i ∈ [one .splitkey, two .splitkeyW2], Meets i fun _ _ => True) ∧ Meets (one .draw) (fun v _ => v.a % 2 ^ 16 = 0xFFFF) ∧
    Meets (one .sample) (fun v _ => v.a % 4 ≠ 0) := by
  refine ⟨?_, ?_, alone_run _ (by rfl), lane_meets [(0, 0xFFFF)] id rfl (by decide +kernel), lane_meets [(0, 2)] id rfl (by decide +kernel)⟩
  · refine forall_more ?_ (forall_more ?_ (forall_more ?_ (forall_more ?_ (forall_more ?_ (forall_one ?_))))) <;>
      exact lane_meets [(0, 0xFFFE)] id rfl (by decide +kernel)
  · refine forall_more ?_ (forall_one ?_) <;> exact lane_meets [(0, 4088), (4, 0x10000)] id rfl (by decide +kernel)

theorem witness_GlobalLoad :
    (∀ i ∈ [one .ld, two .ldW2 5], ∃ p sp x s1 s2 s3 bs, Meets i fun v s => s.awaitedReq v.who = none ∧
      s.globalPlace v.who (globalAddr v.a v.b) (accessBytes v.f.m) .read 0 = (.ok p, s1) ∧ p.isLocal ∧ p.at? = some (sp, x) ∧
      (if plainLoad v.f.m then s1.raceCheck v.who p (globalAddr v.a v.b) false else .ok s1) = .ok s2 ∧
      s2.loadAt v.who sp x (accessBytes v.f.m) (readingOf v.f.m) = (some bs, s3) ∧
      (if semAcquires v.f.m then s3.acquire v.who (scopeOf v.f.m) else s3).stagedPoison v.who p.target.key (accessBytes v.f.m) = false) ∧
    (∃ p sp x s1 s2 s3 bs, Meets (one .ld) fun v s => s.awaitedReq v.who = none ∧
      s.globalPlace v.who (globalAddr v.a v.b) (accessBytes v.f.m) .read 0 = (.ok p, s1) ∧ p.isLocal ∧ p.at? = some (sp, x) ∧
      (if plainLoad v.f.m then s1.raceCheck v.who p (globalAddr v.a v.b) false else .ok s1) = .ok s2 ∧
      s2.loadAt v.who sp x (accessBytes v.f.m) (readingOf v.f.m) = (some bs, s3) ∧
      (if semAcquires v.f.m then s3.acquire v.who (scopeOf v.f.m) else s3).stagedPoison v.who p.target.key (accessBytes v.f.m) = true) ∧
    (∃ s who c sp a n l, (s : State).coreOf who = some c ∧ s.l1Find c sp (a / 128) = some l ∧ s.loadAt who sp a n .weak =
      (some ((l.bytes.drop (a % 128)).take n), s)) ∧
    (∃ accel wpa x s1, Meets (one .ld) fun v s => s.awaitedReq v.who = none ∧
      s.globalPlace v.who (globalAddr v.a v.b) (accessBytes v.f.m) .read 0 = (.ok ⟨.peer accel wpa, x⟩, s1)) ∧
    Meets (one .ld) (fun v s => s.awaitedReq v.who = none ∧ globalAddr v.a v.b % accessBytes v.f.m ≠ 0) ∧
    (∃ p sp x s1 s2 s3, Meets (one .ld) fun v s => s.awaitedReq v.who = none ∧
      s.globalPlace v.who (globalAddr v.a v.b) (accessBytes v.f.m) .read 0 = (.ok p, s1) ∧ p.isLocal ∧ p.at? = some (sp, x) ∧
      (if plainLoad v.f.m then s1.raceCheck v.who p (globalAddr v.a v.b) false else .ok s1) = .ok s2 ∧
      s2.loadAt v.who sp x (accessBytes v.f.m) (readingOf v.f.m) = (none, s3)) := by
  refine ⟨?_, ⟨_, _, _, _, _, _, _, lane_meets [(0, 0x10000)] (fun s => (wFlags 4 s).modTeam 0 fun t => { t with
      staged := [{ op := .write [1, 2, 3, 4], target := .device 0, va := 0x10000, poison := [3] }] }) rfl ⟨rfl, rfl, rfl, rfl, rfl, rfl, rfl⟩⟩,
    ⟨laneAt (one .nop) [] fun s => { s with l1 := [⟨0, .hbm, 0, List.replicate 128 7⟩] }, .lane 0 0, 0, .hbm, 4, 4, _, rfl, rfl, rfl⟩,
    ⟨_, _, _, _, lane_meets [(0, 0x20000)] id rfl ⟨rfl, rfl⟩⟩, lane_meets [(0, 0x10002)] id rfl (by decide +kernel),
    ⟨_, _, _, _, _, _, lane_meets [(0, 0x10004)] (fun s => { s with poison := [(.hbm, 0)] }) rfl ⟨rfl, rfl, rfl, rfl, rfl, rfl⟩⟩⟩
  refine forall_more ?_ (forall_one ?_) <;> exact ⟨_, _, _, _, _, _, _, lane_meets [(0, 0x1FFF0)] id rfl ⟨rfl, rfl, rfl, rfl, rfl, rfl, rfl⟩⟩

theorem witness_GlobalStore :
    (∀ i ∈ [one .st, two .stW2 5], ∃ p sp x s1 s2, Meets i fun v s => releaseReady v s (semReleases v.f.m) (scopeOf v.f.m) ∧ v.mismatch = false ∧
      s.globalPlace v.who (globalAddr v.a v.c) (accessBytes v.f.m) .write 2 = (.ok p, s1) ∧ p.isLocal ∧ p.at? = some (sp, x) ∧
      (if plainStore v.f.m then s1.raceCheck v.who p (globalAddr v.a v.c) true else .ok s1) = .ok s2 ∧
      (if semReleases v.f.m then s2.release v.who (scopeOf v.f.m) else s2).stages v.who = false) ∧
    (∃ p s1 s2 s4, Meets (two .stW2) fun v s => releaseReady v s (semReleases v.f.m) (scopeOf v.f.m) ∧ v.mismatch = false ∧
      s.globalPlace v.who (globalAddr v.a v.c) (accessBytes v.f.m) .write 2 = (.ok p, s1) ∧
      (if plainStore v.f.m then s1.raceCheck v.who p (globalAddr v.a v.c) true else .ok s1) = .ok s2 ∧
      (let s3 := if semReleases v.f.m then s2.release v.who (scopeOf v.f.m) else s2
       s3.stages v.who = true ∧ s3.stage v.t (16 + 16 * ((accessBytes v.f.m + 15) / 16))
         { op := .write (storeBytes v.f.m v.b), target := p.target, va := globalAddr v.a v.c % 2 ^ 52 } = .ok s4)) ∧
    (∃ accel wpa x s1 s2, Meets (two .stW2) fun v s => releaseReady v s (semReleases v.f.m) (scopeOf v.f.m) ∧ v.mismatch = false ∧
      s.globalPlace v.who (globalAddr v.a v.c) (accessBytes v.f.m) .write 2 = (.ok ⟨.peer accel wpa, x⟩, s1) ∧
      (if plainStore v.f.m then s1.raceCheck v.who ⟨.peer accel wpa, x⟩ (globalAddr v.a v.c) true else .ok s1) = .ok s2 ∧
      (if semReleases v.f.m then s2.release v.who (scopeOf v.f.m) else s2).stages v.who = false) ∧
    Meets (one .st) (fun v s => releaseReady v s (semReleases v.f.m) (scopeOf v.f.m) ∧ v.mismatch = false ∧ globalAddr v.a v.c % accessBytes v.f.m ≠ 0) ∧
    Meets (one .st) (fun v s => releaseReady v s (semReleases v.f.m) (scopeOf v.f.m) ∧ v.mismatch = true) := by
  refine ⟨?_, ⟨_, _, _, _, lane_meets [(0, 0x10000)] (wFlags 4) rfl ⟨rfl, rfl, rfl, rfl, rfl, rfl⟩⟩,
    ⟨_, _, _, _, _, lane_meets [(0, 0x20000)] id rfl ⟨rfl, rfl, rfl, rfl, rfl⟩⟩, lane_meets [(0, 0x10001)] id rfl (by decide +kernel),
    lane_meets [(0, 0x10000)] wMismatch rfl ⟨rfl, rfl⟩⟩
  refine forall_more ?_ (forall_one ?_) <;> exact ⟨_, _, _, _, _, lane_meets [(0, 0x1FFF0)] id rfl ⟨rfl, rfl, rfl, rfl, rfl, rfl, rfl⟩⟩
theorem witness_TierLoads :
    (∀ i ∈ [one .lds, two .ldsW2], Meets i fun v s => (v.a : Int) + sext 32 v.b = 4092 ∧ 4092 + accessBytes v.f.m ≤ (s.launchOf v.t).desc.scratch ∧
      s.watchData v.t v.lit 4092 (accessBytes v.f.m) false = none ∧ s.poisoned (.scratch v.t) 4092 (accessBytes v.f.m) = false) ∧
    (∀ i ∈ [one .ldc, two .ldcW2], Meets i fun v s => (v.a : Int) + sext 32 v.b = 4092 ∧ 4092 / 2 ^ 23 < (s.launchOf v.t).clusterSize ∧
      4092 + accessBytes v.f.m ≤ (s.launchOf v.t).desc.scratch ∧ s.clusterTeam v.t 0 = some 0 ∧
      s.watchData v.t v.lit 4092 (accessBytes v.f.m) false = none ∧ s.poisoned (.scratch 0) 4092 (accessBytes v.f.m) = false) ∧
    (∀ i ∈ [one .lda, two .ldaW2], Meets i fun v s => (v.a : Int) + sext 32 v.b = 65532 ∧
      65532 + accessBytes v.f.m ≤ (s.launchOf v.t).desc.accum * 65536 ∧ s.poisoned (.acc v.t) 65532 (accessBytes v.f.m) = false) ∧
    (∀ i ∈ [one .ldl, two .ldlW2], ∃ sp x s1 s2 bs, Meets i fun v s => (v.a : Int) + sext 32 v.b = 4092 ∧
      s.privatePlace v.who 4092 (accessBytes v.f.m) .read 0 = (.ok (sp, x), s1) ∧
      s1.loadAt v.who sp x (accessBytes v.f.m) .weak = (some bs, s2)) ∧
    (∀ i ∈ [one .lds, one .ldl, one .lda, one .ldc], Meets i fun v _ => (v.a : Int) + sext 32 v.b < 0) ∧
    Meets (one .lds) (fun v _ => (v.a : Int) + sext 32 v.b = 2 ∧ 2 % accessBytes v.f.m ≠ 0) ∧
    Meets (one .lds) (fun v s => (v.a : Int) + sext 32 v.b = 4096 ∧ 4096 % accessBytes v.f.m = 0 ∧ (s.launchOf v.t).desc.scratch < 4096 + accessBytes v.f.m) := by
  refine ⟨?_, ?_, ?_, ?_, ?_, lane_meets [(0, 2)] id rfl (by decide +kernel), lane_meets [(0, 4096)] id rfl (by decide +kernel)⟩
  · refine forall_more ?_ (forall_one ?_) <;> exact lane_meets [(0, 4096), (4, 0xFFFFFFFC)] id rfl (by decide +kernel)
  · refine forall_more ?_ (forall_one ?_) <;> exact lane_meets [(0, 4092)] id rfl (by decide +kernel)
  · refine forall_more ?_ (forall_one ?_) <;> exact lane_meets [(0, 65532)] id rfl (by decide +kernel)
  · refine forall_more ?_ (forall_one ?_) <;> exact ⟨_, _, _, _, _, prog_meets [(0, 4092)] id rfl ⟨rfl, rfl, rfl⟩⟩
  · refine forall_more ?_ (forall_more ?_ (forall_more ?_ (forall_one ?_))) <;> exact lane_meets [(4, 0xFFFFFFFF)] id rfl (by decide +kernel)

theorem witness_TierStores :
    (∀ i ∈ [one .sts, two .stsW2], Meets i fun v s => releaseReady v s (semReleases v.f.m) (scopeOf v.f.m) ∧ v.mismatch = false ∧
      (v.a : Int) + sext 32 v.c = 4092 ∧ 4092 % accessBytes v.f.m = 0 ∧ 4092 + accessBytes v.f.m ≤ (s.launchOf v.t).desc.scratch ∧
      s.watchData v.t v.lit 4092 (accessBytes v.f.m) true = none) ∧
    (∀ i ∈ [one .stc, two .stcW2], Meets i fun v s => releaseReady v s (semReleases v.f.m) (scopeOf v.f.m) ∧ v.mismatch = false ∧
      (v.a : Int) + sext 32 v.c = 4092 ∧ 4092 / 2 ^ 23 < (s.launchOf v.t).clusterSize ∧ 4092 + accessBytes v.f.m ≤ (s.launchOf v.t).desc.scratch ∧
      s.clusterTeam v.t 0 = some 0 ∧ s.watchData v.t v.lit 4092 (accessBytes v.f.m) true = none) ∧
    (∀ i ∈ [one .stl, two .stlW2], ∃ sp x s1, Meets i fun v s => v.mismatch = false ∧ (v.a : Int) + sext 32 v.c = 4092 ∧
      s.privatePlace v.who 4092 (accessBytes v.f.m) .write 2 = (.ok (sp, x), s1)) ∧
    Meets (one .sts) (fun v s => releaseReady v s (semReleases v.f.m) (scopeOf v.f.m) ∧ v.mismatch = true) ∧
    Meets (one .sts) (fun v s => releaseReady v s (semReleases v.f.m) (scopeOf v.f.m) ∧ v.mismatch = false ∧
      (v.a : Int) + sext 32 v.c = 1 ∧ 1 % accessBytes v.f.m ≠ 0) ∧
    Meets (one .sts) (fun v s => releaseReady v s (semReleases v.f.m) (scopeOf v.f.m) ∧ v.mismatch = false ∧
      (v.a : Int) + sext 32 v.c = 4096 ∧ (s.launchOf v.t).desc.scratch < 4096 + accessBytes v.f.m) := by
  refine ⟨?_, ?_, ?_, lane_meets [] wMismatch rfl (by decide +kernel), lane_meets [(0, 1)] id rfl (by decide +kernel),
    lane_meets [(0, 4096)] id rfl (by decide +kernel)⟩
  · refine forall_more ?_ (forall_one ?_) <;> exact lane_meets [(0, 4092)] id rfl (by decide +kernel)
  · refine forall_more ?_ (forall_one ?_) <;> exact lane_meets [(0, 4092)] id rfl (by decide +kernel)
  · refine forall_more ?_ (forall_one ?_) <;> exact ⟨_, _, _, prog_meets [(0, 4092)] id rfl ⟨rfl, rfl, rfl⟩⟩

theorem witness_Atomics :
    (∀ x ∈ [(two .atomW2 9, 9), (one .atom, 0), (two .cas, 16), (two .cas 1, 17)], ∃ p sp y s1, Meets x.1 fun v s =>
      releaseReady v s (semReleases v.f.m) (scopeOf v.f.m) ∧ v.mismatch = false ∧ s.awaitedReq v.who = none ∧
      s.globalPlace v.who v.a (atomBytes x.2) .both 10 = (.ok p, s1) ∧ p.isLocal ∧ p.at? = some (sp, y) ∧ ¬(isTagged v = true ∧ 2 ^ 15 ≤ v.c) ∧
      s1.stages v.who = false ∧ s1.poisoned sp y (atomBytes x.2) = false) ∧
    (∃ p s1 s2, Meets (.atomW2 ⟨.z, .reg 0, .reg 4, .z, .idle, .idle, 0⟩) fun v s => releaseReady v s (semReleases v.f.m) (scopeOf v.f.m) ∧
      v.mismatch = false ∧ s.globalPlace v.who v.a (atomBytes (mbits v.f.m 3 0)) .both 10 = (.ok p, s1) ∧ v.f.d = .z ∧ isTagged v = false ∧
      s.stages v.who ∧ s1.stages v.who ∧ (if semReleases v.f.m then s1.release v.who (scopeOf v.f.m) else s1).stage v.t 32
        { op := .atom (mbits v.f.m 3 0) v.b v.c, target := p.target, va := v.a % 2 ^ 52 } = .ok s2) ∧
    (∀ i ∈ [one .atoms, two .atomsW2 14], Meets i fun v s => releaseReady v s (semReleases v.f.m) (scopeOf v.f.m) ∧ v.mismatch = false ∧
      v.a % atomBytes (mbits v.f.m 3 0) = 0 ∧ v.a + atomBytes (mbits v.f.m 3 0) ≤ (s.launchOf v.t).desc.scratch ∧
      s.watchData v.t v.lit v.a (atomBytes (mbits v.f.m 3 0)) true = none ∧
      s.poisoned (.scratch v.t) v.a (atomBytes (mbits v.f.m 3 0)) = false) ∧
    Meets (two .bankop 0x40) (fun v s => v.mismatch = false ∧ v.a % 16 = 0 ∧ v.a + 16 ≤ s.windowSize v.w ∧ s.stages v.who = false ∧
      s.poisoned (.window v.w) v.a 16 = false) ∧
    Meets (two .atomW2) (fun v s => releaseReady v s (semReleases v.f.m) (scopeOf v.f.m) ∧ v.mismatch = false ∧ s.awaitedReq v.who = none ∧
      v.a % atomBytes (mbits v.f.m 3 0) ≠ 0) ∧
    Meets (two .bankop 0x40) (fun v _ => v.mismatch = false ∧ v.a % 16 ≠ 0) := by
  refine ⟨?_, ⟨_, _, _, lane_meets [(0, 0x1FFFC)] (wFlags 4) rfl ⟨rfl, rfl, rfl, rfl, rfl, rfl, rfl, rfl⟩⟩, ?_,
    lane_meets [] (fun s => { s with slices := [(0, { wSlice with winWays := 4 })], worlds := [(1, { wWorld with windowMask := 1 })] }) rfl (by decide +kernel),
    lane_meets [(0, 0x10001)] id rfl (by decide +kernel), lane_meets [(0, 8)] id rfl (by decide +kernel)⟩
  · refine forall_more ?_ (forall_more ?_ (forall_more ?_ (forall_one ?_))) <;>
      exact ⟨_, _, _, _, lane_meets [(0, 0x1FFF8)] id rfl ⟨rfl, rfl, rfl, rfl, rfl, rfl, by decide +kernel, rfl, rfl⟩⟩
  · refine forall_more ?_ (forall_one ?_) <;> exact lane_meets [(0, 4088)] id rfl (by decide +kernel)

set_option maxRecDepth 4000 in
theorem witness_SlotsFencesMonitors :
    (∃ e a y s1, Meets (two .redslot) fun v s => v.mismatch = false ∧ (∃ lit, v.who = .lane v.t lit) ∧
      s.globalPlace v.who v.a (slotBytes (mbits v.f.m 2 0)) .write 2 = (.ok ⟨.device a, y⟩, s1) ∧ (s1.launchOf v.t).ordered ∧
      (s1.team v.t).slots.find? (fun e => e.target == .device a) = some e ∧ e.op = mbits v.f.m 2 0) ∧
    (∃ a y s1 s2, Meets (two .redslot) fun v s => v.mismatch = false ∧ (∃ lit, v.who = .lane v.t lit) ∧
      s.globalPlace v.who v.a (slotBytes (mbits v.f.m 2 0)) .write 2 = (.ok ⟨.device a, y⟩, s1) ∧ (s1.launchOf v.t).ordered ∧
      (s1.team v.t).slots.find? (fun e => e.target == .device a) = none ∧ s1.charge v.t 64 = some s2) ∧
    (∀ i ∈ [one .fence, two .fenceW2 0x30], Meets i fun v s => releaseReady v s (mbits v.f.m 7 6 != 1) (scopeOf v.f.m)) ∧
    (∀ i ∈ [one .tfence, two .tfenceW2], Meets i fun _ _ => True) ∧
    (∃ e, Meets (one .prefetch) fun v s => (s.translate v.w (s.quadOf v.who) (globalAddr v.a v.b) .read false).1 = .error e) ∧
    (∃ p q c sp x s1, Meets (two .prefetchW2 1) fun v s => v.f.m.getLsbD 0 = true ∧
      s.translate v.w (s.quadOf v.who) (globalAddr v.a v.b) .read false = (.ok (p, q), s1) ∧ p.at? = some (sp, x) ∧
      s.coreOf v.who = some c ∧ s1.l1Find c sp (x / 128) = none ∧ s1.poisoned sp (x / 128 * 128) 128 = false) ∧
    (∃ p sp x s1, Meets (one .monitor) fun v s => v.f.m.getLsbD 0 = false ∧
      s.globalPlace v.who (globalAddr v.a v.b) 1 .read 0 = (.ok p, s1) ∧ p.at? = some (sp, x)) ∧
    (∃ t lit, Meets (two .monitorW2 1) fun v s => v.f.m.getLsbD 0 = true ∧ v.who = .lane t lit ∧ (v.a : Int) + sext 32 v.b = 4095 ∧
      4095 < (s.launchOf t).desc.scratch) := by
  refine ⟨⟨⟨0x10000, .device 0, 0, [5]⟩, _, _, _, lane_meets [(0, 0x10000)]
      (fun s => (wFlags 4 s).modTeam 0 fun t => { t with slots := [⟨0x10000, .device 0, 0, [5]⟩] }) rfl ⟨rfl, ⟨0, rfl⟩, rfl, by decide +kernel, by decide +kernel, rfl⟩⟩,
    ⟨_, _, _, _, lane_meets [(0, 0x10000)] (wFlags 4) rfl ⟨rfl, ⟨0, rfl⟩, rfl, rfl, rfl, rfl⟩⟩, ?_, alone_run _ (by rfl),
    ⟨_, lane_meets [(0, 0x30000)] id rfl rfl⟩, ⟨_, _, _, _, _, _, lane_meets [(0, 0x1FF80)] id rfl ⟨rfl, rfl, rfl, rfl, by decide +kernel, by decide +kernel⟩⟩,
    ⟨_, _, _, _, lane_meets [(0, 0x1FFFF)] id rfl ⟨rfl, rfl, rfl⟩⟩, ⟨_, _, lane_meets [(0, 4095)] id rfl ⟨rfl, rfl, rfl, by decide +kernel⟩⟩⟩
  refine forall_more ?_ (forall_one ?_) <;> exact lane_meets [] id rfl rfl

theorem witness_Branches :
    (∀ i ∈ [Instr.beq (.reg 0) (.reg 4) 8, .bne (.reg 0) (.reg 4) 8, .blt (.reg 0) (.reg 4) 8, .bge (.reg 0) (.reg 4) 8, .bltn (.reg 0) (.reg 4) 8,
      .bgen (.reg 0) (.reg 4) 8], Meets i fun v _ => v.prot = true → (v.a == v.b) = (v.a' == v.b')) ∧
    Meets (.beq (.reg 0) (.reg 4) 0x40) (fun v _ => v.prot = true ∧ (v.a == v.b) ≠ (v.a' == v.b') ∧ codeAt v.hdr (0x40#32).toInt ≠ v.next) ∧
    Meets (.blt (.reg 4) (.reg 0) 0x40) (fun v _ => v.prot = true ∧ decide (sext 32 v.a < sext 32 v.b) ≠ decide (sext 32 v.a' < sext 32 v.b') ∧
      codeAt v.hdr (0x40#32).toInt ≠ v.next) ∧
    (∀ i ∈ [Instr.bra 4, .braW2 8], Meets i fun _ _ => True) ∧
    Meets (one .brx) (fun v _ => (v.prot = true → v.a % 2 ^ 52 = v.a' % 2 ^ 52) ∧ v.a % 4 = 0) ∧
    Meets (one .brx) (fun v _ => (v.prot = true → v.a % 2 ^ 52 = v.a' % 2 ^ 52) ∧ v.a % 4 ≠ 0) ∧
    (∀ i ∈ [Instr.call 4, .callW2 8], ∃ s1, Meets i fun v s => 8 ≤ (s.laneOf v.who).sptr.toNat ∧
      s.storePrivate v.who ((s.laneOf v.who).sptr.toNat - 8) (leBytes 8 v.next) = .ok s1) ∧
    (∃ s1, Meets (one .callx) fun v s => (v.prot = true → v.a % 2 ^ 52 = v.a' % 2 ^ 52) ∧ v.a % 4 = 0 ∧ 8 ≤ (s.laneOf v.who).sptr.toNat ∧
      s.storePrivate v.who ((s.laneOf v.who).sptr.toNat - 8) (leBytes 8 v.next) = .ok s1) ∧
    (∃ s1 bs, Meets (one .ret) fun v s => s.loadPrivate v.who (s.laneOf v.who).sptr.toNat 8 = (.ok bs, s1) ∧ ofLe bs % 4 = 0) := by
  refine ⟨?_, lane_meets [(0, 1)] (wFlags 16) rfl (by decide +kernel), lane_meets [(0, 1)] (wFlags 16) rfl (by decide +kernel), alone_run _ (by rfl),
    lane_meets [(0, 4)] id rfl (by decide +kernel), lane_meets [(0, 3)] id rfl (by decide +kernel), ?_,
    ⟨_, prog_meets [] (wStack 4096) rfl ⟨by decide +kernel, rfl, by decide +kernel, rfl⟩⟩,
    ⟨_, _, prog_meets [] (wStack 4088) rfl ⟨rfl, rfl⟩⟩⟩
  · refine forall_more ?_ (forall_more ?_ (forall_more ?_ (forall_more ?_ (forall_more ?_ (forall_one ?_))))) <;>
      exact lane_meets [(0, 1)] id rfl (by decide +kernel)
  · refine forall_more ?_ (forall_one ?_) <;> exact ⟨_, prog_meets [] (wStack 4096) rfl ⟨by decide +kernel, rfl⟩⟩

theorem witness_ExitsAndTraps :
    (∃ t lit, Meets (one .exit) fun v s => anyToken (s.laneOf v.who) .pending = false ∧ anyToken (s.laneOf v.who) .faulted = false ∧ v.who = .lane t lit) ∧
    (∃ w, Meets (one .exit) fun v s => anyToken (s.laneOf v.who) .pending = false ∧ anyToken (s.laneOf v.who) .faulted = false ∧ v.who = .prog w) ∧
    Meets (one .exit) (fun v s => anyToken (s.laneOf v.who) .pending = true) ∧
    Meets (one .exit) (fun v s => anyToken (s.laneOf v.who) .pending = false ∧ anyToken (s.laneOf v.who) .faulted = true) ∧
    (∃ g, Meets (one .yield) fun _ s => s.cur = some (.gang g)) ∧ (∃ w, Meets (one .yield) fun _ s => s.cur = some (.prog w)) ∧
    Meets (one .trapfence) (fun v s => ((if v.prot then (s.laneOf v.who).flags ||| (s.laneOf v.who).sflags else (s.laneOf v.who).flags) &&& flagEnOf s v.who) = 0) ∧
    Meets (one .trapfence) (fun v s => v.prot = false ∧ ((s.laneOf v.who).flags &&& flagEnOf s v.who) ≠ 0) ∧
    (∀ i ∈ [one .trap, two .trapW2 3], Meets i fun _ _ => True) ∧
    Meets (.brk 5 true) (fun _ s => ∀ t, s.cur ≠ some (.seq t)) ∧ SeqMeets (.brk 5 false) (fun _ _ => True) := by
  refine ⟨⟨_, _, lane_meets [] id rfl ⟨rfl, rfl, rfl⟩⟩, ⟨_, prog_meets [] id rfl ⟨rfl, rfl, rfl⟩⟩,
    lane_meets [] (fun s => s.modLane 0 0 fun l => { l with tokens := [(5, { st := .pending })] }) rfl rfl,
    lane_meets [] (fun s => s.modLane 0 0 fun l => { l with tokens := [(0, { st := .faulted })] }) rfl ⟨rfl, rfl⟩,
    ⟨0, lane_meets [] id rfl rfl⟩, ⟨1, prog_meets [] id rfl rfl⟩, lane_meets [] id rfl rfl,
    lane_meets [] (fun s => { s with launches := [(0, { wLaunch with desc := { wLaunch.desc with kflags := 0x1F } })] }.modLane 0 0 fun l => { l with flags := 16 })
      rfl ⟨rfl, by decide +kernel⟩, alone_run _ (by rfl), lane_meets [] id rfl (fun t h => by cases h), seq_meets [] id rfl trivial⟩

/-- A REP before an IADD, in a lane. -/
def repClause : Clause := { onlyClause (.rep 3 true true true false 0) with words := [0x010F8000, 0x10081018] }
theorem witness_Repeats :
    (∃ s a, Alone (issueOp (.rep 3 true true true false 0)) s a repClause ∧ repBreach repClause [true, true, true, false] = false) ∧
    (∃ s a cl, Alone (issueOp (.rep 3 true true true false 0)) s a cl ∧ repBreach cl [true, true, true, false] = true) ∧
    (∃ cl : Clause, cl.words.length ≤ cl.pos + 1) ∧ (∃ (cl : Clause) (w : Word), cl.words[cl.pos + 1]? = some w ∧ w.extractLsb' 24 8 = 0x01#8) ∧
    (∃ (cl : Clause) (w : Word), cl.words[cl.pos + 1]? = some w ∧ w.extractLsb' 24 8 = 0x83#8) ∧
    (∃ (cl : Clause) (r : Rep), cl.rep = some r ∧ r.idx + 1 < r.count) ∧ (∃ (cl : Clause) (r : Rep), cl.rep = some r ∧ r.count ≤ r.idx + 1) ∧
    (∃ r e f f', stepFields (some r) e f = some f') ∧
    (∃ (r : Rep) (e : Entry) (n : Fin 240), r.sd = true ∧ 240 ≤ n.val + r.idx * r.stride * e.dw) := by
  refine ⟨⟨{ laneAt (.rep 3 true true true false 0) [] with
      gangs := [(0, { core := 0, team := 0, lanes := [0], clause := repClause, age := 0, began := 0 })] }, .lane 0 0, alone_of _ _ _ _ rfl, rfl⟩,
    ⟨laneAt (.rep 3 true true true false 0) [], .lane 0 0, onlyClause (.rep 3 true true true false 0), alone_of _ _ _ _ rfl, rfl⟩,
    ⟨onlyClause (one .nop), by decide⟩, ⟨{ repClause with words := [0x010F8000, 0x010F8000] }, _, rfl, rfl⟩,
    ⟨{ repClause with words := [0x010F8000, 0x83F8F0F0, 0] }, _, rfl, rfl⟩,
    ⟨{ repClause with rep := some ⟨62, 64, true, true, true, true, 1⟩ }, _, rfl, by decide⟩,
    ⟨{ repClause with rep := some ⟨63, 64, true, true, true, true, 1⟩ }, _, rfl, by decide⟩,
    ⟨⟨1, 2, true, true, true, true, 8⟩, Entry.bare 0 0, ⟨.reg 0, .reg 1, .reg 2, .z, .idle, .idle, 0⟩, _, rfl⟩,
    ⟨⟨1, 2, true, true, true, true, 1⟩, { Entry.bare 0 0 with dw := 1 }, 239, by decide⟩⟩
theorem witness_Barriers :
    (∀ i ∈ [one .tbar, one .cbar, one .await], (∃ t lit p, Meets i fun v s => v.a < 16 ∧ v.who = .lane t lit ∧ (s.lane t lit).woken = some p) ∧
      ∃ t lit, Meets i fun v s => v.a < 16 ∧ v.who = .lane t lit ∧ (s.lane t lit).woken = none ∧ (s.lane t lit).waits = false) ∧
    (∃ t lit, Meets (one .tbar) fun v s => v.who = .lane t lit ∧ (s.lane t lit).waits = true ∧ (s.lane t lit).arrived.get 0 0 = s.phase t 0) ∧
    (∃ t lit, Meets (one .tbar) fun v s => v.who = .lane t lit ∧ (s.lane t lit).woken = none ∧ (s.lane t lit).waits = true ∧ (s.lane t lit).arrived.get 0 0 ≠ s.phase t 0) ∧
    (∃ s : State, ∃ t, (s.team t).drained = true) ∧ (∀ b ∈ [true, false], ∃ s : State, s.barFull 0 0 = b ∧ (s.launchOf 0).guarded = false) ∧
    Meets (one .await) (fun v _ => 16 ≤ v.a) ∧
    (∃ t lit, Meets (one .arrive) fun v s => v.who = .lane t lit ∧ v.a < 16 ∧ (s.lane t lit).arrived.get 0 (2 + v.a) ≠ s.phase t (2 + v.a) + 1) ∧
    (∃ t lit, Meets (one .arrive) fun v _ => v.who = .lane t lit ∧ 16 ≤ v.a) ∧
    (∃ t lit, Meets (one .arrive) fun v s => v.who = .lane t lit ∧ (s.lane t lit).arrived.get 0 (2 + v.a) = s.phase t (2 + v.a) + 1) ∧
    (∀ i ∈ [one .mwait, two .mwaitW2], (Meets i fun v s => (s.laneOf v.who).woken = none ∧ (s.laneOf v.who).st ≠ .mwait ∧ (s.laneOf v.who).armed = none) ∧
      (∃ r, Meets i fun v s => (s.laneOf v.who).woken = none ∧ (s.laneOf v.who).st ≠ .mwait ∧ (s.laneOf v.who).armed = some r ∧ r.written = true) ∧
      (∃ d, Meets i fun v s => (s.laneOf v.who).woken = some d) ∧
      ∃ t lit r, Meets i fun v s => v.who = .lane t lit ∧ (s.lane t lit).woken = none ∧ (s.lane t lit).st ≠ .mwait ∧
        (s.lane t lit).armed = some r ∧ r.written = false) := by
  refine ⟨?_, ⟨_, _, lane_meets [] (wLane fun l => { l with waits := true }) rfl ⟨rfl, rfl, rfl⟩⟩,
    ⟨_, _, lane_meets [] (wLane fun l => { l with waits := true, arrived := [(0, 1)] }) rfl ⟨rfl, rfl, rfl, by decide +kernel⟩⟩,
    ⟨(laneAt (one .nop) []).modTeam 0 fun x => { x with drained := true }, 0, rfl⟩,
    forall_more ⟨laneAt (one .nop) [] (wLane fun l => { l with arrived := [(0, 1)] }), by decide +kernel, rfl⟩ (forall_one ⟨laneAt (one .nop) [], by decide +kernel, rfl⟩),
    lane_meets [(0, 16)] id rfl (by decide +kernel), ⟨_, _, lane_meets [(0, 15)] id rfl ⟨rfl, by decide +kernel, by decide +kernel⟩⟩,
    ⟨_, _, lane_meets [(0, 16)] id rfl ⟨rfl, by decide +kernel⟩⟩,
    ⟨_, _, lane_meets [(0, 15)] (wLane fun l => { l with arrived := [(17, 1)] }) rfl ⟨rfl, by decide +kernel⟩⟩, ?_⟩
  · refine forall_more ?_ (forall_more ?_ (forall_one ?_)) <;>
      exact ⟨⟨_, _, _, lane_meets [] (wLane fun l => { l with woken := some 1 }) rfl ⟨by decide +kernel, rfl, rfl⟩⟩,
        ⟨_, _, lane_meets [] id rfl ⟨by decide +kernel, rfl, rfl, rfl⟩⟩⟩
  · refine forall_more ?_ (forall_one ?_) <;>
      exact ⟨lane_meets [] id rfl ⟨rfl, by decide +kernel, rfl⟩,
        ⟨_, lane_meets [] (wLane fun l => { l with armed := some ⟨.hbm, 0, true⟩ }) rfl ⟨rfl, by decide +kernel, rfl, rfl⟩⟩,
        ⟨_, lane_meets [] (wLane fun l => { l with woken := some 2 }) rfl rfl⟩,
        ⟨_, _, _, lane_meets [] (wLane fun l => { l with armed := some ⟨.hbm, 0, false⟩ }) rfl ⟨rfl, rfl, by decide +kernel, rfl, rfl⟩⟩⟩

/-- A lane, a control program and a sequencer before the clause at VA 0x10000: a header of one word, and that word. -/
def wCode (h : Nat) : SMap Byte := [(0, BitVec.ofNat 8 h), (4, 0xF0), (5, 0xF0), (6, 0xF0)]
def laneHdr (h : Nat) (f : State → State := id) : State :=
  f ({ laneAt (one .nop) [] with gangs := [], cur := none, hbm := wCode h }.modLane 0 0 fun l => { l with inClause := false, pc := 0x10000 })
noncomputable def seqHdr (h : Nat) : State :=
  { seqAt (one .seqMov) [] with hbm := wCode h }.modSeq 0 fun q => { q with clause := none, inClause := false, pc := 0x10000 }
def progHdr (h : Nat) : State :=
  { progAt (one .nop) [] with hbm := wCode h }.modProg 1 fun p =>
    { p with clause := none, codeBase := 0x1000, codeSize := 0x10000, lane := { p.lane with pc := 0x10000 } }

set_option maxRecDepth 4000 in
theorem witness_ClauseFetches :
    (∃ s : State, ∃ a va, va % 4 = 0 ∧ (va < (s.codeOf a).1 ∨ (s.codeOf a).1 + (s.codeOf a).2 < va + 4)) ∧
    (∃ h, bits h 3 0 = 0) ∧ (∃ h, bits h 6 4 = 7) ∧ (∃ h, bits h 31 20 ≠ 0) ∧ (∃ h, bits h 6 4 = 5) ∧
    (∃ s u : State, ∃ t h ws, s.cur = some (.seq t) ∧ (s.seqOf t).haltReq = false ∧ (s.seqOf t).inClause = false ∧
      s.fetchClause (.seq t) (s.seqOf t).pc = (.ok (h, ws), u) ∧ bit h 7 = false) ∧
    (∃ s u : State, ∃ w h ws, s.cur = some (.prog w) ∧ s.fetchClause (.prog w) (s.prog w).lane.pc = (.ok (h, ws), u) ∧
      State.waitsOn (u.prog w).lane h .pending = false) ∧
    (∃ s u : State, ∃ w r, s.cur = some (.prog w) ∧ s.fetchClause (.prog w) (s.prog w).lane.pc = (.error r, u)) ∧
    (∃ s u : State, ∃ h ws, (∀ v, s.cur ≠ some (.seq v)) ∧ (∀ w, s.cur ≠ some (.prog w)) ∧ (s.team 0).core = 0 ∧ (s.team 0).st = .resident ∧
      (s.team 0).rollback = none ∧ (∀ lit, (s.lane 0 lit).haltReq = false) ∧ s.leaderAt 0 0 0x10000 = some 0 ∧ (s.lane 0 0).inClause = false ∧
      s.fetchClause (.lane 0 0) 0x10000 = (.ok (h, ws), u) ∧ (∀ lit ∈ s.freeLanes 0, acting u (.lane 0 lit) = true) ∧ bit h 7 = false ∧
      bit h 8 = false ∧ bits h 14 9 = 0 ∧ isConvergent (bits h 6 4) ws = false ∧
      takeQuartets (s.launchOf 0).width ((s.freeLanes 0).filter fun lit => (s.lane 0 lit).sameSpot (s.lane 0 0)) ≠ []) ∧
    (∃ s u : State, ∃ r, (∀ v, s.cur ≠ some (.seq v)) ∧ (∀ w, s.cur ≠ some (.prog w)) ∧ (s.team 0).core = 0 ∧ (s.team 0).st = .resident ∧
      (s.team 0).rollback = none ∧ (∀ lit, (s.lane 0 lit).haltReq = false) ∧ s.leaderAt 0 0 0x10000 = some 0 ∧
      s.fetchClause (.lane 0 0) 0x10000 = (.error r, u)) := by
  have nh : ∀ h lit, ((laneHdr h).lane 0 lit).haltReq = false := by
    intro h lit
    match lit with
    | 0 => rfl
    | _ + 1 => rfl
  refine ⟨⟨laneHdr 1, .lane 0 0, 0x0FFC, by decide +kernel⟩, ⟨0x10, rfl⟩, ⟨0x71, rfl⟩, ⟨0x100001, by decide⟩, ⟨0x51, rfl⟩,
    ⟨seqHdr 0x51, _, 0, _, _, rfl, rfl, rfl, rfl, by decide +kernel⟩, ⟨progHdr 0x01, _, 1, _, _, rfl, rfl, by decide +kernel⟩,
    ⟨progHdr 0, _, 1, _, rfl, rfl⟩,
    ⟨laneHdr 1, _, _, _, (fun _ h => by cases h), (fun _ h => by cases h), rfl, rfl, rfl, nh 1, rfl, rfl, rfl, by decide +kernel, by decide +kernel,
      by decide +kernel, by decide +kernel, by decide +kernel, by decide +kernel⟩,
    ⟨laneHdr 0, _, _, (fun _ h => by cases h), (fun _ h => by cases h), rfl, rfl, rfl, nh 0, rfl, rfl⟩⟩

theorem witness_IssueEvents :
    (∃ s : State, ∃ p, s.oldestPending 0 = some p ∧ s.slotOpen 0 7 = true ∧ s.slotGroup 0 7 = none ∧ p.2 < (s.team p.1).groups.length) ∧
    (∃ s : State, ∃ q, s.slotGroup 0 0 = some q) ∧ (∃ s : State, s.oldestPending 0 = none) ∧ (∃ s : State, s.progress.get 0 0 < 1024) ∧
    (∃ s : State, ∃ t lit, 1024 ≤ s.progress.get 0 0 ∧ s.override.contains 0 = false ∧ s.progressLane 0 = some (t, lit) ∧ s.groupActive t lit = true) ∧
    (∃ s : State, ∃ t lit slot, 1024 ≤ s.progress.get 0 0 ∧ s.override.contains 0 = true ∧ s.progressLane 0 = some (t, lit) ∧
      s.groupActive t lit = false ∧ s.displaceable 0 = some slot) ∧
    (∃ s : State, ∃ g x, s.gang g = some x ∧ x.core = 0) ∧
    (∃ s : State, (s.lane 0 0).st = .join ∧ (s.lane 0 0).since + 64 ≤ s.cycle) ∧ (∃ s : State, s.cycle < (s.lane 0 0).since + 64) ∧
    (∃ s : State, (s.lane 0 0).st = .mwait ∧ (s.lane 0 0).mwLimit ≠ 0 ∧ (s.lane 0 0).since + (s.lane 0 0).mwLimit ≤ s.cycle) ∧
    (∃ s : State, (s.lane 0 0).mwLimit = 0) ∧ (∃ s : State, s.cycle < (s.lane 0 0).since + (s.lane 0 0).mwLimit) ∧
    (∃ s : State, ∃ a cl, agentsOf s = some ([a], cl) ∧ acting s a = true ∧ (s.laneOf a).haltReq = false) ∧ (∃ s : State, s.cur = some (.seq 0)) := by
  refine ⟨⟨laneHdr 1 wPending, _, rfl, rfl, rfl, by decide +kernel⟩, ⟨laneHdr 1, _, rfl⟩, ⟨laneHdr 1, rfl⟩, ⟨{ State.reset with progress := [(0, 1023)] }, by decide⟩,
    ⟨laneHdr 1 fun s => { s with progress := [(0, 1024)] }, _, _, by decide +kernel, rfl, rfl, rfl⟩,
    ⟨laneHdr 1 fun s => { wPending s with progress := [(0, 1024)], override := [0] }, _, _, _, by decide +kernel, rfl, rfl, rfl, rfl⟩,
    ⟨laneAt (one .nop) [], 0, _, rfl, rfl⟩,
    ⟨laneHdr 1 fun s => { s.modLane 0 0 fun l => { l with st := .join, since := 5 } with cycle := 69 }, by decide +kernel⟩,
    ⟨laneHdr 1 fun s => { s.modLane 0 0 fun l => { l with st := .join, since := 5 } with cycle := 68 }, by decide +kernel⟩,
    ⟨laneHdr 1 fun s => { s.modLane 0 0 fun l => { l with st := .mwait, since := 5, mwLimit := 1 } with cycle := 6 }, by decide +kernel⟩,
    ⟨laneHdr 1, by decide +kernel⟩,
    ⟨laneHdr 1 fun s => { s.modLane 0 0 fun l => { l with st := .mwait, since := 5, mwLimit := 1 } with cycle := 5 }, by decide +kernel⟩,
    ⟨laneAt (one .nop) [], _, _, rfl, rfl, rfl⟩, ⟨seqAt (one .seqMov) [], rfl⟩⟩
/-- A descriptor set of one run of four bytes. -/
def wDs (s : State) : State :=
  s.modTeam 0 fun t => { t with groups := [{ slot := some 0, ds := [(0, BitVec.ofNat 64 (4 + 2 ^ 16 + 2 ^ 32))] }] }
/-- The command that a lane issues, as the unit checks it. -/
def wCopy (v : Env) (s : State) (op : Nat) : Copy :=
  { quad := s.quadOf v.who, who := v.who, world := v.w, op := op, m := v.f.m, a := v.a, b := v.b, c := v.c,
    ds := s.dsOf v.who, token := mbits v.f.m 2 0, pieces := [], bytes := [] }
def copyPremise (op : Nat) (x : Copy) (s1 : State) (v : Env) (s : State) : Prop :=
  v.mismatch = false ∧ (s.tokenOf v.who (mbits v.f.m 2 0)).st ≠ .faulted ∧ (s.tokenOf v.who (mbits v.f.m 2 0)).st ≠ .pending ∧
    s.unitLoad (s.quadOf v.who) + gangSize s ≤ 512 ∧ s.channelBusy v.w (bits v.c 25 24) op = false ∧ s.channelBusy v.w x.channel op = false ∧
    s.stages v.who = false ∧ s.checkCopy (wCopy v s op) = .ok x ∧ (if x.ro then s.addTile x else .ok s) = .ok s1 ∧ s1.stages v.who = false
def faultPremise (op : Nat) (v : Env) (s : State) : Prop :=
  v.mismatch = false ∧ (s.tokenOf v.who (mbits v.f.m 2 0)).st = .faulted ∧ s.unitLoad (s.quadOf v.who) + gangSize s ≤ 512 ∧
    s.channelBusy v.w (bits v.c 25 24) op = false
def wFaulted (s : State) : State := (wDs s).modLane 0 0 fun l => { l with tokens := [(0, { st := .faulted })] }
/-- A command of four bytes from VA 0x10000 to 0x11000, under way or faulted. -/
def copy4 (pending : Bool) : Copy :=
  { quad := 0, who := .lane 0 0, world := 1, op := 1, m := 0, a := 0x10000, b := 0x11000, c := 0
    ds := [BitVec.ofNat 64 (4 + 2 ^ 16 + 2 ^ 32)], token := 0, pieces := [if pending then .todo else .missing], bytes := [4], pending := pending }
def wReplay (s : State) : State := { wFaulted s with copies := [(0, copy4 false)], nextCopy := 1 }

set_option maxRecDepth 8000 in
theorem witness_CopyCommands :
    (∀ x ∈ [(1, one .copy), (1, two .copyW2 0), (3, one .gather), (4, one .scatter), (7, one .chsend), (8, one .chrecv)],
      (∃ y s1, Meets x.2 (copyPremise x.1 y s1)) ∧ Meets x.2 (faultPremise x.1)) ∧
    ((∃ y s1, Meets (one .copyw) (copyPremise 2 y s1)) ∧ Meets (one .copyw) (faultPremise 2)) ∧
    ((∃ y s1, Meets (one .combine) (copyPremise 5 y s1)) ∧ Meets (one .combine) (faultPremise 5)) ∧
    (∀ i ∈ [one .tdset, two .tdsetW2], ∃ t lit, Meets i fun v _ => v.mismatch = false ∧ v.b < 8 ∧ v.who = .lane t lit) ∧
    (∀ i ∈ [one .replay, two .replayW2], ∃ c x, Meets i fun v s => v.f.m.getLsbD 6 = false ∧ s.unitLoad (s.quadOf v.who) + gangSize s ≤ 512 ∧
      (s.tokenOf v.who (mbits v.f.m 2 0)).st = .faulted ∧
      s.copies.find? (fun (_, x) => x.who == v.who && x.token == mbits v.f.m 2 0 && !x.pending) = some (c, x)) ∧
    (∃ c x, Meets (two .replayW2 0x40) fun v s => v.f.m.getLsbD 6 = true ∧
      (s.tokenOf v.who (mbits v.f.m 2 0)).st = .faulted ∧ s.copies.look c = some x ∧ x.op ≠ 7 ∧
      s.copies.find? (fun (_, x) => x.who == v.who && x.token == mbits v.f.m 2 0 && !x.pending) = some (c, x)) ∧
    Meets (one .copy) (fun v s => (s.tokenOf v.who (mbits v.f.m 2 0)).st = .pending) ∧
    (∃ s : State, ∃ x src dst s1, s.copies.look 0 = some x ∧ x.pending ∧ x.pieces.findIdx? (· == .todo) = some 0 ∧ x.pieces[0]? = some .todo ∧
      s.copyHeld x = false ∧ State.progSide x = false ∧ x.op = 1 ∧ s.pieceSpots x (x.runs.getD 0 []) = (.ok (src, dst), s1) ∧ s1.pieceReads x src dst = []) ∧
    (∃ s : State, ∃ x e flags va s1, s.copies.look 0 = some x ∧ x.pending ∧ x.pieces.findIdx? (· == .todo) = some 0 ∧ x.pieces[0]? = some .todo ∧
      s.copyHeld x = false ∧ State.progSide x = false ∧ x.op = 1 ∧ s.pieceSpots x (x.runs.getD 0 []) = (.error ⟨e, flags, va⟩, s1) ∧ e.code = 1 ∧ e.ask = none) := by
  refine ⟨?_, ⟨⟨_, _, lane_meets [(4, 0x11000)] wDs rfl ⟨rfl, by decide +kernel, by decide +kernel, by decide +kernel, rfl, rfl, rfl, rfl, rfl, rfl⟩⟩,
      lane_meets [] wFaulted rfl ⟨rfl, rfl, by decide +kernel, rfl⟩⟩,
    ⟨⟨_, _, lane_meets [(0, 0x10000), (4, 4)] wDs rfl ⟨rfl, by decide +kernel, by decide +kernel, by decide +kernel, rfl, rfl, rfl, rfl, rfl, rfl⟩⟩,
      lane_meets [] wFaulted rfl ⟨rfl, rfl, by decide +kernel, rfl⟩⟩, ?_, ?_,
    ⟨0, copy4 false, lane_meets [] wReplay rfl ⟨rfl, rfl, rfl, by decide, rfl⟩⟩,
    lane_meets [] (fun s => s.modLane 0 0 fun l => { l with tokens := [(0, { st := .pending })] }) rfl rfl,
    ⟨{ laneAt (one .nop) [] with copies := [(0, copy4 true)] }, copy4 true, _, _, _, rfl, rfl, rfl, rfl, rfl, rfl, rfl, rfl, rfl⟩,
    ⟨{ laneAt (one .nop) [] with copies := [(0, { copy4 true with a := 0x30000 })], worlds := [(1, { wWorld with context := some ⟨0, 0, 0, 0, 0⟩ })] },
      { copy4 true with a := 0x30000 }, _, _, _, _, rfl, rfl, rfl, rfl, rfl, rfl, rfl, rfl, rfl, rfl⟩⟩
  · refine forall_more ?_ (forall_more ?_ (forall_more ?_ (forall_more ?_ (forall_more ?_ (forall_one ?_))))) <;>
      exact ⟨⟨_, _, lane_meets [(0, 0x10000), (4, 0x11000)] wDs rfl
          ⟨rfl, by decide +kernel, by decide +kernel, by decide +kernel, rfl, rfl, rfl, rfl, rfl, rfl⟩⟩,
        lane_meets [] wFaulted rfl ⟨rfl, rfl, by decide +kernel, rfl⟩⟩
  · refine forall_more ?_ (forall_one ?_) <;> exact ⟨_, _, lane_meets [(4, 7)] id rfl ⟨rfl, by decide +kernel, rfl⟩⟩
  · refine forall_more ?_ (forall_one ?_) <;> exact ⟨0, copy4 false, lane_meets [] wReplay rfl ⟨rfl, by decide +kernel, rfl, rfl⟩⟩
def wSeq (f : Seq → Seq) (s : State) : State := s.modSeq 0 f
def wWalk (n : Nat) : Walk := { e0 := 1, e1 := 1, e2 := n, d := 8, order := true, body := 0x1004, visited := [], current := 0 }
/-- A pass of team 0, in the table. -/
def wPass : Pass :=
  { team := 0, op := 8, m := 0, a := 0, b := 4, c := 0, plane := none, epi := 0, epiScale := 0, epiBias := 0, draw := 0, va := 0, pages := [],
    posted := 0, prio := 1 }
def wPasses (s : State) : State := { s with passes := [(0, wPass)], nextPass := 1 }

theorem witness_SequencerControl :
    (∀ i ∈ [one .seqIadd, two .seqIaddW2, one .seqIsub, two .seqIsubW2, one .seqImul, two .seqImulW2, one .seqImin, two .seqIminW2, one .seqImax,
      two .seqImaxW2, one .seqAnd, two .seqAndW2, one .seqOr, two .seqOrW2, one .seqXor, two .seqXorW2, one .seqShl, two .seqShlW2, one .seqShr,
      two .seqShrW2, one .seqMov, two .seqMovW2, .seqMovi (.reg 31) 7, .seqMoviW2 (.reg 31) 7, .seqBeq (.reg 0) (.reg 4) 8,
      .seqBne (.reg 0) (.reg 4) 8, .seqBlt (.reg 0) (.reg 4) 8, .seqBge (.reg 0) (.reg 4) 8, .seqBra 2, .seqBraW2 8],
      SeqMeets i fun _ _ => True) ∧
    (∀ i ∈ [one .walk, two .walkW2 1], ∃ n : Fin 240, SeqMeets i fun v s => v.f.d = .reg n ∧ n.val ≤ 29 ∧ v.a < 2 ^ 28 ∧ bits v.a 15 12 = 0 ∧
      v.b < 2 ^ 12 ∧ (s.seqOf v.t).walk = none ∧ (bits v.a 27 16 + 1) * (bits v.a 11 0 + 1) * (bits v.b 11 0 + 1) ≤ 4096) ∧
    (∃ w : Walk, w.order = true ∧ ∀ i, i < w.size → i ∈ w.visited → i ≤ w.current) ∧ (0 < (wWalk 3).e0 ∧ 0 < (wWalk 3).e1 ∧ 2 < (wWalk 3).e2) ∧
    (∀ i ∈ [one .endwalk, two .endwalkW2], (∃ w, SeqMeets i fun v s => (s.seqOf v.t).walk = some w ∧ w.current ∉ w.visited ∧ w.visited.length + 1 = w.size) ∧
      ∃ w, SeqMeets i fun v s => (s.seqOf v.t).walk = some w ∧ w.current ∉ w.visited ∧ w.visited.length + 1 ≠ w.size) ∧
    SeqMeets (one .seqArrive) (fun v s => v.a < 16 ∧ (s.seqOf v.t).arrived.get 0 (2 + v.a) ≠ s.phase v.t (2 + v.a) + 1) ∧
    SeqMeets (one .seqAwait) (fun v s => v.a < 16 ∧ (s.seqOf v.t).waits = false) ∧
    SeqMeets (one .seqAwait) (fun v s => v.a < 16 ∧ (s.seqOf v.t).waits = true ∧ (s.seqOf v.t).arrived.get 0 (2 + v.a) ≠ s.phase v.t (2 + v.a)) ∧
    SeqMeets (one .seqAwait) (fun v s => v.a < 16 ∧ (s.seqOf v.t).waits = true ∧ (s.seqOf v.t).arrived.get 0 (2 + v.a) = s.phase v.t (2 + v.a)) ∧
    (∃ s : State, ∃ cl, (s.seqOf 0).st = .barrier ∧ (s.seqOf 0).bar = 17 ∧ (s.seqOf 0).clause = some cl) ∧
    SeqMeets (one .swait) (fun v s => s.passesOf v.t = []) ∧ SeqMeets (one .swait) (fun v s => s.passesOf v.t ≠ []) ∧
    SeqMeets (one .sqexit) (fun v s => s.passesOf v.t = [] ∧ (s.seqOf v.t).walk = none) ∧
    SeqMeets (one .sqexit) (fun v s => s.passesOf v.t ≠ [] ∧ (s.seqOf v.t).walk = none) ∧
    SeqMeets (one .sqexit) (fun v s => (s.seqOf v.t).walk ≠ none) := by
  refine ⟨seqs_run _ (by rfl), ?_, ⟨wWalk 3, rfl, fun _ _ h => by cases h⟩, by decide, ?_, seq_meets [(0, 15)] id rfl (by decide +kernel),
    seq_meets [(0, 15)] id rfl (by decide +kernel), seq_meets [(0, 15)] (wSeq fun q => { q with waits := true, arrived := [(17, 1)] }) rfl (by decide +kernel),
    seq_meets [(0, 15)] (wSeq fun q => { q with waits := true }) rfl (by decide +kernel),
    ⟨seqAt (one .swait) [] (wSeq fun q => { q with st := .barrier, bar := 17 }), _, rfl, rfl, rfl⟩, seq_meets [] id rfl rfl,
    seq_meets [] wPasses rfl (by decide +kernel), seq_meets [] id rfl ⟨rfl, rfl⟩, seq_meets [] wPasses rfl (by decide +kernel),
    seq_meets [] (wSeq fun q => { q with walk := some (wWalk 2) }) rfl (by decide +kernel)⟩
  · refine forall_more ?_ (forall_one ?_) <;> exact ⟨8, seq_meets [(0, 0xFFF), (4, 0)] id rfl ⟨rfl, by decide +kernel⟩⟩
  · refine forall_more ?_ (forall_one ?_) <;>
      exact ⟨⟨wWalk 1, seq_meets [] (wSeq fun q => { q with walk := some (wWalk 1) }) rfl ⟨rfl, by decide, by decide +kernel⟩⟩,
        ⟨wWalk 2, seq_meets [] (wSeq fun q => { q with walk := some (wWalk 2) }) rfl ⟨rfl, by decide, by decide +kernel⟩⟩⟩

/-- The pass that an instruction of the engine posts. -/
def postOf (op : Nat) (v : SeqEnv) (s : State) : Pass :=
  { team := v.t, op := op, m := v.f.m, a := v.a, b := v.b, c := v.c, plane := (s.seqOf v.t).active, epi := (s.seqOf v.t).epi,
    epiScale := (s.seqOf v.t).epiScale, epiBias := (s.seqOf v.t).epiBias, draw := (s.seqOf v.t).draw, va := 0, pages := [],
    posted := s.cycle, prio := (s.launchOf v.t).prio }
def postPremise (op : Nat) (full : Bool) (pages : List (Target × Option (Space × Nat))) (s1 : State) (v : SeqEnv) (s : State) : Prop :=
  (postOf op v s).check (s.launchOf v.t).desc.scratch ((s.launchOf v.t).desc.accum * 65536) = none ∧
    s.passPages v.t (postOf op v s) = (.ok pages, s1) ∧ s1.stages (.seq v.t) = false ∧ s1.tableFull v.t = full
def wPlane (s : State) : State := s.modSeq 0 fun q => { q with active := some ⟨0, 0, false, 1, 1, 0, 0, 0⟩ }
/-- A pass whose activations lie at a peer, and its request. -/
def wPeerPass : Pass := { wPass with op := 3, plane := some ⟨0, 0, false, 1, 1, 0, 0, 0⟩, pages := [(.peer 5 0, none)] }
def wPassReq : Req := { tag := 0, who := .seq 0, inner := some 128, pass := some 0, accel := 5, wpa := 0, write := false, awaited := true }
/-- Eight passes of the team fill its queue. -/
def wFull (s : State) : State := { wPlane s with passes := (List.range 8).map fun k => (k, wPass), nextPass := 8 }

set_option maxRecDepth 4000 in
theorem witness_MatrixPasses :
    (∀ x ∈ [(0, one .mload), (0, two .mloadW2), (1, one .mswap), (2, one .mstream), (3, one .mvstream), (4, one .mdist), (5, one .mtopk),
      (7, one .mdrain), (8, one .mclear), (8, two .mclearW2)], ∃ pages s1, SeqMeets x.2 (postPremise x.1 false pages s1)) ∧
    (∃ pages s1, SeqMeets (two .mclearW2) (postPremise 8 true pages s1)) ∧
    (∃ y, SeqMeets (two .mclearW2) fun v s => (postOf 8 v s).check (s.launchOf v.t).desc.scratch ((s.launchOf v.t).desc.accum * 65536) = some y) ∧
    (∃ s : State, ∃ q, (s.team 0).seq = some q) ∧
    (∀ i ∈ [one .mepi, two .mepiW2], SeqMeets i fun v _ => epiOk (BitVec.ofNat 64 v.a) ∧ v.b % 4 = 0 ∧ v.c % 4 = 0) ∧
    (∃ s : State, ∃ i p, (∀ e ∈ s.quadPasses 0, e.2.granted = false) ∧ s.arbiter 0 = some (i, p) ∧ State.passReads p = []) ∧
    (∃ s : State, ∃ i p, (∀ e ∈ s.quadPasses 0, e.2.granted = false) ∧ s.arbiter 0 = some (i, p) ∧ State.passReads p ≠ []) ∧
    (∃ s : State, ∃ i p, (s.quadPasses 0).find? (fun e => e.2.granted) = some (i, p) ∧ (s.team p.team).st ≠ .gone ∧ State.passReads p = [] ∧
      ∀ r ∈ s.passReqs i, r.st ≠ .waiting) ∧
    (∃ s : State, ∃ i p r, (s.quadPasses 0).find? (fun e => e.2.granted) = some (i, p) ∧ (s.team p.team).st ≠ .gone ∧ r ∈ s.passReqs i ∧ r.st = .waiting) ∧
    (∃ s : State, ∃ p, (s.quadPasses 0).find? (fun (i, p) => i == 0 && !p.granted && decide (p.posted + 65536 ≤ s.cycle)) = some (0, p)) := by
  refine ⟨?_, ⟨_, _, seq_meets [] wFull (by decide +kernel) ⟨by decide +kernel, rfl, by decide +kernel, by decide +kernel⟩⟩, ⟨_, seq_meets [(0, 2)] id rfl rfl⟩,
    ⟨seqAt (one .swait) [], _, rfl⟩, ?_, ⟨seqAt (one .swait) [] wPasses, _, _, by decide +kernel, rfl, rfl⟩,
    ⟨{ seqAt (one .swait) [] with passes := [(0, wPeerPass)] }, _, _, by decide +kernel, rfl, by decide +kernel⟩,
    ⟨{ seqAt (one .swait) [] with passes := [(0, { wPass with granted := true })] }, _, _, rfl, by decide +kernel, rfl, fun r h => by cases h⟩,
    ⟨{ seqAt (one .swait) [] with passes := [(0, { wPeerPass with granted := true })], reqs := [wPassReq] }, _, _, wPassReq, rfl, by decide +kernel, by decide +kernel, rfl⟩,
    ⟨{ seqAt (one .swait) [] wPasses with cycle := 65536 }, wPass, by decide +kernel⟩⟩
  · refine forall_more ?_ (forall_more ?_ (forall_more ?_ (forall_more ?_ (forall_more ?_ (forall_more ?_ (forall_more ?_ (forall_more ?_
      (forall_more ?_ (forall_one ?_))))))))) <;>
      first
      | exact ⟨_, _, seq_meets [] wPlane (by decide +kernel) ⟨by decide +kernel, rfl, by decide +kernel, by decide +kernel⟩⟩
      | exact ⟨_, _, seq_meets [(0, 0x10000)] wPlane (by decide +kernel) ⟨by decide +kernel, rfl, by decide +kernel, by decide +kernel⟩⟩
  · refine forall_more ?_ (forall_one ?_) <;> exact seq_meets [] id rfl (by decide +kernel)
/-- The SLICE firmware executes. -/
def firmAt : State := { State.reset with cur := some (.firm 0) }
def firmClause : Clause := { hdr := 0, cls := 6, words := [0], yield := false, safe := true }
/-- A ring of 16 records at VA 0x10000, with head and tail. -/
def wRing (head tail : Nat) (s : State) : State :=
  s.modWorld 1 fun x => { x with rings := [(7, { base := 0x10004, head := BitVec.ofNat 32 head, tail := BitVec.ofNat 32 tail })] }
def wEvent (s : State) : State := s.modSlice 0 fun x => { x with events := [{ type := 6, world := 1, aux := 0 }] }

set_option maxRecDepth 8000 in
theorem witness_SystemInstructions :
    (∀ i ∈ [one .sread, two .sreadW2], (∃ x, Meets i fun v s => selectorFault v.who v.a = none ∧ v.a < 0x400 ∧ selectorGet s v.who v.a = some x) ∧
      (∃ x, Meets i fun v s => selectorFault v.who v.a = none ∧ 0x400 ≤ v.a ∧ v.a ≠ 0x407 ∧ s.dbgGet v.w v.a = some x) ∧
      (Meets i fun v _ => 0x400 ≤ v.a ∧ v.a < 0x1000 ∧ ∃ t lit, v.who = .lane t lit ∧ (v.a ≤ 0x4FF ∨ 0x800 ≤ v.a))) ∧
    (∀ i ∈ [one .swrite, two .swriteW2], (Meets i fun v _ => selectorFault v.who v.a = none ∧ v.a = 0) ∧
      Meets i fun v _ => selectorFault v.who v.a = none ∧ v.a = 3) ∧
    (∀ i ∈ [one .launch, two .launchW2 1], ∃ t lit p sp x s1 s2 raw, Meets i fun v s => s.activating = false ∧
      releaseReady v s (v.f.m.getLsbD 0) 3 ∧ v.mismatch = false ∧ s.awaitedReq v.who = none ∧ v.who = .lane t lit ∧
      s.globalPlace v.who v.a 128 .read 0 = (.ok p, s1) ∧ p.isLocal ∧ p.at? = some (sp, x) ∧
      s1.loadAt v.who sp x 128 .weak = (some raw, s2) ∧ s1.stagedPoison v.who p.target.key 128 = false ∧
      (s2.release v.who (if v.f.m.getLsbD 0 then 3 else 2)).stages v.who = false) ∧
    (∀ i ∈ [one .qread, two .qreadW2], Meets i fun v s => v.a < 8 ∧ (State.ring (s.world v.w) v.a).enabled ∧
      v.b % 128 = 0 ∧ v.b + 128 ≤ (s.prog v.w).privSize ∧ (State.ring (s.world v.w) v.a).head = (State.ring (s.world v.w) v.a).tail) ∧
    (∃ p sp x s1 s2 bs, Meets (one .qread) fun v s => s.awaitedReq v.who = none ∧ v.a < 8 ∧ (State.ring (s.world v.w) v.a).enabled ∧
      v.b % 128 = 0 ∧ v.b + 128 ≤ (s.prog v.w).privSize ∧ (State.ring (s.world v.w) v.a).head ≠ (State.ring (s.world v.w) v.a).tail ∧
      s.globalPlace v.who ((State.ring (s.world v.w) v.a).recordVa (State.ring (s.world v.w) v.a).head.toNat) 128 .read 0 = (.ok p, s1) ∧
      p.isLocal ∧ p.at? = some (sp, x) ∧ s1.loadAt v.who sp x 128 .home = (some bs, s2)) ∧
    (∀ i ∈ [one .evread, two .evreadW2, one .evwait], ∃ e s1, Meets i fun v s => v.a % 32 = 0 ∧ v.a + 32 ≤ (s.prog v.w).privSize ∧
      s.takeEvent v.w = (some e, s1)) ∧
    (∀ i ∈ [one .evread, two .evreadW2], ∃ s1, Meets i fun v s => v.a % 32 = 0 ∧ v.a + 32 ≤ (s.prog v.w).privSize ∧ s.takeEvent v.w = (none, s1)) ∧
    (∀ i ∈ [one .signal, two .signalW2], Meets i fun v s => releaseReady v s true 3 ∧ v.a < 64) ∧
    (∀ i ∈ [one .tlbinv, two .tlbinvW2 1], Meets i fun v s => (∀ e ∈ s.passes, (s.launchOf e.2.team).world ≠ v.w) ∧
      ∀ r ∈ s.reqs, r.inner.isSome = true → r.world = v.w → r.st ≠ .waiting) ∧
    (∀ i ∈ [one .keyop, two .keyopW2], ∃ c, Meets i fun v _ => v.who = .firm c) ∧
    (∀ i ∈ [one .qread, two .qreadW2, one .evread, two .evreadW2, one .evwait, one .signal, two .signalW2, one .keyop, two .keyopW2],
      ∃ s a cl y, agentsOf s = some ([a], cl) ∧ acting s a = true ∧ (s.laneOf a).haltReq = false ∧ preFault (issueOp i) s a cl = some y) ∧
    (∃ s : State, s.queueLength (s.world 1).ctl 0 < 1024) := by
  refine ⟨?_, ?_, ?_, ?_, ⟨_, _, _, _, _, _, prog_meets [(0, 7), (4, 3968)] (wRing 0 1) rfl
      ⟨rfl, by decide +kernel, by decide +kernel, by decide +kernel, by decide +kernel, by decide +kernel, ok_pair ⟨.device 0, some (.hbm, 0)⟩ (by decide +kernel), rfl, rfl,
        some_pair (by decide +kernel)⟩⟩, ?_, ?_, ?_, ?_, ?_, ?_,
    ⟨State.reset, by decide +kernel⟩⟩
  · refine forall_more ?_ (forall_one ?_) <;>
      exact ⟨⟨_, lane_meets [(0, 3)] id rfl ⟨rfl, by decide +kernel, rfl⟩⟩,
        ⟨_, prog_meets [(0, 0x400)] id rfl ⟨rfl, by decide +kernel, by decide +kernel, rfl⟩⟩,
        lane_meets [(0, 0x4FF)] id rfl ⟨by decide +kernel, by decide +kernel, 0, 0, rfl, .inl (by decide +kernel)⟩⟩
  · refine forall_more ?_ (forall_one ?_) <;> exact ⟨lane_meets [] id rfl ⟨rfl, rfl⟩, lane_meets [(0, 3)] id rfl ⟨rfl, rfl⟩⟩
  · refine forall_more ?_ (forall_one ?_) <;>
      exact ⟨_, _, _, _, _, _, _, _, lane_meets [(0, 0x1FF80)] id rfl ⟨rfl, by decide +kernel, rfl, rfl, rfl,
        ok_pair ⟨.device 0xFF80, some (.hbm, 0xFF80)⟩ (by decide +kernel), rfl, rfl, some_pair (by decide +kernel), by decide +kernel, by decide +kernel⟩⟩
  · refine forall_more ?_ (forall_one ?_) <;> exact prog_meets [(0, 7), (4, 3968)] (wRing 1 1) rfl
      ⟨by decide +kernel, by decide +kernel, by decide +kernel, by decide +kernel, by decide +kernel⟩
  · refine forall_more ?_ (forall_more ?_ (forall_one ?_)) <;>
      exact ⟨_, _, prog_meets [(0, 4064)] wEvent rfl ⟨by decide +kernel, by decide +kernel, some_pair (by decide +kernel)⟩⟩
  · refine forall_more ?_ (forall_one ?_) <;> exact ⟨_, prog_meets [(0, 4064)] id rfl ⟨by decide +kernel, by decide +kernel, rfl⟩⟩
  · refine forall_more ?_ (forall_one ?_) <;> exact prog_meets [(0, 63)] id rfl (by decide +kernel)
  · refine forall_more ?_ (forall_one ?_) <;> exact lane_meets [] id rfl ⟨(fun e h => by cases h), fun r h => by cases h⟩
  · refine forall_more ?_ (forall_one ?_) <;> exact ⟨0, firmAt, .firm 0, firmClause, alone_of _ _ _ _ rfl, rfl⟩
  · exact traps_run _ (by rfl)
/-! The step, and the operations and events of the package -/

theorem witness_StepRunsDecoded :
    (∃ s : State, ∃ g x i, s.agenda = [.core 0] ∧ s.moving = true ∧ ({ s.begin with agenda := [] } : State).pick 0 = some (.gang g) ∧
      s.gang g = some x ∧ decodeWords x.clause.cls (x.clause.words.drop x.clause.pos) = .ok i) ∧
    (∃ s : State, ∃ g x e, s.agenda = [.core 0] ∧ s.moving = true ∧ ({ s.begin with agenda := [] } : State).pick 0 = some (.gang g) ∧
      s.gang g = some x ∧ decodeWords x.clause.cls (x.clause.words.drop x.clause.pos) = .error e) ∧
    (∃ s : State, ∃ cl i, s.agenda = [.seq 0] ∧ s.moving = true ∧ (s.seqOf 0).st = .running ∧ (s.seqOf 0).stopped = false ∧
      (s.seqOf 0).clause = some cl ∧ decodeWords cl.cls (cl.words.drop cl.pos) = .ok i) ∧
    (∃ s : State, ∃ cl i, s.agenda = [.prog 1] ∧ s.moving = true ∧ (s.prog 1).st = .running ∧ (s.prog 1).custom = true ∧
      (s.prog 1).clause = some cl ∧ decodeWords cl.cls (cl.words.drop cl.pos) = .ok i) ∧
    (∃ s : State, ∃ i, s.agenda = [.firm 0 i] ∧ s.moving = true) ∧
    (∃ s : State, ∃ i, s.agenda = [.event i] ∧ ({ s.begin with agenda := [] } : State).alive i = true) ∧
    (∃ s : State, ∃ i, s.agenda = [] ∧ s.moving = true ∧ s.due = [i]) ∧
    (∃ s : State, ∃ m, s.agenda = [] ∧ s.moving = true ∧ s.due = [] ∧ s.begin.ownEvent = none ∧
      s.begin.allMovers[s.turn % s.begin.allMovers.length]? = some m) ∧
    (∃ s u : State, ∃ p lf sp x, (s.codeOf (.lane 0 0)).1 ≤ 0x10000 ∧ 0x10000 + 4 ≤ (s.codeOf (.lane 0 0)).1 + (s.codeOf (.lane 0 0)).2 ∧
      s.translate (s.worldOf (.lane 0 0)) (s.quadOf (.lane 0 0)) 0x10000 .fetch false = (.ok (p, lf), u) ∧ p.at? = some (sp, x) ∧
      u.poisoned sp x 4 = false) :=
  ⟨⟨placed 32 0x10081018 [], _, _, _, rfl, rfl, rfl, rfl, rfl⟩, ⟨placed 32 0x7EF0F0F0 [], _, _, _, rfl, rfl, rfl, rfl, rfl⟩,
    ⟨placed 32 0x2B090002 [], _, _, rfl, rfl, rfl, rfl, rfl, rfl⟩, ⟨{ (progAt (one .evwait) []).modProg 1 fun p => { p with clause := some { onlyClause (one .evwait) with words := [0x050AF0F0] } } with
      agenda := [.prog 1] }, _, _, rfl, rfl, rfl, rfl, rfl, rfl⟩,
    ⟨{ State.reset with agenda := [.firm 0 (one .keyop)] }, _, rfl, rfl⟩, ⟨{ State.reset with agenda := [.event (.freeze 0)] }, _, rfl, rfl⟩,
    ⟨{ State.reset with due := [.commandDone] }, _, rfl, rfl, rfl⟩,
    ⟨{ laneHdr 1 with worlds := [] }, _, rfl, rfl, rfl, rfl, rfl⟩,
    ⟨laneHdr 1, _, ⟨.device 0, some (.hbm, 0)⟩, false, _, _, by decide +kernel, by decide +kernel, ok_pair _ (by decide +kernel), rfl, by decide +kernel⟩⟩

theorem witness_StepFrame :
    (∃ s : State, ∃ g x, s.cur = some (.gang g) ∧ s.gang g = some x ∧ x.team = 0 ∧ x.lanes = [0] ∧ 0 < (s.team 0).lanes.length) ∧
    (∃ cl : Clause, (cl.advance 1 none).over = true) ∧ (∃ cl : Clause, (cl.advance 1 none).over = false) ∧
    (∃ s : State, ∃ w, s.cur = some (.prog w)) :=
  ⟨⟨laneAt (one .nop) [], _, _, rfl, rfl, rfl, rfl, by decide +kernel⟩, ⟨onlyClause (one .nop), rfl⟩, ⟨onlyClause (two .nopW2), rfl⟩,
    ⟨progAt (one .nop) [], 1, rfl⟩⟩

theorem witness_FaultEntry :
    (∃ y : Why, y.code = 1) ∧ (∃ s : State, ∃ y : Why, y.code = 0x0A ∧ (s.launchOf 0).guarded = true) ∧
    (∃ s : State, ∃ y : Why, y.code = 0x0B ∧ (s.launchOf 0).guarded = true) ∧
    (∀ c ∈ [0x0C, 0x0D, 0x0E, 0x0F], ∃ s : State, s.caught 0 c = true) ∧ (∃ s : State, (s.launch 0).st = .active) ∧
    (∃ y : Why, y.code ≠ 1 ∧ recordedCode y.code = false) := by
  refine ⟨⟨{ code := 1 }, rfl⟩, ⟨laneAt (one .nop) [] (wFlags 8), { code := 0x0A }, rfl, rfl⟩, ⟨laneAt (one .nop) [] (wFlags 8), { code := 0x0B }, rfl, rfl⟩,
    ?_, ⟨laneAt (one .nop) [], rfl⟩, ⟨{ code := 5 }, by decide⟩⟩
  refine forall_more ?_ (forall_more ?_ (forall_more ?_ (forall_one ?_))) <;>
    exact ⟨laneAt (one .nop) [] fun s => s.modWorld 1 fun w => { w with dbg := { w.dbg with ctl := 0xFFFFFFFF } }, rfl⟩

/-- A step of a frozen package: agenda and due operations do nothing, the management port answers. -/
def wFrozen (m : List Move) : State := { State.reset with frozen := some ⟨1, 7⟩, agenda := m, due := [.commandDone] }
theorem witness_Frozen : ∀ m ∈ [[], [Move.event .powerTelemetry], [.core 0], [.time 5 5]], ∃ t, (wFrozen m).frozen = some ⟨1, 7⟩ ∧
    (∀ link rest, (wFrozen m).agenda ≠ .event (.coldReset link) :: rest) ∧ Machine.step (wFrozen m) = .next t := by
  refine forall_more ?_ (forall_more ?_ (forall_more ?_ (forall_one ?_))) <;> exact ⟨_, rfl, (fun _ _ h => by cases h), rfl⟩
/-- A page of host memory that ATS translates is read whole. -/
theorem hostRead_some (s : State) (w io n : Nat) (h : ∀ i < n, (s.hostAddr w (io + i)).isSome = true) : ∃ bs, s.hostRead w io n = some bs := by
  induction n with
  | zero => exact ⟨[], rfl⟩
  | succ n ih =>
    obtain ⟨bs, e⟩ := ih fun i hi => h i (Nat.lt_succ_of_lt hi)
    obtain ⟨a, ea⟩ := Option.isSome_iff_exists.1 (h n (Nat.lt_succ_self n))
    refine ⟨bs ++ [s.byte .host a], ?_⟩
    unfold State.hostRead at e ⊢
    rw [List.range_succ, List.foldl_append, e]
    simp [ea]
theorem reads_page (s : State) (c k : Nat) (io : Nat) (hk : (s.slice c).template = some k ∧ State.tmplPage (s.slice c) k = 4096 * io)
    (h : (s.atsPage 0 io).isSome = true) :
    ∃ bs, (s.slice c).template = some k ∧ s.hostRead 0 (State.tmplPage (s.slice c) k) 4096 = some bs := by
  obtain ⟨bs, e⟩ := hostRead_some s 0 (4096 * io) 4096 fun i hi => by
    have : (4096 * io + i) / 4096 = io := by omega
    simp [State.hostAddr, this, h]
  exact ⟨bs, hk.1, hk.2 ▸ e⟩
/-- A package with one slice of node 16 and world 1 RUNNING in it; words of SLC_CMD. -/
def pack (f : State → State := id) : State := f { State.reset with slices := [(0, wSlice)], worlds := [(1, wWorld)] }
def cmdWord (op world node : Nat) : BitVec 32 := BitVec.ofNat 32 (op * 2 ^ 24 + world * 2 ^ 16 + node * 2 ^ 11 + 1)
def takesB (s : State) (op : Nat) (cmd : BitVec 32) : Bool :=
  decide (cmdOp cmd = op) && cmd.getLsbD 0 && s.command.isNone && !s.held.any isCommand && !s.activating
theorem takes_command (s : State) (op : Nat) (cmd : BitVec 32) (h : takesB s op cmd = true) : TakesCommand s op cmd := by
  simp only [takesB, Bool.and_eq_true, decide_eq_true_eq, Bool.not_eq_true', Option.isNone_iff_eq_none] at h
  exact ⟨h.1.1.1.1, h.1.1.1.2, h.1.1.2, h.1.2, h.2⟩
/-- The package with the slice's, the world's or the command's state changed. -/
def wSl (f : Slice → Slice) (s : State) : State := s.modSlice 0 f
def wWl (f : World → World) (s : State) : State := s.modWorld 1 f
def wCmd (op : Nat) (ended : Option Nat) (s : State) : State := { s with command := some { op := op, world := 1, node := 16, owner := 0, arg := 0, start := 0, bound := 0, ended := ended } }
/-- The command passes the first checks. -/
def passes (s : State) (op : Nat) (cmd : BitVec 32) : Prop := TakesCommand s op cmd ∧ (s.accepting cmd).commandCheck (s.commandOf cmd) = none
theorem passes_of (s : State) (op : Nat) (cmd : BitVec 32) (h : takesB s op cmd = true)
    (k : (s.accepting cmd).commandCheck (s.commandOf cmd) = none) : passes s op cmd := ⟨takes_command _ _ _ h, k⟩

theorem witness_SliceCommandRules :
    (∀ op ∈ [1, 2, 3, 4, 5, 6, 7, 8, 9], ∃ s cmd st, TakesCommand s op cmd ∧ cmdWorld cmd = 0 ∧ (s.accepting cmd).commandCheck (s.commandOf cmd) = some st) ∧
    (∃ s cmd st, TakesCommand s 9 cmd ∧ cmdWorld cmd ≠ 0 ∧ (s.accepting cmd).commandCheck (s.commandOf cmd) = some st) ∧
    (∃ c : Command, c.node ≠ 0 ∧ c.arg &&& ~~~argMask c.op ≠ 0) ∧ (∃ c : Command, 5 ≤ c.op ∧ 96 < c.world) ∧
    (∃ s : State, ∃ c : Command, c.node ≠ 0 ∧ c.arg &&& ~~~argMask c.op = 0 ∧ c.world ≠ 0 ∧ c.world ≤ 96 ∧ c.op ≠ 1 ∧ c.op ≠ 3 ∧
      (s.slice (nodeCtl c.node)).st = .empty) ∧
    (∃ s : State, ∃ c, s.command = some c ∧ c.op < 0x80 ∧ c.op ≠ 5 ∧ c.ended = some 0 ∧ s.activating = false ∧ (s.world 0).unmasked.contains 0 = true) := by
  refine ⟨?_, ⟨State.reset, cmdWord 9 1 0, _, takes_command _ _ _ rfl, by decide, rfl⟩, ⟨⟨1, 0, 16, 0, 0x10, 0, 0, none⟩, by decide⟩,
    ⟨⟨5, 97, 16, 0, 0, 0, 0, none⟩, by decide⟩, ⟨State.reset, ⟨9, 96, 16, 0, 0, 0, 0, none⟩, by decide +kernel⟩, ⟨pack fun s => { wCmd 9 (some 0) s with worlds := [(0, { unmasked := [0] }), (1, wWorld)] }, _, rfl, by decide, by decide, rfl, rfl, by decide +kernel⟩⟩
  intro op h
  have k : ∀ op ∈ [1, 2, 3, 4, 5, 6, 7, 8, 9], takesB State.reset op (cmdWord op 0 0) = true ∧ cmdWorld (cmdWord op 0 0) = 0 ∧
    (State.reset.accepting (cmdWord op 0 0)).commandCheck (State.reset.commandOf (cmdWord op 0 0)) = some 2 := by decide +kernel
  exact ⟨State.reset, cmdWord op 0 0, 2, takes_command _ _ _ (k op h).1, (k op h).2⟩

theorem witness_SliceLife :
    (∃ s cmd, passes s 1 cmd ∧ s.slices.any (fun e => e.2.st != .empty && (isAncestor e.2.node (cmdNode cmd) || isAncestor (cmdNode cmd) e.2.node)) = true) ∧
    (∃ s cmd, passes s 1 cmd ∧ s.slices.any (fun e => e.2.st != .empty && (isAncestor e.2.node (cmdNode cmd) || isAncestor (cmdNode cmd) e.2.node)) = false ∧
      8 < bits s.slcArg.toNat 3 0) ∧
    (∃ s cmd, passes s 1 cmd ∧ s.slices.any (fun e => e.2.st != .empty && (isAncestor e.2.node (cmdNode cmd) || isAncestor (cmdNode cmd) e.2.node)) = false ∧
      bits s.slcArg.toNat 3 0 ≤ 8 ∧ State.tmplOk (s.slice (nodeCtl (cmdNode cmd))) (cmdNode cmd) = true) ∧
    (∃ s : State, (s.slice 0).template = some 0 ∧ (s.slice 0).tmplSize.toNat < 4096) ∧
    (∃ s : State, ∃ d, (s.slice 0).st = .creating ∧ (s.slice 0).template = none ∧ s.command = some d) ∧
    (∃ s : State, ∃ d, (s.slice 0).st = .creating ∧ (s.slice 0).template.isSome ∧ s.command = some d ∧ nodeCtl d.node = 0 ∧
      s.activating = false ∧ d.bound + 49000000 ≤ s.clock) ∧
    (∃ s : State, ∃ k bs, (s.slice 0).template = some k ∧ s.hostRead 0 (State.tmplPage (s.slice 0) k) 4096 = some bs) ∧
    (∃ s cmd, passes s 9 cmd ∧ cmdWorld cmd = 0) ∧ (∃ s : State, (s.slice 0).st ≠ .ready ∧ (s.slice 0).st ≠ .failed) ∧
    (∃ s cmd, passes s 2 cmd ∧ (s.slice (nodeCtl (cmdNode cmd))).st = .ready) ∧ (∃ s : State, (s.slice 0).st = .destroying) ∧
    (∃ s : State, (s.slice 0).st = .ready ∧ s.command = none ∧ (s.slice 0).worlds = [] ∧ (∀ e ∈ s.worlds, e.2.st ≠ .resetting) ∧ bits s.relBase.toNat 3 0 < 6) ∧
    (∃ s : State, ∃ f, s.palPend = some f ∧ f ≤ s.cycle / 512) ∧ (∃ s : State, ∃ f, s.palPend = some f ∧ s.cycle / 512 < f) :=
  ⟨⟨pack, cmdWord 1 0 8, passes_of _ _ _ rfl rfl, rfl⟩, ⟨{ State.reset with slcArg := 9 }, cmdWord 1 0 16, passes_of _ _ _ rfl rfl, rfl, by decide⟩,
    ⟨{ State.reset with slcArg := 8 }, cmdWord 1 0 31, passes_of _ _ _ rfl rfl, rfl, by decide, rfl⟩,
    ⟨pack (wSl fun x => { x with template := some 0 }), rfl, by decide +kernel⟩,
    ⟨pack fun s => wCmd 1 none (wSl (fun x => { x with st := .creating }) s), _, rfl, rfl, rfl⟩,
    ⟨{ pack (fun s => wCmd 1 none (wSl (fun x => { x with st := .creating, template := some 3 }) s)) with clock := 49000000 }, _, rfl, rfl, rfl, rfl, rfl, by decide⟩,
    ⟨{ pack (wSl fun x => { x with template := some 0, tmplSize := 4096 }) with atsTable := [((0, 0), 0, 7)] }, 0, reads_page _ 0 0 0 ⟨rfl, rfl⟩ rfl⟩,
    ⟨pack, cmdWord 9 0 16, passes_of _ _ _ rfl rfl, rfl⟩, ⟨State.reset, by decide +kernel⟩, ⟨pack, cmdWord 2 0 16, passes_of _ _ _ rfl rfl, rfl⟩,
    ⟨pack (wSl fun x => { x with st := .destroying }), rfl⟩,
    ⟨pack (wSl fun x => { x with wlist := [0, 0, 0, 0, 0, 0] }), rfl, rfl, rfl, by decide +kernel, by decide +kernel⟩,
    ⟨{ State.reset with palPend := some 1, cycle := 512 }, _, rfl, by decide⟩, ⟨{ State.reset with palPend := some 1, cycle := 511 }, _, rfl, by decide⟩⟩

/-- ATTACH of world 2: base 0, size 0 or base 1, size 1 GiB of node 16's 64 GiB, cache mask 0xFFFF. -/
def attachArg (base size : Nat) : BitVec 64 := BitVec.ofNat 64 (base + size * 2 ^ 12 + 0xFFFF * 2 ^ 48)
theorem witness_WorldLife :
    (∃ s cmd, passes s 5 cmd ∧ (s.world (cmdWorld cmd)).st ≠ .free) ∧
    (∃ s cmd, passes s 5 cmd ∧ (s.slice (nodeCtl (cmdNode cmd))).st = .ready ∧ (s.world (cmdWorld cmd)).st = .free ∧
      6 ≤ (s.slice (nodeCtl (cmdNode cmd))).worlds.length) ∧
    (∀ b ∈ [true, false], ∃ s cmd, passes s 5 cmd ∧ (s.slice (nodeCtl (cmdNode cmd))).st = .ready ∧ (s.world (cmdWorld cmd)).st = .free ∧
      (s.slice (nodeCtl (cmdNode cmd))).worlds.length < 6 ∧ (s.accepting cmd).attachBad (nodeCtl (cmdNode cmd)) (bits s.slcArg.toNat 9 0)
        (bits s.slcArg.toNat 21 12) (s.slcArg.getLsbD 10) (s.slcArg.extractLsb' 32 16) (s.slcArg.extractLsb' 48 16) = b) ∧
    (∀ st ∈ [WorldSt.attached, .quiesced, .running, .free, .resetting], ∃ s : State, (s.world 1).st = st ∧ s.command = none) ∧
    (∃ s : State, (s.world 1).cprog.getLsbD 0 = false) ∧
    (∃ s cmd ws, passes s 7 cmd ∧ (s.accepting cmd).namedWorlds (s.commandOf cmd) .running = some ws) ∧
    (∃ s cmd ws, passes s 8 cmd ∧ (s.accepting cmd).namedWorlds (s.commandOf cmd) .quiesced = some ws) ∧
    (∃ s : State, (s.world 1).en = true ∧ (s.world 1).enDropped = false) ∧ (∃ s : State, (s.world 1).en = true ∧ (s.world 1).enDropped = true) ∧ (∃ s : State, (s.world 1).en = false) ∧
    (∃ s cmd, passes s 9 cmd ∧ cmdWorld cmd ≠ 0 ∧ (s.slice (nodeCtl (cmdNode cmd))).st = .ready ∧
      (s.accepting cmd).slotted (nodeCtl (cmdNode cmd)) (cmdWorld cmd) = true ∧ (s.world (cmdWorld cmd)).st = .running) ∧
    (∃ s : State, (s.world 1).st = .running ∧ s.activating = false ∧ s.sliceCommanded 1 = false) ∧
    (∃ s : State, (s.world 1).st = .running ∧ s.activating = true ∧ s.held.contains (.functionLevelReset 1) = false) ∧
    (∃ s cmd, passes s 6 cmd ∧ (s.slice (nodeCtl (cmdNode cmd))).st = .ready ∧
      (s.accepting cmd).slotted (nodeCtl (cmdNode cmd)) (cmdWorld cmd) = true ∧ (s.world (cmdWorld cmd)).st = .attached) := by
  refine ⟨⟨pack, cmdWord 5 1 16, passes_of _ _ _ rfl rfl, by decide +kernel⟩,
    ⟨pack (wSl fun x => { x with wlist := [1, 3, 4, 5, 6, 7] }), cmdWord 5 2 16, passes_of _ _ _ rfl rfl, rfl, rfl, by decide +kernel⟩, ?_, ?_,
    ⟨pack, rfl⟩, ⟨pack, cmdWord 7 0 16, _, passes_of _ _ _ rfl rfl, rfl⟩, ⟨pack (wWl fun x => { x with st := .quiesced }), cmdWord 8 1 16, _, passes_of _ _ _ rfl rfl, rfl⟩,
    ⟨pack, rfl, rfl⟩, ⟨pack (wWl fun x => { x with enDropped := true }), rfl, rfl⟩, ⟨State.reset, rfl⟩, ⟨pack, cmdWord 9 1 16, passes_of _ _ _ rfl rfl, by decide, rfl, by decide +kernel, rfl⟩, ⟨pack, rfl, rfl, by decide +kernel⟩,
    ⟨{ pack with fw := some ⟨2, 1, 0, 0, 0, 0⟩ }, rfl, rfl, by decide +kernel⟩,
    ⟨pack (wWl fun x => { x with st := .attached }), cmdWord 6 1 16, passes_of _ _ _ rfl rfl, rfl, by decide +kernel, rfl⟩⟩
  · refine forall_more ?_ (forall_one ?_)
    · exact ⟨pack, cmdWord 5 2 16, passes_of _ _ _ rfl rfl, rfl, rfl, by decide +kernel, by decide +kernel⟩
    · exact ⟨{ pack with slcArg := attachArg 1 1 }, cmdWord 5 2 16, passes_of _ _ _ rfl rfl, rfl, rfl, by decide +kernel, by decide +kernel⟩
  · refine forall_more ?_ (forall_more ?_ (forall_more ?_ (forall_more ?_ (forall_one ?_)))) <;> exact ⟨pack (wWl fun x => { x with st := _ }), rfl, rfl⟩
/-- The children 16 and 17 of node 8; the slice of node 8 with world 1, and a team that waits. -/
def wPair (a b : Slice → Slice) : State :=
  { State.reset with slices := [(0, a wSlice), (1, b { wSlice with node := 17, wlist := [] })], worlds := [(1, wWorld)] }
def wEight (f : State → State := id) : State := pack fun s => f (wSl (fun x => { x with node := 8 }) s)
def wSplit (s : State) : State :=
  wSl (fun x => { x with st := .busy, splitting := true }) { s with command := some { op := 4, world := 0, node := 8, owner := 0, arg := 0, start := 0, bound := 0 } }
/-- A team of the slice that a save with KIND 3 awaits. -/
def wSaving (s : State) : State :=
  { s with launches := [(0, wLaunch)], teams := [(0, { placedTeam (onlyClause (one .nop)) false with savePending := some 3 })] }
theorem witness_MergeAndSplit :
    (∃ s cmd, passes s 3 cmd ∧ 16 ≤ cmdNode cmd) ∧ (∃ s cmd, passes s 3 cmd ∧ cmdNode cmd < 16 ∧ (s.slice (nodeCtl (2 * cmdNode cmd))).st ≠ .ready) ∧
    (∀ p : Slice → Slice → Prop, p ∈ [fun a b => a.owner ≠ b.owner, fun a b => a.owner = b.owner ∧ a.winWays ≠ b.winWays,
      fun a b => a.owner = b.owner ∧ a.winWays = b.winWays ∧ 6 < a.worlds.length + b.worlds.length,
      fun a b => a.owner = b.owner ∧ a.winWays = b.winWays ∧ a.worlds.length + b.worlds.length ≤ 6 ∧ 4096 < a.events.length + b.events.length,
      fun a b => a.owner = b.owner ∧ a.winWays = b.winWays ∧ a.worlds.length + b.worlds.length ≤ 6 ∧ a.events.length + b.events.length ≤ 4096] →
      ∃ s cmd, passes s 3 cmd ∧ cmdNode cmd < 16 ∧ (s.slice (nodeCtl (2 * cmdNode cmd))).st = .ready ∧
        (s.slice (nodeCtl (2 * cmdNode cmd))).node = 2 * cmdNode cmd ∧ (s.slice (nodeCtl (2 * cmdNode cmd + 1))).st = .ready ∧
        (s.slice (nodeCtl (2 * cmdNode cmd + 1))).node = 2 * cmdNode cmd + 1 ∧
        p (s.slice (nodeCtl (2 * cmdNode cmd))) (s.slice (nodeCtl (2 * cmdNode cmd + 1)))) ∧
    (∃ g : BitVec 128, ∃ n, g.getLsbD 127 = true ∧ g.extractLsb' 125 2 = 0 ∧ n < 2 ^ 32) ∧
    (∃ g : BitVec 128, g.getLsbD 127 = false ∨ g.extractLsb' 125 2 ≠ 0) ∧
    (∃ s cmd, passes s 4 cmd ∧ (s.slice (nodeCtl (cmdNode cmd))).st ≠ .ready) ∧
    (∃ s cmd, passes s 4 cmd ∧ (s.slice (nodeCtl (cmdNode cmd))).st = .ready ∧ 16 ≤ cmdNode cmd) ∧
    (∃ s cmd, passes s 4 cmd ∧ (s.slice (nodeCtl (cmdNode cmd))).st = .ready ∧ cmdNode cmd < 16 ∧ (s.accepting cmd).splitBad (s.commandOf cmd) = true) ∧
    (∃ s cmd, passes s 4 cmd ∧ (s.slice (nodeCtl (cmdNode cmd))).st = .ready ∧ cmdNode cmd < 16 ∧
      (s.accepting cmd).splitBad (s.commandOf cmd) = false ∧ (s.slice (nodeCtl (cmdNode cmd))).worlds = []) ∧
    (∃ s : State, ∃ c, s.command = some c ∧ c.op = 4 ∧ c.ended = none ∧ (s.slice (nodeCtl c.node)).splitting = true ∧ s.splitReady c = true) ∧
    (∃ s : State, ∃ d, s.command = some d ∧ d.op = 4 ∧ nodeCtl d.node = 0 ∧ d.ended = none ∧ (s.slice 0).splitting = true ∧
      s.activating = false ∧ d.bound + 40000000 ≤ s.clock ∧ s.splitReady d = false) ∧
    (∃ s : State, ∃ c, s.command = some c ∧ c.op = 4 ∧ c.ended = none ∧ s.splitReady c = false) := by
  refine ⟨⟨pack, cmdWord 3 0 16, passes_of _ _ _ rfl rfl, by decide⟩, ⟨State.reset, cmdWord 3 0 8, passes_of _ _ _ rfl rfl, by decide, by decide +kernel⟩, ?_,
    ⟨BitVec.ofNat 128 (2 ^ 127), 1, by decide⟩, ⟨0, by decide⟩,
    ⟨wEight (wSl fun x => { x with st := .creating }), cmdWord 4 0 8, passes_of _ _ _ rfl rfl, by decide +kernel⟩,
    ⟨pack, cmdWord 4 0 16, passes_of _ _ _ rfl rfl, rfl, by decide⟩,
    ⟨wEight (wWl fun x => { x with base := 63, size := 2 }), cmdWord 4 0 8, passes_of _ _ _ rfl rfl, rfl, by decide, by decide +kernel⟩,
    ⟨wEight (wSl fun x => { x with wlist := [] }), cmdWord 4 0 8, passes_of _ _ _ rfl rfl, rfl, by decide, by decide +kernel, by decide +kernel⟩,
    ⟨wEight wSplit, _, rfl, rfl, rfl, rfl, by decide +kernel⟩,
    ⟨{ wEight fun s => wSaving (wSplit s) with clock := 40000000 }, _, rfl, rfl, rfl, rfl, rfl, rfl, by decide, by decide +kernel⟩,
    ⟨wEight fun s => wSaving (wSplit s), _, rfl, rfl, rfl, by decide +kernel⟩⟩
  refine forall_more ?_ (forall_more ?_ (forall_more ?_ (forall_more ?_ (forall_one ?_))))
  · exact ⟨wPair id fun x => { x with owner := 1 }, cmdWord 3 0 8, passes_of _ _ _ rfl rfl, by decide, rfl, rfl, rfl, rfl, by decide +kernel⟩
  · exact ⟨wPair id fun x => { x with winWays := 1 }, cmdWord 3 0 8, passes_of _ _ _ rfl rfl, by decide, rfl, rfl, rfl, rfl, by decide +kernel⟩
  · exact ⟨wPair id fun x => { x with wlist := [2, 3, 4, 5, 6, 7] }, cmdWord 3 0 8, passes_of _ _ _ rfl rfl, by decide, rfl, rfl, rfl, rfl, by decide +kernel⟩
  · exact ⟨wPair id fun x => { x with events := List.replicate 4097 { type := 6, world := 1, aux := 0 } }, cmdWord 3 0 8, passes_of _ _ _ rfl rfl, by decide, rfl, rfl, rfl, rfl, by decide +kernel⟩
  · exact ⟨wPair id id, cmdWord 3 0 8, passes_of _ _ _ rfl rfl, by decide, rfl, rfl, rfl, rfl, by decide +kernel⟩

/-- World 1 with its enable clear; ring 7 of 16 records of it. -/
def wIdle : State := pack (wWl fun x => { x with en := false, st := .attached })
theorem witness_RingRegisters :
    (∃ s : State, (s.world 1).en = true) ∧ (∃ s : State, (s.world 1).en = false ∧ 7 < 8) ∧
    (∃ s : State, (s.world 1).st ≠ .running ∨ (State.ring (s.world 1) 7).enabled = false) ∧
    (∃ s : State, ∃ v : BitVec 32, 7 < 8 ∧ (s.world 1).st = .running ∧ (s.world 1).tdi ≠ .error ∧ (State.ring (s.world 1) 7).enabled = true ∧
      2 ^ (State.ring (s.world 1) 7).log < (v - (State.ring (s.world 1) 7).head).toNat) ∧
    (∃ s : State, ∃ v : BitVec 32, 7 < 8 ∧ (s.world 1).st = .running ∧ (s.world 1).tdi ≠ .error ∧ (State.ring (s.world 1) 7).enabled = true ∧
      (v - (State.ring (s.world 1) 7).head).toNat ≤ 2 ^ (State.ring (s.world 1) 7).log ∧ (v - (State.ring (s.world 1) 7).tail).toNat ≤ 2 ^ (State.ring (s.world 1) 7).log ∧
      v ≠ (State.ring (s.world 1) 7).tail ∧ (State.ring (s.world 1) 7).head = (State.ring (s.world 1) 7).tail ∧
      ((s.slice (s.world 1).ctl).events ++ (s.slice (s.world 1).ctl).heldEvents).any (fun e => e.world == 1 && e.type == 6 && e.aux == 7) = false) :=
  ⟨⟨pack, rfl⟩, ⟨wIdle, rfl, by decide⟩, ⟨wIdle, .inl (by decide +kernel)⟩,
    ⟨pack (wRing 0 0), 2 ^ 4 + 1, by decide, rfl, by decide +kernel, by decide +kernel, by decide +kernel⟩,
    ⟨pack (wRing 0xFFFFFFFF 0xFFFFFFFF), 15, by decide, rfl, by decide +kernel, by decide +kernel, by decide +kernel, by decide +kernel, by decide +kernel,
      by decide +kernel, rfl⟩⟩

theorem witness_DeviceRegisters :
    (∃ s : State, ∀ e ∈ s.slices, e.2.st = .empty) ∧ (∃ s : State, ∃ e ∈ s.slices, e.2.st ≠ .empty) ∧
    (∃ s : State, ∃ v : BitVec 64, 0 < 16 ∧ 1023 < 1024 ∧ (s.slice 0).node ≠ 0 ∧
      ((∃ q < 32, v.getLsbD q = true ∧ q ∉ nodeQuads (s.slice 0).node) ∨ v.extractLsb' 0 32 = 0)) ∧
    (∃ s : State, ∃ v : BitVec 64, (s.slice 0).node ≠ 0 ∧ (∀ q < 32, v.getLsbD q = true → q ∈ nodeQuads (s.slice 0).node) ∧ v.extractLsb' 0 32 ≠ 0) ∧
    (∃ s : State, s.tdiBound 96 = false) ∧ (∃ s : State, s.tdiBound 1 = true) ∧
    (∃ v : BitVec 128, v.extractLsb' 125 2 = 3) ∧
    (∃ s : State, ∃ v : BitVec 128, v.extractLsb' 125 2 = 0 ∧ (s.world 1).base * 16384 ≤ (v.extractLsb' 64 32).toNat ∧
      (v.extractLsb' 64 32).toNat + (v.extractLsb' 32 32).toNat ≤ ((s.world 1).base + (s.world 1).size) * 16384) ∧
    (∃ s : State, ∃ v : BitVec 128, v.extractLsb' 125 2 = 0 ∧ ((s.world 1).base + (s.world 1).size) * 16384 < (v.extractLsb' 64 32).toNat + (v.extractLsb' 32 32).toNat) ∧
    (∃ s : State, (s.world 1).en = true) ∧ (∃ s : State, (s.world 1).en = false) ∧
    (∃ s : State, s.tdiBound 1 = false ∧ (s.world 1).tracking = true) ∧ (∃ s : State, s.tdiBound 1 = false ∧ (s.world 1).tracking = false ∧ (s.world 1).st ≠ .free) ∧
    (∃ v : BitVec 32, v.getLsbD 31 = true) ∧ (∃ v : BitVec 32, 100 ≤ (v.extractLsb' 0 17).toNat ∧ (v.extractLsb' 0 17).toNat ≤ 60000) ∧
    (∃ v : BitVec 32, 60000 < (v.extractLsb' 0 17).toNat) ∧
    (∃ s : State, ∃ v : BitVec 32, (s.world 1).st ≠ .free ∧ (s.wpaWrite 1 (State.contextAddr (s.world 1) + 0x1C) (leBytes 4 v.toNat)).isSome) ∧
    (∃ r, barReg 0 0x10010 = some r ∧ r.base = 0x10010 ∧ 1 ≤ r.bytes ∧ r.bytes ≤ 8) ∧ barReg 97 0 = none :=
  ⟨⟨State.reset, fun e h => by cases h⟩, ⟨pack, _, List.mem_cons_self .., by decide +kernel⟩, ⟨pack, 0, by decide, by decide, by decide +kernel, .inr rfl⟩,
    ⟨pack, 1, by decide +kernel, by decide +kernel, by decide⟩, ⟨pack, rfl⟩, ⟨pack (wWl fun x => { x with tdi := .locked }), rfl⟩, ⟨BitVec.ofNat 128 (2 ^ 125 * 3), by decide⟩,
    ⟨pack, BitVec.ofNat 128 (16384 * 2 ^ 32), by decide +kernel⟩, ⟨pack, BitVec.ofNat 128 (16385 * 2 ^ 32), by decide +kernel⟩, ⟨pack, rfl⟩, ⟨wIdle, rfl⟩,
    ⟨pack (wWl fun x => { x with tracking := true }), rfl, rfl⟩, ⟨pack, rfl, rfl, by decide +kernel⟩, ⟨BitVec.ofNat 32 (2 ^ 31), by decide⟩, ⟨100, by decide⟩, ⟨60001, by decide⟩,
    ⟨pack, 0, by decide +kernel, by decide +kernel⟩, ⟨_, rfl, by decide +kernel⟩, by decide +kernel⟩
/-- A word of FWA_CMD with GO set; an activation of image 1 that runs. -/
def fwWord (op image : Nat) : BitVec 32 := BitVec.ofNat 32 (op * 2 ^ 24 + image * 16 + 1)
def wStaged (i : Nat) (s : State) : State := { s with staged := some (i, 7) }
def wRuns (op : Nat) (s : State) : State := { s with fw := some ⟨op, 1, 0, 0, 0, 0⟩ }
/-- Both flash banks of an image hold no valid signature. -/
def wUnsigned (i : Nat) (s : State) : State := { s with banks := [(2 * i, { signed := false }), (2 * i + 1, { signed := false })] }
theorem witness_Firmware :
    (∀ op ∈ [1, 2, 3], (∃ s : State, ∃ cmd, fwOp cmd = op ∧ cmd.getLsbD 0 = true ∧ s.fw ≠ none) ∧
      ∃ s : State, ∃ cmd, fwOp cmd = op ∧ cmd.getLsbD 0 = true ∧ s.fw = none ∧ (fwImage cmd = 0 ∨ 5 < fwImage cmd)) ∧
    (∀ p ∈ [(1, 5), (2, 2), (2, 3), (3, 1)], ∃ s : State, ∃ cmd : BitVec 32, cmd.getLsbD 0 = true ∧ s.fw = none ∧ 1 ≤ fwImage cmd ∧ fwImage cmd ≤ 5 ∧
      fwOp cmd = p.1 ∧ fwImage cmd = p.2) ∧
    (∀ b ∈ [true, false], ∃ s : State, ∃ cmd : BitVec 32, cmd.getLsbD 0 = true ∧ s.fw = none ∧ 1 ≤ fwImage cmd ∧ fwImage cmd ≤ 5 ∧ fwOp cmd = 2 ∧
      fwImage cmd ≠ 2 ∧ fwImage cmd ≠ 3 ∧ ((s.staged.map (·.1)) == some (fwImage cmd)) = b) ∧
    (∀ b ∈ [true, false], ∃ s : State, State.stageable s.fwaAddr.toNat s.fwaSize.toNat = b) ∧
    (∃ s : State, ∃ cmd : BitVec 32, ∃ b, fwOp cmd = 2 ∧ fwImage cmd = 5 ∧ s.staged = some (fwImage cmd, b)) ∧
    (∃ s : State, ∃ f : FwCommand, ∃ body, s.hostRead 0 f.addr f.size = some body) ∧
    (∃ s : State, ∃ f, s.fw = some f ∧ f.op = 1) ∧ (∃ s : State, ∃ f, s.portFw = some f) ∧
    (∃ s : State, ∃ f : FwCommand, s.fw = some f ∧ f.op = 2 ∧ s.staged = some (f.image, f.bank)) ∧
    (∃ s : State, s.activating = false) ∧ (∃ s : State, s.activating = true) ∧
    (∃ s : State, s.portFw = none ∧ (5#4) ≠ 0 ∧ (5#4).toNat ≤ 5 ∧ State.stageable (2 ^ 40 - 4096) (2 ^ 25) = true ∧ State.stageable 4096 (2 ^ 25 + 4096) = false) ∧
    (32 ≤ 32 ∧ 8 ≤ 8 ∧ (31 < 32 ∨ 8 < 8)) ∧ (∃ s : State, ∀ i < 5, ∃ b, s.bootOf (i + 1) = .ok b) ∧
    (∃ s : State, ∃ c, 4 < 5 ∧ (∀ j < 4, ∃ b, s.bootOf (j + 1) = .ok b) ∧ s.bootOf (4 + 1) = .error c) ∧
    (∃ s : State, s.bootFailed ≠ 0) ∧ (∃ s : State, s.bootFailed = 0 ∧ s.link.up = false) ∧
    (∃ s : State, s.bootFailed = 0 ∧ s.link.up = true ∧ s.up = false ∧ s.upAt ≠ none) ∧ (∃ s : State, s.bootFailed = 0 ∧ s.link.up = true ∧ s.up = true) ∧
    (∃ s : State, ∃ v : BitVec 32, 3 < fwOp v ∧ v.getLsbD 0 = true ∧ s.fw = none) ∧
    (∃ s : State, ∃ v : BitVec 32, 9 < cmdOp v ∧ v.getLsbD 0 = true ∧ s.command = none ∧ s.held.any isCommand = false ∧ s.activating = false) ∧
    (∃ s : State, ∃ v : BitVec 32, (cmdOp v = 0 ∨ 5 < cmdOp v) ∧ v.getLsbD 0 = true ∧ s.command = none ∧ s.held.any isCommand = false ∧ s.activating = false) := by
  have ok : ∀ n ≤ 5, ∀ i < n, ∃ b, (pack fun s => if n = 5 then s else wUnsigned 5 s).bootOf (i + 1) = .ok b := by
    have k : ∀ n ≤ 5, ∀ i < n, (match (pack fun s => if n = 5 then s else wUnsigned 5 s).bootOf (i + 1) with | .ok _ => true | .error _ => false) = true := by
      decide +kernel
    intro n hn i hi
    have := k n hn i hi
    split at this
    · exact ⟨_, ‹_›⟩
    · cases this
  refine ⟨?_, ?_, ?_, ?_, ⟨pack fun s => { s with staged := some (5, 1) }, fwWord 2 5, 1, by decide, by decide, by decide +kernel⟩,
    ⟨{ pack with atsTable := [((0, 0), 0, 7)] }, ⟨1, 1, 0, 0, 4096, 0⟩, hostRead_some _ _ _ _ fun i hi => by
      have : (0 + i) / 4096 = 0 := by have : i < 4096 := hi; omega
      simp only [State.hostAddr, this]; rfl⟩,
    ⟨pack (wRuns 1), _, rfl, rfl⟩, ⟨pack fun s => { s with portFw := some ⟨1, 1, 0, 0, 0, 0⟩ }, _, rfl⟩,
    ⟨pack fun s => { wRuns 2 s with staged := some (1, 0) }, _, rfl, rfl, rfl⟩, ⟨pack, rfl⟩, ⟨pack (wRuns 2), rfl⟩, ⟨pack, rfl, by decide⟩,
    by decide, ⟨pack, ok 5 (Nat.le_refl _)⟩, ⟨pack (wUnsigned 5), 3, by decide, ok 4 (by decide), rfl⟩,
    ⟨pack fun s => { s with bootFailed := 1 }, by decide +kernel⟩, ⟨pack fun s => { s with link := { s.link with up := false } }, rfl, rfl⟩,
    ⟨pack fun s => { s with up := false, upAt := some 0 }, rfl, rfl, rfl, by decide +kernel⟩, ⟨pack, rfl, rfl, rfl⟩,
    ⟨pack, fwWord 4 1, by decide, by decide, rfl⟩, ⟨pack, cmdWord 10 0 16, by decide, by decide, rfl, rfl, rfl⟩,
    ⟨pack, cmdWord 6 0 16, .inr (by decide), by decide, rfl, rfl, rfl⟩⟩
  · intro op h
    have k : ∀ op ∈ [1, 2, 3], (fwOp (fwWord op 1) = op ∧ (fwWord op 1).getLsbD 0 = true) ∧ fwOp (fwWord op 6) = op ∧ (fwWord op 6).getLsbD 0 = true ∧
      5 < fwImage (fwWord op 6) := by decide
    exact ⟨⟨pack (wRuns 1), fwWord op 1, (k op h).1.1, (k op h).1.2, by decide +kernel⟩, ⟨pack, fwWord op 6, (k op h).2.1, (k op h).2.2.1, rfl, .inr (k op h).2.2.2⟩⟩
  · intro p h
    have k : ∀ p ∈ [(1, 5), (2, 2), (2, 3), (3, 1)], (fwWord p.1 p.2).getLsbD 0 = true ∧ 1 ≤ fwImage (fwWord p.1 p.2) ∧ fwImage (fwWord p.1 p.2) ≤ 5 ∧
      fwOp (fwWord p.1 p.2) = p.1 ∧ fwImage (fwWord p.1 p.2) = p.2 := by decide
    exact ⟨pack, fwWord p.1 p.2, (k p h).1, rfl, (k p h).2⟩
  · refine forall_more ?_ (forall_one ?_)
    · exact ⟨pack (wStaged 5), fwWord 2 5, by decide, rfl, by decide, by decide, by decide, by decide, by decide, by decide +kernel⟩
    · exact ⟨pack (wStaged 1), fwWord 2 5, by decide, rfl, by decide, by decide, by decide, by decide, by decide, by decide +kernel⟩
  · exact forall_more ⟨pack, rfl⟩ (forall_one ⟨{ pack with fwaSize := 100 }, rfl⟩)

/-- World 1's responder with extended algorithms and with a session. -/
def wSpdm (f : Spdm → Spdm) (s : State) : State := wWl (fun x => { x with spdm := f { x.spdm with algorithms := some (fixedAlgorithms true) } }) s
def wSess : State → State := wSpdm fun x => { x with sessions := [{ id := 1, established := true, secret := 0, updates := 0 }] }
theorem witness_SpdmAnswers :
    (∃ s : State, s.activating = false ∧ (s.world 1).spdm.ext = true ∧ (1 : Nat) ≠ 0 ∧ (s.world 1).spdm.sessions = []) ∧
    (∃ s : State, s.activating = false ∧ (s.world 1).spdm.ext = false) ∧
    (∃ s : State, s.activating = false ∧ (true = true → (s.world 1).spdm.ext = true) ∧ 8 < 9) ∧
    (∃ s : State, ∃ n, s.activating = false ∧ (s.world 1).spdm.ext = true ∧ (s.world 1).spdm.transcript = some n ∧ 1 ≤ 8 ∧ 8 ≤ 8) ∧
    (∃ s : State, s.activating = false ∧ (s.world 1).spdm.ext = true ∧ 2 ≤ (s.world 1).spdm.sessions.length) ∧
    (∃ s : State, ∃ f, s.fw = some f ∧ f.op = 2) ∧
    (∃ s : State, ∃ token i, ∃ code : BitVec 8, (s.world 1).spdm.deferred = some (token, i) ∧ State.deferredCode i = some code.toNat ∧ s.activating = false) ∧
    (∃ s : State, (s.world 1).spdm.deferred = none) ∧ (∃ s : State, ∃ x, s.session? 1 1 = some x ∧ (s.world 1).lockSession ≠ 1) ∧
    (∃ s : State, s.inSession 1 1 = true) ∧ (∃ s : State, s.session? 1 1 = none) ∧ (0x85#8) ≠ 0xFE#8 :=
  ⟨⟨pack (wSpdm id), rfl, rfl, by decide, rfl⟩, ⟨pack, rfl, rfl⟩, ⟨pack (wSpdm id), rfl, fun _ => rfl, by decide⟩,
    ⟨pack (wSpdm fun x => { x with transcript := some 0 }), _, rfl, rfl, rfl, by decide, by decide⟩,
    ⟨pack (wSpdm fun x => { x with sessions := [{ id := 1, established := true, secret := 0, updates := 0 }, { id := 2, established := true, secret := 0, updates := 0 }] }),
      rfl, rfl, by decide +kernel⟩,
    ⟨pack (wRuns 2), _, rfl, rfl⟩, ⟨pack (wSpdm fun x => { x with deferred := some (255, .getDigests 1) }), _, _, 0x81, rfl, rfl, rfl⟩, ⟨pack, rfl⟩,
    ⟨pack wSess, _, rfl, by decide +kernel⟩, ⟨pack wSess, rfl⟩, ⟨pack, rfl⟩, by decide⟩

theorem witness_TdispAndChannels :
    (∃ s : State, s.inSession 1 1 = false) ∧
    (∃ s : State, s.inSession 1 1 = true ∧ 1 ≠ 0 ∧ (s.world 1).tdi = .unlocked ∧ (s.world 1).st = .attached ∧ (s.world 1).en = false) ∧
    (∃ s : State, (s.world 1).cprog.getLsbD 0 = false) ∧ (∃ s : State, 16 ≤ 16 ∧ ∃ x ∈ (s.world 0).spdm.sessions, x.established = true) ∧
    (∃ s : State, s.inSession 1 1 = true ∧ (s.world 1).tdi = .unlocked ∧ (s.world 1).en = true) ∧
    (∀ t ∈ [TdiSt.locked, .run, .error], ∃ s : State, s.inSession 1 1 = true ∧ (s.world 1).tdi = t ∧ (s.world 1).st ≠ .free) ∧
    (∃ s : State, s.inSession 1 1 = true ∧ 3 ≤ 3 ∧ s.channelPending 1 3 = false) ∧
    (∃ s : State, s.inSession 1 1 = true ∧ 3 ≤ 3 ∧ s.channelPending 1 3 = true ∧ s.held.contains (.chkey 1 1 3) = false) ∧ (3 < 4 ∧ 16 ≤ 16) := by
  refine ⟨⟨pack, rfl⟩, ⟨pack fun s => wSess (wWl (fun x => { x with en := false, st := .attached }) s), rfl, by decide, rfl, rfl, rfl⟩, ⟨pack, rfl⟩,
    ⟨pack fun s => s.modSpdm 0 fun x => { x with sessions := [{ id := 1, established := true, secret := 0, updates := 0 }] }, by decide, _, List.mem_cons_self .., rfl⟩,
    ⟨pack wSess, rfl, rfl, rfl⟩, ?_,
    ⟨pack wSess, rfl, by decide, rfl⟩, ⟨pack fun s => wSess { s with copies := [(0, { copy4 true with op := 7, c := 3 * 2 ^ 24 })] }, rfl, by decide, by decide +kernel, by decide +kernel⟩, by decide⟩
  refine forall_more ?_ (forall_more ?_ (forall_one ?_)) <;>
    exact ⟨pack fun s => wSess (wWl (fun x => { x with tdi := _ }) s), rfl, rfl, by decide +kernel⟩

/-- Decoder 0 passes 256 MiB of world 1 from host address 2^28. -/
def wDecoder (s : State) : State := { s with decoders := [(0, { committed := true, base := 2 ^ 28, size := 2 ^ 28, world := 1, roff := 0 })] }
theorem witness_HostLinks :
    (7 < 8) ∧ (∃ s : State, ∃ d, s.decoderAt (2 ^ 28) (2 ^ 28) = some d ∧ s.decoderOpen d = true ∧ s.poisoned .hbm (s.decoderAddr d (2 ^ 28)) 64 = false ∧
      (s.world d.world).dropWrites = false) ∧
    (∃ s : State, ∃ d, s.decoderAt (2 ^ 28) 64 = some d ∧ s.decoderOpen d = true ∧ s.poisoned .hbm (s.decoderAddr d (2 ^ 28)) 64 = true) ∧
    (∃ s : State, ∃ d, s.decoderAt (2 ^ 28) 64 = some d ∧ s.decoderOpen d = false) ∧ (∃ s : State, s.decoderAt (2 ^ 29) 1 = none) ∧
    (∃ s : State, ∃ d, s.decoderAt (2 ^ 28) 64 = some d ∧ s.decoderOpen d = true ∧ (s.world d.world).dropWrites = true) ∧
    (∃ s : State, ∀ g ∈ (s.world 1).priGroups, g.vpage ≠ 0) ∧ (∃ s : State, ∃ g ∈ (s.world 1).priGroups, g.vpage = 5) :=
  ⟨by decide, ⟨pack wDecoder, _, rfl, rfl, by decide +kernel, rfl⟩, ⟨pack fun s => wDecoder { s with poison := [(.hbm, 0)] }, _, rfl, rfl, by decide +kernel⟩,
    ⟨pack fun s => wDecoder (wWl (fun x => { x with tdi := .run }) s), _, rfl, rfl⟩, ⟨pack wDecoder, by decide +kernel⟩,
    ⟨pack fun s => wDecoder (wWl (fun x => { x with dropWrites := true }) s), _, rfl, rfl, rfl⟩, ⟨pack, fun g h => by cases h⟩,
    ⟨pack (wWl fun x => { x with priGroups := [⟨5⟩] }), _, List.mem_cons_self .., rfl⟩⟩

/-- A waiting request under tag 65535, sent at cycle 0; a kept atomic of that tag. -/
def wReq (awaited : Bool) (s : State) : State := { s with reqs := [{ world := 1, tag := 65535, who := .prog 1, accel := 2, wpa := 0, write := false, awaited := awaited }] }
def wKept (s : State) : State := { s with kept := [⟨0, 0, 0, 65535, 0, 16, 1, 4, 1, 0, 9⟩] }
theorem witness_PeerRequests :
    (∃ s : State, ∃ p : Space × Nat, s.inboundTarget 0 0 0 16 1 0 64 false = some p ∧ s.poisoned p.1 p.2 64 = false) ∧
    (∃ s : State, ∃ p : Space × Nat, s.inboundTarget 0 0 0 16 1 0 64 false = some p ∧ s.poisoned p.1 p.2 64 = true) ∧
    (∃ s : State, ∃ p : Space × Nat, s.inboundTarget 0 0 0 16 1 0 64 true = some p) ∧
    (∃ s : State, s.inboundTarget 0 0 1 16 1 0 64 false = none ∧ s.inboundTarget 0 0 1 16 1 0 64 true = none ∧ s.inboundTarget 0 0 1 16 1 0 (atomBytes 14) true = none ∧
      s.inboundOk 0 0 1 16 1 = false) ∧
    (∃ s : State, (s.world 1).dropWrites = true) ∧
    (∃ s : State, ∃ op, ∃ p : Space × Nat, op < 16 ∧ atomBytes op = 8 ∧ s.inboundTarget 0 0 0 16 1 0 8 true = some p ∧ s.keptAtomic 0 0 0 65535 = none ∧
      s.poisoned p.1 p.2 8 = false) ∧
    (∃ s : State, ∃ op q, ∃ p : Space × Nat, op < 16 ∧ atomBytes op = 8 ∧ s.inboundTarget 0 0 0 16 1 0 8 true = some p ∧ s.keptAtomic 0 0 0 65535 = some q ∧ q.op ≠ op) ∧
    (∃ s : State, s.waitingReq 1 65535 = none ∧ s.waitingReq 2 65535 = none) ∧
    (∃ s : State, ∃ r, s.waitingReq 1 65535 = some r ∧ r.awaited = true ∧ r.copyPiece = none ∧ r.pass = none ∧ r.inner = none ∧ s.cycle < r.sent + 2100000) ∧
    (∀ b ∈ [true, false], ∃ s : State, ∃ r, s.waitingReq 1 65535 = some r ∧ r.sent + 2100000 ≤ s.cycle ∧ State.orphan r = b) :=
  ⟨⟨pack, (.hbm, 0), by decide +kernel, by decide +kernel⟩, ⟨pack fun s => { s with poison := [(.hbm, 0)] }, (.hbm, 0), by decide +kernel, by decide +kernel⟩, ⟨pack, (.hbm, 0), by decide +kernel⟩,
    ⟨pack, by decide +kernel, by decide +kernel, by decide +kernel, by decide +kernel⟩, ⟨pack (wWl fun x => { x with dropWrites := true }), rfl⟩,
    ⟨pack, 15, (.hbm, 0), by decide, by decide +kernel, by decide +kernel, rfl, by decide +kernel⟩, ⟨pack wKept, 15, _, (.hbm, 0), by decide, by decide +kernel, by decide +kernel, rfl, by decide +kernel⟩,
    ⟨pack, rfl, rfl⟩, ⟨{ pack (wReq true) with cycle := 2099999 }, _, rfl, rfl, rfl, rfl, rfl, by decide⟩,
    forall_more ⟨{ pack (wReq false) with cycle := 2100000 }, _, rfl, by decide, rfl⟩ (forall_one ⟨{ pack (wReq true) with cycle := 2100000 }, _, rfl, by decide, rfl⟩)⟩

theorem witness_FaultReplies :
    (∃ s : State, ∃ r, s.recordOf 1 7 = some r) ∧ (∃ s : State, s.recordOf 1 8 = none) ∧
    (∃ s : State, 0 < (s.team 0).lanes.length ∧ (s.lane 0 0).st = .parked) ∧ (∃ s : State, (s.prog 1).st = .parked) :=
  ⟨⟨pack (wWl fun x => { x with records := [{ seq := 7, who := [.prog 1], vpage := 1, src := 0 }] }), _, rfl⟩, ⟨pack, rfl⟩,
    ⟨wLane (fun l => { l with st := .parked }) (laneAt (one .nop) []), by decide +kernel, rfl⟩, ⟨pack (wWl fun x => { x with prog := { x.prog with st := .parked } }), rfl⟩⟩
/-- World 1 with a migration command that runs, and ATS translations of the host pages 0 and 1 for the package's own function. -/
def wMig (op : Nat) (ended : Option Nat) (s : State) : State :=
  { s with atsTable := [((0, 0), 0, 0), ((0, 0), 1, 1)], command := some { op := op, world := 1, node := 0, owner := 0, arg := 0, start := 0, bound := 0, ended := ended } }
def wTracked (st : WorldSt) : State → State := wWl fun x => { x with st := st, en := false, tracking := true, size := 0, migSize := BitVec.ofNat 32 8192 }
/-- The header of an image without launches at host address 0, in a buffer of one page. -/
def wImage (n : Nat) (s : State) : State :=
  wMig 0x84 none (wTracked .attached { s with host := [(0, 0x47#8), (1, 0x4D#8), (2, 0x49#8), (3, 0x47#8), (4, BitVec.ofNat 8 n), (9, 0x01#8)] })
theorem page_write (s : State) (a : Nat) (bs : List Byte) (p : Nat) : (s.write .host a bs).atsPage 0 p = s.atsPage 0 p := by
  have h : ∀ u : State, u.atsHeld = s.atsHeld → u.atsTable = s.atsTable → (u.world 0).context = (s.world 0).context → u.atsPage 0 p = s.atsPage 0 p := by
    intro u h1 h2 h3
    simp only [State.atsPage, State.pasidOf, h1, h2, h3]
  refine h _ ?_ ?_ ?_
  · unfold State.write State.changeCode
    dsimp only
    split <;> rfl
  · unfold State.write State.changeCode
    dsimp only
    split <;> rfl
  · unfold State.write State.changeCode
    dsimp only
    rw [Sys2Proof.Machine.State.world_notifyWrite]
    split <;> rfl
theorem put_some (bs : List Byte) : ∀ (s : State) (io : Nat), (∀ i < bs.length, (s.atsPage 0 ((io + i) / 4096)).isSome = true) →
    (s.hostWrite 0 io bs).isSome = true := by
  induction bs with
  | nil => exact fun s io _ => rfl
  | cons b l ih =>
    intro s io h
    obtain ⟨p, hp⟩ := Option.isSome_iff_exists.mp (h 0 (by simp))
    have e : s.hostAddr 0 io = some (p * 4096 + io % 4096) := by simp only [State.hostAddr]; rw [Nat.add_zero] at hp; rw [hp]; rfl
    rw [State.hostWrite, e]
    refine ih _ _ fun i hi => ?_
    have k := h (i + 1) (by simpa using hi)
    rw [show io + (i + 1) = io + 1 + i by omega] at k
    rw [page_write]
    exact k
theorem export_put (s : State) (h : s.atsHeld = []) (k : s.atsTable = [((0, 0), 0, 0), ((0, 0), 1, 1)]) (c : (s.world 0).context = none) (b : State.migBuffer (s.world 1) = (0, 8192))
    (bs : List Byte) (n : bs.length ≤ 8192) : (s.migPut 1 bs).isSome = true := by
  have p : ∀ i < bs.length, (s.atsPage 0 ((0 + i) / 4096)).isSome = true := by
    intro i hi
    have : (0 + i) / 4096 = 0 ∨ (0 + i) / 4096 = 1 := by omega
    rcases this with e | e <;> rw [e] <;> simp [State.atsPage, State.pasidOf, h, k, c]
  simp [State.migPut, b, Nat.not_lt.mpr n, put_some bs s 0 p]

theorem map_none (s : State) (b : State.migBuffer (s.world 1) = (0, 0)) (k : (s.world 1).size = 1) : s.migPut 1 (s.dirtyMap 1) = none := by
  simp [State.migPut, b, State.dirtyMap, k]

theorem witness_TrackAndHarvest :
    (∃ s : State, 0 < 96 ∧ 96 ≤ 96 ∧ s.command = none ∧ s.held.any isCommand = false ∧ s.activating = false) ∧
    (∃ s : State, ∃ c, s.command = some c) ∧
    (∀ st ∈ [WorldSt.attached, .running, .quiesced], ∃ s : State, (s.world 1).st = st ∧ (s.world 1).tdi = .unlocked ∧ (s.world 1).tagBase.getLsbD 0 = false ∧
      (s.world 1).rotation = none) ∧
    (∃ s : State, (s.world 2).st = .free) ∧ (∃ s : State, (s.world 1).tdi ≠ .unlocked) ∧
    (∃ s : State, (s.world 1).st = .running ∧ (s.world 1).tdi = .unlocked ∧ (s.world 1).tagBase.getLsbD 0 = true) ∧
    (∃ s : State, (s.world 1).st = .running ∧ (s.world 1).tdi = .unlocked ∧ (s.world 1).rotation ≠ none) ∧
    (∃ s u : State, (s.world 1).st ≠ .free ∧ (s.world 1).tdi = .unlocked ∧ s.migPut 1 (s.dirtyMap 1) = some u) ∧ (∃ s : State, (s.world 1).st ≠ .free ∧ (s.world 1).tdi = .unlocked ∧ s.migPut 1 (s.dirtyMap 1) = none) ∧
    (∃ s : State, ∃ c st, s.command = some c ∧ 0x80 ≤ c.op ∧ c.op ≠ 0x84 ∧ c.ended = some st ∧ s.activating = false) ∧
    (∃ s : State, ∃ p, (s.world 1).rotation = some p ∧ p < State.units (s.world 1)) ∧
    (∃ s : State, ∃ p, (s.world 1).rotation = some p ∧ State.units (s.world 1) ≤ p) := by
  refine ⟨⟨pack, by decide, by decide, rfl, rfl, rfl⟩, ⟨pack (wMig 0x81 none), _, rfl⟩, ?_, ⟨pack, rfl⟩, ⟨pack (wWl fun x => { x with tdi := .run }), by decide +kernel⟩,
    ⟨pack (wWl fun x => { x with tagBase := 1 }), rfl, rfl, rfl⟩, ⟨pack (wWl fun x => { x with rotation := some 0 }), rfl, rfl, by decide +kernel⟩,
    ⟨pack fun s => wMig 0x82 none (wTracked .running s), _, by decide +kernel, rfl,
      (Option.some_get (export_put _ rfl rfl rfl (by decide +kernel) _ (by decide +kernel))).symm⟩, ⟨pack (wWl fun x => { x with migSize := BitVec.ofNat 32 4095 }), by decide +kernel, rfl, ?_⟩,
    ⟨pack (wMig 0x81 (some 4)), _, _, rfl, by decide, by decide, rfl, rfl⟩, ⟨pack (wWl fun x => { x with rotation := some 16383 }), 16383, rfl, by decide +kernel⟩,
    ⟨pack (wWl fun x => { x with rotation := some 16384 }), _, rfl, by decide +kernel⟩⟩
  · refine forall_more ?_ (forall_more ?_ (forall_one ?_)) <;> exact ⟨pack (wWl fun x => { x with st := _ }), rfl, rfl, rfl, rfl⟩
  · exact map_none _ (by decide +kernel) (by decide +kernel)

theorem two_reads {α β : Type} (x : Option α) (f : α → Option β) (p : α → Bool) (q : β → Bool)
    (k : (x.any fun h => p h && (f h).any q) = true) : ∃ h im, x = some h ∧ p h = true ∧ f h = some im ∧ q im = true := by
  simpa [Option.any_eq_true] using k
/-- An image whose program's descriptor lies at VA 0x100, in the peer's page. -/
def wPeerImage (s : State) : State :=
  { wMig 0x84 none (wTracked .attached { s with host := [(0, 0x47#8), (1, 0x4D#8), (2, 0x49#8), (3, 0x47#8), (4, 1#8), (8, 1#8), (9, 0x01#8)] }) with
    tlb := [⟨0, 1, 0, 16, true, true, true, false, 3, false⟩] }
theorem import_reads (s : State) (b c : Bool) (n : Nat) (e : (s.world 1).migSize.toNat / 4096 * 4096 = n)
    (k : ((s.hostRead 0 ((s.world 1).migBuf.toNat / 4096 * 4096) 256).any fun h => decide (field h 8 4 ≤ n) &&
      (s.hostRead 0 ((s.world 1).migBuf.toNat / 4096 * 4096) (field h 8 4)).any fun im => s.importOk 1 im == b && (s.importAsk 1 im).isSome == c) = true) : ∃ h im,
    s.hostRead 0 ((s.world 1).migBuf.toNat / 4096 * 4096) 256 = some h ∧ field h 8 4 ≤ (s.world 1).migSize.toNat / 4096 * 4096 ∧
      s.hostRead 0 ((s.world 1).migBuf.toNat / 4096 * 4096) (field h 8 4) = some im ∧ s.importOk 1 im = b ∧ (s.importAsk 1 im).isSome = c := by
  obtain ⟨h, im, e1, e2, e3, e4⟩ := two_reads _ (fun h => s.hostRead 0 ((s.world 1).migBuf.toNat / 4096 * 4096) (field h 8 4)) _ _ k
  simp only [Bool.and_eq_true, beq_iff_eq] at e4
  exact ⟨h, im, e1, e ▸ of_decide_eq_true e2, e3, e4.1, e4.2⟩
theorem witness_ExportAndImport :
    (∃ s : State, (s.world 1).tracking = false) ∧
    (∃ s : State, (s.world 1).tdi ≠ .unlocked) ∧
    (∃ s : State, (s.world 1).tracking = true ∧ (s.world 1).tdi = .unlocked ∧ (s.world 1).st ≠ .running ∧ (s.world 1).st ≠ .attached) ∧
    (∃ s : State, (s.world 1).tracking = true ∧ (s.world 1).tdi = .unlocked ∧ (s.world 1).st = .running) ∧
    (∃ s u : State, ∃ c, s.command = some c ∧ c.op = 0x83 ∧ c.ended = none ∧ s.exportReady c.world = true ∧ s.migPut c.world (s.exportImage c.world) = some u) ∧
    (∃ s : State, ∃ c, s.command = some c ∧ c.op = 0x83 ∧ c.ended = none ∧ s.exportReady c.world = true ∧ s.migPut c.world (s.exportImage c.world) = none) ∧
    (∃ s : State, ∃ c, s.command = some c ∧ c.op ≠ 0x84 ∧ c.ended = none ∧ s.exportReady c.world = false) ∧
    (∃ s : State, ∃ c, s.command = some c ∧ c.op = 0x83 ∧ c.ended = none ∧ s.activating = false ∧ c.bound + 40000000 ≤ s.clock ∧ s.quiesceDone c.world = false) ∧
    (∃ s : State, ∃ c, s.command = some c ∧ s.clock < c.bound + 40000000) ∧ (∃ s : State, ∃ c, s.command = some c ∧ s.activating = true) ∧ (∃ s : State, (s.world 1).st ≠ .attached) ∧
    (∀ b ∈ [(true, false), (true, true), (false, false)], ∃ s : State, ∃ h im, (s.world 1).st = .attached ∧ (s.world 1).en = false ∧ (s.world 1).tdi = .unlocked ∧
      s.hostRead 0 ((s.world 1).migBuf.toNat / 4096 * 4096) 256 = some h ∧ field h 8 4 ≤ (s.world 1).migSize.toNat / 4096 * 4096 ∧
      s.hostRead 0 ((s.world 1).migBuf.toNat / 4096 * 4096) (field h 8 4) = some im ∧ s.importOk 1 im = b.1 ∧ (s.importAsk 1 im).isSome = b.2) ∧
    (∃ s : State, ∃ c, s.command = some c ∧ c.op = 0x84 ∧ c.ended = none ∧ s.asking (.prog c.world) = false) ∧
    (∃ s : State, (s.world 1).st = .attached ∧ (s.world 1).en = false ∧ (s.world 1).tdi = .unlocked ∧
      s.hostRead 0 ((s.world 1).migBuf.toNat / 4096 * 4096) 256 = none) := by
  refine ⟨⟨pack, rfl⟩, ⟨pack (wWl fun x => { x with tdi := .run }), by decide +kernel⟩,
    ⟨pack (wTracked .quiesced), rfl, rfl, by decide +kernel, by decide +kernel⟩, ⟨pack (wTracked .running), rfl, rfl, rfl⟩,
    ⟨pack fun s => wMig 0x83 none (wTracked .quiesced s), _, _, rfl, rfl, rfl, by decide +kernel,
      (Option.some_get (export_put _ rfl rfl rfl (by decide +kernel) _ (by decide +kernel))).symm⟩,
    ⟨pack fun s => { wMig 0x83 none (wTracked .quiesced s) with atsTable := [] }, _, rfl, rfl, rfl, by decide +kernel, by decide +kernel⟩,
    ⟨pack fun s => wSaving (wMig 0x83 none s), _, rfl, by decide, rfl, by decide +kernel⟩,
    ⟨{ pack (fun s => wSaving (wMig 0x83 none s)) with clock := 40000000 }, _, rfl, rfl, rfl, rfl, by decide, by decide +kernel⟩,
    ⟨{ pack (wMig 0x83 none) with clock := 39999999 }, _, rfl, by decide⟩, ⟨pack fun s => wRuns 2 (wMig 0x83 none s), _, rfl, rfl⟩, ⟨pack, by decide +kernel⟩, ?_, ⟨pack (wMig 0x84 none), _, rfl, rfl, rfl, by decide +kernel⟩,
    ⟨pack (wTracked .attached), rfl, rfl, rfl, by decide +kernel⟩⟩
  refine forall_more ?_ (forall_more ?_ (forall_one ?_))
  · obtain ⟨h, im, e⟩ := import_reads (pack (wImage 1)) true false 8192 (by decide +kernel) (by decide +kernel)
    exact ⟨pack (wImage 1), h, im, rfl, rfl, rfl, e⟩
  · obtain ⟨h, im, e⟩ := import_reads (pack wPeerImage) true true 8192 (by decide +kernel) (by decide +kernel)
    exact ⟨pack wPeerImage, h, im, rfl, rfl, rfl, e⟩
  · obtain ⟨h, im, e⟩ := import_reads (pack (wImage 2)) false false 8192 (by decide +kernel) (by decide +kernel)
    exact ⟨pack (wImage 2), h, im, rfl, rfl, rfl, e⟩
/-- One launch of world 1 with two teams: a queued record, or a cluster that returns. -/
def wHead (back : Bool) (s : State) : State :=
  let rs := if back then [0] else []
  { s with
    launches := [(0, { wLaunch with st := .active, record := { teamsM1 := 1, saveSize := 64 }, returning := rs, slotsUsed := rs })]
    teams := if back then [(0, { placedTeam (onlyClause (one .nop)) false with st := .saved })] else [] }
def wElig (w : Nat) : State → State := wSl fun x => { x with eligible := some w }
/-- Two worlds with work. -/
def wTwo (s : State) : State :=
  { wElig 1 (wSl (fun x => { x with wlist := [1, 2, 0, 0, 0, 0] }) s) with
    worlds := [(1, wWorld), (2, wWorld)], launches := [(0, { wLaunch with st := .queued }), (1, { wLaunch with world := 2, st := .queued })] }
def heads (s : State) : List State.Head := (List.range 4).filterMap (s.headOf 0)

theorem witness_Placement :
    (∃ s : State, ∃ p, s.roomAt 0 (s.launch 0) = some p ∧ s.holders 0 ≠ []) ∧
    (∃ s : State, ∃ h o, s.fits h = some o ∧ h.back = false) ∧ (∃ s : State, ∃ h o, s.fits h = some o ∧ h.back = true) ∧
    (∃ s : State, (s.slice 0).splitting = true) ∧ (∃ s : State, (s.slice 0).splitting = false ∧ (s.slice 0).st ≠ .ready ∧ (s.slice 0).st ≠ .busy) ∧
    (∀ st ∈ [SliceSt.ready, .busy], ∃ s : State, (s.slice 0).splitting = false ∧ (s.slice 0).st = st) ∧
    (∀ b ∈ [true, false], ∃ s : State, (((s.freeOldPrivate 0).gatherReturning 0).electChecked 0 7).asking (.firm 0) = b) ∧
    (∀ b ∈ [true, false], ∃ s : State, ∃ w, (((List.range 4).foldl (fun s q => s.checkHeads 0 q (s.launches.length + 1)) (s.electWorld 0)).slice 0).eligible = some w ∧
      ((List.range 4).foldl (fun s q => s.checkHeads 0 q (s.launches.length + 1)) (s.electWorld 0)).hasWork w = b) ∧
    (∃ s : State, ∃ h o, (heads s).find? (·.back) = some h ∧ s.fits h = some o) ∧ (∃ s : State, ∃ h, (heads s).find? (·.back) = some h ∧ s.fits h = none) ∧
    (∃ s : State, ∃ h o, (heads s).find? (·.back) = none ∧ (s.slice 0).draining = false ∧ (s.slice 0).blocked = some (h.launch, h.cluster) ∧
      (s.slice 0).age < (s.slice 0).ageLimit ∧ (heads s).head? = some h ∧ s.fits h = some o) ∧
    (∃ s : State, (s.slice 0).eligible = some 1 ∧ s.clock < (s.slice 0).eligibleSince + (s.slice 0).quantum * 1000000) ∧
    (∃ s : State, ∃ v, (s.slice 0).eligible = some 1 ∧ (s.slice 0).quantum ≠ 0 ∧ (s.slice 0).eligibleSince + (s.slice 0).quantum * 1000000 ≤ s.clock ∧
      s.nextWorld 0 ((s.slice 0).wlist.findIdx (· == 1) + 1) = some v ∧ v ≠ 1) := by
  refine ⟨⟨laneAt (one .nop) [], (4096, 65536), by decide +kernel, by decide +kernel⟩, ⟨pack (wHead false), ⟨0, 0, false⟩, (0, 0), by decide +kernel, rfl⟩,
    ⟨pack (wHead true), ⟨0, 0, true⟩, (0, 0), by decide +kernel, rfl⟩, ⟨pack (wSl fun x => { x with splitting := true }), rfl⟩, ⟨State.reset, rfl, by decide +kernel⟩, ?_,
    forall_more ⟨pack fun s => { s with reqs := [{ tag := 0, who := .firm 0, inner := some 4, accel := 2, wpa := 0, write := false, awaited := true }] }, by decide +kernel⟩
      (forall_one ⟨pack, by decide +kernel⟩),
    forall_more ⟨pack fun s => wElig 1 (wHead true s), 1, by decide +kernel, by decide +kernel⟩
      (forall_one ⟨pack fun s => wElig 1 { s with launches := [(0, { wLaunch with st := .queued })] }, 1, by decide +kernel, by decide +kernel⟩),
    ⟨pack fun s => wElig 1 (wHead true s), ⟨0, 0, true⟩, (0, 0), by decide +kernel, by decide +kernel⟩,
    ⟨pack fun s => wElig 1 { wHead true s with teams := [(0, { placedTeam (onlyClause (one .nop)) false with st := .saved, savePending := some 1 })] },
      ⟨0, 0, true⟩, by decide +kernel, by decide +kernel⟩,
    ⟨pack fun s => wSl (fun x => { x with blocked := some (0, 0), age := 7 }) (wElig 1 (wHead false s)), ⟨0, 0, false⟩, (0, 0), by decide +kernel, rfl, rfl, by decide +kernel,
      by decide +kernel, by decide +kernel⟩,
    ⟨{ pack wTwo with clock := 9999999 }, rfl, by decide +kernel⟩,
    ⟨{ pack wTwo with clock := 10000000 }, 2, rfl, by decide +kernel, by decide +kernel, by decide +kernel, by decide⟩⟩
  refine forall_more ?_ (forall_one ?_) <;> exact ⟨pack (wSl fun x => { x with st := _ }), rfl, rfl⟩

/-- A resident team, all of whose lanes have exited, with the fields given; a retired one. -/
def wTeam (f : Team → Team) (s : State) : State :=
  { s with launches := [(0, { wLaunch with st := .active })], teams := [(0, f { placedTeam (onlyClause (one .nop)) true with seq := none, rollback := none })] }
def wEnds (st : LaunchSt) (s : State) : State := { s with launches := [(0, { wLaunch with st := st, retired := 1 })] }
def wEvents (n : Nat) : State → State := wSl fun x => { x with events := List.replicate n { type := 6, world := 1, aux := 0 } }
theorem witness_CompletionAndRelease :
    (∃ s : State, s.finished 0 = false) ∧
    (∃ s : State, s.finished 0 = true ∧ s.eventRoom (s.launch 0).world = true ∧ ∀ e ∈ (s.slice (s.launch 0).ctl).heldEvents, e.world ≠ (s.launch 0).world) ∧
    (∃ s : State, s.finished 0 = true ∧ s.eventRoom (s.launch 0).world = false) ∧ (∃ l : Launch, l.fail = none) ∧ (∃ l : Launch, l.fail = some (1, 7, 0)) ∧
    (∃ s : State, (s.team 0).st = .resident ∧ (s.team 0).rollback = none ∧ (s.team 0).ending = true ∧ s.teamStopped 0 = true) ∧
    (∃ s : State, ∃ k, (s.team 0).st = .resident ∧ (s.team 0).rollback = none ∧ (s.team 0).ending = false ∧ (s.team 0).savePending = some k ∧ s.teamStopped 0 = true) ∧
    (∀ b ∈ [true, false], ∃ s : State, (s.team 0).st = .resident ∧ (s.team 0).rollback = none ∧ (s.team 0).ending = false ∧ (s.team 0).savePending = none ∧
      (s.team 0).snapshot = b ∧ s.seqStopped 0 = true) ∧
    (∃ s : State, ∃ x, (s.team 0).rollback = some x ∧ (s.team 0).st = .resident ∧ s.rollbackReady 0 = true ∧ (s.team 0).overflow = true) ∧
    (∃ s : State, ∃ x, (s.team 0).rollback = some x ∧ (s.team 0).st = .resident ∧ s.rollbackReady 0 = true ∧ (s.team 0).overflow = false ∧ (s.team 0).rollbacks = 2) ∧
    (∃ s : State, ∃ x, (s.team 0).rollback = some x ∧ (s.team 0).st = .resident ∧ s.rollbackReady 0 = true ∧ (s.team 0).overflow = false ∧ (s.team 0).rollbacks ≠ 2) ∧
    (∃ s : State, s.varnishTeam 0 = none) ∧
    (∃ s u : State, s.varnishTeam 0 = some 0 ∧ s.performAll 0 (s.team 0).staged = (u, [], none)) ∧
    (∃ s u : State, ∃ e, s.perform 0 e = (u, .done) ∧ ∃ bs a, e.op = .write bs ∧ e.target = .device a ∧ e.sealed = false) ∧
    (∃ s u : State, ∃ e, s.perform 0 e = (u, .full)) ∧ (∃ s u : State, ∃ e c, s.perform 0 e = (u, .failed c)) := by
  refine ⟨⟨pack, rfl⟩, ⟨pack (wEnds .active), by decide +kernel, by decide +kernel, fun e h => by cases h⟩,
    ⟨pack fun s => wEvents 4096 (wEnds .active s), by decide +kernel, by decide +kernel⟩, ⟨{ wLaunch with fail := none }, rfl⟩, ⟨{ wLaunch with fail := some (1, 7, 0) }, rfl⟩,
    ⟨pack (wTeam fun t => { t with ending := true }), rfl, rfl, rfl, by decide +kernel⟩,
    ⟨pack (wTeam fun t => { t with savePending := some 2 }), _, rfl, rfl, rfl, rfl, by decide +kernel⟩, ?_,
    ⟨pack (wTeam fun t => { t with rollback := some (0x0A, 0, 0, false), overflow := true }), _, rfl, rfl, by decide +kernel, rfl⟩,
    ⟨pack (wTeam fun t => { t with rollback := some (0x0A, 0, 0, false), rollbacks := 2 }), _, rfl, rfl, by decide +kernel, rfl, rfl⟩,
    ⟨pack (wTeam fun t => { t with rollback := some (0x0A, 0, 0, false), rollbacks := 1 }), _, rfl, rfl, by decide +kernel, rfl, by decide +kernel⟩,
    ⟨pack, rfl⟩, ⟨pack (wTeam fun t => { t with st := .retired }), _, by decide +kernel, rfl⟩,
    ⟨pack, _, { va := 0, op := .write [1#8], target := .device 0, sealed := false }, rfl, _, _, rfl, rfl, rfl⟩,
    ⟨pack (wRuns 2), _, { va := 0, op := .launch [] false, target := .device 0 }, rfl⟩, ⟨pack, _, { va := 0, op := .write [1#8], target := .hostIo 0 }, _, rfl⟩⟩
  refine forall_more ?_ (forall_one ?_) <;> exact ⟨pack (wTeam fun t => { t with snapshot := _ }), rfl, rfl, rfl, rfl, rfl, by decide +kernel⟩
/-- A merge window of unit 2, location 5, that began at clock 0. -/
def wMerge (s : State) : State := { s with merges := [⟨2, 5, 0, 0, 3, 0⟩] }
theorem witness_Errors :
    (∃ s : State, ∀ m ∈ s.merges, ¬(m.unit = 2 ∧ m.loc = 5)) ∧
    (∃ s : State, ∃ m, s.merges.find? (fun m => m.unit == 2 && m.loc == 5) = some m ∧ s.clock < m.opened + 1000000) ∧
    (∃ s : State, ∃ m, s.merges.find? (fun m => m.unit == 2 && m.loc == 5) = some m ∧ m.opened + 1000000 ≤ s.clock) ∧
    (∃ s : State, bits s.relBase.toNat 3 0 < 6) ∧ (∃ s : State, 2 ^ bits s.relBase.toNat 3 0 ≤ (s.relTail - s.relHead).toNat) ∧
    (∃ addr : BitVec 64, addr.toNat < 2 ^ 48) ∧ (15 < 16 ∧ 127 < 128 ∧ 128 ≤ 128) ∧
    (∃ s : State, ∃ l ∈ s.hostLines, l.line / 2 = 3) ∧
    (∀ b ∈ [true, false], ∃ s : State, ∃ l, s.hostLines.find? (fun l => l.line == (BitVec.ofNat 64 511).toNat / 64) = some l ∧ l.dirty = b) :=
  ⟨⟨pack, fun m h => by cases h⟩, ⟨{ pack wMerge with clock := 999999 }, _, rfl, by decide⟩, ⟨{ pack wMerge with clock := 1000000 }, _, rfl, by decide⟩,
    ⟨pack, by decide +kernel⟩, ⟨pack fun s => { s with relBase := 6, relTail := 64 }, by decide +kernel⟩, ⟨BitVec.ofNat 64 (2 ^ 48 - 1), by decide⟩, by decide,
    ⟨{ pack with hostLines := [⟨0, 7, true⟩] }, _, List.mem_cons_self .., by decide⟩,
    fun b _ => ⟨{ pack with hostLines := [⟨0, 7, b⟩] }, _, rfl, rfl⟩⟩

theorem witness_FreezeAndPort : (∃ s : State, s.frozen = none) ∧ (∃ s : State, ∃ f, s.frozen = some f) ∧ 0x330 ≤ 0x330 ∧ 0x330 < 0x331 :=
  ⟨⟨pack, rfl⟩, ⟨{ pack with frozen := some ⟨1, 0⟩ }, _, rfl⟩, by decide, by decide⟩

theorem witness_Metering :
    (∃ s : State, s.clock < s.metNext * 1000000) ∧ (∃ s : State, s.metNext * 1000000 ≤ s.clock) ∧ (∃ s : State, (s.world 1).usage.chain = none) ∧ 14 ≤ 14 ∧
    (∃ h : HeldRec, h.at'.totals.get 0 0 < 2 ^ 64) ∧ (∃ v : BitVec 32, 100 ≤ bits v.toNat 16 0 ∧ bits v.toNat 16 0 ≤ 60000) :=
  ⟨⟨{ pack with metNext := 1000, clock := 999999999 }, by decide⟩, ⟨{ pack with metNext := 1000, clock := 1000000000 }, by decide⟩, ⟨pack, rfl⟩, by decide,
    ⟨⟨{ totals := [(0, 2 ^ 64 - 1)] }, 0, [], 16, false, false⟩, by decide +kernel⟩, ⟨100, by decide⟩⟩

/-- The debug block of world 1, with the team of laneAt as its target; its one lane in a state given. -/
def wDebug (f : Debug → Debug) (s : State) : State := s.modWorld 1 fun x => { x with dbg := f x.dbg }
def dbgAt (f : Lane → Lane) (g : State → State := id) : State := g (wLane f (laneAt (one .nop) []))
def dbgOk (s : State) : Bool := s.dbgTeam 1 == some 0 && !(s.world 1).dbg.busy && (s.team 0).st == .resident
theorem dbg_ok (s : State) (h : dbgOk s = true) : s.dbgTeam 1 = some 0 ∧ (s.world 1).dbg.busy = false ∧ (s.team 0).st = .resident := by
  simpa [dbgOk, and_assoc] using h

theorem witness_DebugCommands :
    (∃ s : State, s.dbgTeam 1 = none) ∧ (∃ s : State, (s.world 1).dbg.busy = true) ∧
    (∀ b ∈ [true, false], ∃ s : State, (s.dbgTeam 1 = some 0 ∧ (s.world 1).dbg.busy = false ∧ (s.team 0).st = .resident) ∧ s.dbgGroup 1 < (s.launchOf 0).desc.groups ∧
      (s.liveOf 0 (s.dbgGroup 1)).all (fun lit => State.haltedOrWaiting (s.lane 0 lit)) = b) ∧
    (∀ st ∈ [LaneSt.ready, .token, .join, .converge, .barrier, .mwait, .parked], ∃ s : State, 0 < (s.team 0).lanes.length ∧ (s.lane 0 0).st = st) ∧
    (∀ code ∈ [0, 0x0C], ∃ s : State, 0 < (s.team 0).lanes.length ∧ (s.lane 0 0).st = .halted ∧ (s.lane 0 0).code = code ∧ (s.lane 0 0).haltFrom = .ready) ∧
    (∀ b ∈ [true, false], ∃ s : State, 0 < (s.team 0).lanes.length ∧ (s.lane 0 0).st = .ready ∧ (s.lane 0 0).issued = b) ∧
    (∃ l : Lane, ∃ pc, l.after = some pc) ∧
    (∃ s : State, (s.lane 0 0).st = .halted ∧ (s.lane 0 0).code = 0x0E ∧ (s.world (s.launchOf 0).world).dbg.dispPc.toNat ≠ (s.lane 0 0).pc) := by
  refine ⟨⟨pack, rfl⟩, ⟨pack (wDebug fun d => { d with busy := true }), rfl⟩, ?_, ?_, ?_,
    forall_more ⟨dbgAt fun l => { l with issued := true }, by decide +kernel, rfl, rfl⟩ (forall_one ⟨dbgAt id, by decide +kernel, rfl, rfl⟩),
    ⟨{ after := some 0 }, 0, rfl⟩,
    ⟨dbgAt fun l => { l with st := .halted, code := 0x0E }, by decide +kernel, by decide +kernel, by decide +kernel⟩⟩
  · refine forall_more ?_ (forall_one ?_)
    · exact ⟨dbgAt fun l => { l with st := .halted }, dbg_ok _ (by decide +kernel), by decide +kernel, by decide +kernel⟩
    · exact ⟨dbgAt id, dbg_ok _ (by decide +kernel), by decide +kernel, by decide +kernel⟩
  · refine forall_more ?_ (forall_more ?_ (forall_more ?_ (forall_more ?_ (forall_more ?_ (forall_more ?_ (forall_one ?_)))))) <;>
      exact ⟨dbgAt fun l => { l with st := _ }, by decide +kernel, rfl⟩
  · refine forall_more ?_ (forall_one ?_) <;> exact ⟨dbgAt fun l => { l with st := .halted, code := _, haltFrom := .ready }, by decide +kernel, rfl, rfl, rfl⟩

theorem witness_DebugRegisters :
    (∃ s : State, ∃ r rest, (s.world 1).dbg.stops = [] ∧ (s.world 1).dbg.running = none ∧ (s.world 1).dbg.held = r :: rest ∧ (s.world 1).dbg.new = false) ∧
    (∃ s : State, (s.world 1).dbg.stops = [] ∧ (s.world 1).dbg.running = none ∧ (s.world 1).dbg.held = []) ∧
    (∃ s : State, (s.world 1).dbg.stops = [] ∧ (s.world 1).dbg.running = none ∧ (s.world 1).dbg.new = true) ∧
    (∃ s : State, ∃ p : Nat × Nat × Opd, s.dbgOperand 1 = some p ∧ (s.launchOf p.1).prot = false ∧ (s.team p.1).bad = []) ∧ (∃ s : State, s.dbgOperand 1 = none) ∧
    (∃ v : BitVec 64, v.extractLsb' 61 2 = 3#2) ∧ (∃ v : BitVec 64, v.extractLsb' 61 2 ≠ 3#2 ∧ v.getLsbD 52 = false) ∧
    (∃ v : BitVec 64, 5 < bits v.toNat 7 0) ∧ (∃ v : BitVec 64, bits v.toNat 7 0 = 0) :=
  ⟨⟨pack (wDebug fun d => { d with held := [⟨0, 0, false, 2, 0, 0⟩] }), _, _, rfl, rfl, rfl, rfl⟩, ⟨pack, rfl, rfl, rfl⟩,
    ⟨pack (wDebug fun d => { d with new := true }), rfl, rfl, rfl⟩,
    ⟨dbgAt (fun l => { l with st := .halted }) (wDebug fun d => { d with rsel := 0xFF }), (0, 0, .latch 7), by decide +kernel, by decide +kernel, by decide +kernel⟩, ⟨pack, rfl⟩,
    ⟨BitVec.ofNat 64 (3 * 2 ^ 61), by decide⟩, ⟨0, by decide⟩, ⟨6, by decide⟩, ⟨0, by decide⟩⟩

theorem witness_DecodeEncode :
    (∀ i ∈ [two .iadd3 3, one .mov, .moviW2 (.reg 239) 0xFFFFFFFF], ∃ e, entryOf i = some e ∧ e.cls ≤ 6 ∧ i.wf = true) ∧
    (∃ e, entryOf (Instr.brk 0xFFFF true) = some e ∧ e.cls = 7 ∧ (Instr.brk 0xFFFF true).wf = true) := by
  refine ⟨?_, ⟨_, rfl, by decide +kernel, by decide +kernel⟩⟩
  refine forall_more ?_ (forall_more ?_ (forall_one ?_)) <;> exact ⟨_, rfl, by decide +kernel, by decide +kernel⟩
end Sys2Proof.Tests
end

section
/-! The dispatcher's choices: what a placement may take (R138, R140), where a head fits (R139), the decision step (R143, R144),
the turn of the control programs (R127) and the switch at the end of a quantum (R456). -/

namespace Sys2Proof.Machine

/-- What a fold finds that at every entry keeps what it has or takes the entry is an entry. -/
theorem mem_of_foldl_some {α : Type} {f : Option α → α → Option α} {l : List α} {b : α} (h : l.foldl f none = some b)
    (hf : ∀ o a, f o a = o ∨ f o a = some a) : b ∈ l := by
  have found : ∀ o, l.foldl f o = some b → o = some b ∨ b ∈ l := by
    clear h
    induction l with
    | nil => exact fun o => .inl
    | cons a l ih =>
      intro o ho
      rcases ih (f o a) ho with hb | hb
      · rcases hf o a with ha | ha
        · exact .inl (ha.symm.trans hb)
        · obtain rfl : a = b := Option.some.inj (ha.symm.trans hb)
          exact .inr List.mem_cons_self
      · exact .inr (List.mem_cons_of_mem a hb)
  exact (found none h).resolve_left (by simp)

namespace State

/-! What a placement may take -/

/-- The base found ends within the store and lies clear of every range taken. -/
theorem lowestFree_some {taken : List (Nat × Nat)} {n lim b : Nat} (h : lowestFree taken n lim = some b) :
    b + n ≤ lim ∧ ∀ r ∈ taken, r.1 + r.2 ≤ b ∨ b + n ≤ r.1 := by
  have hb := mem_of_foldl_some h fun o x => by
    cases o with
    | none => exact .inr rfl
    | some a => exact (Nat.le_total a x).imp (fun hax => by simp [hax]) fun hxa => by simp [hxa]
  simpa using (List.mem_filter.1 hb).2

/-- The same of ranges that holders take, where an empty one does not count. -/
theorem lowestFree_holders {α : Type} {hs : List α} {base size : α → Nat} {n lim b : Nat}
    (h : lowestFree ((hs.map fun x => (base x, size x)).filter (·.2 != 0)) n lim = some b) :
    b + n ≤ lim ∧ ∀ x ∈ hs, size x ≠ 0 → base x + size x ≤ b ∨ b + n ≤ base x := by
  obtain ⟨hlim, hclear⟩ := lowestFree_some h
  refine ⟨hlim, fun x hx hsize => hclear (base x, size x) ?_⟩
  exact List.mem_filter.2 ⟨List.mem_map_of_mem hx, bne_iff_ne.2 hsize⟩

/-- A core gives room only within its limits on teams, groups and registers (R138), with bases that its stores have free. -/
theorem roomAt_some {s : State} {core : Nat} {l : Launch} {a b : Nat} (h : s.roomAt core l = some (a, b)) :
    (s.holders core).length < 4 ∧
    ((s.holders core).map fun x => (s.launch x.launch).desc.groups).foldl (· + ·) l.desc.groups ≤ 32 ∧
    ((s.holders core).map fun x => (s.launch x.launch).desc.coreRegs).foldl (· + ·) l.desc.coreRegs ≤ 196608 ∧
    lowestFree (((s.holders core).map fun x => (x.scrBase, (s.launch x.launch).desc.scratch)).filter (·.2 != 0))
      l.desc.scratch (2 ^ 23) = some a ∧
    lowestFree (((s.holders core).map fun x => (x.accBase, (s.launch x.launch).desc.accum * 65536)).filter (·.2 != 0))
      (l.desc.accum * 65536) (2 ^ 22) = some b := by
  unfold roomAt at h
  dsimp only at h
  split at h
  · cases h
  · next hlimits =>
    simp only [Bool.or_eq_true, decide_eq_true_eq, not_or, Nat.not_le, Nat.not_lt] at hlimits
    obtain ⟨⟨hteams, hgroups⟩, hregs⟩ := hlimits
    split at h
    · next hscr hacc =>
      cases h
      exact ⟨hteams, hgroups, hregs, hscr, hacc⟩
    · cases h

/-! Where a head fits -/

/-- A head fits only when its record has passed the checks, at an origin of its slice where every rank has room; an unplaced
cluster also needs a save slot for each of its teams. -/
theorem fits_some {s : State} {h : Head} {o : Nat × Nat} (hfit : s.fits h = some o) :
    (s.launch h.launch).st = .active ∧ o ∈ s.origins (s.launch h.launch) ∧
    (∀ r ∈ s.headRanks h, ∃ p, s.roomAt (rankCore (s.launch h.launch) o r) (s.launch h.launch) = some p) ∧
    (h.back = false → (s.launch h.launch).slotsUsed.length + (s.launch h.launch).clusterSize ≤ slotCount (s.launch h.launch)) := by
  unfold fits at hfit
  dsimp only at hfit
  split at hfit
  · cases hfit
  next hactive =>
  split at hfit
  · cases hfit
  split at hfit
  · cases hfit
  next hslots =>
  have hroom := List.find?_some hfit
  refine ⟨Decidable.not_not.1 hactive, List.mem_of_find?_eq_some hfit, fun r hr => ?_, fun hnew => ?_⟩
  · exact Option.isSome_iff_exists.1 (List.all_eq_true.1 hroom r hr)
  · rw [hnew] at hslots
    simp only [Bool.not_false, Bool.true_and, Bool.or_eq_true, decide_eq_true_eq, not_or, Nat.not_lt] at hslots
    exact hslots.1.1

/-! The decision step -/

/-- A SPLIT, or a slice that is neither READY nor BUSY, stops placement (R143). -/
theorem decisionStep_stopped {s : State} {c : Nat}
    (h : (s.slice c).splitting = true ∨ ((s.slice c).st ≠ .ready ∧ (s.slice c).st ≠ .busy)) : s.decisionStep c = s := by
  unfold decisionStep
  refine if_pos ?_
  rcases h with hsplit | ⟨hready, hbusy⟩
  · simp [hsplit]
  · simp [hready, hbusy]

/-- Otherwise the heads of an elected world are checked, and one is decided on unless a check waits for a peer's bytes. -/
theorem decisionStep_runs {s : State} {c : Nat} (hsplit : (s.slice c).splitting = false)
    (hst : (s.slice c).st = .ready ∨ (s.slice c).st = .busy) :
    s.decisionStep c = if (((s.freeOldPrivate c).gatherReturning c).electChecked c 7).asking (.firm c) then
      ((s.freeOldPrivate c).gatherReturning c).electChecked c 7
    else (((s.freeOldPrivate c).gatherReturning c).electChecked c 7).decideHead c := by
  unfold decisionStep
  refine if_neg ?_
  rcases hst with h | h <;> simp [hsplit, h]

/-- The slice elects a world, and checks the heads of its four queues. -/
def electOnce (s : State) (c : Nat) : State :=
  (List.range 4).foldl (fun s q => s.checkHeads c q (s.launches.length + 1)) (s.electWorld c)

/-- A world that still has work after its heads were checked stays elected. -/
theorem electChecked_work {s : State} {c w : Nat} (k : Nat) (hw : ((s.electOnce c).slice c).eligible = some w)
    (hwork : (s.electOnce c).hasWork w = true) : s.electChecked c (k + 1) = s.electOnce c := by
  unfold electOnce at hw hwork ⊢
  simp only [electChecked, hw, hwork, if_true]

/-- One that has none left gives way to the next (R143, R456). -/
theorem electChecked_noWork {s : State} {c w : Nat} (k : Nat) (hw : ((s.electOnce c).slice c).eligible = some w)
    (hwork : (s.electOnce c).hasWork w = false) : s.electChecked c (k + 1) = (s.electOnce c).electChecked c k := by
  unfold electOnce at hw hwork ⊢
  simp only [electChecked, hw, hwork, Bool.false_eq_true, if_false]

section
variable {s : State} {c : Nat} {h : Head}

/-- A returning head is the only one that the step looks at (R141): it is placed, or nothing is. -/
theorem decideHead_back (hback : ((List.range 4).filterMap (s.headOf c)).find? (·.back) = some h) :
    (∀ o, s.fits h = some o → s.decideHead c = (s.place h o).decide' c) ∧ (s.fits h = none → s.decideHead c = s) := by
  unfold decideHead
  dsimp only
  rw [hback]
  refine ⟨fun o hfit => ?_, fun hfit => ?_⟩ <;> simp only [hfit]
  rfl

/-- Without one, the blocked head that stands first is placed as soon as it fits, and is blocked no more (R144). -/
theorem decideHead_blocked {o : Nat × Nat} (hback : ((List.range 4).filterMap (s.headOf c)).find? (·.back) = none)
    (hdrain : (s.slice c).draining = false) (hblocked : (s.slice c).blocked = some (h.launch, h.cluster))
    (hage : (s.slice c).age < (s.slice c).ageLimit) (hfirst : ((List.range 4).filterMap (s.headOf c)).head? = some h)
    (hfit : s.fits h = some o) : s.decideHead c = ((s.unblock c).place h o).decide' c := by
  have hstands : ((List.range 4).filterMap (s.headOf c)).any (fun g => g.launch == h.launch && g.cluster == h.cluster) = true :=
    List.any_eq_true.2 ⟨h, List.mem_of_head? hfirst, by simp⟩
  have hyoung : ¬ (s.slice c).ageLimit ≤ (s.slice c).age := Nat.not_le.2 hage
  unfold decideHead
  dsimp only
  rw [hback]
  simp only [hblocked, hstands, hdrain, hyoung, hfirst, hfit, Bool.not_true, decide_false, Bool.and_false, Bool.false_eq_true,
    if_false, if_true]
  rfl

end

/-! The turn and the quantum -/

/-- A changed slice changes no byte. -/
theorem sameMemory_modSlice (s : State) (c : Nat) (f : Slice → Slice) : SameMemory s (s.modSlice c f) := by
  intro sp k
  cases sp <;> rfl

/-- Without a quantum, or before it has ended, the eligible world stays (R456). -/
theorem switchWorld_within {s : State} {c w : Nat} (hw : (s.slice c).eligible = some w)
    (h : (s.slice c).quantum = 0 ∨ s.clock < (s.slice c).eligibleSince + (s.slice c).quantum * 1000000) : s.switchWorld c = s := by
  have hover : s.quantumOver c = none := by
    unfold quantumOver
    simp only [hw]
    exact if_pos (by simpa using h)
  unfold switchWorld
  rw [hover]

/-- At its end another world with work takes its place, and the clusters of the old one are saved. -/
theorem switchWorld_over {s : State} {c w v : Nat} (hw : (s.slice c).eligible = some w) (hq : (s.slice c).quantum ≠ 0)
    (hend : (s.slice c).eligibleSince + (s.slice c).quantum * 1000000 ≤ s.clock)
    (hv : s.nextWorld c ((s.slice c).wlist.findIdx (· == w) + 1) = some v) (hvw : v ≠ w) :
    s.switchWorld c = ((s.setEligible c (some v)).saveWorld w 1).decide' c := by
  have hover : s.quantumOver c = some (w, v) := by
    unfold quantumOver
    simp only [hw, hv]
    rw [if_neg (by simpa using ⟨hq, hend⟩), if_neg hvw]
  unfold switchWorld
  rw [hover]

/-- A world that becomes eligible begins its quantum now. -/
theorem slice_setEligible {s : State} {c : Nat} {w : Option Nat} (h : (s.slice c).eligible ≠ w) :
    (s.setEligible c w).slice c = { s.slice c with eligible := w, eligibleSince := s.clock } := by
  unfold setEligible
  rw [if_neg h, slice_modSlice]

end State

/-! The operations -/

theorem exec_decisionStep (c : Nat) (s : State) : exec (.decisionStep c) s = .next (s.decisionStep c) := rfl
theorem exec_quantumExpiry (c : Nat) (s : State) : exec (.quantumExpiry c) s = .next (s.switchWorld c) := rfl
theorem exec_turnEnd (c : Nat) (s : State) :
    exec (.turnEnd c) s = .next (s.modSlice c fun x => { x with turnPos := (x.turnPos + 1) % 6, turnCount := 0 }) := rfl

/-- Settles O49: each clause is the lemma above about the function of the dispatcher that it speaks of. -/
theorem placement : Obligations.Placement := by
  unfold Obligations.Placement
  refine ⟨fun s core l a b h => ?room, fun s h o hfit => ?head, fun s h o hfit hnew => ?slots,
    fun s c h => ?stopped, fun s c hsplit hst => ?runs,
    fun s c k => ⟨fun w => State.electChecked_work k, fun w => State.electChecked_noWork k⟩,
    fun s c h => State.decideHead_back, fun s c h o => State.decideHead_blocked,
    fun s c => ⟨_, exec_turnEnd c s, slice_modSlice _ _ _, State.sameMemory_modSlice _ _ _⟩,
    fun s c w hw h => ?within, fun s c w v hw hq hend hv hvw => ?switch⟩
  case room =>
    obtain ⟨hteams, hgroups, hregs, hscr, hacc⟩ := State.roomAt_some h
    obtain ⟨hscrLim, hscrClear⟩ := State.lowestFree_holders hscr
    obtain ⟨haccLim, haccClear⟩ := State.lowestFree_holders hacc
    exact ⟨hteams, hgroups, hregs, hscrLim, haccLim, hscrClear, fun x hx hx0 => haccClear x hx (by omega)⟩
  case head =>
    obtain ⟨hactive, horigin, hroom, -⟩ := State.fits_some hfit
    exact ⟨hactive, horigin, hroom⟩
  case slots =>
    obtain ⟨-, -, -, hslots⟩ := State.fits_some hfit
    exact hslots hnew
  case stopped => rw [exec_decisionStep, State.decisionStep_stopped h]
  case runs =>
    dsimp only
    rw [exec_decisionStep, State.decisionStep_runs hsplit hst]
    exact ⟨fun hask => by rw [hask]; rfl, fun hask => by rw [hask]; rfl⟩
  case within => rw [exec_quantumExpiry, State.switchWorld_within hw h]
  case switch =>
    have hslice := State.slice_setEligible (w := some v) (fun e => hvw (Option.some.inj (e.symm.trans hw)))
    rw [exec_quantumExpiry, State.switchWorld_over hw hq hend hv hvw, hslice]
    exact ⟨rfl, rfl, rfl⟩

end Sys2Proof.Machine
end

section
/-! The machine at reset (R23, R32, R66), and what the slice commands share: how one starts, what its checks refuse and how it
ends (R42, R48, R49). -/

namespace Sys2Proof.Machine

/-- Settles O6: every table of the reset state is empty, so each read of one gives its default. -/
theorem reset : Obligations.Reset := by
  unfold Obligations.Reset
  refine ⟨fun _ => rfl, fun _ => rfl, rfl, rfl, rfl, rfl, rfl, rfl, rfl, rfl, rfl, rfl, rfl, rfl, rfl, fun sp _ => ?byte, fun sp => ?wf⟩
  case byte => cases sp <;> rfl
  case wf => cases sp <;> rfl

/-! The start of a command -/

/-- A command that a check of R48 refuses ends with the status that the check names. -/
theorem slcWrite_refused {s : State} {op st : Nat} {cmd : BitVec 32} (h : TakesCommand s op cmd)
    (hc : (s.accepting cmd).commandCheck (s.commandOf cmd) = some st) (i : Instr) (run : State → Command → State) :
    s.slcWrite op cmd i run = (s.accepting cmd).endCommand st := by
  rw [slcWrite_takes h i run, hc]

/-- A command that passes them runs its operation. -/
theorem slcWrite_runs {s : State} {op : Nat} {cmd : BitVec 32} (h : TakesCommand s op cmd)
    (hc : (s.accepting cmd).commandCheck (s.commandOf cmd) = none) (i : Instr) (run : State → Command → State) :
    s.slcWrite op cmd i run = run (s.accepting cmd) (s.commandOf cmd) := by
  rw [slcWrite_takes h i run, hc]

/-- A write of SLC_CMD while a command runs has no effect (R42). -/
theorem slcWrite_busy {s : State} (h : s.command ≠ none) (op : Nat) (cmd : BitVec 32) (i : Instr) (run : State → Command → State) :
    s.slcWrite op cmd i run = s := by
  have hrun : s.command.isSome = true := Option.isSome_iff_ne_none.2 h
  unfold State.slcWrite
  exact if_pos (by simp [hrun])

/-- Nor has a write of WLD_MIGCMD. -/
theorem migWrite_busy {s : State} (h : s.command ≠ none) (w op : Nat) (i : Instr) (run : State → State) :
    s.migWrite w op i run = s := by
  have hrun : s.command.isSome = true := Option.isSome_iff_ne_none.2 h
  unfold State.migWrite
  exact if_pos (by simp [hrun])

/-! The slice commands as writes of SLC_CMD -/

theorem exec_create (cmd : BitVec 32) (s : State) : exec (.create cmd) s = .next (s.slcWrite 1 cmd (.create cmd) State.createSlice) := rfl
theorem exec_destroy (cmd : BitVec 32) (s : State) : exec (.destroy cmd) s = .next (s.slcWrite 2 cmd (.destroy cmd) State.destroySlice) := rfl
theorem exec_merge (cmd : BitVec 32) (s : State) : exec (.merge cmd) s = .next (s.slcWrite 3 cmd (.merge cmd) State.mergeCommand) := rfl
theorem exec_split (cmd : BitVec 32) (s : State) : exec (.split cmd) s = .next (s.slcWrite 4 cmd (.split cmd) State.splitCommand) := rfl
theorem exec_attach (cmd : BitVec 32) (s : State) : exec (.attach cmd) s = .next (s.slcWrite 5 cmd (.attach cmd) State.attachWorld) := rfl
theorem exec_detach (cmd : BitVec 32) (s : State) : exec (.detach cmd) s = .next (s.slcWrite 6 cmd (.detach cmd) State.detachCommand) := rfl
theorem exec_quiesce (cmd : BitVec 32) (s : State) : exec (.quiesce cmd) s = .next (s.slcWrite 7 cmd (.quiesce cmd) State.quiesceCommand) := rfl
theorem exec_resume (cmd : BitVec 32) (s : State) : exec (.resume cmd) s = .next (s.slcWrite 8 cmd (.resume cmd) State.resumeCommand) := rfl
/-- RESET is the command of the whole slice where WORLD is 0, and else of that world. -/
theorem exec_reset {cmd : BitVec 32} (h : cmdWorld cmd = 0) (s : State) :
    exec (.reset cmd) s = .next (s.slcWrite 9 cmd (.reset cmd) State.resetSlice) := if_pos h
theorem exec_reset_world {cmd : BitVec 32} (h : cmdWorld cmd ≠ 0) (s : State) : exec (.reset cmd) s = .next s := if_neg h
theorem exec_worldReset {cmd : BitVec 32} (h : cmdWorld cmd ≠ 0) (s : State) :
    exec (.worldReset cmd) s = .next (s.slcWrite 9 cmd (.worldReset cmd) State.worldResetCommand) := if_neg h
theorem exec_worldReset_slice {cmd : BitVec 32} (h : cmdWorld cmd = 0) (s : State) : exec (.worldReset cmd) s = .next s := if_pos h

/-! The migration commands as writes of WLD_MIGCMD -/

theorem exec_track (w : Nat) (s : State) : exec (.track w) s = .next (s.migWrite w 1 (.track w) fun s => s.trackWorld w) := rfl
theorem exec_harvest (w : Nat) (s : State) : exec (.harvest w) s = .next (s.migWrite w 2 (.harvest w) fun s => s.harvestWorld w) := rfl
theorem exec_exportWorld (w : Nat) (s : State) : exec (.exportWorld w) s = .next (s.migWrite w 3 (.exportWorld w) fun s => s.exportStart w) := rfl
theorem exec_importWorld (w : Nat) (s : State) : exec (.importWorld w) s = .next (s.migWrite w 4 (.importWorld w) fun s => s.importStart w) := rfl
theorem exec_untrack (w : Nat) (s : State) : exec (.untrack w) s = .next (s.migWrite w 5 (.untrack w) fun s => s.untrackWorld w) := rfl

theorem exec_commandDone (s : State) : exec .commandDone s = .next s.commandDoneNow := rfl

/-! The checks of R48 -/

section
variable {s : State} {c : Command}

/-- The node must be named, and the argument must leave every bit clear that the operation does not name. -/
theorem commandCheck_badWord (h : c.node = 0 ∨ c.arg &&& ~~~argMask c.op ≠ 0) : s.commandCheck c = some 2 :=
  if_pos (by simpa using h)

/-- An operation on a world names one of the package's worlds. -/
theorem commandCheck_noWorld (h : 5 ≤ c.op) (hw : 96 < c.world) : s.commandCheck c = some 2 := by
  unfold State.commandCheck
  dsimp only
  split
  · rfl
  · exact if_pos (by simp [h, hw])

/-- ATTACH and DETACH are not for world 0. -/
theorem commandCheck_worldZero (h : c.op = 5 ∨ c.op = 6) (hw : c.world = 0) : s.commandCheck c = some 2 := by
  unfold State.commandCheck
  dsimp only
  split
  · rfl
  split
  · rfl
  · exact if_pos (by simp [h, hw])

/-- Every operation but CREATE and MERGE needs the slice of its node to stand. -/
theorem commandCheck_noSlice (hn : c.node ≠ 0) (ha : c.arg &&& ~~~argMask c.op = 0) (hw : c.world ≠ 0) (hw' : c.world ≤ 96)
    (h1 : c.op ≠ 1) (h3 : c.op ≠ 3) (h : (s.slice (nodeCtl c.node)).st = .empty ∨ (s.slice (nodeCtl c.node)).node ≠ c.node) :
    s.commandCheck c = some 4 := by
  have hlow : ¬ 96 < c.world := Nat.not_lt.2 hw'
  unfold State.commandCheck
  dsimp only
  rw [if_neg (by simp [hn, ha]), if_neg (by simp [hlow]), if_neg (by simp [hw])]
  exact if_pos (by simpa [h1, h3] using h)

end

/-! The end of a command -/

/-- Where every store stands as it did, every byte does. -/
theorem sameMemory_of_bytesOf {s t : State} (h : ∀ sp, t.bytesOf sp = s.bytesOf sp) : SameMemory s t :=
  fun sp k => congrArg (SMap.get unlisted · k) (h sp)

/-- COMMAND_DONE of a slice command that has ended with a status finishes it (R49). -/
theorem commandDoneNow_ended {s : State} {c : Command} {st : Nat} (h : s.command = some c) (hop : c.op < 0x80)
    (he : c.ended = some st) : s.commandDoneNow = s.finishCommand c st := by
  unfold State.commandDoneNow
  simp only [h, he]
  exact if_neg (Nat.not_le.2 hop)

/-- What finishing any command but an ATTACH leaves: the status and the time in SLC_CMDSTAT, GO clear, the operations that were
held next in the agenda, and the interrupt (R42, R49). -/
theorem finishCommand_fields {s : State} {c : Command} (st : Nat) (hop : c.op ≠ 5) (hact : s.activating = false) :
    let t := s.finishCommand c st
    t.command = none ∧ t.slcStatus = st ∧ t.slcElapsed = min 0xFFFFFF ((s.clock - c.start) / 1000) ∧ t.slcCmd = s.slcCmd &&& ~~~1#32 ∧
    t.held = [] ∧ t.agenda = s.held.map Move.event ++ s.agenda ∧
    ((s.world 0).unmasked.contains 0 = true → t.out = s.out ++ [.msix 0 0]) ∧ SameMemory s t := by
  have hno : (c.op = 5 && st = 0 : Bool) = false := by simp [hop]
  unfold State.finishCommand
  simp only [hno, Bool.false_eq_true, if_false]
  obtain ⟨hcommand, hstatus, helapsed, hcmd, hheld, hagenda, hout, hbytes⟩ := wrapUp_fields
    { s.modSlice (nodeCtl c.node) fun x => { x with st := if x.st = .busy then .ready else x.st } with
      command := none, slcStatus := st, slcElapsed := min 0xFFFFFF (s.microsSince c.start), slcCmd := s.slcCmd &&& ~~~1#32 } _ hact
  exact ⟨hcommand, hstatus, helapsed, hcmd, hheld, hagenda, hout,
    sameMemory_of_bytesOf fun sp => (hbytes sp).trans (by cases sp <;> rfl)⟩

/-- Settles O35: the checks are commandCheck's branches in their order, and the end is finishCommand. -/
theorem sliceCommandRules : Obligations.SliceCommandRules := by
  unfold Obligations.SliceCommandRules
  refine ⟨?refused, fun s c h => commandCheck_badWord (.inl h), fun s c _ h => commandCheck_badWord (.inr h),
    fun s c => commandCheck_noWorld, fun s c => commandCheck_worldZero, fun s c => commandCheck_noSlice, ?busy, ?migBusy,
    fun s c st h hop he => ⟨_, (exec_commandDone s).trans (congrArg _ (commandDoneNow_ended h hop he)), rfl⟩,
    fun s c st h hop hat he hact => ⟨_, (exec_commandDone s).trans (congrArg _ (commandDoneNow_ended h hop he)),
      finishCommand_fields st hat hact⟩⟩
  case refused =>
    simp only [List.forall_mem_cons, List.not_mem_nil, false_implies, implies_true, and_true]
    refine ⟨?_, ?_, ?_, ?_, ?_, ?_, ?_, ?_, ?_, ?_⟩ <;> intro s cmd h hslice hworld st hc
    · rw [exec_create, slcWrite_refused h hc]
    · rw [exec_destroy, slcWrite_refused h hc]
    · rw [exec_merge, slcWrite_refused h hc]
    · rw [exec_split, slcWrite_refused h hc]
    · rw [exec_attach, slcWrite_refused h hc]
    · rw [exec_detach, slcWrite_refused h hc]
    · rw [exec_quiesce, slcWrite_refused h hc]
    · rw [exec_resume, slcWrite_refused h hc]
    · rw [exec_reset (hslice trivial), slcWrite_refused h hc]
    · rw [exec_worldReset (hworld trivial), slcWrite_refused h hc]
  case busy =>
    simp only [List.forall_mem_cons, List.not_mem_nil, false_implies, implies_true, and_true]
    refine ⟨?_, ?_, ?_, ?_, ?_, ?_, ?_, ?_, ?_, ?_⟩ <;> intro s cmd h
    · rw [exec_create, slcWrite_busy h]
    · rw [exec_destroy, slcWrite_busy h]
    · rw [exec_merge, slcWrite_busy h]
    · rw [exec_split, slcWrite_busy h]
    · rw [exec_attach, slcWrite_busy h]
    · rw [exec_detach, slcWrite_busy h]
    · rw [exec_quiesce, slcWrite_busy h]
    · rw [exec_resume, slcWrite_busy h]
    · by_cases hw : cmdWorld cmd = 0
      · rw [exec_reset hw, slcWrite_busy h]
      · exact exec_reset_world hw s
    · by_cases hw : cmdWorld cmd = 0
      · exact exec_worldReset_slice hw s
      · rw [exec_worldReset hw, slcWrite_busy h]
  case migBusy =>
    simp only [List.forall_mem_cons, List.not_mem_nil, false_implies, implies_true, and_true]
    refine ⟨?_, ?_, ?_, ?_, ?_⟩ <;> intro s w h
    · rw [exec_track, migWrite_busy h]
    · rw [exec_harvest, migWrite_busy h]
    · rw [exec_exportWorld, migWrite_busy h]
    · rw [exec_importWorld, migWrite_busy h]
    · rw [exec_untrack, migWrite_busy h]

end Sys2Proof.Machine
end

section
/-! The links to peers (R112 to R116, R330, R331): which inbound requests the device serves, what it answers, and how its own
requests end. -/

namespace Sys2Proof.Machine

namespace State

/-! What a metering counter leaves -/

/-- Counting for a world changes no byte of any store. -/
@[simp] theorem bytesOf_meter (s : State) (w k n : Nat) (sp : Space) : (s.meter w k n).bytesOf sp = s.bytesOf sp :=
  bytesOf_modWorld s w _ sp rfl rfl

@[simp] theorem read_meter (s : State) (w k n : Nat) (sp : Space) (a m : Nat) : (s.meter w k n).read sp a m = s.read sp a m := by
  simp only [read, bytesOf_meter]

@[simp] theorem poisoned_meter (s : State) (w k n : Nat) (sp : Space) (a m : Nat) :
    (s.meter w k n).poisoned sp a m = s.poisoned sp a m := rfl
@[simp] theorem keptAtomic_meter (s : State) (w k n station snode sworld : Nat) (tag : BitVec 16) :
    (s.meter w k n).keptAtomic station snode sworld tag = s.keptAtomic station snode sworld tag := rfl
@[simp] theorem out_meter (s : State) (w k n : Nat) : (s.meter w k n).out = s.out := rfl
@[simp] theorem kept_meter (s : State) (w k n : Nat) : (s.meter w k n).kept = s.kept := rfl

/-- A write leaves the same bytes in two states whose stores hold the same. -/
theorem bytesOf_write_congr {s t : State} (h : ∀ sp, t.bytesOf sp = s.bytesOf sp) (sp sq : Space) (a : Nat) (bs : List Byte) :
    (t.write sp a bs).bytesOf sq = (s.write sp a bs).bytesOf sq := by
  by_cases hsq : sq = sp
  · rw [hsq, bytesOf_write, bytesOf_write, h]
  · rw [bytesOf_write_ne _ _ _ _ _ hsq, bytesOf_write_ne _ _ _ _ _ hsq, h]

/-! Inbound requests -/

section
variable {s : State} {station snode sworld node world wpa n : Nat} {sp : Space} {a : Nat}

/-- A requester that the slice does not name reaches nothing. -/
theorem inboundTarget_refused (h : s.inboundOk station snode sworld node world = false) (write : Bool) :
    s.inboundTarget station snode sworld node world wpa n write = none := by
  unfold inboundTarget
  exact if_neg (by simp [h])

/-- Nor does a write while an EXPORT drops them (R474). -/
theorem inboundTarget_dropped (h : (s.world world).dropWrites = true) :
    s.inboundTarget station snode sworld node world wpa n true = none := by
  unfold inboundTarget
  exact if_neg (by simp [h])

theorem inboundRead_served (ht : s.inboundTarget station snode sworld node world wpa n false = some (sp, a))
    (hp : s.poisoned sp a n = false) :
    s.inboundRead station snode sworld node world wpa n = (s.meter world 10 n).send (.reply 0 (s.read sp a n)) := by
  simp only [inboundRead, ht, hp, Bool.false_eq_true, if_false]

theorem inboundRead_poisoned (ht : s.inboundTarget station snode sworld node world wpa n false = some (sp, a))
    (hp : s.poisoned sp a n = true) : s.inboundRead station snode sworld node world wpa n = s.send (.reply 1 []) := by
  simp only [inboundRead, ht, hp, if_true]

theorem inboundRead_refused (ht : s.inboundTarget station snode sworld node world wpa n false = none) :
    s.inboundRead station snode sworld node world wpa n = (s.isolation 0 wpa).send (.reply 1 []) := by
  simp only [inboundRead, ht]

theorem inboundWrite_served {bs : List Byte} (ht : s.inboundTarget station snode sworld node world wpa bs.length true = some (sp, a)) :
    s.inboundWrite station snode sworld node world wpa bs = ((s.write sp a bs).meter world 11 bs.length).send (.reply 0 []) := by
  simp only [inboundWrite, ht]

theorem inboundWrite_refused {bs : List Byte} (ht : s.inboundTarget station snode sworld node world wpa bs.length true = none) :
    s.inboundWrite station snode sworld node world wpa bs = s.isolation 0 wpa := by
  simp only [inboundWrite, ht]

/-- A result that is kept comes last, whatever leaves to make room for it. -/
theorem mem_keepAtomic (s : State) (k : Kept) : k ∈ (s.keepAtomic k).kept := List.mem_append_right _ (List.mem_singleton.2 rfl)

@[simp] theorem out_keepAtomic (s : State) (k : Kept) : (s.keepAtomic k).out = s.out := rfl
@[simp] theorem bytesOf_keepAtomic (s : State) (k : Kept) (sq : Space) : (s.keepAtomic k).bytesOf sq = s.bytesOf sq := by
  cases sq <;> rfl

variable {tag : BitVec 16} {op : Nat} {b c : BitVec 64}

theorem inboundAtomic_refused (ht : s.inboundTarget station snode sworld node world wpa (atomBytes op) true = none) :
    s.inboundAtomic station snode sworld node world wpa tag op b c = (s.isolation 0 wpa).send (.reply 1 []) := by
  simp only [inboundAtomic, ht]

/-- An 8-byte atomic without a comparison that no kept result answers is performed, and its result is kept (R116). -/
theorem inboundAtomic_performed (hop : op < 16) (hn : atomBytes op = 8)
    (ht : s.inboundTarget station snode sworld node world wpa 8 true = some (sp, a))
    (hk : s.keptAtomic station snode sworld tag = none) (hp : s.poisoned sp a 8 = false) :
    s.inboundAtomic station snode sworld node world wpa tag op b c =
      ((((((s.meter world 11 8).write sp a (leBytes 8 (atomNew op (ofLe (s.read sp a 8)) b.toNat 0))).meter world 12 1).keepAtomic
        ⟨station, snode, sworld, tag, wpa, node, world, op, b, 0, ofLe (s.read sp a 8)⟩).meter world 10 8).send
          (.reply 0 (leBytes 8 (ofLe (s.read sp a 8))))) := by
  simp only [inboundAtomic, hn, ht, hop, if_true, keptAtomic_meter, hk, poisoned_meter, hp, Bool.false_eq_true, if_false, read_meter]
  rfl

/-- One whose tag names a kept result is answered from it where it is the same request, and else refused (R116). -/
theorem inboundAtomic_kept {q : Kept} (hop : op < 16) (hn : atomBytes op = 8)
    (ht : s.inboundTarget station snode sworld node world wpa 8 true = some (sp, a))
    (hk : s.keptAtomic station snode sworld tag = some q) :
    s.inboundAtomic station snode sworld node world wpa tag op b c =
      if q.op = op ∧ q.wpa = wpa ∧ q.node = node ∧ q.world = world ∧ q.b = b ∧ q.cnew = 0 then
        ((s.meter world 11 8).meter world 10 8).send (.reply 0 (leBytes 8 q.result))
      else (s.meter world 11 8).send (.reply 2 []) := by
  simp only [inboundAtomic, hn, ht, hop, if_true, keptAtomic_meter, hk, Bool.and_eq_true, decide_eq_true_eq, and_assoc]

end

/-! Answers to the device's own requests -/

section
variable {s : State} {w tag : Nat} {r : Req} {bs : List Byte}

/-- The request that waits under a tag is one of the world's own under that tag (R330). -/
theorem waitingReq_some (h : s.waitingReq w tag = some r) : r ∈ s.reqs ∧ r.world = w ∧ r.tag = tag ∧ r.st = .waiting := by
  have hp := List.find?_some h
  simp only [Bool.and_eq_true, beq_iff_eq, and_assoc] at hp
  exact ⟨List.mem_of_find?_eq_some h, hp⟩

theorem peerAnswer_none (h : s.waitingReq w tag = none) (mismatch : Bool) : s.peerAnswer w tag mismatch bs = s := by
  simp only [peerAnswer, h]

theorem peerAnswer_mismatch (h : s.waitingReq w tag = some r) :
    s.peerAnswer w tag true bs = (s.meter w 11 bs.length).settleReq r .mismatch := by
  simp only [peerAnswer, h, if_true]

/-- A response with data settles its request with them. -/
theorem peerAnswer_ok (h : s.waitingReq w tag = some r) (hbs : bs ≠ []) :
    s.peerAnswer w tag false bs = (s.meter w 11 bs.length).settleReq r (.ok bs) := by
  simp [peerAnswer, h, hbs]

/-- One without data, where some are awaited, counts as poison (R331). -/
theorem peerAnswer_poison (h : s.waitingReq w tag = some r) (hr : r.awaited = true ∨ r.write = false) :
    s.peerAnswer w tag false [] = (s.meter w 11 0).settleReq r .poison := by
  simp [peerAnswer, h, hr]

theorem peerTimeout_none (h : s.waitingReq w tag = none) : s.peerTimeout w tag = s := by
  simp only [peerTimeout, h]

theorem peerTimeout_early (h : s.waitingReq w tag = some r) (ht : s.cycle < r.sent + 2100000) : s.peerTimeout w tag = s := by
  simp only [peerTimeout, h, ht, if_true]

/-- A request that 2 ms pass over is indeterminate; where nobody waits for it, a REMOTE record names it (R115, R331). -/
theorem peerTimeout_late (h : s.waitingReq w tag = some r) (ht : r.sent + 2100000 ≤ s.cycle) :
    s.peerTimeout w tag = (if orphan r then
      s.errorRecord 8 6 w r.wpa (s.portOf w r.accel r.wpa) 0 0 r.team (BitVec.ofNat 64 r.cookie) 1 0 else s).settleReq r .indeterminate := by
  simp only [peerTimeout, h, if_neg (Nat.not_lt.2 ht)]

/-- The outcome of a request that an agent awaits itself is kept for it, and the gangs look again. -/
theorem settleReq_awaited (st : ReqSt) (hc : r.copyPiece = none) (hp : r.pass = none) (hi : r.inner = none) (ha : r.awaited = true) :
    s.settleReq r st = ({ s with reqs := s.reqs.map fun q => if q = r then { q with st := st } else q } : State).wakeGangs := by
  have horphan : orphan r = false := by simp [orphan, ha]
  simp only [settleReq, horphan, hc, hp, hi, Option.isSome_none, Bool.false_and, Bool.false_eq_true, if_false]

end

end State

/-! The operations -/

section
variable (s : State) (station snode sworld node world wpa : Nat)

theorem exec_ualinkInboundRead (len : Nat) : exec (.ualinkInboundRead station snode sworld node world wpa len) s =
    .next (s.inboundRead station snode sworld node world wpa len) := rfl
theorem exec_ualinkInboundWrite (bs : List Byte) : exec (.ualinkInboundWrite station snode sworld node world wpa bs) s =
    .next (s.inboundWrite station snode sworld node world wpa bs) := rfl
theorem exec_ualinkInboundAtomic (tag : BitVec 16) (op : Nat) (b c : BitVec 64) :
    exec (.ualinkInboundAtomic station snode sworld node world wpa tag op b c) s =
      .next (s.inboundAtomic station snode sworld node world wpa tag op b c) := rfl
end

theorem exec_ualinkResponse (s : State) (w : Nat) (tag : BitVec 16) (mismatch : Bool) (bs : List Byte) :
    exec (.ualinkResponse ⟨w, tag⟩ mismatch bs) s = .next (s.peerAnswer w tag.toNat mismatch bs) := rfl
theorem exec_requestTimeout (s : State) (w : Nat) (tag : BitVec 16) :
    exec (.requestTimeout ⟨w, tag⟩) s = .next (s.peerTimeout w tag.toNat) := rfl

/-- Settles O45: each clause is the lemma above about the request's target, its kept result or its answer. -/
theorem peerRequests : Obligations.PeerRequests := by
  unfold Obligations.PeerRequests
  refine ⟨?reads, ?writes, ?refused, fun _ _ _ _ _ _ _ _ write h => State.inboundTarget_refused h write,
    fun _ _ _ _ _ _ _ _ h => State.inboundTarget_dropped h, ?performed, ?kept, ?unknown, ?answered,
    fun _ _ _ _ => State.waitingReq_some, fun _ _ st hc hp hi ha => State.settleReq_awaited st hc hp hi ha, ?early, ?late, ?lost⟩
  case reads =>
    intro s station snode sworld node world wpa len sp a ht
    exact ⟨fun hp => by rw [exec_ualinkInboundRead, State.inboundRead_served ht hp],
      fun hp => by rw [exec_ualinkInboundRead, State.inboundRead_poisoned ht hp]⟩
  case writes =>
    intro s station snode sworld node world wpa bs sp a ht
    rw [exec_ualinkInboundWrite, State.inboundWrite_served ht]
  case refused =>
    intro s station snode sworld node world wpa len bs tag op b c
    exact ⟨fun ht => by rw [exec_ualinkInboundRead, State.inboundRead_refused ht],
      fun ht => by rw [exec_ualinkInboundWrite, State.inboundWrite_refused ht],
      fun ht => by rw [exec_ualinkInboundAtomic, State.inboundAtomic_refused ht]⟩
  case performed =>
    intro s station snode sworld node world wpa tag op b c sp a hop hn ht hk hp
    refine ⟨_, (exec_ualinkInboundAtomic ..).trans (congrArg _ (State.inboundAtomic_performed hop hn ht hk hp)), fun sq k => ?_, ?_, ?_⟩
    · have hbytes := State.bytesOf_write_congr (State.bytesOf_meter s world 11 8) sp sq a
        (leBytes 8 (atomNew op (ofLe (s.read sp a 8)) b.toNat 0))
      refine congrArg (SMap.get unlisted · k) (Eq.trans ?_ hbytes)
      rw [bytesOf_send, State.bytesOf_meter, State.bytesOf_keepAtomic, State.bytesOf_meter]
    · rw [State.send_out, State.out_meter, State.out_keepAtomic, State.out_meter, State.out_write, State.out_meter]
    · rw [State.send_kept, State.kept_meter]
      exact State.mem_keepAtomic _ _
  case kept =>
    intro s station snode sworld node world wpa tag op b c sp a q hop hn ht hk
    refine ⟨_, (exec_ualinkInboundAtomic ..).trans (congrArg _ (State.inboundAtomic_kept hop hn ht hk)), ?_, ?_, ?_⟩
    · refine sameMemory_of_bytesOf fun sq => ?_
      split <;> simp only [bytesOf_send, State.bytesOf_meter]
    · intro h1 h2 h3 h4 h5 h6
      rw [if_pos ⟨h1, h2, h3, h4, h5, h6⟩]
      rfl
    · intro h
      rw [if_neg fun ⟨h1, h2, h3, h4, h5, h6⟩ => by simp only [h1, h2, h3, h4, h5, h6, ne_eq, not_true_eq_false, or_self] at h]
      rfl
  case unknown =>
    intro s w tag mismatch bs h
    exact ⟨by rw [exec_ualinkResponse, State.peerAnswer_none h], by rw [exec_requestTimeout, State.peerTimeout_none h]⟩
  case answered =>
    intro s w tag bs r h
    exact ⟨fun hbs => by rw [exec_ualinkResponse, State.peerAnswer_ok h hbs],
      fun hr => by rw [exec_ualinkResponse, State.peerAnswer_poison h hr], by rw [exec_ualinkResponse, State.peerAnswer_mismatch h]⟩
  case early =>
    intro s w tag r h ht
    rw [exec_requestTimeout, State.peerTimeout_early h ht]
  case late =>
    intro s w tag r h ht horphan
    rw [exec_requestTimeout, State.peerTimeout_late h ht, horphan]
    rfl
  case lost =>
    intro s w tag r h ht horphan
    rw [exec_requestTimeout, State.peerTimeout_late h ht, if_pos horphan]

end Sys2Proof.Machine
end

section
/-! The host's side of the links: HDM decoders and accesses (R107, R108), snoops (R106), ATS invalidations (R109) and PRG
Responses (R110). -/

namespace Sys2Proof.Machine

namespace State

/-! HDM -/

section
variable {s : State} {addr n : Nat} {d : Decoder} {bs : List Byte}

theorem hdmReadAt_outside (h : s.decoderAt addr n = none) : s.hdmReadAt addr n = (s.isolation 0 addr).send (.reply 1 []) := by
  simp only [hdmReadAt, h]

theorem hdmReadAt_closed (h : s.decoderAt addr n = some d) (ho : s.decoderOpen d = false) : s.hdmReadAt addr n = s.send (.reply 3 []) := by
  simp only [hdmReadAt, h, ho, Bool.not_false, if_true]

/-- An open decoder answers the bytes of its world's region, or poison for them (R108). -/
theorem hdmReadAt_open (h : s.decoderAt addr n = some d) (ho : s.decoderOpen d = true) :
    s.hdmReadAt addr n = if s.poisoned .hbm (s.decoderAddr d addr) n then s.send (.reply 3 [])
      else s.send (.reply 0 (s.read .hbm (s.decoderAddr d addr) n)) := by
  simp only [hdmReadAt, h, ho, Bool.not_true, Bool.false_eq_true, if_false]

theorem hdmWriteAt_outside (h : s.decoderAt addr bs.length = none) : s.hdmWriteAt addr bs = s.isolation 0 addr := by
  simp only [hdmWriteAt, h]

/-- A write is dropped where the decoder is closed, or an EXPORT drops writes (R474). -/
theorem hdmWriteAt_dropped (h : s.decoderAt addr bs.length = some d) (hd : s.decoderOpen d = false ∨ (s.world d.world).dropWrites = true) :
    s.hdmWriteAt addr bs = s.isolation d.world addr := by
  simp only [hdmWriteAt, h]
  exact if_pos (by simpa using hd)

theorem hdmWriteAt_open (h : s.decoderAt addr bs.length = some d) (ho : s.decoderOpen d = true)
    (hd : (s.world d.world).dropWrites = false) : s.hdmWriteAt addr bs = s.write .hbm (s.decoderAddr d addr) bs := by
  simp only [hdmWriteAt, h]
  exact if_neg (by simp [ho, hd])

end

/-- What a commit leaves of a decoder: its range, and whether the range keeps the units and the region of its world (R107). -/
theorem commitDecoder_some {s : State} {k : Nat} (hk : k < 8) (base size w roff : Nat) :
    ∃ d, (s.commitDecoder k base size w roff).decoders.look k = some d ∧
      d.base = base ∧ d.size = size ∧ d.world = w ∧ d.roff = roff ∧ d.error = !d.committed ∧
      (d.committed = true ↔ base % 2 ^ 28 = 0 ∧ size % 2 ^ 28 = 0 ∧ roff % 2 ^ 28 = 0 ∧ size ≠ 0 ∧ w ≠ 0 ∧ (s.world w).st ≠ .free ∧
        roff + size ≤ (s.world w).size * giB) := by
  unfold commitDecoder
  rw [if_neg (Nat.not_le.2 hk)]
  refine ⟨_, SMap.look_insert_self _ _ _, rfl, rfl, rfl, rfl, rfl, ?_⟩
  simp only [Bool.and_eq_true, decide_eq_true_eq, and_assoc]

theorem sameMemory_commitDecoder (s : State) (k base size w roff : Nat) : SameMemory s (s.commitDecoder k base size w roff) := by
  refine sameMemory_of_bytesOf fun sp => ?_
  unfold commitDecoder
  split
  · rfl
  · cases sp <;> rfl

/-! Snoops -/

/-- A host line that a snoop of n bytes at an address meets (R106). -/
def snoopHits (addr n : Nat) (l : HostLine) : Bool :=
  addr / 64 ≤ l.line && l.line ≤ (addr + n - 1) / 64 || l.line == addr / 64

/-- The host lines that a snoop leaves: a read cleans those it meets, a write takes them. -/
def snoopLines (s : State) (addr : Nat) (bs : List Byte) : List HostLine :=
  if bs.isEmpty then s.hostLines.map (fun l => if snoopHits addr bs.length l then { l with dirty := false } else l)
  else s.hostLines.filter fun l => !snoopHits addr bs.length l

/-- A snoop is a host write after which those lines are left, answered from the lines that stood. -/
theorem hostSnoop_eq (s : State) (addr : Nat) (bs : List Byte) :
    s.hostSnoop addr bs = (({ s with hostLines := s.snoopLines addr bs } : State).write .host addr bs).send
      (.snooped (s.hostLines.any (snoopHits addr bs.length))
        (if s.hostLines.any fun l => l.line == addr / 64 && l.dirty then s.read .host (addr / 64 * 64) 64 else [])) := rfl

/-- Where the host writes, no line that it met is left. -/
theorem mem_snoopLines_write {s : State} {addr : Nat} {bs : List Byte} {l : HostLine} (hbs : bs ≠ []) (h : l ∈ s.snoopLines addr bs) :
    l ∈ s.hostLines ∧ snoopHits addr bs.length l = false := by
  unfold snoopLines at h
  rw [if_neg (by simpa using hbs)] at h
  simpa using h

/-- Where it reads, no line that it met is left as written. -/
theorem mem_snoopLines_read {s : State} {addr : Nat} {l : HostLine} (h : l ∈ s.snoopLines addr []) (hl : snoopHits addr 0 l = true) :
    l.dirty = false := by
  obtain ⟨q, -, rfl⟩ := List.mem_map.1 h
  by_cases hq : snoopHits addr 0 q = true
  · exact congrArg HostLine.dirty (if_pos hq)
  · rw [List.length_nil, if_neg hq] at hl
    exact absurd hl hq

/-! ATS invalidations -/

/-- What every invalidation leaves (R109): no held translation of its pages, and every table beside those of held operations,
of passes and of what is sent. -/
theorem invalidate_fields (s : State) (w page count : Nat) :
    let t := s.invalidate w page count
    t.atsHeld = s.atsHeld.filter (fun e => !(e.1.1 == w && decide (page ≤ e.2.1 ∧ e.2.1 < page + count))) ∧ t.atsTable = s.atsTable ∧
    t.tlb = s.tlb ∧ SameMemory s t := by
  unfold invalidate
  dsimp only
  split <;> exact ⟨rfl, rfl, rfl, sameMemory_of_bytesOf fun sp => by cases sp <;> rfl⟩

/-- Without a posted pass it completes at once. -/
theorem invalidate_noPass {s : State} (w page count : Nat) (h : s.passes = []) :
    (s.invalidate w page count).out = s.out ++ [.invalidated w page count] ∧ ∀ i ∈ (s.invalidate w page count).held, i ∈ s.held := by
  have hnone : ∀ t : State, t.passes = [] → t.passHolds w page count = false := fun t ht => by simp [passHolds, ht]
  unfold invalidate
  dsimp only
  rw [if_neg (by rw [hnone _ (by simp [h])]; exact Bool.false_ne_true)]
  exact ⟨rfl, fun i hi => (List.mem_filter.1 hi).1⟩

/-! PRG Responses -/

section
variable {s : State} {w vpage : Nat}

theorem pageResponse_unknown (h : ∀ g ∈ (s.world w).priGroups, g.vpage ≠ vpage) (ok : Bool) : s.pageResponse w vpage ok = s := by
  unfold pageResponse
  exact if_pos (by simpa using h)

/-- The group of a world is answered: the records that wait for its page replay, or are fatal (R110). -/
theorem pageResponse_group (hw : w ≠ 0) (h : ∃ g ∈ (s.world w).priGroups, g.vpage = vpage) (ok : Bool) :
    s.pageResponse w vpage ok =
      let u := s.modWorld w fun x => { x with priGroups := x.priGroups.filter (·.vpage != vpage) }
      ((u.world w).records.filter fun r => r.ats && r.vpage == vpage && r.src != 2).foldl (fun s r => s.settleRecord w r ok) u := by
  unfold pageResponse
  dsimp only
  rw [if_neg (by simpa using h), if_neg hw]
  rfl

end

end State

/-! The operations -/

section
variable (s : State) (addr n : Nat) (bs : List Byte)

theorem exec_hdmRead : exec (.hdmRead addr n) s = .next (s.hdmReadAt addr n) := rfl
theorem exec_hdmWrite : exec (.hdmWrite addr bs) s = .next (s.hdmWriteAt addr bs) := rfl
theorem exec_hdmDecoderCommit (k base size w roff : Nat) :
    exec (.hdmDecoderCommit k base size w roff) s = .next (s.commitDecoder k base size w roff) := rfl
theorem exec_hostSnoop : exec (.hostSnoop addr bs) s = .next (s.hostSnoop addr bs) := rfl
theorem exec_atsInvalidation (w page count : Nat) : exec (.atsInvalidation w page count) s = .next (s.invalidate w page count) := rfl
theorem exec_prgResponse (w vpage : Nat) (ok : Bool) : exec (.prgResponse w vpage ok) s = .next (s.pageResponse w vpage ok) := rfl

end

/-- Settles O44: each clause is the lemma above about the decoder, the snooped lines, the held translations or the group. -/
theorem hostLinks : Obligations.HostLinks := by
  unfold Obligations.HostLinks
  refine ⟨?commit, ?read, ?readOutside, ?write, ?drop, ?writeOutside, fun _ _ _ => rfl, ?snoop, ?invalidate, ?noGroup, ?group⟩
  case commit =>
    intro s k base size w roff hk
    obtain ⟨d, hd, hbase, hsize, hworld, hroff, herror, hok⟩ := State.commitDecoder_some (s := s) hk base size w roff
    exact ⟨_, exec_hdmDecoderCommit .., d, hd, hbase, hsize, hworld, hroff, herror, hok, State.sameMemory_commitDecoder s k base size w roff⟩
  case read =>
    intro s addr n d h
    exact ⟨fun ho => by rw [exec_hdmRead, State.hdmReadAt_closed h ho],
      fun ho hp => by rw [exec_hdmRead, State.hdmReadAt_open h ho, if_pos hp],
      fun ho hp => by rw [exec_hdmRead, State.hdmReadAt_open h ho, if_neg (Bool.eq_false_iff.1 hp)]⟩
  case readOutside =>
    intro s addr n h
    rw [exec_hdmRead, State.hdmReadAt_outside h]
  case write =>
    intro s addr bs d h ho hd
    rw [exec_hdmWrite, State.hdmWriteAt_open h ho hd]
  case drop =>
    intro s addr bs d h hd
    rw [exec_hdmWrite, State.hdmWriteAt_dropped h hd]
  case writeOutside =>
    intro s addr bs h
    rw [exec_hdmWrite, State.hdmWriteAt_outside h]
  case snoop =>
    intro s addr bs
    have hstores : ∀ sp, ({ s with hostLines := s.snoopLines addr bs } : State).bytesOf sp = s.bytesOf sp := fun sp => by cases sp <;> rfl
    have hlines := State.hostLines_write { s with hostLines := s.snoopLines addr bs } .host addr bs
    have hout := State.out_write { s with hostLines := s.snoopLines addr bs } .host addr bs
    refine ⟨_, (exec_hostSnoop ..).trans (congrArg _ (State.hostSnoop_eq s addr bs)), fun sp a => ?_, ?_, fun hbs l hl => ?_, fun hbs l hl => ?_⟩
    · exact congrArg (SMap.get unlisted · a) ((bytesOf_send _ _ sp).trans (State.bytesOf_write_congr hstores .host sp addr bs))
    · rw [State.send_out, hout]
      rfl
    · rw [State.send_hostLines, hlines] at hl
      exact State.mem_snoopLines_write hbs hl
    · subst hbs
      rw [State.send_hostLines, hlines] at hl
      exact State.mem_snoopLines_read hl
  case invalidate =>
    intro s w page count
    obtain ⟨hheld, htable, htlb, hmem⟩ := State.invalidate_fields s w page count
    exact ⟨_, exec_atsInvalidation .., hheld, htable, htlb, hmem, State.invalidate_noPass w page count⟩
  case noGroup =>
    intro s w vpage ok h
    rw [exec_prgResponse, State.pageResponse_unknown h]
  case group =>
    intro s w vpage ok hw h
    rw [exec_prgResponse, State.pageResponse_group hw h]

end Sys2Proof.Machine
end

section
/-! MERGE and SPLIT (R38 to R41): their checks, what a moved world keeps, and how a split ends. -/

namespace Sys2Proof.Machine

namespace State

/-! MERGE -/

/-- The children of the node that a MERGE names both stand READY (R38). -/
structure ReadyChildren (s : State) (c : Command) : Prop where
  node : c.node < 16
  left : (s.slice (nodeCtl (2 * c.node))).st = .ready
  leftNode : (s.slice (nodeCtl (2 * c.node))).node = 2 * c.node
  right : (s.slice (nodeCtl (2 * c.node + 1))).st = .ready
  rightNode : (s.slice (nodeCtl (2 * c.node + 1))).node = 2 * c.node + 1

theorem mergeCommand_notReady {s : State} {c : Command}
    (h : 16 ≤ c.node ∨ (s.slice (nodeCtl (2 * c.node))).st ≠ .ready ∨ (s.slice (nodeCtl (2 * c.node))).node ≠ 2 * c.node ∨
      (s.slice (nodeCtl (2 * c.node + 1))).st ≠ .ready ∨ (s.slice (nodeCtl (2 * c.node + 1))).node ≠ 2 * c.node + 1) :
    s.mergeCommand c = s.endCommand 4 := by
  unfold mergeCommand
  refine if_pos ?_
  simp only [Bool.or_eq_true, decide_eq_true_eq, Bool.not_eq_true', Bool.and_eq_false_iff, beq_eq_false_iff_ne, or_assoc]
  exact h

/-- Between READY children the checks of owner, window size, worlds and events stand in this order. -/
theorem mergeCommand_ready {s : State} {c : Command} (h : s.ReadyChildren c) :
    let sa := s.slice (nodeCtl (2 * c.node))
    let sb := s.slice (nodeCtl (2 * c.node + 1))
    s.mergeCommand c =
      if sa.owner ≠ sb.owner then s.endCommand 9
      else if sa.winWays ≠ sb.winWays then s.endCommand 5
      else if 6 < sa.worlds.length + sb.worlds.length then s.endCommand 8
      else if 4096 < sa.events.length + sb.events.length then s.endCommand 10
      else s.mergeSlices c.node (2 * c.node) (2 * c.node + 1) := by
  obtain ⟨hnode, hleft, hleftNode, hright, hrightNode⟩ := h
  unfold mergeCommand
  refine if_neg ?_
  simp [hleft, hleftNode, hright, hrightNode, hnode]

/-! A world that moves -/

/-- What a moved world becomes: its control core, its region's base and the targets of its device segments change, and its
usage chain is marked (R41, R497). -/
theorem world_moveWorld (s : State) (w ctl base n : Nat) : ∃ usage, (s.moveWorld w ctl base n).world w =
    { s.world w with ctl := ctl, base := base, segments := (s.world w).segments.map (fun e => (e.1, shiftSegment e.2 n)),
                     usage := usage } := by
  unfold moveWorld markChanged modUsage
  rw [world_modWorld, world_modWorld]
  exact ⟨_, rfl⟩

theorem world_moveWorld_ne (s : State) {w u : Nat} (h : u ≠ w) (ctl base n : Nat) : (s.moveWorld w ctl base n).world u = s.world u :=
  (world_setWorld_ne _ _ _ _ h).trans (world_setWorld_ne _ _ _ _ h)

theorem sameMemory_moveWorld (s : State) (w ctl base n : Nat) : SameMemory s (s.moveWorld w ctl base n) := by
  refine sameMemory_of_bytesOf fun sp => ?_
  unfold moveWorld markChanged modUsage
  rw [bytesOf_modWorld _ _ _ _ rfl rfl, bytesOf_modWorld _ _ _ _ rfl rfl]

/-! The target of a segment -/

/-- Bits 95:64 of a segment replaced by a number: these bits hold it, and the others are as they were. -/
theorem extractLsb'_target (g : BitVec 128) (m : Nat) :
    ((g &&& ~~~(0xFFFFFFFF#128 <<< 64)) ||| (BitVec.ofNat 128 (m % 2 ^ 32) <<< 64)).extractLsb' 64 32 = BitVec.ofNat 32 m ∧
    ((g &&& ~~~(0xFFFFFFFF#128 <<< 64)) ||| (BitVec.ofNat 128 (m % 2 ^ 32) <<< 64)).extractLsb' 0 64 = g.extractLsb' 0 64 ∧
    ((g &&& ~~~(0xFFFFFFFF#128 <<< 64)) ||| (BitVec.ofNat 128 (m % 2 ^ 32) <<< 64)).extractLsb' 96 32 = g.extractLsb' 96 32 := by
  have hmask : ∀ i, (0xFFFFFFFF#128).getLsbD i = decide (i < 32) := fun i => by
    rw [show 0xFFFFFFFF#128 = BitVec.ofNat 128 (2 ^ 32 - 1) from rfl, BitVec.getLsbD_ofNat, Nat.testBit_two_pow_sub_one]
    by_cases hi : i < 32
    · simp [hi, show i < 128 by omega]
    · simp [hi]
  have hfield : ∀ i, (BitVec.ofNat 128 (m % 2 ^ 32)).getLsbD i = (decide (i < 32) && m.testBit i) := fun i => by
    rw [BitVec.getLsbD_ofNat, Nat.testBit_mod_two_pow]
    by_cases hi : i < 32
    · simp [hi, show i < 128 by omega]
    · simp [hi]
  refine ⟨?_, ?_, ?_⟩ <;> refine BitVec.eq_of_getLsbD_eq fun i hi => ?_ <;>
    simp only [BitVec.getLsbD_extractLsb', BitVec.getLsbD_or, BitVec.getLsbD_and, BitVec.getLsbD_not, BitVec.getLsbD_shiftLeft, hmask,
      hfield, BitVec.getLsbD_ofNat, hi]
  · simp [show 64 + i < 128 by omega, show ¬ 64 + i < 64 by omega, hi]
  · simp [hi, show i < 128 by omega]
  · simp [show 96 + i < 128 by omega, show ¬ 96 + i < 64 by omega, show ¬ 96 + i - 64 < 32 by omega]

/-- The TARGET field as a number (R310). -/
theorem ofNat_target (g : BitVec 128) : BitVec.ofNat 32 (bits g.toNat 95 64) = g.extractLsb' 64 32 := by
  apply BitVec.eq_of_toNat_eq
  simp [bits, Nat.shiftRight_eq_div_pow]

/-- A valid device segment follows its world: TARGET takes the shift modulo 2^32, and nothing else changes (R41). -/
theorem shiftSegment_device {g : BitVec 128} (hv : g.getLsbD 127 = true) (hd : g.extractLsb' 125 2 = 0) (n : Nat) :
    (shiftSegment g n).extractLsb' 64 32 = g.extractLsb' 64 32 + BitVec.ofNat 32 n ∧
    (shiftSegment g n).extractLsb' 0 64 = g.extractLsb' 0 64 ∧ (shiftSegment g n).extractLsb' 96 32 = g.extractLsb' 96 32 := by
  have hshift : shiftSegment g n =
      (g &&& ~~~(0xFFFFFFFF#128 <<< 64)) ||| (BitVec.ofNat 128 ((bits g.toNat 95 64 + n) % 2 ^ 32) <<< 64) := if_pos (by simp [hv, hd])
  obtain ⟨htarget, hlow, hhigh⟩ := extractLsb'_target g (bits g.toNat 95 64 + n)
  rw [hshift]
  exact ⟨by rw [htarget, BitVec.ofNat_add, ofNat_target], hlow, hhigh⟩

/-- Any other segment stays. -/
theorem shiftSegment_other {g : BitVec 128} (h : g.getLsbD 127 = false ∨ g.extractLsb' 125 2 ≠ 0) (n : Nat) : shiftSegment g n = g :=
  if_neg (by simp only [Bool.and_eq_true, decide_eq_true_eq]; rintro ⟨hv, hd⟩; exact h.elim (by simp [hv]) fun hn => hn hd)

/-! SPLIT -/

section
variable {s : State} {c : Command}

theorem splitCommand_notReady (h : (s.slice (nodeCtl c.node)).st ≠ .ready) : s.splitCommand c = s.endCommand 4 := if_pos h

theorem splitCommand_sixteenth (h : (s.slice (nodeCtl c.node)).st = .ready) (hn : 16 ≤ c.node) : s.splitCommand c = s.endCommand 5 := by
  unfold splitCommand
  dsimp only
  rw [if_neg (not_not_intro h), if_pos hn]

theorem splitCommand_bad (h : (s.slice (nodeCtl c.node)).st = .ready) (hn : c.node < 16) (hb : s.splitBad c = true) :
    s.splitCommand c = s.endCommand 6 := by
  unfold splitCommand
  dsimp only
  rw [if_neg (not_not_intro h), if_neg (Nat.not_le.2 hn), if_pos hb]

/-- A SPLIT that passes its checks stops placement, asks for the saves, and waits for COMMAND_DONE (R39). -/
theorem splitCommand_begins (h : (s.slice (nodeCtl c.node)).st = .ready) (hn : c.node < 16) (hb : s.splitBad c = false) :
    let k := nodeCtl c.node
    let u := ((s.slice k).worlds.foldl (fun s w => s.tdiError w) s).modSlice k fun x => { x with st := .busy, splitting := true }
    s.splitCommand c = (((u.slice k).worlds.flatMap u.residentClusters).foldl (fun s p =>
      if s.strays c p.1 p.2 && (s.launch p.1).st = .active then s.requestSave p.1 p.2 3 else s) u).pushOnce .commandDone := by
  unfold splitCommand
  dsimp only
  rw [if_neg (not_not_intro h), if_neg (Nat.not_le.2 hn), hb, if_neg Bool.false_ne_true]

/-- Where no world stands, nothing has to be saved. -/
theorem splitCommand_noWorlds (h : (s.slice (nodeCtl c.node)).st = .ready) (hn : c.node < 16) (hb : s.splitBad c = false)
    (hw : (s.slice (nodeCtl c.node)).worlds = []) :
    s.splitCommand c = (s.modSlice (nodeCtl c.node) fun x => { x with st := .busy, splitting := true }).pushOnce .commandDone := by
  rw [splitCommand_begins h hn hb]
  have hw' : ((s.modSlice (nodeCtl c.node) fun x => { x with st := .busy, splitting := true }).slice (nodeCtl c.node)).worlds = [] := by
    rw [slice_modSlice]
    exact hw
  simp only [hw, List.foldl_nil, hw', List.flatMap_nil]

/-- COMMAND_DONE of a SPLIT that has not ended: it takes effect when every team that moves is saved, and else waits (R39). -/
theorem commandDoneNow_split (h : s.command = some c) (hop : c.op = 4) (he : c.ended = none) :
    s.commandDoneNow = if ((s.slice (nodeCtl c.node)).splitting && s.splitReady c) = true then (s.splitSlice c).finishCommand c 0 else s := by
  unfold commandDoneNow
  simp only [h, he, hop]
  rfl

/-- SPLIT_TIMEOUT of a SPLIT that still waits gives its saves up, but for the clusters that are saved in part, and ends it with
TIMEOUT (R39). -/
theorem splitLate_waiting {k : Nat} (h : s.command = some c) (hop : c.op = 4) (hk : nodeCtl c.node = k) (he : c.ended = none)
    (hsplit : (s.slice k).splitting = true) (hact : s.activating = false) (hlate : c.bound + 40000000 ≤ s.clock)
    (hwait : s.splitReady c = false) :
    s.splitLate k = (((s.teams.filter fun e => (s.launch e.2.launch).ctl == k && e.2.savePending == some 3 &&
        !s.teams.any fun f => f.2.st == .saved && f.2.launch == e.2.launch && f.2.cluster == e.2.cluster).foldl (fun s e => s.cancelSave e.1)
      (s.modSlice k fun x => { x with splitting := false })).endCommand 11) := by
  unfold splitLate
  simp only [h]
  rw [if_neg (by simp [hop, hk, he, hsplit, late, hact, hlate, hwait])]
  rfl

end

end State

theorem exec_splitTimeout (c : Nat) (s : State) : exec (.splitTimeout c) s = .next (s.splitLate c) := rfl

/-- Settles O38: the checks are the branches of the two commands in their order, and a moved world follows its region. -/
theorem mergeAndSplit : Obligations.MergeAndSplit := by
  unfold Obligations.MergeAndSplit
  refine ⟨fun s cmd h hc => ⟨fun hbad => ?notReady, fun hn hl hln hr hrn => ?ready⟩, fun s w ctl base n => ?moved,
    fun g n hv hd _ => State.shiftSegment_device hv hd n, fun g n h => State.shiftSegment_other h n,
    fun s cmd h hc => ?split, fun s c h hop he hsplit hready => ?takesEffect, fun s c h hop he hwait => ?waits,
    fun s k d h hop hk he hsplit hact hlate hwait => ?late⟩
  case notReady => rw [exec_merge, slcWrite_runs h hc, State.mergeCommand_notReady hbad]
  case ready =>
    have hmerge := State.mergeCommand_ready (s := s.accepting cmd) (c := s.commandOf cmd) ⟨hn, hl, hln, hr, hrn⟩
    rw [exec_merge, slcWrite_runs h hc, hmerge]
    exact ⟨fun ho => congrArg _ (if_pos ho),
      fun ho hw => congrArg _ ((if_neg (not_not_intro ho)).trans (if_pos hw)),
      fun ho hw h6 => congrArg _ ((if_neg (not_not_intro ho)).trans ((if_neg (not_not_intro hw)).trans (if_pos h6))),
      fun ho hw h6 hev => congrArg _ ((if_neg (not_not_intro ho)).trans ((if_neg (not_not_intro hw)).trans
        ((if_neg (Nat.not_lt.2 h6)).trans (if_pos hev)))),
      fun ho hw h6 hev => congrArg _ ((if_neg (not_not_intro ho)).trans ((if_neg (not_not_intro hw)).trans
        ((if_neg (Nat.not_lt.2 h6)).trans (if_neg (Nat.not_lt.2 hev)))))⟩
  case moved =>
    obtain ⟨usage, hw⟩ := State.world_moveWorld s w ctl base n
    dsimp only
    rw [hw]
    exact ⟨rfl, rfl, rfl, rfl, rfl, rfl, State.sameMemory_moveWorld s w ctl base n, fun u hu => State.world_moveWorld_ne s hu ctl base n⟩
  case split =>
    rw [exec_split, slcWrite_runs h hc]
    exact ⟨fun hst => congrArg _ (State.splitCommand_notReady hst),
      fun hst hn => congrArg _ (State.splitCommand_sixteenth hst hn),
      fun hst hn hb => congrArg _ (State.splitCommand_bad hst hn hb),
      fun hst hn hb hw => congrArg _ (State.splitCommand_noWorlds hst hn hb hw),
      fun hst hn hb => ⟨_, congrArg _ (State.splitCommand_begins hst hn hb)⟩⟩
  case takesEffect => rw [exec_commandDone, State.commandDoneNow_split h hop he, if_pos (by rw [hsplit, hready]; rfl)]
  case waits => rw [exec_commandDone, State.commandDoneNow_split h hop he, if_neg (by simp [hwait])]
  case late => rw [exec_splitTimeout, State.splitLate_waiting h hop hk he hsplit hact hlate hwait]

end Sys2Proof.Machine
end

section
/-! The life of a slice (R32 to R37, R43, R44, R148, R499): creation with its template, RESET, DESTROY, a fatal error, and the
switch of the Palette calendars. -/

namespace Sys2Proof.Machine

namespace State

/-! What a due operation and an ended command leave -/

@[simp] theorem slice_pushOnce (s : State) (i : Instr) (c : Nat) : (s.pushOnce i).slice c = s.slice c := by
  obtain ⟨d, hd⟩ := pushOnce_due s i
  rw [hd]
  rfl
@[simp] theorem slice_endCommand (s : State) (st c : Nat) : (s.endCommand st).slice c = s.slice c := slice_pushOnce _ _ _

/-- The command that runs has ended with the status. -/
theorem command_endCommand {s : State} {d : Command} (h : s.command = some d) (st : Nat) :
    (s.endCommand st).command = some { d with ended := some st } := by
  unfold endCommand
  obtain ⟨due, hdue⟩ := pushOnce_due { s with command := s.command.map fun c => { c with ended := some st } } .commandDone
  rw [hdue, h]
  rfl

/-! CREATE -/

section
variable {s : State} {c : Command}

/-- An active slice stands on the node, above it or below it (R34). -/
def overlaps (s : State) (n : Nat) : Bool := s.slices.any fun e => e.2.st != .empty && (isAncestor e.2.node n || isAncestor n e.2.node)

theorem createSlice_overlap (h : s.overlaps c.node = true) : s.createSlice c = s.endCommand 3 := if_pos h

theorem createSlice_config (h : s.overlaps c.node = false)
    (hbad : 8 < bits c.arg.toNat 3 0 ∨ tmplOk (s.slice (nodeCtl c.node)) c.node = false) : s.createSlice c = s.endCommand 5 := by
  unfold createSlice
  exact (if_neg (Bool.eq_false_iff.1 h)).trans (if_pos (by simpa using hbad))

/-- The slice that a CREATE begins, before its template loads: a new key, every page fresh, the calendars staged (R34, R35,
R148). -/
def beginSlice (s : State) (c : Command) : State :=
  ((s.drawKey.2.freshen (ctlBase (nodeCtl c.node)) (nodeBytes c.node)).setSlice (nodeCtl c.node) { keptRegisters (s.slice (nodeCtl c.node)) with
    st := .creating, node := c.node, owner := c.owner, winWays := bits c.arg.toNat 3 0, key := some (s.keys + 1),
    area := tmplArea (s.slice (nodeCtl c.node)), meter := [], residSince := s.clock, template := some 0 }).stageCalendar

theorem createSlice_begins (h : s.overlaps c.node = false) (hways : bits c.arg.toNat 3 0 ≤ 8)
    (ht : tmplOk (s.slice (nodeCtl c.node)) c.node = true) : s.createSlice c = (s.beginSlice c).loadTemplate (nodeCtl c.node) := by
  unfold createSlice
  exact (if_neg (Bool.eq_false_iff.1 h)).trans (if_neg (by simp [ht, Nat.not_lt.2 hways]))

theorem slice_beginSlice : (s.beginSlice c).slice (nodeCtl c.node) = { keptRegisters (s.slice (nodeCtl c.node)) with
    st := .creating, node := c.node, owner := c.owner, winWays := bits c.arg.toNat 3 0, key := some (s.keys + 1),
    area := tmplArea (s.slice (nodeCtl c.node)), meter := [], residSince := s.clock, template := some 0 } :=
  slice_setSlice _ _ _

/-- The calendars switch at the next frame, and the command runs on. -/
theorem palPend_beginSlice : (s.beginSlice c).palPend = some (s.cycle / 512 + 1) := rfl
theorem command_beginSlice : (s.beginSlice c).command = s.command := by
  simp only [beginSlice, stageCalendar, setSlice_command, freshen, drawKey]

/-- The HBM of a new slice reads as zero (R35). -/
theorem byte_beginSlice {a : Nat} (h1 : ctlBase (nodeCtl c.node) ≤ a) (h2 : a < ctlBase (nodeCtl c.node) + nodeBytes c.node) :
    (s.beginSlice c).byte .hbm a = 0 :=
  byte_freshen_in s.drawKey.2 _ _ _ h1 h2

end

/-! The template -/

section
variable {s : State} {c : Nat}

/-- A template of less than a page is in place at once. -/
theorem loadTemplate_none (h : (s.slice c).template = some 0) (hsize : (s.slice c).tmplSize.toNat < 4096) :
    s.loadTemplate c = (s.modSlice c fun x => { x with template := none }).pushOnce (.sliceReady c) := by
  unfold loadTemplate
  simp only [Nat.div_eq_of_lt hsize, List.range_zero, List.foldl_nil, h, if_true]

/-- The page that is due moves where world 0's host pages map it (R34). -/
theorem loadStep_mapped {k : Nat} {bs : List Byte} (h : (s.slice c).template = some k)
    (hread : s.hostRead 0 (tmplPage (s.slice c) k) 4096 = some bs) :
    s.loadStep c k = (((s.atsHold 0 (tmplPage (s.slice c) k / 4096)).write .hbm
      (ctlBase c + (s.slice c).tmplDest.toNat + 4096 * k) bs).meterSlice c 7 4096).modSlice c fun x => { x with template := some (k + 1) } := by
  have hpage : s.loadPage c k = some (((s.atsHold 0 (tmplPage (s.slice c) k / 4096)).write .hbm
      (ctlBase c + (s.slice c).tmplDest.toNat + 4096 * k) bs).meterSlice c 7 4096) := by
    unfold loadPage
    simp only [hread, Option.map_some]
  unfold loadStep
  rw [if_neg (not_not_intro h), hpage]

/-- SLICE_READY ends a creation whose template is in place (R34). -/
theorem sliceReadyNow_created (hst : (s.slice c).st = .creating) (ht : (s.slice c).template = none) :
    s.sliceReadyNow c = (s.modSlice c fun x => { x with st := .ready }).endCommand 0 := by
  simp [sliceReadyNow, hst, ht]

/-- One whose template is late is undone with TEMPLATE (R34). -/
theorem templateLate_created {d : Command} (hst : (s.slice c).st = .creating) (ht : (s.slice c).template.isSome = true)
    (hd : s.command = some d) (hnode : nodeCtl d.node = c) (hact : s.activating = false) (hlate : d.bound + 49000000 ≤ s.clock) :
    s.templateLate c = (s.setSlice c (keptRegisters (s.slice c))).stageCalendar.endCommand 7 := by
  simp [templateLate, templateFail, late, hst, ht, hd, hnode, hact, hlate]

end

/-! RESET and DESTROY -/

section
variable {s : State} {c : Command}

theorem resetSlice_state (hr : (s.slice (nodeCtl c.node)).st ≠ .ready) (hf : (s.slice (nodeCtl c.node)).st ≠ .failed) :
    s.resetSlice c = s.endCommand 4 := by
  unfold resetSlice
  exact if_pos (by simp [hr, hf])

theorem destroySlice_state (hr : (s.slice (nodeCtl c.node)).st ≠ .ready) (hf : (s.slice (nodeCtl c.node)).st ≠ .failed) :
    s.destroySlice c = s.endCommand 4 :=
  if_pos (by simp [hr, hf])

/-- DESTROY of a slice that stands detaches its worlds, and discards its key and its events (R32, R499). -/
theorem destroySlice_runs (h : (s.slice (nodeCtl c.node)).st = .ready ∨ (s.slice (nodeCtl c.node)).st = .failed) :
    s.destroySlice c = (((s.slice (nodeCtl c.node)).worlds.foldl (fun s w => s.detachWorld w) s).modSlice (nodeCtl c.node) fun x =>
      { x with st := .destroying, key := none, oldPrivate := [], events := [], heldEvents := [] }).pushOnce
        (.destroyingDone (nodeCtl c.node)) :=
  if_neg (by rcases h with h | h <;> simp [h])

end

/-- What DESTROYING leaves of a slice: what belongs to its control core, and what it has counted (R32, R492). -/
def emptySlice (s : State) (c : Nat) : Slice :=
  { keptRegisters (s.slice c) with
    meter := (s.slice c).meter.put 0 13 (((s.slice c).meter.get 0 13 + (s.clock - (s.slice c).residSince) / 1000) % 2 ^ 64) }

/-- The slice is gone, and no SLC_LEND names it any more (R148, R152). -/
def clearSlice (s : State) (c : Nat) : State :=
  { s with slices := (s.slices.insert c (s.emptySlice c)).map (fun e => (e.1, { e.2 with lend := e.2.lend &&& ~~~(1#16 <<< c) })) }

theorem destroyed_destroying {s : State} {c : Nat} (h : (s.slice c).st = .destroying) :
    s.destroyed c = ((s.clearSlice c).stageCalendar.checkAll).endCommand 0 := by
  unfold destroyed
  dsimp only
  rw [if_neg (not_not_intro h)]
  rfl

/-! A fatal error -/

/-- An error record that no ring takes is kept by the hub and counted lost (R466, R467). -/
theorem errorRecordAt_noRing {s : State} (h : bits s.relBase.toNat 3 0 < 6) (node cls unit w addr loc code flags team : Nat)
    (cookie : BitVec 64) (count syn : Nat) : ∃ r, s.errorRecordAt node cls unit w addr loc code flags team cookie count syn =
      { s with errors := (r :: s.errors).take 64, relOvf := true, relLost := min 0xFFFF (s.relLost + 1) } := by
  unfold errorRecordAt
  dsimp only
  exact ⟨_, if_pos (by simp [h])⟩

/-- A slice that neither works nor runs a command does not fail. -/
theorem failSlice_idle {s : State} {c : Nat} (cause : Nat) (hr : (s.slice c).st ≠ .ready) (hb : (s.slice c).st ≠ .busy) :
    s.failSlice c cause = s :=
  if_pos (by simp [hr, hb])

/-- The slice stands FAILED with a cause; a SPLIT and a template's load are over (R43). -/
def markFailed (s : State) (c cause : Nat) : State :=
  s.modSlice c fun x => { x with st := .failed, cause := cause, splitting := false, template := none }

theorem slice_markFailed (s : State) (c cause : Nat) : (s.markFailed c cause).slice c =
    { s.slice c with st := .failed, cause := cause, splitting := false, template := none } := slice_modSlice _ _ _

/-- Where no world of it has work, no world is in a reset, no command runs and no ring stands, its failure is its state and an
error record that the hub keeps. -/
theorem failSlice_noWork {s : State} {c : Nat} (cause : Nat) (hst : (s.slice c).st = .ready ∨ (s.slice c).st = .busy)
    (hcmd : s.command = none) (hworlds : (s.slice c).worlds = []) (hreset : ∀ e ∈ s.worlds, e.2.st ≠ .resetting)
    (hring : bits s.relBase.toNat 3 0 < 6) : ∃ r, s.failSlice c cause =
      { s.markFailed c cause with
        errors := (r :: s.errors).take 64, relOvf := true, relLost := min 0xFFFF (s.relLost + 1) } := by
  obtain ⟨r, hr⟩ := errorRecordAt_noRing
    (s := s.markFailed c cause) hring
    (s.slice c).node 9 7 0 0 c 0 0 0xFFFFFFFF 0 1 0
  have hnone : s.worlds.filter (fun e => e.2.st == .resetting && e.2.ctl == c) = [] :=
    List.filter_eq_nil_iff.2 fun e he => by simp [hreset e he]
  have hcmd' : (s.markFailed c cause).command = none := hcmd
  refine ⟨r, ?_⟩
  unfold failSlice
  dsimp only
  rw [if_neg (by rcases hst with h | h <;> simp [h]), hworlds, List.foldl_nil, ← markFailed,
    show (s.markFailed c cause).worlds = s.worlds from rfl, hnone, List.foldl_nil, hr]
  simp only [hcmd']
  rfl

/-! The calendars -/

theorem switchCalendar_due {s : State} {f : Nat} (h : s.palPend = some f) (hf : f ≤ s.cycle / 512) :
    s.switchCalendar = { s with calendar := s.calendarNext, palPend := none } := by
  simp only [switchCalendar, h, hf, if_true]

theorem switchCalendar_early {s : State} {f : Nat} (h : s.palPend = some f) (hf : s.cycle / 512 < f) : s.switchCalendar = s := by
  simp only [switchCalendar, h, if_neg (Nat.not_le.2 hf)]

end State

/-! The operations -/

theorem exec_sliceReady (c : Nat) (s : State) : exec (.sliceReady c) s = .next (s.sliceReadyNow c) := rfl
theorem exec_templateTimeout (c : Nat) (s : State) : exec (.templateTimeout c) s = .next (s.templateLate c) := rfl
theorem exec_destroyingDone (c : Nat) (s : State) : exec (.destroyingDone c) s = .next (s.destroyed c) := rfl
theorem exec_fatalSliceError (c : Nat) (cause : BitVec 4) (s : State) :
    exec (.fatalSliceError c cause) s = .next (s.failSlice c cause.toNat) := rfl
theorem exec_calendarSwitch (s : State) : exec .calendarSwitch s = .next s.switchCalendar := rfl

/-- Settles O36: each clause is the lemma above about the step of the slice's life that it speaks of. -/
theorem sliceLife : Obligations.SliceLife := by
  unfold Obligations.SliceLife
  refine ⟨fun s cmd h hc => ⟨fun hover => ?overlap, fun hfree => ⟨fun hbad => ?config, fun hways ht => ?begins⟩⟩,
    fun s c => State.loadTemplate_none, fun s c k bs => State.loadStep_mapped, fun s c d hst ht hd => ?ready,
    fun s c d hst ht hd hnode hact hlate => ?late, fun s cmd h hw hc => ?reset,
    fun s c hr hf => ⟨State.resetSlice_state hr hf, State.destroySlice_state hr hf⟩, fun s cmd h hc hst => ?destroy,
    fun s c hst => ?destroyed, fun s c cause hr hb => ?idle, fun s c cause hst hcmd hworlds hreset hring => ?fails,
    fun s f h hf => ?switches, fun s f h hf => ?staged⟩
  case overlap => rw [exec_create, slcWrite_runs h hc, State.createSlice_overlap (s := s.accepting cmd) (c := s.commandOf cmd) hover]
  case config => rw [exec_create, slcWrite_runs h hc, State.createSlice_config (s := s.accepting cmd) (c := s.commandOf cmd) hfree hbad]
  case begins =>
    refine ⟨(s.accepting cmd).beginSlice (s.commandOf cmd), ?_, ?_⟩
    · rw [exec_create, slcWrite_runs h hc, State.createSlice_begins (s := s.accepting cmd) (c := s.commandOf cmd) hfree hways ht]
      rfl
    · have hslice := State.slice_beginSlice (s := s.accepting cmd) (c := s.commandOf cmd)
      rw [show nodeCtl (cmdNode cmd) = nodeCtl (s.commandOf cmd).node from rfl, hslice]
      exact ⟨rfl, rfl, rfl, rfl, rfl, rfl, rfl, rfl, State.palPend_beginSlice, State.command_beginSlice,
        fun a => State.byte_beginSlice (s := s.accepting cmd) (c := s.commandOf cmd)⟩
  case ready =>
    refine ⟨_, (exec_sliceReady c s).trans (congrArg _ (State.sliceReadyNow_created hst ht)), ?_,
      State.command_endCommand (s := s.modSlice c _) hd 0⟩
    rw [State.slice_endCommand, slice_modSlice]
  case late =>
    refine ⟨_, (exec_templateTimeout c s).trans (congrArg _ (State.templateLate_created hst ht hd hnode hact hlate)), ?_, ?_,
      State.command_endCommand (s := (s.setSlice c _).stageCalendar) hd 7⟩ <;>
    · rw [State.slice_endCommand]
      exact congrArg _ (State.slice_setSlice s c _)
  case reset => rw [exec_reset hw, slcWrite_runs h hc]
  case destroy =>
    refine ⟨_, (exec_destroy cmd s).trans (congrArg _ ((slcWrite_runs h hc _ _).trans (State.destroySlice_runs hst))), ?_⟩
    dsimp only
    rw [State.slice_pushOnce, show nodeCtl (cmdNode cmd) = nodeCtl (s.commandOf cmd).node from rfl, slice_modSlice]
    exact ⟨rfl, rfl, rfl, rfl, mem_pushOnce _ _⟩
  case destroyed =>
    exact ⟨_, (exec_destroyingDone c s).trans (congrArg _ (State.destroyed_destroying hst)), s.clearSlice c, rfl, rfl,
      sameMemory_of_bytesOf fun sp => by cases sp <;> rfl, rfl⟩
  case idle => rw [exec_fatalSliceError, State.failSlice_idle _ hr hb]
  case fails =>
    obtain ⟨r, hr⟩ := State.failSlice_noWork cause.toNat hst hcmd hworlds hreset hring
    refine ⟨_, (exec_fatalSliceError c cause s).trans (congrArg _ hr), congrArg Slice.st (State.slice_markFailed s c _),
      congrArg Slice.cause (State.slice_markFailed s c _), ?_, rfl, sameMemory_of_bytesOf fun sp => by cases sp <;> rfl⟩
    exact List.length_take
  case switches => rw [exec_calendarSwitch, State.switchCalendar_due h hf]
  case staged => rw [exec_calendarSwitch, State.switchCalendar_early h hf]

end Sys2Proof.Machine
end

section
/-! The life of a world (R29 to R37, R48, R511): ATTACH, the enable bit, QUIESCE and RESUME, the resets and DETACH. -/

namespace Sys2Proof.Machine

namespace State

/-- Two changes of a world that agree on the world as it stands are the same. -/
theorem modWorld_congr {s : State} {w : Nat} {f g : World → World} (h : f (s.world w) = g (s.world w)) : s.modWorld w f = s.modWorld w g :=
  congrArg (s.setWorld w) h

/-! ATTACH -/

/-- What ATTACH makes fresh: the region, but for the template area that an adopting world takes with it (R37). -/
def regionFresh (s : State) (k base size : Nat) (adopt : Bool) : State :=
  let lo := ctlBase k + base * giB
  match adopt, (s.slice k).area with
  | true, some (d, n) => (s.freshen lo (ctlBase k + d - lo)).freshen (ctlBase k + d + n) (lo + size * giB - (ctlBase k + d + n))
  | _, _ => s.freshen lo (size * giB)

@[simp] theorem slice_regionFresh (s : State) (k base size : Nat) (adopt : Bool) (c : Nat) :
    (s.regionFresh k base size adopt).slice c = s.slice c := by
  unfold regionFresh
  dsimp only
  split <;> rfl

/-- A region that no template area stays in reads as zero (R31, R35). -/
theorem byte_regionFresh {s : State} {k base size a : Nat} (h1 : ctlBase k + base * giB ≤ a) (h2 : a < ctlBase k + base * giB + size * giB) :
    (s.regionFresh k base size false).byte .hbm a = 0 :=
  byte_freshen_in s _ _ _ h1 h2

/-- The template area of a slice meets a region (R37). -/
def areaMeets (sl : Slice) (base size : Nat) : Bool :=
  match sl.area with
  | some (d, n) => rangesMeet (base * giB) (size * giB) d n
  | none => false

/-- The lowest empty position of the slice takes the world, whose region takes the template area or not, and which may adopt
it (R29, R37). -/
def listWorld (s : State) (k w : Nat) (takes adopt : Bool) : State :=
  s.modSlice k fun x => { x with
    wlist := x.wlist.set (x.wlist.findIdx (· == 0)) w
    areaTaken := x.areaTaken || takes, adopter := if adopt then some w else x.adopter }

/-- The world as ATTACH leaves it: what belongs to its function stays, its region, masks and keys are new (R30, R310). -/
def freshWorld (s : State) (c : Command) (key : Nat) (x : World) : World :=
  { progDigest := s.defaultDigest, lastReset := x.lastReset, tdi := x.tdi, lockSession := x.lockSession, measured := x.measured, spdm := x.spdm,
    unmasked := x.unmasked, pendingVectors := x.pendingVectors, priGroups := x.priGroups, tagBase := x.tagBase, usage := x.usage,
    migBuf := x.migBuf, migSize := x.migSize, migLen := x.migLen,
    st := .attached, ctl := nodeCtl c.node, base := bits c.arg.toNat 9 0, size := bits c.arg.toNat 21 12, adopted := c.arg.getLsbD 10,
    windowMask := c.arg.extractLsb' 32 16, cacheMask := c.arg.extractLsb' 48 16, key := some (key + 1), sealKey := some (key + 2),
    segments := [(0, segZero (bits c.arg.toNat 9 0) (bits c.arg.toNat 21 12))], residSince := s.clock }

/-- The state in which the world stands on its slice, before its chain opens. -/
def placeWorld (s : State) (c : Command) : State :=
  let u := (s.drawKey.2.drawKey.2.regionFresh (nodeCtl c.node) (bits c.arg.toNat 9 0) (bits c.arg.toNat 21 12) (c.arg.getLsbD 10)).listWorld
    (nodeCtl c.node) c.world (areaMeets (s.slice (nodeCtl c.node)) (bits c.arg.toNat 9 0) (bits c.arg.toNat 21 12)) (c.arg.getLsbD 10)
  u.modWorld c.world (u.freshWorld c s.keys)

section
variable {s : State} {c : Command}

theorem attachWorld_state (h : (s.slice (nodeCtl c.node)).st ≠ .ready ∨ (s.world c.world).st ≠ .free) : s.attachWorld c = s.endCommand 4 := by
  unfold attachWorld
  exact if_pos (by simpa using h)

variable (hst : (s.slice (nodeCtl c.node)).st = .ready) (hfree : (s.world c.world).st = .free)
include hst hfree

theorem attachWorld_full (hw : 6 ≤ (s.slice (nodeCtl c.node)).worlds.length) : s.attachWorld c = s.endCommand 8 := by
  unfold attachWorld
  dsimp only
  rw [if_neg (by simp [hst, hfree]), if_pos hw]

variable (hw : (s.slice (nodeCtl c.node)).worlds.length < 6)
include hw

theorem attachWorld_bad (hbad : s.attachBad (nodeCtl c.node) (bits c.arg.toNat 9 0) (bits c.arg.toNat 21 12) (c.arg.getLsbD 10)
    (c.arg.extractLsb' 32 16) (c.arg.extractLsb' 48 16) = true) : s.attachWorld c = s.endCommand 5 := by
  unfold attachWorld
  dsimp only
  rw [if_neg (by simp [hst, hfree]), if_neg (Nat.not_le.2 hw), if_pos hbad]

theorem attachWorld_attaches (hok : s.attachBad (nodeCtl c.node) (bits c.arg.toNat 9 0) (bits c.arg.toNat 21 12) (c.arg.getLsbD 10)
    (c.arg.extractLsb' 32 16) (c.arg.extractLsb' 48 16) = false) :
    s.attachWorld c = (((s.placeWorld c).tdiError c.world).openChain c.world c.start false).endCommand 0 := by
  unfold attachWorld
  dsimp only
  rw [if_neg (by simp [hst, hfree]), if_neg (Nat.not_le.2 hw), if_neg (Bool.eq_false_iff.1 hok)]
  rfl

end

theorem world_placeWorld (s : State) (c : Command) :
    ∃ u : State, (s.placeWorld c).world c.world = u.freshWorld c s.keys (u.world c.world) :=
  ⟨_, world_modWorld _ _ _⟩

theorem wlist_placeWorld (s : State) (c : Command) : ((s.placeWorld c).slice (nodeCtl c.node)).wlist =
    (s.slice (nodeCtl c.node)).wlist.set ((s.slice (nodeCtl c.node)).wlist.findIdx (· == 0)) c.world := by
  have hlist := slice_modSlice (s.drawKey.2.drawKey.2.regionFresh (nodeCtl c.node) (bits c.arg.toNat 9 0) (bits c.arg.toNat 21 12)
    (c.arg.getLsbD 10)) (nodeCtl c.node)
  unfold placeWorld listWorld
  dsimp only
  rw [modWorld_eq, slice_setWorld, hlist, slice_regionFresh]
  rfl

theorem byte_placeWorld {s : State} {c : Command} (hadopt : c.arg.getLsbD 10 = false) {a : Nat}
    (h1 : ctlBase (nodeCtl c.node) + bits c.arg.toNat 9 0 * giB ≤ a)
    (h2 : a < ctlBase (nodeCtl c.node) + bits c.arg.toNat 9 0 * giB + bits c.arg.toNat 21 12 * giB) :
    (s.placeWorld c).byte .hbm a = 0 := by
  unfold placeWorld
  rw [hadopt]
  exact byte_regionFresh (s := s.drawKey.2.drawKey.2) h1 h2

/-! The enable bit -/

section
variable {s : State} {w : Nat}

theorem setEn_attached (h : (s.world w).st = .attached) : s.setEn w = s.startWorld w := by
  simp only [setEn, h]
theorem setEn_quiesced (h : (s.world w).st = .quiesced) : s.setEn w = s.modWorld w fun x => { x with en := true } := by
  simp only [setEn, h]
theorem setEn_idle (h : (s.world w).st = .free ∨ (s.world w).st = .resetting) : s.setEn w = s := by
  rcases h with h | h <;> simp only [setEn, h]

theorem clearEn_quiesced (h : (s.world w).st = .quiesced) :
    s.clearEn w = s.modWorld w fun x => { x with en := false, enDropped := true } := by
  simp only [clearEn, h]
theorem clearEn_idle (h : (s.world w).st = .free ∨ (s.world w).st = .resetting) : s.clearEn w = s := by
  rcases h with h | h <;> simp only [clearEn, h]
theorem clearEn_running (h : (s.world w).st = .running) :
    s.clearEn w = ((s.stopProg w).tlbDropAll w).modWorld w fun x => { x with st := .attached, en := false } := by
  simp only [clearEn, h]

/-- A world's program that stops is STOPPED, and no launch or team goes with it (R126). -/
theorem prog_stopProg (s : State) (w : Nat) : ((s.stopProg w).prog w).st = .stopped := by
  unfold prog stopProg
  rw [world_modWorld]

theorem launches_stopProg (s : State) (w : Nat) : (s.stopProg w).launches = s.launches := rfl
theorem teams_stopProg (s : State) (w : Nat) : (s.stopProg w).teams = s.teams := rfl

/-- Without a program of its own, a world runs the default one with fresh registers (R124, R136). -/
theorem startProg_default (h : (s.world w).cprog.getLsbD 0 = false) : ∃ u : State, s.startProg w = u.checkMeasured w ∧
    (u.prog w).st = .running ∧ (u.prog w).custom = false ∧ (u.prog w).fifo = {} ∧ (u.world w).progDigest = Config.sha384 (s.imageBody 6) := by
  have hsel : ∀ t : State, t.world w = s.world w → t.selectedProg w = (.ok none, t) := fun t ht => by
    unfold selectedProg
    exact if_pos (by rw [ht, h]; rfl)
  unfold startProg
  dsimp only
  rw [hsel]
  · refine ⟨_, rfl, ?_⟩
    unfold prog
    rw [world_modWorld]
    exact ⟨rfl, rfl, rfl, rfl⟩
  · rfl

/-! QUIESCE and RESUME -/

theorem quiesceCommand_named {c : Command} {ws : List Nat} (h : s.namedWorlds c .running = some ws) :
    s.quiesceCommand c = (ws.foldl (fun s w => s.quiesceWorld w 2) s).pushOnce .commandDone := by
  simp only [quiesceCommand, h]

theorem resumeCommand_named {c : Command} {ws : List Nat} (h : s.namedWorlds c .quiesced = some ws) :
    s.resumeCommand c = (ws.foldl (fun s w => s.resumeWorld w) s).endCommand 0 := by
  simp only [resumeCommand, h]

/-- A world whose enable stood goes on; one whose enable was cleared and set again starts anew (R33, R511). -/
theorem resumeWorld_enabled (h : (s.world w).en = true) : s.resumeWorld w =
    let u := s.modWorld w fun x => { x with st := .running, enDropped := false, exported := false, dropWrites := false }
    (if (s.world w).enDropped then (u.readContext w).startProg w else u).wakeGangs.decide' (s.world w).ctl := by
  have hworld : (s.modWorld w fun x => { x with
      st := if x.en then .running else .attached, enDropped := false, exported := false, dropWrites := false }) =
      s.modWorld w fun x => { x with st := .running, enDropped := false, exported := false, dropWrites := false } :=
    modWorld_congr (by rw [if_pos h])
  unfold resumeWorld
  dsimp only
  rw [hworld, if_neg (by simp [h])]

/-- A world whose enable is clear comes back ATTACHED, with its program stopped (R33). -/
theorem resumeWorld_disabled (h : (s.world w).en = false) : s.resumeWorld w =
    (((s.modWorld w fun x => { x with st := .attached, enDropped := false, exported := false, dropWrites := false }).stopProg w).tlbDropAll
      w).wakeGangs.decide' (s.world w).ctl := by
  have hworld : (s.modWorld w fun x => { x with
      st := if x.en then .running else .attached, enDropped := false, exported := false, dropWrites := false }) =
      s.modWorld w fun x => { x with st := .attached, enDropped := false, exported := false, dropWrites := false } :=
    modWorld_congr (by rw [if_neg (Bool.eq_false_iff.1 h)])
  unfold resumeWorld
  dsimp only
  rw [hworld, if_pos (by simp [h])]

/-! Resets -/

/-- A world that stands on its slice, outside a reset. -/
def Stands (s : State) (w : Nat) : Prop := (s.world w).st = .attached ∨ (s.world w).st = .running ∨ (s.world w).st = .quiesced

theorem Stands.check (h : s.Stands w) :
    ((s.world w).st == .attached || (s.world w).st == .running || (s.world w).st == .quiesced) = true := by
  unfold Stands at h
  simpa [or_assoc] using h

theorem worldResetCommand_runs {c : Command} (hst : (s.slice (nodeCtl c.node)).st = .ready ∨ (s.slice (nodeCtl c.node)).st = .failed)
    (hslot : s.slotted (nodeCtl c.node) c.world = true) (h : s.Stands c.world) :
    s.worldResetCommand c = (s.beginReset c.world 2).pushOnce (.resettingDone c.world) := by
  unfold worldResetCommand
  dsimp only
  rw [h.check, hslot]
  exact if_neg (by rcases hst with hst | hst <;> simp [hst])

/-- What a reset leaves of a world that begins it: no work, no context, no key but its own, and empty rings (R33). -/
theorem world_beginReset (s : State) (w cause : Nat) :
    let x := (s.beginReset w cause).world w
    x.st = .resetting ∧ x.lastReset = cause ∧ x.en = false ∧ x.context = none ∧ x.secondKey = none ∧ x.tracking = false ∧
    ∀ r ∈ x.rings, r.2.head = 0 ∧ r.2.tail = 0 ∧ r.2.badNotify = false := by
  unfold beginReset
  dsimp only
  rw [world_modWorld]
  refine ⟨rfl, rfl, rfl, rfl, rfl, rfl, fun r hr => ?_⟩
  obtain ⟨q, -, rfl⟩ := List.mem_map.1 hr
  exact ⟨rfl, rfl, rfl⟩

theorem functionReset_runs (hw : w ≠ 0) (h : s.Stands w) (hact : s.activating = false) (hcmd : s.sliceCommanded w = false) :
    s.functionReset w = ((s.resetVectors w).beginReset w 1).pushOnce (.resettingDone w) := by
  unfold functionReset
  dsimp only
  rw [h.check, if_neg (by simp [hw]), hact, hcmd, if_neg (by simp)]

/-- During an activation or a command of its slice, the function level reset is held (R42, R63). -/
theorem functionReset_held (hw : w ≠ 0) (h : s.Stands w) (hbusy : s.activating = true ∨ s.sliceCommanded w = true)
    (hnew : s.held.contains (.functionLevelReset w) = false) :
    s.functionReset w = { s with held := s.held ++ [.functionLevelReset w] } := by
  unfold functionReset
  dsimp only
  rw [h.check, if_neg (by simp [hw]), if_pos (by simpa using hbusy), hnew]
  rfl

/-- Without a command, RESETTING ends with the world's reset (R33). -/
theorem resetDone_resetting (h : (s.world w).st = .resetting) (hcmd : s.command = none) : s.resetDone w = s.endReset w true := by
  have hslice : s.resetting (s.world w).ctl = false := by simp only [resetting, hcmd]
  have hcmd' : (s.endReset w true).command = none := hcmd
  unfold resetDone
  rw [hslice, if_neg (by simp [h])]
  simp only [hcmd']

/-- A world comes out of a reset ATTACHED, with a new key and a zero bank window (R33, R304). -/
theorem world_endReset (s : State) (w : Nat) (fresh : Bool) :
    let x := (s.endReset w fresh).world w
    x.st = .attached ∧ x.en = false ∧ x.key = some (s.keys + 1) ∧ x.window = [] := by
  unfold endReset
  dsimp only [drawKey]
  rw [world_modWorld]
  exact ⟨rfl, rfl, rfl, rfl⟩

/-- And its region reads as zero (R33, R36). -/
theorem byte_endReset {a : Nat} (h1 : (regionRange (s.world w)).1 ≤ a) (h2 : a < (regionRange (s.world w)).1 + (regionRange (s.world w)).2) :
    (s.endReset w true).byte .hbm a = 0 :=
  byte_freshen_in s.drawKey.2.drawKey.2 _ _ _ h1 h2

/-! DETACH -/

theorem detachCommand_runs {c : Command} (hst : (s.slice (nodeCtl c.node)).st = .ready ∨ (s.slice (nodeCtl c.node)).st = .failed)
    (hslot : s.slotted (nodeCtl c.node) c.world = true) (hw : (s.world c.world).st = .attached ∨ (s.world c.world).st = .quiesced) :
    s.detachCommand c = (s.detachWorld c.world).endCommand 0 := by
  unfold detachCommand
  dsimp only
  rw [hslot]
  exact if_neg (by rcases hst with hst | hst <;> rcases hw with hw | hw <;> simp [hst, hw])

/-- A detached world is FREE, and what is left of it belongs to its function (R33, R36). -/
theorem world_detachWorld (s : State) (w : Nat) : ∃ x, (s.detachWorld w).world w = freedWorld x :=
  ⟨_, world_modWorld _ _ _⟩

/-- A list in which the empty position takes a world's place does not name the world. -/
theorem not_mem_map_empty (hw : w ≠ 0) (l : List Nat) : w ∉ l.map fun v => if v = w then 0 else v := by
  intro hmem
  obtain ⟨v, -, hv⟩ := List.mem_map.1 hmem
  split at hv
  · exact hw hv.symm
  · exact absurd hv ‹_›

/-- No position of its slice names it any more. -/
theorem not_mem_wlist_detachWorld (hw : w ≠ 0) : w ∉ ((s.detachWorld w).slice (s.world w).ctl).wlist := by
  unfold detachWorld
  generalize s.closeWorld w = t
  rw [modWorld_eq, slice_setWorld, slice_modSlice]
  exact not_mem_map_empty hw _

end

end State

/-! The operations -/

section
variable (s : State) (w : Nat)

theorem exec_wldCtlEnSet : exec (.wldCtlEnSet w) s = .next (s.setEn w) := rfl
theorem exec_wldCtlEnClear : exec (.wldCtlEnClear w) s = .next (s.clearEn w) := rfl
theorem exec_functionLevelReset : exec (.functionLevelReset w) s = .next (s.functionReset w) := rfl
theorem exec_resettingDone : exec (.resettingDone w) s = .next (s.resetDone w) := rfl

end

/-- Settles O37: each clause is the lemma above about the step of the world's life that it speaks of. -/
theorem worldLife : Obligations.WorldLife := by
  unfold Obligations.WorldLife
  refine ⟨fun s cmd h hc => ⟨fun hbad => ?attachState, fun hst hfree => ⟨fun hw => ?attachFull, fun hw =>
      ⟨fun hbad => ?attachBad, fun hok => ?attach⟩⟩⟩,
    fun s w h => ?enable, fun s w h => ?enableQuiesced, fun s w h => ?disable, fun s w h => ?enableIdle,
    fun s w => State.startProg_default, fun s cmd ws h hc hws => ?quiesce, fun s cmd ws h hc hws => ?resume, fun s w k => rfl,
    fun s w hen hdrop => ?goesOn, fun s w hen hdrop => ?startsAgain, fun s w => State.resumeWorld_disabled,
    fun s cmd h hw hc hst hslot hstands => ?worldReset, fun s w c => State.world_beginReset s w c,
    fun s w hw hstands => ⟨fun hact hcmd => ?functionReset, fun hbusy hnew => ?functionHeld⟩, fun s w h hcmd => ?resetDone,
    fun s cmd h hc hst hslot hw => ?detach, fun s w hw => ?detached⟩
  case attachState => rw [exec_attach, slcWrite_runs h hc, State.attachWorld_state (s := s.accepting cmd) (c := s.commandOf cmd) hbad]
  case attachFull => rw [exec_attach, slcWrite_runs h hc, State.attachWorld_full (s := s.accepting cmd) (c := s.commandOf cmd) hst hfree hw]
  case attachBad => rw [exec_attach, slcWrite_runs h hc, State.attachWorld_bad (s := s.accepting cmd) (c := s.commandOf cmd) hst hfree hw hbad]
  case attach =>
    refine ⟨_, (exec_attach cmd s).trans (congrArg _ ((slcWrite_runs h hc _ _).trans
      (State.attachWorld_attaches (s := s.accepting cmd) (c := s.commandOf cmd) hst hfree hw hok))),
      (s.accepting cmd).placeWorld (s.commandOf cmd), rfl, ?_⟩
    obtain ⟨u, hu⟩ := State.world_placeWorld (s.accepting cmd) (s.commandOf cmd)
    rw [show cmdWorld cmd = (s.commandOf cmd).world from rfl, hu]
    exact ⟨rfl, rfl, rfl, rfl, rfl, rfl, rfl, rfl, rfl, rfl, State.wlist_placeWorld (s.accepting cmd) (s.commandOf cmd),
      fun hadopt a => State.byte_placeWorld (s := s.accepting cmd) (c := s.commandOf cmd) hadopt⟩
  case enable => rw [exec_wldCtlEnSet, State.setEn_attached h]
  case enableQuiesced =>
    exact ⟨by rw [exec_wldCtlEnSet, State.setEn_quiesced h], by rw [exec_wldCtlEnClear, State.clearEn_quiesced h]⟩
  case disable =>
    refine ⟨_, (exec_wldCtlEnClear s w).trans (congrArg _ (State.clearEn_running h)), ?_⟩
    unfold State.prog
    dsimp only
    rw [world_modWorld]
    refine ⟨rfl, rfl, State.prog_stopProg s w, ?_, ?_⟩
    · exact State.launches_stopProg s w
    · exact State.teams_stopProg s w
  case enableIdle => exact ⟨by rw [exec_wldCtlEnSet, State.setEn_idle h], by rw [exec_wldCtlEnClear, State.clearEn_idle h]⟩
  case quiesce => rw [exec_quiesce, slcWrite_runs h hc, State.quiesceCommand_named hws]
  case resume => rw [exec_resume, slcWrite_runs h hc, State.resumeCommand_named hws]
  case goesOn =>
    rw [State.resumeWorld_enabled hen, hdrop]
    rfl
  case startsAgain =>
    rw [State.resumeWorld_enabled hen, hdrop]
    rfl
  case worldReset =>
    rw [exec_worldReset hw, slcWrite_runs h hc, State.worldResetCommand_runs (s := s.accepting cmd) (c := s.commandOf cmd) hst hslot hstands]
    rfl
  case functionReset => rw [exec_functionLevelReset, State.functionReset_runs hw hstands hact hcmd]
  case functionHeld => rw [exec_functionLevelReset, State.functionReset_held hw hstands hbusy hnew]
  case resetDone =>
    obtain ⟨hst, hen, hkey, hwindow⟩ := State.world_endReset s w true
    exact ⟨_, (exec_resettingDone s w).trans (congrArg _ (State.resetDone_resetting h hcmd)), hst, hen, hkey, hwindow,
      fun a => State.byte_endReset (s := s) (w := w)⟩
  case detach =>
    rw [exec_detach, slcWrite_runs h hc, State.detachCommand_runs (s := s.accepting cmd) (c := s.commandOf cmd) hst hslot hw]
    rfl
  case detached =>
    obtain ⟨x, hx⟩ := State.world_detachWorld s w
    dsimp only
    rw [hx]
    exact ⟨rfl, rfl, rfl, State.not_mem_wlist_detachWorld hw⟩

end Sys2Proof.Machine
end

section
/-! The freeze and its read-out (R469, R470), and the services of the management port (R66, R468). -/

namespace Sys2Proof.Machine

namespace State

/-! The freeze -/

theorem freezeNow_running {s : State} (h : s.frozen = none) (cause : Nat) :
    s.freezeNow cause = { s with frozen := some ⟨cause, s.clock⟩ } := by
  simp [freezeNow, h]

/-- A frozen package keeps its first freeze. -/
theorem freezeNow_frozen {s : State} {f : Freeze} (h : s.frozen = some f) (cause : Nat) : s.freezeNow cause = s := by
  simp [freezeNow, h]

/-! The read-out -/

theorem length_dumpHeader (s : State) (f : Freeze) : (s.dumpHeader f).length = 128 := by simp [dumpHeader, zeros]

/-- The image that is read out, without its signature (R470). -/
def dumpImage (s : State) (f : Freeze) : List Byte := s.dumpHeader f ++ s.dumpBody ++ Config.dumpTail s.freeCtr

/-- It begins with its header. -/
theorem take_dumpImage (s : State) (f : Freeze) : (s.dumpImage f).take 128 = s.dumpHeader f := by
  unfold dumpImage
  rw [List.append_assoc, ← length_dumpHeader s f, List.take_left]

/-- The header's first field is FDMP. -/
theorem magic_dumpImage (s : State) (f : Freeze) : (s.dumpImage f).take 4 = [0x46#8, 0x44#8, 0x4D#8, 0x50#8] := rfl

theorem readout_frozen {s : State} {f : Freeze} (h : s.frozen = some f) :
    s.readout = s.send (.reply 0 (s.dumpImage f ++ leBytes 96 (Config.sign s.aliasKey (s.dumpImage f)))) := by
  simp only [readout, h, dumpImage]

theorem readout_running {s : State} (h : s.frozen = none) : s.readout = s.send (.reply 1 []) := by
  simp only [readout, h]

/-! The lifetime counters -/

/-- The indices of the table run from 0 to 0x330 (R468). -/
theorem lifeIndex_iff (k : Nat) : lifeIndex k = true ↔ k ≤ 0x330 := by
  simp [lifeIndex, Nat.le_iff_lt_or_eq]

end State

/-! The operations -/

section
variable (s : State)

theorem exec_freeze (v : BitVec 32) : exec (.freeze v) s = .next (if v = 0x0000A501#32 then s.freezeNow 1 else s) := rfl
theorem exec_freezeN : exec .freezeN s = .next (if Config.freezePin then s.freezeNow 2 else s) := rfl
theorem exec_freezeReadout : exec .freezeReadout s = .next s.readout := rfl
theorem exec_lifetimeCounterRead (k : Nat) : exec (.lifetimeCounterRead k) s =
    .next (s.send (if State.lifeIndex k then .reply 0 (leBytes 4 (s.lifeCounter k)) else .reply 1 [])) := rfl
theorem exec_powerTelemetry : exec .powerTelemetry s = .next (s.send (.reply 0 (Config.telemetry s.clock))) := rfl

end

/-- Settles O52: each clause is the lemma above about the freeze, the image that is read out or the counter. -/
theorem freezeAndPort : Obligations.FreezeAndPort := by
  unfold Obligations.FreezeAndPort
  refine ⟨fun s v h => ?freeze, fun s v f h => ⟨?frozen, ?frozenPin⟩, fun s h => ?pin, fun s f h => ?readout, fun s h => ?noReadout,
    fun s k hk => ?counter, fun s k hk => ?noCounter, exec_powerTelemetry, fun s o => sameMemory_of_bytesOf (bytesOf_send s o)⟩
  case freeze => rw [exec_freeze, State.freezeNow_running h]
  case frozen => rw [exec_freeze, State.freezeNow_frozen h, ite_self]
  case frozenPin => rw [exec_freezeN, State.freezeNow_frozen h, ite_self]
  case pin => rw [exec_freezeN, State.freezeNow_running h]
  case readout =>
    exact ⟨s.dumpImage f, _, (exec_freezeReadout s).trans (congrArg _ (State.readout_frozen h)), rfl, State.magic_dumpImage s f,
      State.take_dumpImage s f, State.length_dumpHeader s f⟩
  case noReadout => rw [exec_freezeReadout, State.readout_running h]
  case counter =>
    rw [exec_lifetimeCounterRead, if_pos ((State.lifeIndex_iff k).2 hk)]
    rfl
  case noCounter => rw [exec_lifetimeCounterRead, if_neg (mt (State.lifeIndex_iff k).1 (Nat.not_le.2 hk))]

end Sys2Proof.Machine
end

section
/-! Firmware (R52, R61 to R66): the commands of FWA_CMD, staging, activations, cold resets, the configuration space during a
bring-up, the non-volatile store, and command words that no register lists. -/

namespace Sys2Proof.Machine

namespace State

/-! The start of a firmware command -/

/-- A write of FWA_CMD while a command runs has no effect (R64). -/
theorem fwWrite_busy {s : State} (h : s.fw ≠ none) (op : Nat) (v : BitVec 32) (run : State → Nat → State) :
    s.fwWrite op v run = s := by
  have hrun : s.fw.isSome = true := Option.isSome_iff_ne_none.2 h
  unfold fwWrite
  exact if_pos (by simp [hrun])

/-- The register holds the word that starts a command. -/
def fwTaken (s : State) (v : BitVec 32) : State := { s with fwaCmd := v &&& 0xFF0000F1 }

section
variable {s : State} {v : BitVec 32} {op : Nat} (hop : fwOp v = op) (hgo : v.getLsbD 0 = true) (hfw : s.fw = none)
include hop hgo hfw

theorem fwWrite_badImage (himage : fwImage v = 0 ∨ 5 < fwImage v) (run : State → Nat → State) :
    s.fwWrite op v run = (s.fwTaken v).endFw 2 s.clock := by
  unfold fwWrite
  rw [if_neg (by simp [hop, hgo, hfw])]
  exact if_pos (by simpa using himage)

theorem fwWrite_runs (h1 : 1 ≤ fwImage v) (h5 : fwImage v ≤ 5) (run : State → Nat → State) :
    s.fwWrite op v run = run (s.fwTaken v) (fwImage v) := by
  unfold fwWrite
  rw [if_neg (by simp [hop, hgo, hfw])]
  exact if_neg (by simp; omega)

end

/-- The end of a command clears GO (R64). -/
theorem fwaCmd_endFw_go (s : State) (status start : Nat) : (s.endFw status start).fwaCmd.getLsbD 0 = false := by
  simp [endFw]

/-! STAGE -/

/-- A STAGE of a range that keeps the limits of R64 runs. -/
theorem stageImage_stageable {s : State} (h : stageable s.fwaAddr.toNat s.fwaSize.toNat = true) (image : Nat) :
    s.stageImage image = { s with fw := some ⟨1, image, s.clock, s.fwaAddr.toNat, s.fwaSize.toNat, 0⟩ } := if_pos h

theorem stageImage_badRange {s : State} (h : stageable s.fwaAddr.toNat s.fwaSize.toNat = false) (image : Nat) :
    s.stageImage image = s.endFw 2 s.clock := if_neg (Bool.eq_false_iff.1 h)

/-- The bank as the copy of a body leaves it, and the check of R52 on it. -/
theorem stageCopy_read {s : State} {f : FwCommand} {body : List Byte} (h : s.hostRead 0 f.addr f.size = some body) :
    let bank := 1 - s.bootBank.get 0 f.image
    let b : Bank := ⟨some body, Config.imageSigned f.image body, Config.imageVersion f.image body⟩
    s.stageCopy f = (s.bankStatus f.image b, { s with
      banks := s.banks.insert (2 * f.image + bank) b
      staged := if s.bankStatus f.image b = 0 then some (f.image, bank)
        else if s.staged = some (f.image, bank) then none else s.staged }) := by
  simp only [stageCopy, h]

/-- The check of a bank: its signature first, then its version (R52, R64). -/
theorem bankStatus_eq (s : State) (image : Nat) (b : Bank) :
    s.bankStatus image b = if b.signed = false then 3 else if b.version < s.fuses.get 0 image then 4 else 0 := by
  simp [bankStatus]

theorem stageEnds_stage {s : State} {f : FwCommand} (h : s.fw = some f) (hop : f.op = 1) :
    s.stageEnds false = (s.stageCopy f).2.endFw (s.stageCopy f).1 f.start := by
  simp [stageEnds, h, hop]

theorem stageEnds_port {s : State} {f : FwCommand} (h : s.portFw = some f) :
    s.stageEnds true = ({ (s.stageCopy f).2 with portFw := none } : State).send (.reply 0 [BitVec.ofNat 8 (s.stageCopy f).1]) := by
  simp only [stageEnds, h, if_true]

/-- The management port stages beside a command of FWA_CMD (R66). -/
theorem stageByPort_runs {s : State} {image addr size : Nat} (h : s.portFw = none) (h1 : image ≠ 0) (h5 : image ≤ 5)
    (hrange : stageable addr size = true) :
    s.stageByPort image addr size = { s with portFw := some ⟨1, image, s.clock, addr, size, 0⟩ } := by
  unfold stageByPort
  rw [if_neg (by simp [h]), if_neg (by simp [h1, hrange, Nat.not_lt.2 h5])]

theorem stageByPort_bad {s : State} {image addr size : Nat} (h : s.portFw = none)
    (hbad : image = 0 ∨ 5 < image ∨ stageable addr size = false) : s.stageByPort image addr size = s.send (.reply 0 [2#8]) := by
  unfold stageByPort
  rw [if_neg (by simp [h]), if_pos (by simpa [or_assoc] using hbad)]

/-! ACTIVATE -/

/-- MEMT and LINK are activated by a cold reset alone (R61). -/
theorem activateImage_resetOnly {image : Nat} (h : image = 2 ∨ image = 3) (s : State) : s.activateImage image = s.endFw 2 s.clock :=
  if_pos (by simpa using h)

section
variable {s : State} {image : Nat} (h2 : image ≠ 2) (h3 : image ≠ 3)
include h2 h3

theorem activateImage_unstaged (h : s.staged.map (·.1) ≠ some image) : s.activateImage image = s.endFw 5 s.clock := by
  unfold activateImage
  rw [if_neg (by simp [h2, h3])]
  split
  · next i b hs => exact if_neg fun e => h (by rw [hs, e]; rfl)
  · rfl

theorem activateImage_staged {b : Nat} (h : s.staged = some (image, b)) :
    s.activateImage image = { s with fw := some ⟨2, image, s.clock, 0, 0, b⟩ } := by
  unfold activateImage
  rw [if_neg (by simp [h2, h3])]
  simp only [h, if_true]

end

/-- An activation has completed: the staged bank is the active one, and the counter has advanced; what was held has not run
yet (R58, R61, R63). -/
def activated (s : State) (f : FwCommand) : State :=
  (({ s with
    builds := s.builds.insert f.image (((s.banks.get {} (2 * f.image + f.bank)).body).getD (Config.factoryImage f.image))
    bootBank := s.bootBank.put 0 f.image f.bank
    staged := if s.staged = some (f.image, f.bank) then none else s.staged
    activations := s.activations + 1
    command := s.command.map fun c => { c with bound := s.clock } } : State).endFw 0 f.start).wakeWaiting.wakeGangs

theorem activationEnds_activation {s : State} {f : FwCommand} (h : s.fw = some f) (hop : f.op = 2) :
    s.activationEnds = (s.activated f).releaseHeldOps.emitAll := by
  simp only [activationEnds, h, hop, ne_eq, not_true_eq_false, if_false, activated]

theorem releaseHeldOps_activating {s : State} (h : s.activating = true) : s.releaseHeldOps = s := if_pos h

/-! Cold reset -/

/-- The state in which a cold reset begins to load the images: what lies outside, the flash, the fuses, the non-volatile store
and the generators are kept (R52, R65, R468). -/
def coldBase (s : State) (rate width : Nat) : State :=
  { State.reset with
    agenda := s.agenda, out := s.out, turn := s.turn, freeCtr := s.freeCtr, keys := s.keys, host := s.host,
    atsTable := s.atsTable, clock := s.clockCommitted + 600000000000, clockCommitted := s.clockCommitted + 600000000000,
    life := s.life.put 0 0x330 (min 0xFFFFFFFF (s.life.get 0 0x330 + 1)), builds := s.builds, staged := s.staged,
    banks := s.banks, bootBank := s.bootBank, fuses := s.fuses, up := false, link := ⟨rate, width, linkTrains rate width⟩,
    metNext := ((s.clockCommitted + 600000000000) / 1000000 / 1000 + 1) * 1000 }

/-- A staged MEMT or LINK image has had its boot (R61). -/
def dropBooted (s : State) : State := { s with staged := s.staged.filter fun e => e.1 != 2 && e.1 != 3 }

/-- After the images are loaded, a failed one or a link that stays down is reported, and else a bring-up runs. -/
theorem coldStart_eq (s : State) (rate width : Nat) :
    let u := (s.coldBase rate width).bootImages.dropBooted
    s.coldStart rate width = if u.bootFailed ≠ 0 then u.send (.bootFailed u.bootFailed u.bootCause)
      else if !u.link.up then u.send (.linkDown rate width)
      else { u with upAt := some (s.clockCommitted + 600000000000 + 900000000) } := rfl

theorem bootOf_coldBase (s : State) (rate width image : Nat) : (s.coldBase rate width).bootOf image = s.bootOf image :=
  bootOf_of rfl rfl rfl rfl

section
variable {s : State} {rate width : Nat}

theorem coldStart_bootFailed {i c : Nat} (hi : i < 5) (hboot : ∀ j < i, ∃ b, s.bootOf (j + 1) = .ok b)
    (hfail : s.bootOf (i + 1) = .error c) : ∃ x y, s.coldStart rate width =
      ({ s.coldBase rate width with builds := x, bootBank := y, bootFailed := i + 1, bootCause := c } : State).dropBooted.send
        (.bootFailed (i + 1) c) := by
  obtain ⟨x, y, hload⟩ := bootImages_fail (s.coldBase rate width) rfl i c hi
    (fun j hj => (hboot j hj).imp fun _ hb => (bootOf_coldBase ..).trans hb) ((bootOf_coldBase ..).trans hfail)
  refine ⟨x, y, ?_⟩
  rw [coldStart_eq, hload]
  exact if_pos (Nat.succ_ne_zero i)

variable (hboot : ∀ i < 5, ∃ b, s.bootOf (i + 1) = .ok b)
include hboot

/-- Where every image runs, the load changes only what runs, and from which bank. -/
theorem bootImages_coldBase : ∃ x y, (s.coldBase rate width).bootImages = { s.coldBase rate width with builds := x, bootBank := y } :=
  bootImages_ok (s.coldBase rate width) rfl fun i hi => (hboot i hi).imp fun _ hb => (bootOf_coldBase ..).trans hb

theorem coldStart_linkDown (hlink : linkTrains rate width = false) : ∃ x y, s.coldStart rate width =
    ({ s.coldBase rate width with builds := x, bootBank := y } : State).dropBooted.send (.linkDown rate width) := by
  obtain ⟨x, y, hload⟩ := bootImages_coldBase (rate := rate) (width := width) hboot
  refine ⟨x, y, ?_⟩
  rw [coldStart_eq, hload]
  exact (if_neg (not_not_intro rfl)).trans (if_pos (congrArg (!·) hlink))

theorem coldStart_bringUp (hlink : linkTrains rate width = true) : ∃ x y, s.coldStart rate width =
    { ({ s.coldBase rate width with builds := x, bootBank := y } : State).dropBooted with
      upAt := some (s.clockCommitted + 600000000000 + 900000000) } := by
  obtain ⟨x, y, hload⟩ := bootImages_coldBase (rate := rate) (width := width) hboot
  refine ⟨x, y, ?_⟩
  rw [coldStart_eq, hload]
  exact (if_neg (not_not_intro rfl)).trans (if_neg (Bool.eq_false_iff.1 (congrArg (!·) hlink)))

end

/-- The rate and the width that R104 asks of the host link. -/
theorem linkTrains_iff {rate width : Nat} : linkTrains rate width = true ↔ 32 ≤ rate ∧ 8 ≤ width := by simp [linkTrains]

theorem linkTrains_slow {rate width : Nat} (h : rate < 32 ∨ width < 8) : linkTrains rate width = false :=
  Bool.eq_false_iff.2 fun ht => by have := linkTrains_iff.1 ht; omega

/-! The configuration space -/

section
variable {s : State}

/-- Nothing answers while the link is held in reset or down (R52, R104). -/
theorem configRequest_silent (h : s.bootFailed ≠ 0 ∨ s.link.up = false) (fn off : Nat) : s.configRequest fn off = s :=
  if_pos (by simpa using h)

variable (hboot : s.bootFailed = 0) (hlink : s.link.up = true)
include hboot hlink

theorem configRequest_retry (hup : s.up = false) (hat : s.upAt ≠ none) (fn off : Nat) : s.configRequest fn off = s.send .configRetry := by
  unfold configRequest
  rw [if_neg (by simp [hboot, hlink]), if_pos (by simp [hup]), if_pos (Option.isSome_iff_ne_none.2 hat)]

theorem configRequest_answers (hup : s.up = true) {fn : Nat} (hfn : fn ≤ 96) (off : Nat) :
    s.configRequest fn off = s.answer (leBytes 4 (configWord fn off)) := by
  unfold configRequest
  rw [if_neg (by simp [hboot, hlink]), if_neg (by simp [hup]), if_neg (Nat.not_lt.2 hfn)]

end

/-! Command words that no register lists -/

section
variable {s : State} {v : BitVec 32} (hgo : v.getLsbD 0 = true)
include hgo

theorem fwUnknown_ends (hop : fwOp v = 0 ∨ 3 < fwOp v) (hfw : s.fw = none) : s.fwUnknown v = (s.fwTaken v).endFw 2 s.clock := by
  have hunlisted : ¬ (1 ≤ fwOp v ∧ fwOp v ≤ 3) := by omega
  unfold fwUnknown
  exact if_neg (by simpa [hgo, hfw] using hunlisted)

variable (hcmd : s.command = none) (hheld : s.held.any isCommand = false) (hact : s.activating = false)
include hcmd hheld hact

/-- Such a word of SLC_CMD starts a command, which ends with BADCMD. -/
theorem slcUnknown_ends (hop : cmdOp v = 0 ∨ 9 < cmdOp v) : s.slcUnknown v =
    ({ s with slcCmd := v &&& 0xFFFFF8F1, cmdWritten := s.writtenAt,
              command := some ⟨0, 0, 0, 0, s.slcArg, s.writtenAt, s.clock, none⟩ } : State).endCommand 2 := by
  have hunlisted : ¬ (1 ≤ cmdOp v ∧ cmdOp v ≤ 9) := by omega
  unfold slcUnknown
  rw [if_neg (by rw [hheld]; simpa [hgo, hcmd] using hunlisted)]
  exact if_neg (Bool.eq_false_iff.1 hact)

/-- And one of WLD_MIGCMD a migration command. -/
theorem migUnknown_ends {w : Nat} (hw : 1 ≤ w) (hw' : w ≤ 96) (hop : cmdOp v = 0 ∨ 5 < cmdOp v) : ∃ (u : State) (c : Command),
    s.migUnknown w v = u.endMigration 2 ∧ u.command = some c ∧ c.op = 0x80 ∧ c.world = w := by
  have hunlisted : 1 ≤ cmdOp v → 5 < cmdOp v := by omega
  unfold migUnknown
  dsimp only
  rw [if_neg (by rw [hheld]; simpa [hgo, hcmd] using ⟨⟨Nat.ne_of_gt hw, hw'⟩, hunlisted⟩)]
  exact ⟨_, _, if_neg (Bool.eq_false_iff.1 hact), rfl, rfl, rfl⟩

end

/-- The running migration command has ended with the status, and its completion is due. -/
theorem endMigration_running {s : State} {c : Command} (h : s.command = some c) (st : Nat) :
    (s.endMigration st).command = some { c with ended := some st } ∧ Instr.migrationCommandDone c.world ∈ (s.endMigration st).due := by
  have hend : s.endMigration st =
      ({ s with command := some { c with ended := some st } } : State).pushOnce (.migrationCommandDone c.world) := by
    simp only [endMigration, h]
  rw [hend]
  refine ⟨?_, mem_pushOnce _ _⟩
  obtain ⟨d, hd⟩ := pushOnce_due { s with command := some { c with ended := some st } } (.migrationCommandDone c.world)
  rw [hd]

end State

/-! The operations -/

section
variable (s : State)

theorem exec_stage (cmd : BitVec 32) : exec (.stage cmd) s = .next (s.fwWrite 1 cmd State.stageImage) := rfl
theorem exec_activate (cmd : BitVec 32) : exec (.activate cmd) s = .next (s.fwWrite 2 cmd State.activateImage) := rfl
theorem exec_discard (cmd : BitVec 32) :
    exec (.discard cmd) s = .next (s.fwWrite 3 cmd fun s _ => { s with staged := none }.endFw 0 s.clock) := rfl
theorem exec_stageDone (port : Bool) : exec (.stageDone port) s = .next (s.stageEnds port) := rfl
theorem exec_activationDone : exec .activationDone s = .next s.activationEnds := rfl
theorem exec_firmwareStaging (image : BitVec 4) (addr : BitVec 64) (size : BitVec 32) :
    exec (.firmwareStaging image addr size) s = .next (s.stageByPort image.toNat addr.toNat size.toNat) := rfl
theorem exec_coldReset (rate width : Nat) : exec (.coldReset ⟨rate, width⟩) s = .next (s.coldStart rate width) := rfl
theorem exec_configurationRequest (fn off : Nat) : exec (.configurationRequest ⟨fn, off⟩) s = .next (s.configRequest fn off) := rfl
theorem exec_counterCommit : exec .counterCommit s = .next s.commitCounters := rfl
theorem exec_badcmd_slc (w : Nat) (v : BitVec 32) : exec (.badcmd 0 w v) s = .next (s.slcUnknown v) := rfl
theorem exec_badcmd_fw (w : Nat) (v : BitVec 32) : exec (.badcmd 1 w v) s = .next (s.fwUnknown v) := rfl
theorem exec_badcmd_mig (w : Nat) (v : BitVec 32) : exec (.badcmd 2 w v) s = .next (s.migUnknown w v) := rfl

end

/-- A function's first doubleword names the package, and whether it is the physical function (R105). -/
theorem configWord_ids (fn : Nat) : configWord fn 0 = 0x1D9C + 2 ^ 16 * (if fn = 0 then 0x9600 else 0x9601) := rfl

/-- Settles O41: each clause is the lemma above about the command, the boot or the store that it speaks of. -/
theorem firmware : Obligations.Firmware := by
  unfold Obligations.Firmware
  refine ⟨?badImage, fun s cmd hgo hfw h1 h5 => ⟨fun hop hrange => ?stage, fun hop hrange => ?stageBad, fun hop himage => ?resetOnly,
      fun hop h2 h3 hs => ?unstaged, fun b hop h2 h3 hs => ?activate, fun hop => ?discard⟩,
    fun s status start => ⟨rfl, rfl, rfl, rfl⟩, fun s f body hread => ?copied, fun s f h hop => ?stageDone, fun s f h => ?portDone,
    fun s f h hop => ?activated, fun s => releaseHeldOps_idle, fun s => State.releaseHeldOps_activating,
    fun s image addr size h h0 h5 hrange => ?port, fun s image addr size h hbad => ?portBad,
    fun s rate width hrate hwidth hboot => ?bringUp, fun s rate width hslow hboot => ?linkDown,
    fun s rate width i c hi hboot hfail => ?bootFailed, fun s fn off h => ?silent,
    fun s fn off hboot hlink => ⟨fun hup hat => ?retry, fun hup hfn => ?answers⟩, configWord_ids 0, fun fn h => ?ids,
    fun s => ⟨_, exec_counterCommit s, rfl, rfl, rfl⟩, fun s => rfl, fun s => rfl, fun s v w hop hgo hfw => ?fwUnknown,
    fun s v w hop hgo hcmd hheld hact => ?slcUnknown, fun s v w hw hw' hop hgo hcmd hheld hact => ?migUnknown⟩
  case badImage =>
    simp only [List.forall_mem_cons, List.not_mem_nil, false_implies, implies_true, and_true]
    refine ⟨?_, ?_, ?_⟩ <;> intro s cmd hop hgo
    · exact ⟨fun h => by rw [exec_stage, State.fwWrite_busy h],
        fun hfw himage => (exec_stage s cmd).trans (congrArg _ (State.fwWrite_badImage hop hgo hfw himage _))⟩
    · exact ⟨fun h => by rw [exec_activate, State.fwWrite_busy h],
        fun hfw himage => (exec_activate s cmd).trans (congrArg _ (State.fwWrite_badImage hop hgo hfw himage _))⟩
    · exact ⟨fun h => by rw [exec_discard, State.fwWrite_busy h],
        fun hfw himage => (exec_discard s cmd).trans (congrArg _ (State.fwWrite_badImage hop hgo hfw himage _))⟩
  case stage =>
    rw [exec_stage, State.fwWrite_runs hop hgo hfw h1 h5, State.stageImage_stageable (s := s.fwTaken cmd) hrange]
    rfl
  case stageBad =>
    rw [exec_stage, State.fwWrite_runs hop hgo hfw h1 h5, State.stageImage_badRange (s := s.fwTaken cmd) hrange]
    rfl
  case resetOnly =>
    rw [exec_activate, State.fwWrite_runs hop hgo hfw h1 h5, State.activateImage_resetOnly himage]
    rfl
  case unstaged =>
    rw [exec_activate, State.fwWrite_runs hop hgo hfw h1 h5, State.activateImage_unstaged (s := s.fwTaken cmd) h2 h3 hs]
    rfl
  case activate =>
    rw [exec_activate, State.fwWrite_runs hop hgo hfw h1 h5, State.activateImage_staged (s := s.fwTaken cmd) h2 h3 hs]
    rfl
  case discard =>
    exact ⟨_, (exec_discard s cmd).trans (congrArg _ (State.fwWrite_runs hop hgo hfw h1 h5 _)), rfl, rfl,
      State.fwaCmd_endFw_go _ _ _⟩
  case copied =>
    dsimp only
    rw [State.stageCopy_read hread, State.bankStatus_eq]
    exact ⟨_, rfl, rfl, fun hok => if_pos hok, fun hbad hother => (if_neg hbad).trans (if_neg hother)⟩
  case stageDone => rw [exec_stageDone, State.stageEnds_stage h hop]
  case portDone => rw [exec_stageDone, State.stageEnds_port h]
  case activated =>
    exact ⟨_, (exec_activationDone s).trans (congrArg _ (State.activationEnds_activation h hop)), s.activated f, rfl, rfl, rfl, rfl,
      fun hs => if_pos hs, rfl, rfl, rfl⟩
  case port =>
    rw [exec_firmwareStaging, State.stageByPort_runs h (fun h' => h0 (BitVec.eq_of_toNat_eq h')) h5 hrange]
  case portBad =>
    rw [exec_firmwareStaging, State.stageByPort_bad h (hbad.imp_left (congrArg BitVec.toNat))]
  case bringUp =>
    have hlink := State.linkTrains_iff.2 ⟨hrate, hwidth⟩
    obtain ⟨x, y, hstart⟩ := State.coldStart_bringUp hboot hlink
    exact ⟨_, (exec_coldReset ..).trans (congrArg _ hstart), rfl, hlink, rfl, rfl, rfl, rfl, rfl, rfl, rfl, rfl, SMap.get_put_self _ _ _ _⟩
  case linkDown =>
    have hlink := State.linkTrains_slow hslow
    obtain ⟨x, y, hstart⟩ := State.coldStart_linkDown hboot hlink
    exact ⟨_, (exec_coldReset ..).trans (congrArg _ hstart), rfl, rfl, hlink, List.getLast?_concat⟩
  case bootFailed =>
    obtain ⟨x, y, hstart⟩ := State.coldStart_bootFailed hi hboot hfail
    exact ⟨_, (exec_coldReset ..).trans (congrArg _ hstart), rfl, rfl, rfl, rfl, List.getLast?_concat⟩
  case silent => rw [exec_configurationRequest, State.configRequest_silent h]
  case retry => rw [exec_configurationRequest, State.configRequest_retry hboot hlink hup hat]
  case answers => rw [exec_configurationRequest, State.configRequest_answers hboot hlink hup hfn]
  case ids => exact (configWord_ids fn).trans (congrArg (0x1D9C + 2 ^ 16 * ·) (if_neg h))
  case fwUnknown =>
    exact (exec_badcmd_fw s w v).trans (congrArg _ (State.fwUnknown_ends hgo hop hfw))
  case slcUnknown =>
    refine ⟨_, (exec_badcmd_slc s w v).trans (congrArg _ (State.slcUnknown_ends hgo hcmd hheld hact hop)), ?_, mem_pushOnce _ _⟩
    rw [State.command_endCommand rfl]
    rfl
  case migUnknown =>
    obtain ⟨u, c, hend, hc, hcop, hworld⟩ := State.migUnknown_ends hgo hcmd hheld hact hw hw' hop
    obtain ⟨hended, hdue⟩ := State.endMigration_running hc 2
    refine ⟨_, (exec_badcmd_mig s w v).trans (congrArg _ hend), ?_, hworld ▸ hdue⟩
    rw [hended, ← hcop, ← hworld]
    rfl

end Sys2Proof.Machine
end

section
/-! A world's SPDM responder (R53 to R58, R62): the connection, the requests that an activation defers, and the sessions. -/

namespace Sys2Proof.Machine

/-- The ExtAsym algorithm is one of a connection's where the requester has selected it (R56). -/
theorem Spdm.ext_fixedAlgorithms (x : Spdm) (ext : Bool) : Spdm.ext { x with algorithms := some (fixedAlgorithms ext) } = ext := by
  cases ext <;> rfl

namespace State

/-! The deferred requests, carried out -/

section
variable {s : State} {w slot idx : Nat} {sg : Bool}

theorem doCertificate_slotZero (s : State) (w off len : Nat) :
    s.doCertificate w 0 off len = s.answer ((s.chainBytes.drop off).take (min len 4088)) := rfl

theorem doCertificate_badSlot (hslot : slot ≠ 0) (off len : Nat) : s.doCertificate w slot off len = s.invalidRequest w := if_pos hslot

/-- Without the ExtAsym algorithm nothing is signed (R56). -/
theorem doChallenge_noExt (h : (s.world w).spdm.ext = false) : s.doChallenge w slot = s.unsupportedRequest w 0x83 :=
  if_pos (by simp [h])
theorem doKeyExchange_noExt (h : (s.world w).spdm.ext = false) : s.doKeyExchange w slot = s.unsupportedRequest w 0xE4 :=
  if_pos (by simp [h])
theorem doMeasurements_noExt (h : (s.world w).spdm.ext = false) : s.doMeasurements w idx true = s.unsupportedRequest w 0xE0 :=
  if_pos (by simp [h])

theorem doMeasurements_badIndex (h : sg = true → (s.world w).spdm.ext = true) (hidx : idx = 0 ∨ 8 < idx) :
    s.doMeasurements w idx sg = s.invalidRequest w := by
  unfold doMeasurements
  rw [if_neg (by simpa using h)]
  exact if_pos (by simpa using hidx)

/-- A measurement that is not signed opens the transcript, or goes on with the one that runs (R58). -/
theorem doMeasurements_unsigned (h1 : 1 ≤ idx) (h8 : idx ≤ 8) : s.doMeasurements w idx false =
    (s.modSpdm w fun x => { x with transcript := some ((s.world w).spdm.transcript.getD s.activations) }).answer
      (0#8 :: s.measurementBytes w idx) := by
  have hidx : ¬ (idx = 0 ∨ 8 < idx) := by omega
  unfold doMeasurements
  rw [if_neg (by simp), if_neg (by simpa using hidx)]
  rfl

variable (hext : (s.world w).spdm.ext = true)
include hext

theorem doChallenge_badSlot (hslot : slot ≠ 0) : s.doChallenge w slot = s.invalidRequest w := by
  unfold doChallenge
  rw [if_neg (by simp [hext]), if_pos hslot]

theorem doChallenge_slotZero : s.doChallenge w 0 =
    s.answer (s.signed (s.chainDigest ++ (List.range 8).flatMap fun i => s.measurementBytes w (i + 1))) := by
  unfold doChallenge
  rw [if_neg (by simp [hext]), if_neg (not_not_intro rfl)]

/-- A signed one ends the transcript, and says whether an activation has completed within it (R57, R58). -/
theorem doMeasurements_signed {n : Nat} (hn : (s.world w).spdm.transcript = some n) (h1 : 1 ≤ idx) (h8 : idx ≤ 8) :
    s.doMeasurements w idx true = (s.modSpdm w fun x => { x with transcript := none }).answer
      (s.signed ((if n = s.activations then 2#8 else 1#8) :: s.measurementBytes w idx)) := by
  have hidx : ¬ (idx = 0 ∨ 8 < idx) := by omega
  unfold doMeasurements
  rw [if_neg (by simp [hext]), if_neg (by simpa using hidx), hn]
  rfl

theorem doKeyExchange_badSlot (hslot : slot ≠ 0) : s.doKeyExchange w slot = s.invalidRequest w := by
  unfold doKeyExchange
  dsimp only
  rw [if_neg (by simp [hext]), if_pos hslot]

theorem doKeyExchange_full (h : 2 ≤ (s.world w).spdm.sessions.length) : s.doKeyExchange w 0 = s.sessionLimit w := by
  unfold doKeyExchange
  dsimp only
  rw [if_neg (by simp [hext]), if_neg (not_not_intro rfl), if_pos h]

/-- The first session of a responder is session 1, under a secret drawn now (R55, R56). -/
theorem doKeyExchange_first (h : (s.world w).spdm.sessions = []) : s.doKeyExchange w 0 =
    (s.drawKey.2.modSpdm w fun x => { x with sessions := x.sessions ++ [{ id := 1, secret := Config.sessionSecret (s.keys + 1) 0 }] }).answer
      (s.signed (leBytes 2 1)) := by
  unfold doKeyExchange
  dsimp only
  rw [if_neg (by simp [hext]), if_neg (not_not_intro rfl), if_neg (by simp [h]), h]
  rfl

end

/-! Activations -/

theorem orDefer_idle {s : State} (h : s.activating = false) (w : Nat) (i : Instr) : s.orDefer w i = s.carryOut i := by
  simp only [orDefer, h]

theorem activating_of_activate {s : State} {f : FwCommand} (h : s.fw = some f) (hop : f.op = 2) : s.activating = true := by
  simp [activating, h, hop]

/-- The responder keeps a request that an activation defers, under a new token; one for a measurement opens the transcript
(R58, R62). -/
def deferring (s : State) (w code : Nat) (i : Instr) : State :=
  s.modSpdm w fun x => { x with
    tokens := (s.world w).spdm.tokens + 1, deferred := some (((s.world w).spdm.tokens + 1) % 256, i)
    transcript := if code = 0xE0 then some (x.transcript.getD s.activations) else x.transcript }

theorem orDefer_activating {s : State} {i : Instr} {code : Nat} (h : s.activating = true) (hcode : deferredCode i = some code) (w : Nat) :
    s.orDefer w i = (s.deferring w code i).notReady w code ((s.world w).spdm.tokens + 1) := by
  simp only [orDefer, h, hcode, deferring]

theorem spdm_deferring (s : State) (w code : Nat) (i : Instr) : ((s.deferring w code i).world w).spdm = { (s.world w).spdm with
    tokens := (s.world w).spdm.tokens + 1, deferred := some (((s.world w).spdm.tokens + 1) % 256, i)
    transcript := if code = 0xE0 then some ((s.world w).spdm.transcript.getD s.activations) else (s.world w).spdm.transcript } :=
  spdm_modSpdm _ _ _

/-- ResponseNotReady names the rest of the 250 ms as an exponent, the request and the token (R62). -/
theorem out_notReady {s : State} {f : FwCommand} (h : s.fw = some f) (w code token : Nat) :
    (s.notReady w code token).out = s.out ++ [.reply 5 [BitVec.ofNat 8 (s.world w).spdm.speaks, 0x7F#8, 0x42#8, 0#8,
      BitVec.ofNat 8 (log2Up (250000 - (s.clock - f.start) / 1000)), BitVec.ofNat 8 code, BitVec.ofNat 8 token, 2#8]] := by
  simp only [notReady, h]
  rfl

/-- RESPOND_IF_READY carries the deferred request out once no activation runs (R62). -/
theorem doRespond_ready {s : State} {w token code : Nat} {i : Instr} (h : (s.world w).spdm.deferred = some (token, i))
    (hcode : deferredCode i = some code) (hact : s.activating = false) :
    s.doRespond w token code = (s.modSpdm w fun x => { x with deferred := none }).carryOut i := by
  simp [doRespond, h, hcode, hact]

theorem doRespond_none {s : State} {w : Nat} (h : (s.world w).spdm.deferred = none) (token code : Nat) :
    s.doRespond w token code = s.unexpectedRequest w := by
  simp only [doRespond, h]

theorem out_unsupportedRequest (s : State) (w : Nat) (code : BitVec 8) : (s.unsupportedRequest w code.toNat).out =
    s.out ++ [.reply 5 [BitVec.ofNat 8 (s.world w).spdm.speaks, 0x7F#8, 0x07#8, code]] := by
  have hcode : BitVec.ofNat 8 code.toNat = code := by simp
  unfold unsupportedRequest refuse spdmError
  rw [send_out, hcode]
  rfl

/-! Sessions -/

theorem sessions_modSession (s : State) (w sess : Nat) (f : Session → Session) :
    ((s.modSession w sess f).world w).spdm.sessions = (s.world w).spdm.sessions.map fun y => if y.id = sess then f y else y := by
  unfold modSession
  rw [spdm_modSpdm]

/-- A session changed so that it keeps its number has the property that the change gives it. -/
theorem of_mem_modSession {s : State} {w sess : Nat} {f : Session → Session} {p : Session → Prop} (hf : ∀ x, x.id = sess → p (f x))
    {y : Session} (hy : y ∈ ((s.modSession w sess f).world w).spdm.sessions) (hid : y.id = sess) : p y := by
  rw [sessions_modSession] at hy
  obtain ⟨x, -, rfl⟩ := List.mem_map.1 hy
  by_cases hx : x.id = sess
  · rw [if_pos hx]
    exact hf x hx
  · rw [if_neg hx] at hid
    exact absurd hid hx

theorem doEndSession_unknown {s : State} {w sess : Nat} (h : s.session? w sess = none) : s.doEndSession w sess = s.invalidSession w := by
  simp only [doEndSession, h]

/-- A session ends without more where it has not locked the interface (R55, R59). -/
theorem doEndSession_ends {s : State} {w sess : Nat} {x : Session} (h : s.session? w sess = some x)
    (hlock : (s.world w).lockSession ≠ sess) : s.doEndSession w sess =
      (s.modSpdm w fun x => { x with sessions := x.sessions.filter fun y => y.id != sess }).answer [] := by
  have hlock' : ((s.modSpdm w fun x => { x with sessions := x.sessions.filter fun y => y.id != sess }).world w).lockSession ≠ sess := by
    unfold modSpdm
    rw [world_modWorld]
    exact hlock
  simp only [doEndSession, h, if_neg hlock']

end State

/-! The operations -/

section
variable (s : State) (w : Nat)

theorem exec_getVersion : exec (.getVersion w) s = .next ((s.modSpdm w fun x => { x with
    version := true, speaks := 0x13, capabilities := false, algorithms := none, transcript := some s.activations }).answer
      [0x12#8, 0x13#8]) := rfl
theorem exec_getCapabilities {v : BitVec 8} (h : v = 0x12#8 ∨ v = 0x13#8) : exec (.getCapabilities ⟨w, v⟩) s =
    .next ((s.modSpdm w fun x => { x with capabilities := true, speaks := v.toNat }).answer (leBytes 4 4096 ++ leBytes 4 4096)) :=
  if_pos (by simpa using h)
theorem exec_getCapabilities_mismatch {v : BitVec 8} (h2 : v ≠ 0x12#8) (h3 : v ≠ 0x13#8) :
    exec (.getCapabilities ⟨w, v⟩) s = .next (s.versionMismatch w) := if_neg (by simp [h2, h3])
theorem exec_negotiateAlgorithms (ext : Bool) : exec (.negotiateAlgorithms w ext) s =
    .next ((s.modSpdm w fun x => { x with algorithms := some (fixedAlgorithms ext) }).answer (fixedAlgorithms ext).bytes) := rfl

/-- The requests that an activation defers, with their codes. -/
theorem exec_deferred {i : Instr} {code : BitVec 8} (h : (i, code) ∈ [(Instr.getDigests w, 0x81#8), (.getCertificate w 0 0 0, 0x82#8),
      (.challenge w 0, 0x83#8), (.getMeasurements w 1 false, 0xE0#8), (.getMeasurements w 1 true, 0xE0#8), (.keyExchange w 0, 0xE4#8)]) :
    exec i s = .next (s.orDefer w i) ∧ State.deferredCode i = some code.toNat := by
  simp only [List.mem_cons, Prod.mk.injEq, List.not_mem_nil, or_false] at h
  rcases h with ⟨rfl, rfl⟩ | ⟨rfl, rfl⟩ | ⟨rfl, rfl⟩ | ⟨rfl, rfl⟩ | ⟨rfl, rfl⟩ | ⟨rfl, rfl⟩ <;> exact ⟨rfl, rfl⟩

section
variable {s w} (h : s.activating = false)
include h

theorem exec_getDigests_idle : exec (.getDigests w) s = .next (s.answer s.chainDigest) := congrArg _ (State.orDefer_idle h w _)
theorem exec_getCertificate_idle (slot off len : Nat) : exec (.getCertificate w slot off len) s =
    .next (s.doCertificate w slot off len) := congrArg _ (State.orDefer_idle h w _)
theorem exec_challenge_idle (slot : Nat) : exec (.challenge w slot) s = .next (s.doChallenge w slot) :=
  congrArg _ (State.orDefer_idle h w _)
theorem exec_getMeasurements_idle (idx : Nat) (sg : Bool) : exec (.getMeasurements w idx sg) s = .next (s.doMeasurements w idx sg) :=
  congrArg _ (State.orDefer_idle h w _)
theorem exec_keyExchange_idle (slot : Nat) : exec (.keyExchange w slot) s = .next (s.doKeyExchange w slot) :=
  congrArg _ (State.orDefer_idle h w _)

end

theorem exec_respondIfReady (token : Nat) (code : BitVec 8) :
    exec (.respondIfReady w token code) s = .next (s.doRespond w token code.toNat) := rfl
theorem exec_endSession (sess : Nat) : exec (.endSession w sess) s = .next (s.doEndSession w sess) := rfl
theorem exec_spdmUnsupportedRequest {code : BitVec 8} (h : code ≠ 0xFE#8) :
    exec (.spdmUnsupportedRequest w code) s = .next (s.unsupportedRequest w code.toNat) := if_neg h

variable {s w} {sess : Nat}

theorem exec_finish {x : Session} (h : s.session? w sess = some x) : exec (.finish w sess) s =
    .next ((s.modSession w sess fun y => { y with established := true }).answer []) := by
  rw [show exec (.finish w sess) s = execFinish w sess s from rfl, execFinish, h]
theorem exec_finish_unknown (h : s.session? w sess = none) : exec (.finish w sess) s = .next (s.invalidSession w) := by
  rw [show exec (.finish w sess) s = execFinish w sess s from rfl, execFinish, h]
theorem exec_keyUpdate (h : s.inSession w sess = true) : exec (.keyUpdate w sess) s = .next ((s.modSession w sess fun y =>
    { y with updates := y.updates + 1, secret := Config.sessionSecret y.secret (y.updates + 1) }).answer []) := if_pos h

end

/-- Settles O42: each clause is the lemma above about the request in the state that it names. -/
theorem spdmAnswers : Obligations.SpdmAnswers := by
  unfold Obligations.SpdmAnswers
  refine ⟨fun s w => ⟨_, exec_getVersion s w, rfl, ?version⟩, fun s w v hv => ⟨_, exec_getCapabilities s w hv, rfl, ?speaks⟩,
    fun s w v => exec_getCapabilities_mismatch s w, fun s w ext => ⟨_, exec_negotiateAlgorithms s w ext, ?ext, ?algorithms, rfl⟩,
    fun s w h => exec_getDigests_idle h, fun s w off len h => exec_getCertificate_idle h 0 off len,
    fun s w slot off len h hslot hext => ⟨?certificateSlot, ?challengeSlot, ?exchangeSlot⟩,
    fun s w slot h hext => ⟨?challengeNoExt, ?exchangeNoExt, ?measurementNoExt⟩, fun s w h hext => ?challenge,
    fun s w idx sg h hext hidx => ?badIndex, fun s w idx h h1 h8 => ?unsigned, fun s w idx n h hext hn h1 h8 => ?signed,
    fun s w => rfl, fun s w h hext => ⟨fun hfull => ?exchangeFull, fun hnone => ?exchange⟩,
    fun s w i code f hi hfw hop => ?deferred, fun s w token i code hdef hcode h => ?respond, fun s w token code hdef => ?respondNone,
    fun s w sess x hx => ⟨_, exec_finish hx, rfl, fun y hy => ?established⟩,
    fun s w sess h => ⟨_, exec_keyUpdate h, rfl, State.sessions_modSession _ _ _ _⟩, fun s w sess x hx hlock => ?endSession,
    fun s w sess h => ⟨exec_finish_unknown h, ?endUnknown⟩, fun s w code hcode => ?unsupported⟩
  case version => rw [world_answer, spdm_modSpdm]
  case speaks => rw [world_answer, spdm_modSpdm]
  case ext => rw [world_answer, spdm_modSpdm, Spdm.ext_fixedAlgorithms]
  case algorithms => rw [world_answer, spdm_modSpdm]
  case certificateSlot =>
    rw [exec_getCertificate_idle h, State.doCertificate_badSlot hslot]
    rfl
  case challengeSlot =>
    rw [exec_challenge_idle h, State.doChallenge_badSlot hext hslot]
    rfl
  case exchangeSlot =>
    rw [exec_keyExchange_idle h, State.doKeyExchange_badSlot hext hslot]
    rfl
  case challengeNoExt =>
    rw [exec_challenge_idle h, State.doChallenge_noExt hext]
    rfl
  case exchangeNoExt =>
    rw [exec_keyExchange_idle h, State.doKeyExchange_noExt hext]
    rfl
  case measurementNoExt =>
    rw [exec_getMeasurements_idle h, State.doMeasurements_noExt hext]
    rfl
  case challenge =>
    rw [exec_challenge_idle h, State.doChallenge_slotZero hext]
    rfl
  case badIndex =>
    rw [exec_getMeasurements_idle h, State.doMeasurements_badIndex hext hidx]
    rfl
  case unsigned =>
    refine ⟨_, (exec_getMeasurements_idle h ..).trans (congrArg _ (State.doMeasurements_unsigned h1 h8)), rfl, ?_⟩
    rw [world_answer, spdm_modSpdm]
  case signed =>
    refine ⟨_, (exec_getMeasurements_idle h ..).trans (congrArg _ (State.doMeasurements_signed hext hn h1 h8)), rfl, ?_⟩
    rw [world_answer, spdm_modSpdm]
  case exchangeFull =>
    rw [exec_keyExchange_idle h, State.doKeyExchange_full hext hfull]
    rfl
  case exchange =>
    refine ⟨_, (exec_keyExchange_idle h 0).trans (congrArg _ (State.doKeyExchange_first hext hnone)), ?_, rfl⟩
    rw [world_answer, spdm_modSpdm, show (s.drawKey.2.world w).spdm.sessions = [] from hnone, List.nil_append]
  case deferred =>
    obtain ⟨hexec, hcode⟩ := exec_deferred s w hi
    refine ⟨_, hexec.trans (congrArg _ (State.orDefer_activating (State.activating_of_activate hfw hop) hcode w)), ?_, fun he => ?_, ?_⟩
    · rw [world_notReady, State.spdm_deferring]
    · rw [world_notReady, State.spdm_deferring, he]
      rfl
    · rw [State.out_notReady (s := s.deferring w code.toNat i) hfw, State.spdm_deferring, show BitVec.ofNat 8 code.toNat = code by simp]
      rfl
  case respond => rw [exec_respondIfReady, State.doRespond_ready hdef hcode h]
  case respondNone =>
    rw [exec_respondIfReady, State.doRespond_none hdef]
    rfl
  case established => exact State.of_mem_modSession (p := fun y => y.established = true) (fun _ _ => rfl) hy
  case endSession =>
    refine ⟨_, (exec_endSession s w sess).trans (congrArg _ (State.doEndSession_ends hx hlock)), rfl, fun y hy => ?_⟩
    rw [world_answer, spdm_modSpdm] at hy
    exact bne_iff_ne.1 (List.mem_filter.1 hy).2
  case endUnknown =>
    rw [exec_endSession, State.doEndSession_unknown h]
    rfl
  case unsupported => exact ⟨_, exec_spdmUnsupportedRequest s w hcode, State.out_unsupportedRequest s w code⟩

end Sys2Proof.Machine
end

section
/-! The device interface of a world (R59), the keying of bounce channels (R359) and of IDE streams (R111). -/

namespace Sys2Proof.Machine

namespace State

section
variable {s : State} {w sess : Nat}

/-- A TDISP message outside an established session receives InvalidSession (R55, R59). -/
theorem tdisp_noSession (h : s.inSession w sess = false) (k : State → State) : s.tdisp w sess k = s.invalidSession w :=
  if_neg (Bool.eq_false_iff.1 h)

theorem tdisp_inSession (h : s.inSession w sess = true) (k : State → State) : s.tdisp w sess k = k s := if_pos h

/-! LOCK -/

/-- The world as a lock begins: locked by the session, measurement 8 that of the selected program (R57, R59). -/
def locking (s : State) (w sess : Nat) : State :=
  s.modWorld w fun x => { x with tdi := .locked, lockSession := sess, progDigest := s.lockDigest w }

/-- Measurement 7 is of the slice and of the world's place on it, which no lock changes (R57). -/
theorem measurements_locking (s : State) (w sess : Nat) : (s.locking w sess).measurements w = s.measurement7 w ++ [s.lockDigest w] := by
  unfold measurements measurement7 locking
  rw [world_modWorld]
  rfl

theorem bytesOf_locking (s : State) (w sess : Nat) (sp : Space) : (s.locking w sess).bytesOf sp = s.bytesOf sp :=
  bytesOf_modWorld _ _ _ _ rfl rfl

/-- An unlocked, ATTACHED world with EN = 0 is locked, and its measurements are frozen (R59). -/
theorem doLock_locks (hw : w ≠ 0) (htdi : (s.world w).tdi = .unlocked) (hst : (s.world w).st = .attached) (hen : (s.world w).en = false) :
    s.doLock w sess = ((s.locking w sess).modWorld w fun x => { x with measured := s.measurement7 w ++ [s.lockDigest w] }).answer [] := by
  rw [← measurements_locking s w sess]
  unfold doLock
  exact if_pos (by simp [hw, htdi, hst, hen])

theorem doLock_refused (h : (s.world w).tdi ≠ .unlocked ∨ (s.world w).st ≠ .attached ∨ (s.world w).en = true) :
    s.doLock w sess = s.tdispError := by
  unfold doLock
  refine if_neg ?_
  rcases h with h | h | h <;> simp [h]

/-- A lock measures the default program where no custom one is selected (R57). -/
theorem lockDigest_default (h : (s.world w).cprog.getLsbD 0 = false) : s.lockDigest w = s.defaultDigest := by
  have hworld : ((s.readContext w).world w).cprog = (s.world w).cprog := by
    unfold readContext
    rw [world_modWorld]
    rfl
  have hsel : ((s.readContext w).selectedProg w).1 = .ok none := by
    unfold selectedProg
    dsimp only
    rw [hworld, h]
    rfl
  simp only [lockDigest, hsel]

/-! START, STOP and the report -/

theorem doStart_locked (h : (s.world w).tdi = .locked) : s.doStart w = (s.modWorld w fun x => { x with tdi := .run }).answer [] := if_pos h
theorem doStart_refused (h : (s.world w).tdi ≠ .locked) : s.doStart w = s.tdispError := if_neg h

theorem doStop_unlocked (h : (s.world w).tdi = .unlocked) : s.doStop w = s.tdispError := if_pos h

/-- The interface is unlocked, the world's work has ended, and a new key is drawn; the region is not fresh yet (R59). -/
def interfaceStopped (s : State) (w : Nat) : State := ((s.modWorld w fun x => { x with tdi := .unlocked }).dropWorld w).drawKey.2

theorem doStop_stops (htdi : (s.world w).tdi ≠ .unlocked) (hst : (s.world w).st ≠ .free) : s.doStop w =
    let u := s.interfaceStopped w
    ((u.freshen (regionRange (u.world w)).1 (regionRange (u.world w)).2).modWorld w fun x => { x with key := some u.keys }).answer [] := by
  have hst' : ((s.modWorld w fun x => { x with tdi := .unlocked }).world w).st ≠ .free := by
    rw [world_modWorld]
    exact hst
  unfold doStop
  exact (if_neg htdi).trans (if_neg hst')

theorem doReport_bound (h : (s.world w).tdi = .locked ∨ (s.world w).tdi = .run) : s.doReport w =
    s.answer (leBytes 8 (0x20000 + 0x100 * w) ++ leBytes 4 w ++ leBytes 4 (s.nodeOf w)) :=
  if_pos (by simpa using h)

/-! Bounce channels -/

section
variable {ch : Nat} (h : s.inSession w sess = true)
include h

theorem doChkey_badChannel (hch : 3 < ch) : s.doChkey w sess ch = s.invalidRequest w := by
  unfold doChkey
  dsimp only
  rw [if_neg (by simp [h]), if_pos hch]

theorem doChstatus_badChannel (hch : 3 < ch) : s.doChstatus w sess ch = s.invalidRequest w := by
  unfold doChstatus
  rw [if_neg (by simp [h]), if_pos hch]

variable (hch : ch ≤ 3)
include hch

/-- CHKEY is held while a command of its channel is PENDING (R359). -/
theorem doChkey_held (hpend : s.channelPending w ch = true) (hnew : s.held.contains (.chkey w sess ch) = false) :
    s.doChkey w sess ch = { s with held := s.held ++ [.chkey w sess ch] } := by
  unfold doChkey
  dsimp only
  rw [if_neg (by simp [h]), if_neg (Nat.not_lt.2 hch), if_pos hpend, hnew]
  rfl

/-- Else the channel is LIVE under a new key, with both counters at 0. -/
theorem doChkey_keys (hidle : s.channelPending w ch = false) : s.doChkey w sess ch =
    (({ s with held := s.held.filter (· != .chkey w sess ch) } : State).modChannel w ch fun c => { c with
      st := 1, send := 0, recv := 0, key := Config.channelKey (((s.session? w sess).map (·.secret)).getD 0) ch c.keyCount,
      keyCount := c.keyCount + 1 }).answer [] := by
  unfold doChkey
  dsimp only
  rw [if_neg (by simp [h]), if_neg (Nat.not_lt.2 hch), if_neg (Bool.eq_false_iff.1 hidle)]

theorem doChstatus_answers : s.doChstatus w sess ch = s.answer (leBytes 1 ((s.world w).channels.get {} ch).st ++
    leBytes 8 ((s.world w).channels.get {} ch).send ++ leBytes 8 ((s.world w).channels.get {} ch).recv) := by
  unfold doChstatus
  rw [if_neg (by simp [h]), if_neg (Nat.not_lt.2 hch)]

end

theorem channel_modChannel (s : State) (w n : Nat) (f : Channel → Channel) :
    ((s.modChannel w n f).world w).channels.get {} n = f ((s.world w).channels.get {} n) := by
  unfold modChannel
  rw [world_modWorld]
  exact SMap.get_put_self _ _ _ _

end

/-! IDE streams -/

/-- The streams that stand beside the one that an IDE_KM names. -/
def otherStreams (s : State) (stream : Nat) : List (Nat × Nat) := s.ide.filter fun e => e.1 != stream

theorem ne_of_mem_otherStreams {s : State} {stream : Nat} {e : Nat × Nat} (he : e ∈ s.otherStreams stream) : e.1 ≠ stream :=
  bne_iff_ne.1 (List.mem_filter.1 he).2

end State

/-! The operations -/

section
variable (s : State) (w sess : Nat)

theorem exec_lockInterfaceRequest : exec (.lockInterfaceRequest w sess) s = .next (s.tdisp w sess fun s => s.doLock w sess) := rfl
theorem exec_startInterfaceRequest : exec (.startInterfaceRequest w sess) s = .next (s.tdisp w sess fun s => s.doStart w) := rfl
theorem exec_stopInterfaceRequest : exec (.stopInterfaceRequest w sess) s = .next (s.tdisp w sess fun s => s.doStop w) := rfl
theorem exec_getDeviceInterfaceReport : exec (.getDeviceInterfaceReport w sess) s = .next (s.tdisp w sess fun s => s.doReport w) := rfl
theorem exec_chkey (ch : Nat) : exec (.chkey w sess ch) s = .next (s.doChkey w sess ch) := rfl
theorem exec_chstatus (ch : Nat) : exec (.chstatus w sess ch) s = .next (s.doChstatus w sess ch) := rfl

end

/-- In a session of world 0, IDE_KM binds a stream or takes its keys away (R111). -/
theorem exec_ideKm {s : State} {stream : Nat} (hstream : stream ≤ 16) (h : ∃ x ∈ (s.world 0).spdm.sessions, x.established = true)
    (world : Nat) (go : Bool) : exec (.ideKm stream world go) s = .next { s with
      ide := if go then s.otherStreams stream ++ [(stream, if stream = 0 then 0 else world)] else s.otherStreams stream } := by
  have hsession : (s.world 0).spdm.sessions.any (·.established) = true := List.any_eq_true.2 h
  exact (if_neg (by simp [hsession])).trans (if_neg (Nat.not_lt.2 hstream))

/-- Settles O43: each clause is the lemma above about the message, the channel or the stream that it names. -/
theorem tdispAndChannels : Obligations.TdispAndChannels := by
  unfold Obligations.TdispAndChannels
  refine ⟨?noSession, fun s w sess h hw htdi hst hen => ?lock, fun s w => State.lockDigest_default,
    fun s w sess h => ⟨State.tdisp_inSession h _, State.tdisp_inSession h _, State.tdisp_inSession h _⟩,
    fun s w sess h hbad => ?lockRefused, fun s w sess h htdi => ?start, fun s w sess h htdi => ?startRefused,
    fun s w sess h htdi => ?stopRefused, fun s w sess h htdi hst => ?stop, fun s w sess h htdi => ?report,
    fun s w sess ch h hch hidle => ?keys, fun s w sess ch h hch hpend hnew => ?held, fun s w sess ch h hch => ?status,
    fun s w sess ch h hch => ⟨?badKey, ?badStatus⟩, fun s stream world hstream h => ?bind, fun s stream world hstream h => ?unbind⟩
  case noSession =>
    simp only [List.forall_mem_cons, List.not_mem_nil, false_implies, implies_true, and_true]
    refine ⟨?_, ?_, ?_, ?_⟩ <;> intro s w sess h
    · exact (exec_lockInterfaceRequest s w sess).trans (congrArg _ (State.tdisp_noSession h _))
    · exact (exec_startInterfaceRequest s w sess).trans (congrArg _ (State.tdisp_noSession h _))
    · exact (exec_stopInterfaceRequest s w sess).trans (congrArg _ (State.tdisp_noSession h _))
    · exact (exec_getDeviceInterfaceReport s w sess).trans (congrArg _ (State.tdisp_noSession h _))
  case lock =>
    refine ⟨_, ((exec_lockInterfaceRequest s w sess).trans (congrArg _ (State.tdisp_inSession h _))).trans
      (congrArg _ (State.doLock_locks hw htdi hst hen)), ?_⟩
    dsimp only
    rw [world_answer, world_modWorld, State.locking, world_modWorld]
    refine ⟨rfl, rfl, rfl, rfl, sameMemory_of_bytesOf fun sp => ?_⟩
    exact ((bytesOf_send _ _ sp).trans (bytesOf_modWorld _ _ _ _ rfl rfl)).trans (State.bytesOf_locking s w sess sp)
  case lockRefused =>
    rw [exec_lockInterfaceRequest, State.tdisp_inSession h, State.doLock_refused hbad]
    rfl
  case start =>
    refine ⟨_, ((exec_startInterfaceRequest s w sess).trans (congrArg _ (State.tdisp_inSession h _))).trans
      (congrArg _ (State.doStart_locked htdi)), ?_, rfl⟩
    rw [world_answer, world_modWorld]
  case startRefused =>
    rw [exec_startInterfaceRequest, State.tdisp_inSession h, State.doStart_refused htdi]
    rfl
  case stopRefused =>
    rw [exec_stopInterfaceRequest, State.tdisp_inSession h, State.doStop_unlocked htdi]
    rfl
  case stop =>
    refine ⟨s.interfaceStopped w, rfl, ?_⟩
    rw [exec_stopInterfaceRequest, State.tdisp_inSession h, State.doStop_stops htdi hst]
    rfl
  case report =>
    rw [exec_getDeviceInterfaceReport, State.tdisp_inSession h, State.doReport_bound htdi]
    rfl
  case keys =>
    refine ⟨_, (exec_chkey s w sess ch).trans (congrArg _ (State.doChkey_keys h hch hidle)), ?_⟩
    dsimp only
    rw [world_answer, State.channel_modChannel]
    exact ⟨rfl, rfl, rfl, rfl, rfl, rfl⟩
  case held => rw [exec_chkey, State.doChkey_held h hch hpend hnew]
  case status =>
    rw [exec_chstatus, State.doChstatus_answers h hch]
    rfl
  case badKey =>
    rw [exec_chkey, State.doChkey_badChannel h hch]
    rfl
  case badStatus =>
    rw [exec_chstatus, State.doChstatus_badChannel h hch]
    rfl
  case bind =>
    refine ⟨_, exec_ideKm hstream h world true, List.mem_append_right _ (List.mem_singleton.2 rfl), fun e he hid => ?_⟩
    rcases List.mem_append.1 he with he | he
    · exact absurd hid (State.ne_of_mem_otherStreams he)
    · rw [List.mem_singleton.1 he]
  case unbind => exact ⟨_, exec_ideKm hstream h world false, fun e => State.ne_of_mem_otherStreams⟩

end Sys2Proof.Machine
end

section
/-! The integers of a register (R82, R103, R227): what wrapping, saturation and fit deliver. -/

namespace Sys2Proof.Machine

/-- A number of the unsigned range is its own pattern. -/
theorem wrapInt_of_range {w : Nat} {x : Int} (h0 : 0 ≤ x) (h1 : x < ((2 ^ w : Nat) : Int)) : ((wrapInt w x : Nat) : Int) = x :=
  (wrapInt_coe w x).trans (Int.emod_eq_of_lt h0 h1)

/-- Unsigned saturation gives the nearest number from 0 to 2^w - 1. -/
theorem satInt_unsigned (w : Nat) (x : Int) : ((satInt w true x : Nat) : Int) = max 0 (min x ((2 ^ w : Nat) - 1)) := by
  have hpos := Nat.two_pow_pos w
  have hmax : ((2 ^ w - 1 : Nat) : Int) = (2 ^ w : Nat) - 1 := Int.ofNat_sub hpos
  unfold satInt
  rw [if_pos rfl, hmax]
  exact wrapInt_of_range (by omega) (by omega)

/-- Signed saturation gives the pattern of the nearest number from -2^(w-1) to 2^(w-1) - 1. -/
theorem sext_satInt (w : Nat) (x : Int) (h : 0 < w) :
    sext w (satInt w false x) = max (-((2 ^ (w - 1) : Nat) : Int)) (min x ((2 ^ (w - 1) : Nat) - 1)) := by
  have hpos := Nat.two_pow_pos (w - 1)
  unfold satInt
  exact sext_wrapInt w _ h (by omega) (by omega)

theorem fit_wraps {w : Nat} {m : BitVec 8} (h : m.getLsbD 1 = false) (x : Int) : fit w m x = wrapInt w x := by
  unfold fit
  rw [h]
  exact if_neg Bool.false_ne_true

theorem fit_saturates {w : Nat} {m : BitVec 8} (h : m.getLsbD 1 = true) (x : Int) : fit w m x = satInt w (m.getLsbD 0) x := by
  unfold fit
  exact if_pos h

/-- Settles O9: each clause is the lemma on wrapping, sign extension or saturation, its powers of two read as integers. -/
theorem integerWrap : Obligations.IntegerWrap := by
  unfold Obligations.IntegerWrap
  have hpow : ∀ w : Nat, ((2 ^ w : Nat) : Int) = 2 ^ w := fun w => Int.natCast_pow 2 w
  refine ⟨fun w x => ⟨wrapInt_lt w x, ?wrap⟩, fun w x h => ?sext, fun w m x hsat => fit_wraps hsat x,
    fun w m x _ hsat hu => ?unsigned, fun w m x h hsat hu => ?signed⟩
  case wrap => rw [wrapInt_coe, hpow, Int.emod_emod]
  case sext =>
    obtain ⟨hlo, hhi⟩ := sext_range w x h
    have hmod := sext_emod w x
    rw [hpow] at hlo hhi hmod
    exact ⟨hlo, hhi, hmod⟩
  case unsigned => rw [fit_saturates hsat, hu, satInt_unsigned, hpow]
  case signed => rw [fit_saturates hsat, hu, sext_satInt w x h, hpow]

end Sys2Proof.Machine
end

section
/-! The frame of a step that retires (R76, R155, R161, R205): what a lane, a control program or a sequencer leaves unchanged. -/

namespace Sys2Proof.Machine

/-! One lane -/

/-- Of what OnlyLanes leaves open, at most the lane lit of team t differs. -/
structure OnlyLane (t lit : Nat) (s u : State) : Prop where
  team : OnlyLanes t s u
  others : ∀ j, j ≠ lit → u.lane t j = s.lane t j

theorem OnlyLane.refl (t lit : Nat) (s : State) : OnlyLane t lit s s := ⟨.refl t s, fun _ _ => rfl⟩

theorem OnlyLane.trans {t lit : Nat} {s u v : State} (h : OnlyLane t lit s u) (k : OnlyLane t lit u v) : OnlyLane t lit s v :=
  ⟨h.team.trans k.team, fun j hj => (k.others j hj).trans (h.others j hj)⟩

theorem OnlyLane.modLane (t lit : Nat) (s : State) (f : Lane → Lane) : OnlyLane t lit s (s.modLane t lit f) :=
  ⟨.modLane s t lit f, fun j hj => State.lane_modLane_ne s t lit j f hj⟩

theorem OnlyLane.setGangs (t lit : Nat) (s : State) (G : SMap Gang) : OnlyLane t lit s { s with gangs := G } :=
  ⟨.setGangs s t G, fun _ _ => rfl⟩

theorem OnlyLane.meter (t lit : Nat) (s : State) (w k n : Nat) : OnlyLane t lit s (s.meter w k n) :=
  ⟨.meter t s w k n, fun _ _ => rfl⟩

/-- A lane that has not exited stands in its team. -/
theorem lane_in_team {s : State} {t lit : Nat} (h : (s.lane t lit).st ≠ .exited) : lit < (s.team t).lanes.length := by
  refine Nat.lt_of_not_le fun hout => h ?_
  rw [State.lane, List.getD_eq_getElem?_getD, List.getElem?_eq_none hout, Option.getD_none]

/-- A lane after its step has retired with r: a result stands as in a computing step, a transfer only counts (R161). -/
def Lane.retired (l : Lane) (v : Env) (r : Res) : Lane :=
  match r with
  | .ok d d' fl fl' => l.computed v (d, fl) (d', fl')
  | .jump _ => { l with dist := l.dist + 1, skipWatch := false, stepReq := false }
  | _ => l

theorem Lane.retired_st (l : Lane) (v : Env) (r : Res) : (l.retired v r).st = l.st := by
  cases r with
  | ok d d' fl fl' => exact l.computed_st v _ _
  | _ => rfl

/-- The retirement of a lane's step puts the retired lane in its place, and changes nothing but the record of bad registers. -/
theorem retire_eq_setTeam (s : State) (t lit : Nat) (v : Env) {r : Res} (hp : v.prot = protOf s (.lane t lit))
    (hr : r.retires = true) :
    ∃ B, retire s (.lane t lit) v.e v.f r =
      s.setTeam t { s.team t with bad := B, lanes := (s.team t).lanes.set lit ((s.lane t lit).retired v r) } := by
  cases r with
  | ok d d' fl fl' => exact retire_lane s t lit v (d, fl) (d', fl') hp
  | jump pc => exact ⟨(s.team t).bad, rfl⟩
  | fault y => cases hr
  | trouble e flags va => cases hr
  | wait => cases hr

/-- The state in which a lane's step has retired and is metered, before the lane goes on. -/
def laneRetired (o : Op) (t lit : Nat) (cl : Clause) (s : State) (r : Res) : State :=
  countIssue (retire s (.lane t lit) o.e (envOf o s (.lane t lit) cl).f r) [.lane t lit]

theorem laneRetired_eq (o : Op) (t lit : Nat) (cl : Clause) (s : State) {r : Res} (hr : r.retires = true) :
    ∃ B w, laneRetired o t lit cl s r =
      (s.setTeam t { s.team t with
        bad := B, lanes := (s.team t).lanes.set lit ((s.lane t lit).retired (envOf o s (.lane t lit) cl) r) }).meter w 0 1 := by
  obtain ⟨B, hB⟩ := retire_eq_setTeam s t lit (envOf o s (.lane t lit) cl) rfl hr
  exact ⟨B, _, congrArg (countIssue · [.lane t lit]) hB⟩

/-- A lane of a team just put in place. -/
theorem lane_setTeam (s : State) (t j : Nat) (x : Team) : (s.setTeam t x).lane t j = x.lanes.getD j { st := .exited } := by
  rw [State.lane, State.team_setTeam]

theorem laneRetired_onlyLane (o : Op) (t lit : Nat) (cl : Clause) (s : State) {r : Res} (hr : r.retires = true) :
    OnlyLane t lit s (laneRetired o t lit cl s r) := by
  obtain ⟨B, w, h⟩ := laneRetired_eq o t lit cl s hr
  rw [h]
  refine .trans ⟨.of_setTeam s t B _, fun j hj => ?_⟩ (.meter t lit _ w 0 1)
  rw [lane_setTeam, List.getD_eq_getElem?_getD, List.getElem?_set_ne (Ne.symm hj), State.lane, List.getD_eq_getElem?_getD]

theorem laneRetired_gang (o : Op) (t lit : Nat) (cl : Clause) (s : State) {r : Res} (hr : r.retires = true) (g : Nat) :
    (laneRetired o t lit cl s r).gang g = s.gang g := by
  obtain ⟨B, w, h⟩ := laneRetired_eq o t lit cl s hr
  rw [h]
  rfl

theorem laneRetired_lane (o : Op) (t lit : Nat) (cl : Clause) (s : State) {r : Res} (hr : r.retires = true)
    (hin : lit < (s.team t).lanes.length) :
    (laneRetired o t lit cl s r).lane t lit = (s.lane t lit).retired (envOf o s (.lane t lit) cl) r := by
  obtain ⟨B, w, h⟩ := laneRetired_eq o t lit cl s hr
  calc (laneRetired o t lit cl s r).lane t lit
      = ((s.team t).lanes.set lit ((s.lane t lit).retired (envOf o s (.lane t lit) cl) r)).getD lit { st := .exited } := by
        rw [h]
        exact lane_setTeam s t lit _
    _ = (s.lane t lit).retired (envOf o s (.lane t lit) cl) r := by rw [getD_set _ _ _ _ _ hin, if_pos rfl]

/-- A lane of a gang as advance moves it on (R155, R205, R208, R445). -/
def Lane.moveOn (l : Lane) (a : Agent) (cl : Clause) (js : List (Agent × Nat)) (now ready : Nat) : Lane :=
  if cl.over then
    { l with pc := targetOf js a (cl.at cl.pos), inClause := false, rep := none, passJ := false, readyAt := ready, since := now,
             displaced := false, issued := false,
             primer := if js.any fun j => j.1 == a && l.primer == some j.2 then none else l.primer }
  else { l with pc := cl.at cl.pos, rep := cl.rep, displaced := l.displaced && cl.rep.any (·.idx != 0), issued := false }

section
variable {s : State} {g lit : Nat} {x : Gang} (hcur : s.cur = some (.gang g)) (hgang : s.gang g = some x) (hlanes : x.lanes = [lit])
include hcur hgang hlanes

/-- A gang of one lane holds while its lane could not issue. -/
theorem advance_token (hst : (s.lane x.team lit).st = .token) (cl : Clause) (js : List (Agent × Nat)) : advance s cl js = s := by
  unfold advance
  simp [hcur, hgang, hlanes, hst]

/-- Otherwise its lane moves on, and the table of gangs is brought up to date. -/
theorem advance_moves (hst : (s.lane x.team lit).st ≠ .token) (cl : Clause) (js : List (Agent × Nat)) :
    ∃ ready G, advance s cl js =
      { s.modLane x.team lit (fun l => l.moveOn (.lane x.team lit) cl js s.cycle ready) with gangs := G } := by
  refine ⟨if x.yields || cl.yield then s.cycle + 1 else x.age, ?_⟩
  unfold advance
  simp only [hcur, hgang, hlanes, List.any_cons, List.any_nil, Bool.or_false, beq_iff_eq, hst, if_false, List.foldl_cons,
    List.foldl_nil]
  by_cases hover : cl.over = true
  · simp only [Lane.moveOn, hover, if_true]
    exact ⟨_, rfl⟩
  · simp only [Lane.moveOn, hover]
    exact ⟨_, rfl⟩

theorem advance_onlyLane (cl : Clause) (js : List (Agent × Nat)) : OnlyLane x.team lit s (advance s cl js) := by
  by_cases hst : (s.lane x.team lit).st = .token
  · rw [advance_token hcur hgang hlanes hst]
    exact .refl _ _ _
  · obtain ⟨ready, G, h⟩ := advance_moves hcur hgang hlanes hst cl js
    rw [h]
    exact .trans (.modLane _ _ _ _) (.setGangs _ _ _ G)

theorem advance_lane (hst : (s.lane x.team lit).st = .ready) (cl : Clause) (js : List (Agent × Nat)) :
    ∃ ready, (advance s cl js).lane x.team lit = (s.lane x.team lit).moveOn (.lane x.team lit) cl js s.cycle ready := by
  obtain ⟨ready, G, h⟩ := advance_moves hcur hgang hlanes (by rw [hst]; decide) cl js
  refine ⟨ready, (congrArg (State.lane · x.team lit) h).trans ?_⟩
  exact State.lane_modLane_self s x.team lit (fun l => l.moveOn (.lane x.team lit) cl js s.cycle ready)
    (lane_in_team (by rw [hst]; decide))

end

/-- The transfer that a result asks for. -/
def Res.transfers (a : Agent) (r : Res) : List (Agent × Nat) :=
  match r with
  | .jump pc => [(a, pc)]
  | _ => []

theorem stepDone_lane_eq (o : Op) (t lit : Nat) (cl : Clause) (s : State) (r : Res) (opens : Option Rep) :
    stepDone o (.lane t lit) cl s r opens =
      advance (laneRetired o t lit cl s r) (cl.advance o.len opens) (r.transfers (.lane t lit)) := by
  cases r <;> rfl

section
variable {o : Op} {lit g : Nat} {x : Gang} {cl : Clause} {s : State} {r : Res} (hr : r.retires = true)
  (hcur : s.cur = some (.gang g)) (hgang : s.gang g = some x) (hlanes : x.lanes = [lit])
include hr hcur hgang hlanes

/-- A step of one lane that retires changes that lane alone. -/
theorem stepDone_onlyLane (opens : Option Rep) : OnlyLane x.team lit s (stepDone o (.lane x.team lit) cl s r opens) := by
  have hret := laneRetired_onlyLane o x.team lit cl s hr
  rw [stepDone_lane_eq]
  exact hret.trans (advance_onlyLane (hret.team.cur.trans hcur) ((laneRetired_gang o x.team lit cl s hr g).trans hgang)
    hlanes _ _)

/-- The lane itself retires and moves on. -/
theorem stepDone_lane (hst : (s.lane x.team lit).st = .ready) (opens : Option Rep) :
    ∃ now ready, (stepDone o (.lane x.team lit) cl s r opens).lane x.team lit =
      ((s.lane x.team lit).retired (envOf o s (.lane x.team lit) cl) r).moveOn (.lane x.team lit) (cl.advance o.len opens)
        (r.transfers (.lane x.team lit)) now ready := by
  have hret := laneRetired_onlyLane o x.team lit cl s hr
  have hlane := laneRetired_lane o x.team lit cl s hr (lane_in_team (by rw [hst]; decide))
  obtain ⟨ready, h⟩ := advance_lane (hret.team.cur.trans hcur)
    ((laneRetired_gang o x.team lit cl s hr g).trans hgang) hlanes
    (by rw [hlane, Lane.retired_st, hst]) (cl.advance o.len opens) (r.transfers (.lane x.team lit))
  exact ⟨_, ready, by rw [stepDone_lane_eq, h, hlane]⟩

end

/-- At the end of a clause a transfer puts the lane at its target, outside a clause, with its registers. -/
theorem Lane.moveOn_jump {cl : Clause} (hover : cl.over = true) (l : Lane) (v : Env) (a : Agent) (pc now ready : Nat) :
    let m := (l.retired v (.jump pc)).moveOn a cl ((Res.jump pc).transfers a) now ready
    m.pc = pc ∧ m.inClause = false ∧ m.dist = l.dist + 1 ∧ m.regs = l.regs := by
  unfold Lane.moveOn
  rw [if_pos hover]
  refine ⟨?_, rfl, rfl, rfl⟩
  simp [targetOf, Res.transfers]

/-- Within the clause it goes to the next word. -/
theorem Lane.moveOn_within {cl : Clause} (hover : cl.over = false) (l : Lane) (a : Agent) (js : List (Agent × Nat))
    (now ready : Nat) : (l.moveOn a cl js now ready).pc = cl.at cl.pos := by
  unfold Lane.moveOn
  rw [hover]
  rfl

/-! A control program -/

/-- Every byte, team, launch, gang, copy and every other world stands in u as in s. -/
structure OnlyProgram (w : Nat) (s u : State) : Prop where
  bytes : ∀ sp, u.bytesOf sp = s.bytesOf sp
  teams : u.teams = s.teams
  launches : u.launches = s.launches
  gangs : u.gangs = s.gangs
  copies : u.copies = s.copies
  worlds : ∀ v, v ≠ w → u.world v = s.world v

theorem OnlyProgram.refl (w : Nat) (s : State) : OnlyProgram w s s := ⟨fun _ => rfl, rfl, rfl, rfl, rfl, fun _ _ => rfl⟩

theorem OnlyProgram.trans {w : Nat} {s u v : State} (h : OnlyProgram w s u) (k : OnlyProgram w u v) : OnlyProgram w s v where
  bytes sp := (k.bytes sp).trans (h.bytes sp)
  teams := k.teams.trans h.teams
  launches := k.launches.trans h.launches
  gangs := k.gangs.trans h.gangs
  copies := k.copies.trans h.copies
  worlds j hj := (k.worlds j hj).trans (h.worlds j hj)

/-- A change of the program that leaves the bytes it holds. -/
theorem OnlyProgram.modProg {s : State} {w : Nat} {f : Prog → Prog} (h : (f (s.prog w)).priv = (s.prog w).priv) :
    OnlyProgram w s (s.modProg w f) :=
  ⟨fun sp => State.bytesOf_setWorld s w _ sp rfl h, rfl, rfl, rfl, rfl, fun v hv => State.world_setWorld_ne s w v _ hv⟩

theorem OnlyProgram.modSlice (w : Nat) (s : State) (c : Nat) (f : Slice → Slice) : OnlyProgram w s (s.modSlice c f) :=
  ⟨fun sp => by cases sp <;> rfl, rfl, rfl, rfl, rfl, fun _ _ => rfl⟩

theorem OnlyProgram.pushOnce (w : Nat) (s : State) (i : Instr) : OnlyProgram w s (s.pushOnce i) := by
  obtain ⟨d, h⟩ := pushOnce_due s i
  rw [h]
  exact ⟨fun sp => by cases sp <;> rfl, rfl, rfl, rfl, rfl, fun _ _ => rfl⟩

theorem OnlyProgram.countTurn (s : State) (w : Nat) : OnlyProgram w s (countTurn s (.prog w)) := by
  unfold Machine.countTurn
  dsimp only
  split
  · exact .trans (.modSlice w s _ _) (.pushOnce w _ _)
  · exact .modSlice w s _ _

theorem OnlyProgram.retire (s : State) (w : Nat) (e : Entry) (f : F2) (r : Res) : OnlyProgram w s (retire s (.prog w) e f r) := by
  cases r with
  | ok d d' fl fl' => exact .trans (.modProg rfl) (.countTurn _ w)
  | jump pc => exact .trans (.modProg rfl) (.countTurn _ w)
  | fault y => exact .refl w s
  | trouble e flags va => exact .refl w s
  | wait => exact .refl w s

theorem OnlyProgram.advance {s : State} {w : Nat} (hcur : s.cur = some (.prog w)) (cl : Clause) (js : List (Agent × Nat)) :
    OnlyProgram w s (advance s cl js) := by
  unfold Machine.advance
  simp only [hcur]
  split
  · exact .modProg (by split <;> rfl)
  · exact .refl w s

theorem retire_prog_cur (s : State) (w : Nat) (e : Entry) (f : F2) (r : Res) : (retire s (.prog w) e f r).cur = s.cur := by
  have hturn : ∀ u : State, (countTurn u (.prog w)).cur = u.cur := fun u => by
    unfold countTurn
    dsimp only
    split
    · obtain ⟨d, h⟩ := pushOnce_due (u.modSlice (u.world w).ctl fun x => { x with turnCount := x.turnCount + 1 })
        (.turnEnd (u.world w).ctl)
      rw [h]
      rfl
    · rfl
  cases r with
  | ok d d' fl fl' => exact hturn _
  | jump pc => exact hturn _
  | fault y => rfl
  | trouble e flags va => rfl
  | wait => rfl

/-- A program's step changes its own world, the count of its turn and what is due. -/
theorem stepDone_onlyProgram {s : State} {w : Nat} (hcur : s.cur = some (.prog w)) (o : Op) (cl : Clause) (r : Res)
    (opens : Option Rep) : OnlyProgram w s (stepDone o (.prog w) cl s r opens) :=
  .trans (.retire s w _ _ r) (.advance ((retire_prog_cur s w _ _ r).trans hcur) _ _)

/-! A sequencer -/

/-- Every byte, launch, copy, pass, every other team and the lanes of team t stand in u as in s. -/
structure OnlySequencer (t : Nat) (s u : State) : Prop where
  bytes : ∀ sp, u.bytesOf sp = s.bytesOf sp
  launches : u.launches = s.launches
  copies : u.copies = s.copies
  passes : u.passes = s.passes
  others : ∀ v, v ≠ t → u.team v = s.team v
  lanes : (u.team t).lanes = (s.team t).lanes

theorem OnlySequencer.trans {t : Nat} {s u v : State} (h : OnlySequencer t s u) (k : OnlySequencer t u v) : OnlySequencer t s v where
  bytes sp := (k.bytes sp).trans (h.bytes sp)
  launches := k.launches.trans h.launches
  copies := k.copies.trans h.copies
  passes := k.passes.trans h.passes
  others j hj := (k.others j hj).trans (h.others j hj)
  lanes := k.lanes.trans h.lanes

theorem OnlySequencer.modSeq (s : State) (t : Nat) (f : Seq → Seq) : OnlySequencer t s (s.modSeq t f) :=
  ⟨fun sp => State.bytesOf_setTeam s t _ sp rfl rfl, rfl, rfl, rfl, fun v hv => State.team_setTeam_ne s t v _ hv,
    by rw [State.modSeq_eq, State.modTeam_eq, State.team_setTeam]⟩

theorem OnlySequencer.meter (t : Nat) (s : State) (w k n : Nat) : OnlySequencer t s (s.meter w k n) :=
  ⟨State.bytesOf_meter s w k n, rfl, rfl, rfl, fun _ _ => rfl, rfl⟩

theorem seqDone_onlySequencer (o : Op) (t w : Nat) (cl : Clause) (s : State) (r : Res) : OnlySequencer t s (seqDone o t w cl s r) :=
  .trans (.modSeq s t _) (.trans (.meter t _ w 0 1) (.modSeq _ t _))

/-- Settles O4: a lane's step changes that lane alone, which retires and moves on; a program's and a sequencer's step are the
changes of their own parts, one after another. -/
theorem stepFrame : Obligations.StepFrame := by
  unfold Obligations.StepFrame
  refine ⟨?result, ?transfer, ?within, ?program, ?sequencer⟩
  case result =>
    rintro o _ lit cl s d d' fl fl' opens g x hcur hgang rfl hlanes
    have h := stepDone_onlyLane (o := o) (cl := cl) (r := .ok d d' fl fl') rfl hcur hgang hlanes opens
    exact ⟨h.team, h.team.sameMemory, h.others⟩
  case transfer =>
    rintro o _ lit cl s pc g x hcur hgang rfl hlanes - hst hover u
    have h := stepDone_onlyLane (o := o) (cl := cl) (r := .jump pc) rfl hcur hgang hlanes none
    obtain ⟨now, ready, hlane⟩ := stepDone_lane (o := o) (cl := cl) (r := .jump pc) rfl hcur hgang hlanes hst none
    obtain ⟨hpc, hout, hdist, hregs⟩ := Lane.moveOn_jump hover (s.lane x.team lit) (envOf o s (.lane x.team lit) cl)
      (.lane x.team lit) pc now ready
    rw [← hlane] at hpc hout hdist hregs
    exact ⟨h.team, hpc, hout, hdist, hregs, h.others⟩
  case within =>
    rintro o _ lit cl s d d' fl fl' opens g x hcur hgang rfl hlanes - hst hover
    obtain ⟨now, ready, hlane⟩ := stepDone_lane (o := o) (cl := cl) (r := .ok d d' fl fl') rfl hcur hgang hlanes hst opens
    rw [hlane]
    exact Lane.moveOn_within hover _ _ _ now ready
  case program =>
    intro o w cl s r opens hcur u
    obtain ⟨hbytes, hteams, hlaunches, hgangs, hcopies, hworlds⟩ := stepDone_onlyProgram hcur o cl r opens
    exact ⟨sameMemory_of_bytesOf hbytes, hteams, hlaunches, hgangs, hcopies, hworlds⟩
  case sequencer =>
    intro o t w cl s r u
    obtain ⟨hbytes, hlaunches, hcopies, hpasses, hothers, hlanes⟩ := seqDone_onlySequencer o t w cl s r
    exact ⟨sameMemory_of_bytesOf hbytes, hlaunches, hcopies, hpasses, hothers, hlanes⟩

end Sys2Proof.Machine
end

section
/-! The collectives of class 1 (R269 to R273): members, the tree of R99 over integer sums and over no members, lane masks, and
the gang step that each of them takes. -/

namespace Sys2Proof.Machine

/-! The members of a group (R214, R269) -/

theorem Env.mem_group {u v : Env} {E : List Env} : u ∈ v.group E ↔ u ∈ E ∧ u.lit / u.width = v.lit / v.width :=
  List.mem_filter.trans (and_congr_right fun _ => beq_iff_eq)

/-- A member is a lane of the group that the mask of its lowest lane names, with its A. -/
theorem Env.mem_members {v : Env} {E : List Env} {j a : Nat} : (j, a) ∈ v.members E false ↔
    ∃ u ∈ E, u.lit / u.width = v.lit / v.width ∧ bit (v.mask E false) u.i = true ∧ u.i = j ∧ u.a = a := by
  simp only [Env.members, List.mem_map, List.mem_filter, Env.mem_group, Bool.false_eq_true, if_false, Prod.mk.injEq, and_assoc]

/-! The tree of R99 -/

/-- The sum of f over the positions below n, added up from the lowest. -/
def positionSum (f : Nat → Nat) (n : Nat) : Nat := (List.range n).foldl (fun x j => x + f j) 0

theorem positionSum_succ (f : Nat → Nat) (n : Nat) : positionSum f (n + 1) = positionSum f n + f n := by
  unfold positionSum
  rw [List.range_succ, List.foldl_append]
  rfl

/-- A sum over n + k positions is that over the first n and that over the k above them. -/
theorem positionSum_add (f : Nat → Nat) (n k : Nat) : positionSum f (n + k) = positionSum f n + positionSum (fun j => f (n + j)) k := by
  induction k with
  | zero => rfl
  | succ k ih => rw [← Nat.add_assoc, positionSum_succ, positionSum_succ, ih, Nat.add_assoc]

/-- The sum of R271 on an integer TYPE wraps at the width of the TYPE. -/
theorem sieveOp_sum {ty : Nat} (h2 : ty ≠ 2) (h6 : ty ≠ 6) (a b : Nat) :
    sieveOp ty 0 a b = ((a + b) % 2 ^ (if 4 ≤ ty then 64 else 32), 0) := by
  simp [sieveOp, h2, h6]

/-- A join under a wrapping sum adds the sums of its two sides; an absent side counts as zero. -/
theorem sieveJoin_sum {op : Nat → Nat → Nat × FlagSet} {N : Nat} (hop : ∀ a b, (op a b).1 = (a + b) % N) {x y : Sieved} {X Y : Nat}
    (hx : x.1.getD 0 = X % N) (hy : y.1.getD 0 = Y % N) : (sieveJoin op x y).1.getD 0 = (X + Y) % N := by
  obtain ⟨x, fx⟩ := x
  obtain ⟨y, fy⟩ := y
  rw [Nat.add_mod, ← hx, ← hy]
  cases x with
  | none =>
    have hy : y.getD 0 = Y % N := hy
    simp [sieveJoin, hy]
  | some a =>
    cases y with
    | none =>
      have hx : a = X % N := hx
      simp [sieveJoin, hx]
    | some b => exact hop a b

/-- The tree over 2^k positions under a wrapping sum is the exact sum of what stands there, modulo N. -/
theorem sieveTree_sum {op : Nat → Nat → Nat × FlagSet} {N : Nat} (hop : ∀ a b, (op a b).1 = (a + b) % N) {m : Nat → Option Nat}
    (hm : ∀ j, (m j).getD 0 < N) (k lo : Nat) :
    (sieveTree op m k lo).1.getD 0 = positionSum (fun j => (m (lo + j)).getD 0) (2 ^ k) % N := by
  induction k generalizing lo with
  | zero =>
    have hone : positionSum (fun j => (m (lo + j)).getD 0) (2 ^ 0) = (m lo).getD 0 := Nat.zero_add _
    rw [hone, Nat.mod_eq_of_lt (hm lo)]
    rfl
  | succ k ih =>
    have hupper := ih (lo + 2 ^ k)
    simp only [Nat.add_assoc] at hupper
    rw [Nat.pow_succ, Nat.mul_two, positionSum_add]
    exact sieveJoin_sum hop (ih lo) hupper

/-- A tree over positions at which no member stands is absent, and raises no flag. -/
theorem sieveTree_none (op : Nat → Nat → Nat × FlagSet) (k lo : Nat) : sieveTree op (fun _ => none) k lo = (none, 0) := by
  induction k generalizing lo with
  | zero => rfl
  | succ k ih => rw [sieveTree, ih, ih]; rfl

theorem memberValue_nil : memberValue [] = fun _ => none := rfl

theorem collReduce_nil (v : Env) : collReduce v [] = (0, 0) := by
  unfold collReduce
  rw [memberValue_nil, sieveTree_none]
  rfl

/-! Lane masks (R272) -/

/-- The bits of a mask that members are added to, one after another. -/
theorem testBit_foldl_lanes (ms : List (Nat × Nat)) (n j : Nat) :
    (ms.foldl (fun n m => n ||| 2 ^ m.1) n).testBit j = true ↔ n.testBit j = true ∨ ∃ x, (j, x) ∈ ms := by
  induction ms generalizing n with
  | nil => simp
  | cons m ms ih =>
    obtain ⟨i, a⟩ := m
    rw [List.foldl_cons, ih, Nat.testBit_or, Nat.testBit_two_pow, Bool.or_eq_true, decide_eq_true_eq, or_assoc]
    refine or_congr_right ⟨?_, ?_⟩
    · rintro (rfl | ⟨x, hx⟩)
      · exact ⟨a, List.mem_cons_self⟩
      · exact ⟨x, List.mem_cons_of_mem _ hx⟩
    · rintro ⟨x, hx⟩
      rcases List.mem_cons.1 hx with he | hx
      · exact .inl (Prod.mk.inj he).1.symm
      · exact .inr ⟨x, hx⟩

theorem bit_laneMask (ms : List (Nat × Nat)) (j : Nat) : bit (laneMask ms) j = true ↔ ∃ x, (j, x) ∈ ms := by
  rw [bit_eq_testBit, laneMask, testBit_foldl_lanes, Nat.zero_testBit]
  simp

/-! The gang step -/

/-- What a collective delivers in a lane: g of the members and of the lane's own A, and in the shadow of a protected pair g of
the shadow's. -/
def collected (g : Env → List (Nat × Nat) → Nat → Nat × FlagSet) (E : List Env) (v : Env) : (Nat × FlagSet) × (Nat × FlagSet) :=
  (g v (v.members E false) v.a, if v.prot then g v (v.members E true) v.a' else (0, 0))

theorem runCollective_eq (o : Op) (s : State) (g : Env → List (Nat × Nat) → Nat → Nat × FlagSet) :
    runCollective o s g = runLanes o s (pureFn (collected g)) := rfl

/-- A meaning that runs a collective computes from the registers of its gang. -/
theorem combines_of_collective {i : Instr} {g : Env → List (Nat × Nat) → Nat → Nat × FlagSet}
    (he : ∀ s, Machine.exec i s = runCollective (issueOp i) s g) : Combines i (collected g) :=
  combines_of fun s => (he s).trans (runCollective_eq _ s g)

/-- What LANEGET delivers to a lane that names source B: the A of that lane of the group, zero where it has exited (R273). -/
def laneGot (E : List Env) (v : Env) : (Nat × FlagSet) × (Nat × FlagSet) :=
  (((((v.group E).find? fun u => u.i == v.b % v.width).map (·.a)).getD 0, 0),
   ((((v.group E).find? fun u => u.i == v.b' % v.width).map (·.a')).getD 0, 0))

theorem exec_laneget (f : F1) (s : State) :
    Machine.exec (.laneget f) s = runLanes (issueOp (.laneget f)) s (pureFn laneGot) := rfl
theorem exec_lanegetW2 (f : F2) (s : State) :
    Machine.exec (.lanegetW2 f) s = runLanes (issueOp (.lanegetW2 f)) s (pureFn laneGot) := rfl

/-- Settles O17: each instruction runs as a collective of its own function, and the rules on members, sums, empty ranges and
masks are the lemmas above. -/
theorem collectives : Obligations.Collectives := by
  unfold Obligations.Collectives
  refine ⟨?groups, fun f => combines_of (exec_laneget f), fun f => combines_of (exec_lanegetW2 f), fun _ _ _ _ => Env.mem_members,
    ?sum, collReduce_nil, fun _ _ => rfl, fun ms j _ => bit_laneMask ms j⟩
  case groups =>
    intro i j g hg
    obtain ⟨hone, htwo⟩ : (∀ f s, Machine.exec (i f) s = runCollective (issueOp (i f)) s g) ∧
        ∀ f s, Machine.exec (j f) s = runCollective (issueOp (j f)) s g := by
      rcases hg with ⟨rfl, rfl, rfl⟩ | ⟨rfl, rfl, rfl⟩ | ⟨rfl, rfl, rfl⟩ | ⟨rfl, rfl, rfl⟩ | ⟨rfl, rfl, rfl⟩ <;>
        exact ⟨fun _ _ => rfl, fun _ _ => rfl⟩
    exact ⟨fun f => combines_of_collective (hone f), fun f => combines_of_collective (htwo f)⟩
  case sum =>
    intro ty k lo m h2 h6 hm
    refine sieveTree_sum (fun a b => congrArg Prod.fst (sieveOp_sum h2 h6 a b)) (fun j => ?_) k lo
    cases hj : m j with
    | none => exact Nat.two_pow_pos _
    | some x => exact hm j x hj

end Sys2Proof.Machine
end

section
/-! The draws (R287 to R290): one Mill block of the executing lane, what each instruction makes of it, and SPLITKEY, which draws
none. -/

namespace Sys2Proof.Machine

/-- One lane's draw on a stream that is not the reserved one delivers g of its Mill block, to both of a protected pair. -/
theorem draw_completes {i : F1 → Instr} {j : F2 → Instr} {g : Nat → Nat}
    (hi : ∀ f s, Machine.exec (i f) s = runDraw (issueOp (i f)) s g) (hj : ∀ f s, Machine.exec (j f) s = runDraw (issueOp (j f)) s g) :
    CompletesBoth i j (fun v _ => v.a % 2 ^ 16 ≠ 0xFFFF) fun v s =>
      ((s.millDraw v.who (v.a % 2 ^ 16)).2,
        .ok (g (s.millDraw v.who (v.a % 2 ^ 16)).1) (g (s.millDraw v.who (v.a % 2 ^ 16)).1) 0 0) :=
  completesBoth_of hi hj (fun _ _ _ => rfl) fun _ _ _ h => ⟨if_neg h, rfl⟩

/-- The reserved stream raises fault 0x06 (R101). -/
theorem draw_reserved {i : Instr} {g : Nat → Nat} (hi : ∀ s, Machine.exec i s = runDraw (issueOp i) s g) :
    Faults i (fun v _ => v.a % 2 ^ 16 = 0xFFFF) fun _ _ => .illegal :=
  faults_of hi (fun _ _ _ _ _ => rfl) fun _ _ _ _ h => congrArg Prod.snd (if_pos h)

/-- SAMPLE checks the alignment of its table before anything else (R289). -/
theorem sample_misaligned (f : F1) : Faults (.sample f) (fun v _ => v.a % 4 ≠ 0) fun v _ => { code := 0x07, addr := v.a } := by
  refine faults_of (ready := fun _ s => (s, true)) (fun _ => rfl) (fun _ _ _ _ _ => rfl) ?_
  intro s a cl _ halign
  exact congrArg Prod.snd (if_pos halign)

/-- Settles O18: the three draws are one runner's, SAMPLE passes its checks one after another, and SPLITKEY leaves the state. -/
theorem draws : Obligations.Draws := by
  unfold Obligations.Draws
  refine ⟨draw_completes (g := fourWords id) (fun _ _ => rfl) fun _ _ => rfl,
    draw_completes (g := fourWords u01) (fun _ _ => rfl) fun _ _ => rfl,
    draw_completes (g := fun x => drawNormal (blockWord x 0) (blockWord x 1)) (fun _ _ => rfl) fun _ _ => rfl,
    fun _ _ _ => rfl, fun _ _ _ => rfl, ?sample, ?splitkey, fun _ => draw_reserved (g := fourWords id) fun _ => rfl,
    sample_misaligned⟩
  case sample =>
    refine completesBoth_of (fun _ _ => rfl) (fun _ _ => rfl) (fun _ _ _ => rfl) ?_
    rintro E v s ⟨halign, hroom, hstream, hpoison⟩
    simp only [halign, hstream, hpoison, Nat.not_lt.2 hroom, ne_eq, not_true_eq_false, if_false, Bool.false_eq_true]
    generalize sampleIndex _ _ = index
    cases index <;> exact ⟨rfl, rfl⟩
  case splitkey => exact completesBoth_of (fun _ _ => rfl) (fun _ _ => rfl) (fun _ _ _ => rfl) fun _ _ _ _ => ⟨rfl, rfl⟩

end Sys2Proof.Machine
end

section
/-! Register writes (R47, R105, R112, R113, R151, R152, R310, R311, R315, R362, R457, R466, R472, R493): what each register takes
and ignores, which fields of a routing entry and of a segment are stored, and a write of a whole register through a BAR. -/

namespace Sys2Proof.Machine

/-! Bits of a word as a number, and words under a mask -/

theorem bits_toNat {n : Nat} (v : BitVec n) (hi lo : Nat) : bits v.toNat hi lo = (v.extractLsb' lo (hi + 1 - lo)).toNat := by
  rw [bits, BitVec.extractLsb'_toNat, Nat.shiftRight_eq_div_pow]

theorem bit_toNat {n : Nat} (v : BitVec n) (k : Nat) : bit v.toNat k = v.getLsbD k := by
  rw [bit_eq_testBit, BitVec.testBit_toNat]

/-- A mask keeps a field in which it is all ones. -/
theorem extractLsb'_and_ones {n lo len : Nat} {v m : BitVec n} (h : m.extractLsb' lo len = BitVec.allOnes len) :
    (v &&& m).extractLsb' lo len = v.extractLsb' lo len := by
  rw [BitVec.extractLsb'_and, h, BitVec.and_allOnes]

/-- A mask keeps a bit in which it is one. -/
theorem getLsbD_and_one {n k : Nat} {v m : BitVec n} (h : m.getLsbD k = true) : (v &&& m).getLsbD k = v.getLsbD k := by
  rw [BitVec.getLsbD_and, h, Bool.and_true]

/-- A mask clears a bit in which it is zero. -/
theorem getLsbD_and_zero {n k : Nat} {v m : BitVec n} (h : m.getLsbD k = false) : (v &&& m).getLsbD k = false := by
  rw [BitVec.getLsbD_and, h, Bool.and_false]

namespace State

/-! UAL_STATION -/

theorem stationPut_empty {s : State} (h : ∀ e ∈ s.slices, e.2.st = .empty) (v : BitVec 32) :
    s.stationPut v = { s with station := v.extractLsb' 0 10 } :=
  if_neg (by simpa [anySlice] using fun a b hab => h (a, b) hab)

theorem stationPut_stands {s : State} (h : ∃ e ∈ s.slices, e.2.st ≠ .empty) (v : BitVec 32) : s.stationPut v = s :=
  if_pos (by simpa [anySlice] using h)

/-! Routing entries -/

/-- No port of the entry is set, or one outside the slice's node (R112). -/
def PortsBad (node : Nat) (v : BitVec 64) : Prop :=
  (∃ q < 32, v.getLsbD q = true ∧ q ∉ nodeQuads node) ∨ v.extractLsb' 0 32 = 0

/-- The model's test of the ports, for a slice with a node. -/
theorem portsBad_iff {node : Nat} (hnode : node ≠ 0) (v : BitVec 64) :
    ((List.range 32).any (fun q => bit (bits v.toNat 31 0) q && !(node != 0 && (nodeQuads node).contains q)) ||
      decide (bits v.toNat 31 0 = 0)) = true ↔ PortsBad node v := by
  have hports : bits v.toNat 31 0 = (v.extractLsb' 0 32).toNat := bits_toNat v 31 0
  have hport : ∀ q < 32, bit (v.extractLsb' 0 32).toNat q = v.getLsbD q := fun q hq => by
    rw [bit_toNat, BitVec.getLsbD_extractLsb']
    simp [hq]
  have hnone : (v.extractLsb' 0 32).toNat = 0 ↔ v.extractLsb' 0 32 = 0 := BitVec.toNat_inj (y := 0#32)
  rw [hports, Bool.or_eq_true, decide_eq_true_eq, hnone]
  refine or_congr_left ?_
  simp only [List.any_eq_true, List.mem_range]
  refine exists_congr fun q => and_congr_right fun hq => ?_
  rw [hport q hq]
  simp [hnode]

/-- A write of a routing entry stores its fields, VALID only with ports of the slice. -/
theorem route_routePut {s : State} {c n : Nat} (hc : c < 16) (hn : n < 1024) (hnode : (s.slice c).node ≠ 0) (v : BitVec 64) :
    ∃ m, ((s.routePut c n v).slice c).routes.get 0 n = v &&& m ∧
      (PortsBad (s.slice c).node v ∧ m = 0x03FF1F7FFFFFFFFF ∨ ¬ PortsBad (s.slice c).node v ∧ m = 0x83FF1F7FFFFFFFFF) := by
  unfold routePut
  rw [if_neg (by simp [Nat.not_le.2 hc, Nat.not_le.2 hn])]
  dsimp only
  rw [slice_setSlice, SMap.get_put_self]
  refine ⟨_, rfl, ?_⟩
  by_cases hbad : PortsBad (s.slice c).node v
  · exact .inl ⟨hbad, if_pos ((portsBad_iff hnode v).2 hbad)⟩
  · exact .inr ⟨hbad, if_neg (mt (portsBad_iff hnode v).1 hbad)⟩

/-! The dispatcher's registers -/

theorem ageLimitPut_core {c : Nat} (hc : c < 16) (s : State) (v : Nat) :
    s.ageLimitPut c v = (s.modSlice c fun x => { x with ageLimit := v % 256 }).decide' c := if_neg (Nat.not_le.2 hc)

theorem quantumPut_core {c : Nat} (hc : c < 16) (s : State) (v : Nat) :
    s.quantumPut c v = s.modSlice c fun x => { x with quantum := min 1000 (v % 65536) } := if_neg (Nat.not_le.2 hc)

/-- SLC_LEND keeps the other standing slices of the owner (R152). -/
theorem lendPut_core {c : Nat} (hc : c < 16) (s : State) (v : Nat) : ∃ u : State, s.lendPut c v = u.checkAll ∧
    (u.slice c).lend = BitVec.ofNat 16 (bitSet ((List.range 16).filter fun k => bit v k && k != c &&
      ((s.slice k).st == .ready || (s.slice k).st == .busy) && (s.slice k).owner == (s.slice c).owner)) :=
  ⟨s.modSlice c _, if_neg (Nat.not_le.2 hc), congrArg Slice.lend (slice_modSlice s c _)⟩

/-! Segments -/

/-- The segment has KIND 3, or is one of the device that reaches outside the world's region (R310). -/
def SegmentBad (x : World) (v : BitVec 128) : Prop :=
  v.extractLsb' 125 2 = 3 ∨ v.extractLsb' 125 2 = 0 ∧ ((v.extractLsb' 64 32).toNat < x.base * 16384 ∨
    (x.base + x.size) * 16384 < (v.extractLsb' 64 32).toNat + (v.extractLsb' 32 32).toNat)

/-- A device segment inside the world's region is good. -/
theorem not_segmentBad_inside {x : World} {v : BitVec 128} (hkind : v.extractLsb' 125 2 = 0)
    (hlo : x.base * 16384 ≤ (v.extractLsb' 64 32).toNat)
    (hend : (v.extractLsb' 64 32).toNat + (v.extractLsb' 32 32).toNat ≤ (x.base + x.size) * 16384) : ¬ SegmentBad x v := by
  rintro (hthree | ⟨-, hout⟩)
  · exact absurd (hkind.symm.trans hthree) (by decide)
  · exact hout.elim (Nat.not_lt.2 hlo) (Nat.not_lt.2 hend)

/-- A segment of KIND 1 or 2 is good wherever it reaches. -/
theorem not_segmentBad_kind {v : BitVec 128} (hkind : v.extractLsb' 125 2 = 1 ∨ v.extractLsb' 125 2 = 2) (x : World) :
    ¬ SegmentBad x v := by
  rw [SegmentBad]
  rcases hkind with h | h <;> rw [h] <;> simp

/-- The bits of a segment that are stored. -/
def segmentMask : BitVec 128 := ~~~(0x7FFFF#128 <<< 106)

/-- The model's test of a segment, of whose word the reserved bits are cleared first. -/
theorem segmentBad_iff (x : World) (v : BitVec 128) :
    let g := v &&& segmentMask
    (decide (bits g.toNat 126 125 = 3) || bits g.toNat 126 125 == 0 && (decide (bits g.toNat 95 64 < x.base * 16384) ||
      decide ((x.base + x.size) * 16384 < bits g.toNat 95 64 + bits g.toNat 63 32))) = true ↔ SegmentBad x v := by
  intro g
  have hkind : bits g.toNat 126 125 = (v.extractLsb' 125 2).toNat :=
    (bits_toNat g 126 125).trans (congrArg BitVec.toNat (extractLsb'_and_ones (by decide)))
  have htarget : bits g.toNat 95 64 = (v.extractLsb' 64 32).toNat :=
    (bits_toNat g 95 64).trans (congrArg BitVec.toNat (extractLsb'_and_ones (by decide)))
  have hlength : bits g.toNat 63 32 = (v.extractLsb' 32 32).toNat :=
    (bits_toNat g 63 32).trans (congrArg BitVec.toNat (extractLsb'_and_ones (by decide)))
  have hthree : (v.extractLsb' 125 2).toNat = 3 ↔ v.extractLsb' 125 2 = 3 := BitVec.toNat_inj (y := 3#2)
  have hzero : (v.extractLsb' 125 2).toNat = 0 ↔ v.extractLsb' 125 2 = 0 := BitVec.toNat_inj (y := 0#2)
  rw [hkind, htarget, hlength]
  simp only [Bool.or_eq_true, Bool.and_eq_true, decide_eq_true_eq, beq_iff_eq, hthree, hzero, SegmentBad]

/-- A write of a segment stores its fields, VALID unless the segment is bad. -/
theorem segment_segmentPut {s : State} {w i : Nat} (hw : 1 ≤ w) (hw' : w ≤ 96) (hi : i < 16) (hb : s.tdiBound w = false)
    (v : BitVec 128) : ∃ m, ((s.segmentPut w i v).world w).segments.get 0 i = v &&& m ∧
      (SegmentBad (s.world w) v ∧ m = segmentMask &&& ~~~(1#128 <<< 127) ∨ ¬ SegmentBad (s.world w) v ∧ m = segmentMask) := by
  unfold segmentPut
  rw [if_neg (by simp [hb]; omega)]
  dsimp only
  rw [world_setWorld, SMap.get_put_self]
  by_cases hbad : SegmentBad (s.world w) v
  · exact ⟨_, (if_pos ((segmentBad_iff _ v).2 hbad)).trans (BitVec.and_assoc ..), .inl ⟨hbad, rfl⟩⟩
  · exact ⟨_, if_neg (mt (segmentBad_iff _ v).1 hbad), .inr ⟨hbad, rfl⟩⟩

theorem segmentPut_bound {s : State} {w : Nat} (hb : s.tdiBound w = true) (i : Nat) (v : BitVec 128) : s.segmentPut w i v = s :=
  if_pos (by simp [hb])

/-! Registers of a world -/

theorem tctxPut_enabled {s : State} {w : Nat} (h : (s.world w).en = true) (v : BitVec 64) : s.tctxPut w v = s := if_pos h

theorem tctxPut_disabled {s : State} {w : Nat} (h : (s.world w).en = false) (v : BitVec 64) :
    s.tctxPut w v = s.modWorld w fun x => { x with tctx := v &&& 0x0000FFFFFFFFFFC0 } := if_neg (Bool.eq_false_iff.1 h)

theorem tagbasePut_bound {s : State} {w : Nat} (hb : s.tdiBound w = true) (v : BitVec 64) : s.tagbasePut w v = s :=
  if_pos (by simp [hb])

/-- VALID = 1 changes nothing while the world is tracked (R472). -/
theorem tagbasePut_tracked {s : State} {w : Nat} (ht : (s.world w).tracking = true) {v : BitVec 64} (hv : v.getLsbD 0 = true) :
    s.tagbasePut w v = s := if_pos (by simp [ht, hv])

theorem tagbasePut_stores {s : State} {w : Nat} (hw : 1 ≤ w) (hw' : w ≤ 96) (hb : s.tdiBound w = false) {v : BitVec 64}
    (h : (s.world w).tracking = false ∨ v.getLsbD 0 = false) :
    s.tagbasePut w v = s.modWorld w fun x => { x with tagBase := v &&& 0x0000FFFFFFFF0001 } := by
  have htracked : ((s.world w).tracking && v.getLsbD 0) = false := Bool.and_eq_false_iff.2 h
  exact if_neg (by rw [htracked]; simp [hb]; omega)

theorem keyRotPut_bound {s : State} {w : Nat} (hb : s.tdiBound w = true) : s.keyRotPut w = s := if_pos (by simp [hb])

theorem keyRotPut_starts {s : State} {w : Nat} (hw : 1 ≤ w) (hw' : w ≤ 96) (hb : s.tdiBound w = false) (h : (s.world w).st ≠ .free) :
    s.keyRotPut w = (s.startRotation w 0).2 := if_neg (by simp [hb, h]; omega)

/-- The driver's store to FQ_HEAD makes room for the records that wait (R315). -/
theorem fqHead_stores {s u : State} {w : Nat} {v : BitVec 32} (h : (s.world w).st ≠ .free)
    (hu : s.wpaWrite w (contextAddr (s.world w) + 0x1C) (leBytes 4 v.toNat) = some u) :
    s.fqHead w v = u.flushRecords w (u.waitingRecords w) := by
  unfold fqHead
  simp only [if_neg h, hu]

/-! REL_STAT and MET_PERIOD -/

theorem relStatPut_one {s : State} {v : BitVec 32} (h : v.getLsbD 31 = true) :
    s.relStatPut v.toNat = { s with relOvf := false, relLost := 0 } := if_pos ((bit_toNat v 31).trans h)

theorem relStatPut_zero {s : State} {v : BitVec 32} (h : v.getLsbD 31 = false) : s.relStatPut v.toNat = s :=
  if_neg (by rw [bit_toNat, h]; exact Bool.false_ne_true)

/-- MET_PERIOD takes 100 to 60,000 (R493). -/
theorem periodPut_admitted (s : State) {v : BitVec 32} (h : 100 ≤ (v.extractLsb' 0 17).toNat) (h' : (v.extractLsb' 0 17).toNat ≤ 60000) :
    s.periodPut v.toNat = { s with metPeriod := (v.extractLsb' 0 17).toNat } := by
  unfold periodPut
  rw [show bits v.toNat 16 0 = (v.extractLsb' 0 17).toNat from bits_toNat v 16 0]
  exact if_pos (by simp only [h, h', decide_true, Bool.and_self])

theorem periodPut_refused (s : State) {v : BitVec 32} (h : (v.extractLsb' 0 17).toNat < 100 ∨ 60000 < (v.extractLsb' 0 17).toNat) :
    s.periodPut v.toNat = s := by
  unfold periodPut
  rw [show bits v.toNat 16 0 = (v.extractLsb' 0 17).toNat from bits_toNat v 16 0]
  exact if_neg (by simp only [Bool.and_eq_true, decide_eq_true_eq]; omega)

/-! Writes through a BAR -/

theorem regWrite_none (s : State) (fn off v k : Nat) : s.regWrite fn off 0 v k = s := by
  cases k with
  | zero => rfl
  | succ k => exact if_pos rfl

/-- A byte of no register ignores a write (log entry 51). -/
theorem regWrite_unlisted {fn off : Nat} (h : barReg fn off = none) (s : State) (v k : Nat) : s.regWrite fn off 1 v (k + 1) = s := by
  rw [regWrite, if_neg Nat.one_ne_zero]
  simp only [h, Nat.sub_self, regWrite_none]

/-- A write of a whole register is one write of that register: no byte of the old value is kept. -/
theorem regWrite_whole {fn off : Nat} {r : RegAt} (h : barReg fn off = some r) (hbase : r.base = off) (hbytes : 1 ≤ r.bytes)
    (s : State) {v : Nat} (hv : v < 256 ^ r.bytes) (k : Nat) : s.regWrite fn off r.bytes v (k + 1) = s.regPut r.reg v := by
  have hkept : s.regKeep r.reg % 256 ^ r.bytes / 256 ^ r.bytes = 0 := Nat.div_eq_of_lt (Nat.mod_lt _ (Nat.pow_pos (by decide)))
  rw [regWrite, if_neg (Nat.ne_of_gt hbytes)]
  simp [h, hbase, regWrite_none, hkept, Nat.mod_eq_of_lt hv, Nat.mod_one]

end State

/-! The operations -/

section
variable (s : State)

theorem exec_ualStationWrite (v : BitVec 32) : exec (.ualStationWrite v) s = .next (s.stationPut v) := rfl
theorem exec_routingEntryWrite (c n : Nat) (v : BitVec 64) : exec (.routingEntryWrite c n v) s = .next (s.routePut c n v) := rfl
theorem exec_slcAgeLimitWrite (c : Nat) (v : BitVec 32) : exec (.slcAgeLimitWrite c v) s = .next (s.ageLimitPut c v.toNat) := rfl
theorem exec_slcQuantumWrite (c : Nat) (v : BitVec 32) : exec (.slcQuantumWrite c v) s = .next (s.quantumPut c v.toNat) := rfl
theorem exec_slcLendWrite (c : Nat) (v : BitVec 32) : exec (.slcLendWrite c v) s = .next (s.lendPut c v.toNat) := rfl
theorem exec_segmentWrite (w i : Nat) (v : BitVec 128) : exec (.segmentWrite w i v) s = .next (s.segmentPut w i v) := rfl
theorem exec_keyTagbaseWrite (w : Nat) (v : BitVec 64) : exec (.keyTagbaseWrite w v) s = .next (s.tagbasePut w v) := rfl
theorem exec_keyRotStart (w : Nat) : exec (.keyRotStart w) s = .next (s.keyRotPut w) := rfl
theorem exec_wldTctxWrite (w : Nat) (v : BitVec 64) : exec (.wldTctxWrite w v) s = .next (s.tctxPut w v) := rfl
theorem exec_relStatWrite (v : BitVec 32) : exec (.relStatWrite v) s = .next (s.relStatPut v.toNat) := rfl
theorem exec_metPeriodWrite (v : BitVec 32) : exec (.metPeriodWrite v) s = .next (s.periodPut v.toNat) := rfl
theorem exec_fqHeadWrite (w : Nat) (v : BitVec 32) : exec (.fqHeadWrite w v) s = .next (s.fqHead w v) := rfl
theorem exec_registerWrite (fn off width : Nat) (v : BitVec 64) :
    exec (.registerWrite fn off width v) s = .next (s.regWrite fn off (min 8 (width / 8)) v.toNat 8) := rfl

end

/-- Settles O40: each clause is the lemma above about the register, a whole write through a BAR or an offset without a register. -/
theorem deviceRegisters : Obligations.DeviceRegisters := by
  unfold Obligations.DeviceRegisters
  refine ⟨fun s v => ⟨fun h => ?stationEmpty, fun h => ?stationStands⟩, fun s c n v hc hn hnode => ?route,
    fun s c v hc => ?ageLimit, fun s c v hc => ?quantum, fun s c v hc => ?lend, fun s w i v hw hw' hi hb => ?segment,
    fun s w i v hb => ⟨?segmentBound, ?tagbaseBound, ?rotationBound⟩, fun s w v => ⟨fun h => ?tctxEnabled, fun h => ?tctx⟩,
    fun s w v hw hw' hb => ⟨fun h => ?tagbase, fun ht hv => ?tagbaseTracked, fun h => ?rotation⟩,
    fun s v => ⟨fun h => ?relStat, fun h => ?relStatZero⟩, fun s v => ⟨fun h1 h2 => ?period, fun h => ?periodBad⟩,
    fun s w v h u hu => ?fqHead, fun s fn off r v h hbase h1 h8 hv => ?whole, fun s fn off v h => ?unlisted⟩
  case stationEmpty => rw [exec_ualStationWrite, State.stationPut_empty h]
  case stationStands => rw [exec_ualStationWrite, State.stationPut_stands h]
  case route =>
    obtain ⟨m, hroute, hm⟩ := State.route_routePut hc hn hnode v
    refine ⟨_, exec_routingEntryWrite s c n v, ?_⟩
    dsimp only
    rw [hroute]
    obtain ⟨hbad, rfl⟩ | ⟨hgood, rfl⟩ := hm
    · exact ⟨extractLsb'_and_ones (by decide), extractLsb'_and_ones (by decide), extractLsb'_and_ones (by decide),
        fun _ => getLsbD_and_zero (by decide),
        fun hports hsome => (hbad.elim (fun ⟨q, hq, hport, hout⟩ => hout (hports q hq hport)) hsome).elim⟩
    · exact ⟨extractLsb'_and_ones (by decide), extractLsb'_and_ones (by decide), extractLsb'_and_ones (by decide),
        fun hbad => (hgood hbad).elim, fun _ _ => getLsbD_and_one (by decide)⟩
  case ageLimit => rw [exec_slcAgeLimitWrite, State.ageLimitPut_core hc]
  case quantum => rw [exec_slcQuantumWrite, State.quantumPut_core hc]
  case lend => exact ⟨_, exec_slcLendWrite s c v, State.lendPut_core hc s v.toNat⟩
  case segment =>
    obtain ⟨m, hsegment, hm⟩ := State.segment_segmentPut hw hw' hi hb v
    refine ⟨_, exec_segmentWrite s w i v, ?_⟩
    dsimp only
    rw [hsegment]
    obtain ⟨hbad, rfl⟩ | ⟨hgood, rfl⟩ := hm
    · have hclear : (v &&& (State.segmentMask &&& ~~~(1#128 <<< 127))).getLsbD 127 = false := getLsbD_and_zero (by decide)
      exact ⟨extractLsb'_and_ones (by decide), extractLsb'_and_ones (by decide), fun _ => hclear, fun _ _ => hclear,
        fun hdev hlo hend => (State.not_segmentBad_inside hdev hlo hend hbad).elim,
        fun hkind => (State.not_segmentBad_kind hkind _ hbad).elim⟩
    · exact ⟨extractLsb'_and_ones (by decide), extractLsb'_and_ones (by decide), fun hkind => (hgood (.inl hkind)).elim,
        fun hdev hout => (hgood (.inr ⟨hdev, hout⟩)).elim, fun _ _ _ => getLsbD_and_one (by decide), fun _ => getLsbD_and_one (by decide)⟩
  case segmentBound => rw [exec_segmentWrite, State.segmentPut_bound hb]
  case tagbaseBound => rw [exec_keyTagbaseWrite, State.tagbasePut_bound hb]
  case rotationBound => rw [exec_keyRotStart, State.keyRotPut_bound hb]
  case tctxEnabled => rw [exec_wldTctxWrite, State.tctxPut_enabled h]
  case tctx => rw [exec_wldTctxWrite, State.tctxPut_disabled h]
  case tagbase => rw [exec_keyTagbaseWrite, State.tagbasePut_stores hw hw' hb h]
  case tagbaseTracked => rw [exec_keyTagbaseWrite, State.tagbasePut_tracked ht hv]
  case rotation => rw [exec_keyRotStart, State.keyRotPut_starts hw hw' hb h]
  case relStat => rw [exec_relStatWrite, State.relStatPut_one h]
  case relStatZero => rw [exec_relStatWrite, State.relStatPut_zero h]
  case period => rw [exec_metPeriodWrite, State.periodPut_admitted s h1 h2]
  case periodBad => rw [exec_metPeriodWrite, State.periodPut_refused s h]
  case fqHead => rw [exec_fqHeadWrite, State.fqHead_stores h hu]
  case whole =>
    have hwidth : min 8 (8 * r.bytes / 8) = r.bytes := by omega
    rw [exec_registerWrite, hwidth, State.regWrite_whole h hbase h1 s hv]
  case unlisted => rw [exec_registerWrite]; exact congrArg _ (State.regWrite_unlisted h s v.toNat 7)

end Sys2Proof.Machine
end

section
/-! Taking a fault (R126, R315, R436, R461): which branch a code takes, a team that is gone, and a launch that fails. -/

namespace Sys2Proof.Machine

namespace State

/-! The codes of a lane, a sequencer and a control program -/

/-- The debugger catches codes 0x0C to 0x0F only (R480). -/
theorem caught_other {code : Nat} (h : code < 0x0C ∨ 0x0F < code) (s : State) (t : Nat) : s.caught t code = false := by
  unfold caught
  rcases h with h | h <;> simp [Nat.not_le.2 h]

section
variable {y : Why}

theorem takeFault_lane_replayable (h : y.code = 1) (s : State) (t lit : Nat) :
    s.takeFault (.lane t lit) y = s.recordFault (.lane t lit) y := if_pos h
theorem takeFault_seq_replayable (h : y.code = 1) (s : State) (t : Nat) :
    s.takeFault (.seq t) y = s.recordFault (.seq t) y := if_pos h

/-- In a guarded launch poison and an uncorrectable error roll the team back (R461). -/
theorem takeFault_lane_guarded {s : State} {t : Nat} (h : y.code = 0x0A ∨ y.code = 0x0B) (hg : (s.launchOf t).guarded = true)
    (lit : Nat) : s.takeFault (.lane t lit) y = (s.askRollback t y).leaveGang t lit := by
  have hcode : y.code ≠ 1 := by omega
  unfold takeFault
  exact (if_neg hcode).trans (if_pos (by simpa [hg] using h))

theorem takeFault_lane_caught {s : State} {t : Nat} (h : 0x0C ≤ y.code) (hc : s.caught t y.code = true) (lit : Nat) :
    s.takeFault (.lane t lit) y = s.haltLane t lit y := by
  have hcode : y.code ≠ 1 := by omega
  have hroll : ¬ (y.code = 0x0A ∨ y.code = 0x0B) := by omega
  unfold takeFault
  exact (if_neg hcode).trans ((if_neg (by simp [hroll])).trans (if_pos hc))

/-- A code that neither parks, rolls back nor is caught, and that no error record names, ends the team, after its fault record. -/
theorem takeFault_lane_ends (h : y.code ≠ 1 ∧ y.code < 0x0A ∨ 0x10 < y.code) (s : State) (t lit : Nat) :
    s.takeFault (.lane t lit) y = (if recordedCode y.code then s.recordFault (.lane t lit) y else s).endTeam t y.code := by
  have hpark : y.code ≠ 1 := by omega
  have hA : y.code ≠ 0x0A := by omega
  have hB : y.code ≠ 0x0B := by omega
  have hC : y.code ≠ 0x10 := by omega
  have hcaught := caught_other (code := y.code) (by omega) s t
  simp only [takeFault, hpark, hA, hB, hC, hcaught, decide_false, Bool.or_self, Bool.false_and, Bool.false_eq_true, if_false]

theorem takeFault_seq_ends (h : y.code ≠ 1 ∧ y.code < 0x0A ∨ 0x10 < y.code) (s : State) (t : Nat) :
    s.takeFault (.seq t) y = (if recordedCode y.code then s.recordFault (.seq t) y else s).endTeam t y.code := by
  have hpark : y.code ≠ 1 := by omega
  have hA : y.code ≠ 0x0A := by omega
  have hB : y.code ≠ 0x0B := by omega
  have hE : y.code ≠ 0x0E := by omega
  simp only [takeFault, hpark, hA, hB, hE, decide_false, Bool.or_self, Bool.false_and, Bool.false_eq_true, if_false]

/-- A control program stops with the code and the PC of its step, and vector 1 is signalled (R126). -/
theorem takeFault_prog_stops (h1 : y.code ≠ 1) (hr : recordedCode y.code = false) (s : State) (w : Nat) :
    s.takeFault (.prog w) y = s.failProg w y.code (s.prog w).lane.pc := by
  simp only [takeFault, h1, hr, Bool.false_eq_true, if_false]

end

/-- A signal leaves every program as it is. -/
@[simp] theorem prog_signal (s : State) (w v u : Nat) : (s.signal w v).prog u = s.prog u := by
  obtain ⟨p, hp⟩ := signal_world s w v u
  unfold prog
  rw [hp]

theorem prog_failProg (s : State) (w code pc : Nat) :
    (s.failProg w code pc).prog w = { s.prog w with st := .faulted, fault := code, faultPc := pc, clause := none } := by
  unfold failProg
  rw [prog_signal]
  exact congrArg World.prog (world_modWorld _ _ _)

theorem askRollback_due (s : State) (t : Nat) (y : Why) : Instr.rollback t ∈ (s.askRollback t y).due := mem_pushOnce _ _

/-! Due operations leave teams and launches -/

@[simp] theorem team_pushOnce (s : State) (i : Instr) (t : Nat) : (s.pushOnce i).team t = s.team t := by
  obtain ⟨d, hd⟩ := pushOnce_due s i
  rw [hd]
  rfl
@[simp] theorem launch_pushOnce (s : State) (i : Instr) (l : Nat) : (s.pushOnce i).launch l = s.launch l := by
  obtain ⟨d, hd⟩ := pushOnce_due s i
  rw [hd]
  rfl
@[simp] theorem team_decide' (s : State) (c t : Nat) : (s.decide' c).team t = s.team t := team_pushOnce _ _ _
@[simp] theorem launch_decide' (s : State) (c l : Nat) : (s.decide' c).launch l = s.launch l := launch_pushOnce _ _ _

/-- The rollback that a fault asks for: the first fault of the team names it. -/
theorem rollback_askRollback (s : State) (t : Nat) (y : Why) :
    ((s.askRollback t y).team t).rollback = ((s.team t).rollback).or (some (y.code, y.addr, y.unit, y.tier)) := by
  unfold askRollback
  rw [team_pushOnce, modTeam_eq, team_setTeam]

/-! A team that is gone -/

/-- What removeTeam drops beside the tables of teams and launches. -/
def dropWork (s : State) (t : Nat) : State :=
  State.dropRecords { s.dropGangs t with
    copies := (s.dropGangs t).copies.filter fun e => agentNotOf t e.2.who
    passes := (s.dropGangs t).passes.filter fun e => e.2.team != t || e.2.granted
    reqs := (s.dropGangs t).reqs.filter fun r => agentNotOf t r.who || orphan r
    oldCode := (s.dropGangs t).oldCode.filter fun e =>
      (s.dropGangs t).teams.any fun (u, y) => u < e.teams && u != t && y.st != TeamSt.gone } t

@[simp] theorem launch_dropWork (s : State) (t l : Nat) : (s.dropWork t).launch l = s.launch l := rfl

/-- The parts of removeTeam: what it drops beside the tables of teams and launches, the two tables, a pass that may fall due, and
the lanes that waited for a channel. -/
theorem removeTeam_parts (s : State) (t : Nat) : ∃ (x : Team) (v : State), x.st = .gone ∧ x.lanes = [] ∧
    v = ((s.dropWork t).setTeam t x).modLaunch (s.team t).launch
      (fun l => { l with slotsUsed := l.slotsUsed.filter (· != (s.team t).slot) }) ∧
    s.removeTeam t = ((if v.passes.any fun e => e.2.team == t then v.pushOnce (.passComplete (coreQuad (s.team t).core)) else v).wakeStalled
      (s.launchOf t).world).decide' (s.launchOf t).ctl :=
  ⟨_, _, rfl, rfl, rfl, rfl⟩

/-- Teams and launches stay where an operation may fall due. -/
theorem tables_pushOnce_if (p : Prop) [Decidable p] (s : State) (i : Instr) :
    (if p then s.pushOnce i else s).teams = s.teams ∧ (if p then s.pushOnce i else s).launches = s.launches := by
  obtain ⟨d, hd⟩ := pushOnce_due s i
  rw [hd]
  split <;> exact ⟨rfl, rfl⟩

/-- The tables of teams and launches that removeTeam leaves, before the lanes that waited for a channel are woken (R140, R436). -/
theorem removeTeam_tables (s : State) (t : Nat) : ∃ (r : State) (x : Team),
    s.removeTeam t = (r.wakeStalled (s.launchOf t).world).decide' (s.launchOf t).ctl ∧ x.st = .gone ∧ x.lanes = [] ∧
    r.teams = s.teams.insert t x ∧
    r.launches = s.launches.insert (s.team t).launch
      { s.launchOf t with slotsUsed := (s.launchOf t).slotsUsed.filter (· != (s.team t).slot) } := by
  obtain ⟨x, v, hst, hlanes, hv, hr⟩ := removeTeam_parts s t
  obtain ⟨hteams, hlaunches⟩ := tables_pushOnce_if (v.passes.any (fun e => e.2.team == t) = true) v (.passComplete (coreQuad (s.team t).core))
  refine ⟨_, x, hr, hst, hlanes, ?_, ?_⟩
  · rw [hteams, hv, modLaunch_eq]
    rfl
  · rw [hlaunches, hv, modLaunch_eq, launch_setTeam, launch_dropWork]
    rfl

theorem team_removeTeam (s : State) (t : Nat) : ((s.removeTeam t).team t).st = .gone ∧ ((s.removeTeam t).team t).lanes = [] := by
  obtain ⟨r, x, hr, hst, hlanes, hteams, -⟩ := removeTeam_tables s t
  obtain ⟨f, -, hf⟩ := wakeStalled_team r (s.launchOf t).world t
  have hx : r.team t = x := by unfold team; rw [hteams, SMap.get_insert_self]
  rw [hr, team_decide', hf, hx, hlanes]
  exact ⟨hst, rfl⟩

section
variable {t u : Nat} (h : u ≠ t) (s : State)
include h

/-- Of another team only lanes that waited for a channel change (R361). -/
theorem team_removeTeam_ne : ∃ f : Lane → Lane, (∀ l, l.st ≠ .token → f l = l) ∧
    (s.removeTeam t).team u = { s.team u with lanes := (s.team u).lanes.map f } := by
  obtain ⟨r, x, hr, -, -, hteams, -⟩ := removeTeam_tables s t
  obtain ⟨f, hfix, hf⟩ := wakeStalled_team r (s.launchOf t).world u
  have hu : r.team u = s.team u := by unfold team; rw [hteams, SMap.get_insert_ne _ _ _ _ _ h]
  exact ⟨f, hfix, by rw [hr, team_decide', hf, hu]⟩

theorem lane_removeTeam_ne {j : Nat} (hj : (s.lane u j).st ≠ .token) : (s.removeTeam t).lane u j = s.lane u j := by
  obtain ⟨f, hfix, hf⟩ := team_removeTeam_ne h s
  unfold lane at hj ⊢
  simp only [hf, List.getD_eq_getElem?_getD, List.getElem?_map] at hj ⊢
  cases hl : (s.team u).lanes[j]? with
  | none => rfl
  | some l =>
    rw [hl] at hj
    exact hfix l hj

end

/-- A launch only loses the save slot of a team that is gone (R446). -/
theorem launch_removeTeam (s : State) (t l : Nat) : ∃ slots, (s.removeTeam t).launch l = { s.launch l with slotsUsed := slots } := by
  obtain ⟨r, x, hr, -, -, -, hlaunches⟩ := removeTeam_tables s t
  rw [hr, launch_decide']
  show ∃ slots, SMap.get _ r.launches l = _
  rw [hlaunches]
  by_cases hl : l = (s.team t).launch
  · subst hl
    exact ⟨_, SMap.get_insert_self _ _ _ _⟩
  · exact ⟨_, SMap.get_insert_ne _ _ _ _ _ hl⟩

/-! A launch that fails -/

/-- A launch lost at most save slots. -/
def OnlySlots (l : Nat) (s u : State) : Prop := ∃ slots, u.launch l = { s.launch l with slotsUsed := slots }

theorem OnlySlots.refl (l : Nat) (s : State) : OnlySlots l s s := ⟨_, rfl⟩
theorem OnlySlots.trans {l : Nat} {s u v : State} (h : OnlySlots l s u) (h' : OnlySlots l u v) : OnlySlots l s v := by
  obtain ⟨a, ha⟩ := h
  obtain ⟨b, hb⟩ := h'
  exact ⟨b, by rw [hb, ha]⟩

/-- The end that a failing launch gives one of its teams (R134, R429). -/
def endOne (s : State) (t : Nat) : State :=
  match (s.team t).st with
  | .saved | .restoring => s.removeTeam t
  | .retired => if (s.team t).releasing then s else s.removeTeam t
  | _ => s.modTeam t fun x => { x with ending := true }

theorem endOne_onlySlots (l : Nat) (s : State) (t : Nat) : OnlySlots l s (s.endOne t) := by
  unfold endOne
  split
  · exact launch_removeTeam s t l
  · exact launch_removeTeam s t l
  · split
    · exact .refl l s
    · exact launch_removeTeam s t l
  · exact .refl l s

theorem endTeams_onlySlots (l : Nat) (ts : List Nat) (s : State) : OnlySlots l s (ts.foldl endOne s) := by
  induction ts generalizing s with
  | nil => exact .refl l s
  | cons t ts ih => exact (endOne_onlySlots l s t).trans (ih _)

/-- An active launch begins to fail: no cluster of it returns, and each of its teams ends (R134). -/
theorem failLaunch_active {s : State} {l : Nat} (h : (s.launch l).st = .active) (status code team : Nat) :
    s.failLaunch l status code team = ((((s.setLaunch l { s.launch l with
        st := .failing, fail := some (status, code, team), returning := [] }).teamsOf l).foldl endOne
      (s.setLaunch l { s.launch l with st := .failing, fail := some (status, code, team), returning := [] })).decide'
        (s.launch l).ctl).pushOnce (.launchComplete l) := by
  unfold failLaunch
  exact if_neg (by simp [h])

theorem launch_failLaunch {s : State} {l : Nat} (h : (s.launch l).st = .active) (status code team : Nat) :
    ∃ slots, (s.failLaunch l status code team).launch l = { s.launch l with
      st := .failing, fail := some (status, code, team), returning := [], slotsUsed := slots } := by
  obtain ⟨slots, hl⟩ := endTeams_onlySlots l
    ((s.setLaunch l { s.launch l with st := .failing, fail := some (status, code, team), returning := [] }).teamsOf l)
    (s.setLaunch l { s.launch l with st := .failing, fail := some (status, code, team), returning := [] })
  refine ⟨slots, ?_⟩
  rw [failLaunch_active h, launch_pushOnce, launch_decide', hl, launch_setLaunch]

theorem failLaunch_due {s : State} {l : Nat} (h : (s.launch l).st = .active) (status code team : Nat) :
    Instr.launchComplete l ∈ (s.failLaunch l status code team).due := by
  rw [failLaunch_active h]
  exact mem_pushOnce _ _

end State

/-- Settles O5: each clause is the branch of takeFault that the code takes, or what the operation named there leaves. -/
theorem faultEntry : Obligations.FaultEntry := by
  unfold Obligations.FaultEntry
  refine ⟨fun s t lit y h => State.takeFault_lane_replayable h s t lit, fun s t y h => State.takeFault_seq_replayable h s t,
    fun s t lit y h hg => State.takeFault_lane_guarded h hg lit,
    fun s t y => ⟨State.rollback_askRollback s t y, State.askRollback_due s t y⟩,
    fun s t lit y h hc => State.takeFault_lane_caught (by omega) hc lit, fun s t lit y h => ?ends, fun s t lit y h => ?recorded,
    fun s t => ?removed, fun s l status code team h => ?fails, fun s t code => rfl, fun s w y h1 hr => ?program⟩
  case ends =>
    have hcode : y.code ≠ 1 ∧ y.code < 0x0A ∨ 0x10 < y.code := by omega
    have hrecord : recordedCode y.code = false := by rcases h with h | h | h | h | h <;> rw [h] <;> rfl
    rw [State.takeFault_lane_ends hcode, State.takeFault_seq_ends hcode, hrecord]
    exact ⟨rfl, rfl⟩
  case recorded =>
    have hrecord : recordedCode y.code = true := by rcases h with h | h | h | h | h | h <;> rw [h] <;> rfl
    rw [State.takeFault_lane_ends (by omega), hrecord]
    rfl
  case removed =>
    obtain ⟨hst, hlanes⟩ := State.team_removeTeam s t
    refine ⟨hst, hlanes, fun u hu => ⟨?_, fun j => State.lane_removeTeam_ne hu s⟩⟩
    obtain ⟨f, -, hf⟩ := State.team_removeTeam_ne hu s
    exact ⟨_, hf⟩
  case fails =>
    obtain ⟨slots, hl⟩ := State.launch_failLaunch h status code team
    rw [hl]
    exact ⟨rfl, rfl, State.failLaunch_due h status code team⟩
  case program =>
    rw [State.takeFault_prog_stops h1 hr]
    dsimp only
    rw [State.prog_failProg]
    exact ⟨rfl, rfl, rfl⟩

end Sys2Proof.Machine
end

section
/-! The rings of a world (R119 to R121): its base and program registers while EN stands, and the writes of WLD_NOTIFY. -/

namespace Sys2Proof.Machine

namespace State

/-! WLD_RBASE and WLD_CPROG -/

section
variable {s : State} {w : Nat}

theorem rbasePut_enabled (h : (s.world w).en = true) (r : Nat) (v : BitVec 64) : s.rbasePut w r v = s := if_pos (by simp [h])
theorem cprogPut_enabled (h : (s.world w).en = true) (v : BitVec 64) : s.cprogPut w v = s := if_pos h
theorem cprogPut_disabled (h : (s.world w).en = false) (v : BitVec 64) :
    s.cprogPut w v = s.modWorld w fun x => { x with cprog := v &&& 0x000FFFFFFFFFFF01 } := if_neg (by simp [h])
theorem rbasePut_disabled (h : (s.world w).en = false) {r : Nat} (hr : r < 8) (v : BitVec 64) :
    s.rbasePut w r v = s.modWorld w fun x =>
      { x with rings := x.rings.insert r { ring x r with base := v &&& 0x000FFFFFFFFFF00F, head := 0, tail := 0 } } :=
  if_neg (by simp [h, hr])

end

/-- One ring of a world replaced. -/
def withRing (x : World) (r : Nat) (g : Ring) : World := { x with rings := x.rings.insert r g }

theorem ring_withRing (x : World) (r : Nat) (g : Ring) : ring (withRing x r g) r = g := SMap.get_insert_self _ _ _ _
theorem ring_withRing_ne (x : World) {r q : Nat} (h : q ≠ r) (g : Ring) : ring (withRing x r g) q = ring x q :=
  SMap.get_insert_ne _ _ _ _ _ h

/-! WLD_NOTIFY -/

/-- A NOTIFY event of a ring, among those of a slice's queue or of the producers that hold one (R133). -/
def unreadNotify (s : State) (w r : Nat) : Bool :=
  ((s.slice (s.world w).ctl).events ++ (s.slice (s.world w).ctl).heldEvents).any fun e => e.world == w && e.type == 6 && e.aux == r

section
variable {s : State} {w r : Nat} {v : BitVec 32}

theorem notifyPut_idle (h : (s.world w).st ≠ .running ∨ (ring (s.world w) r).enabled = false) : s.notifyPut w r v = s := by
  refine if_pos ?_
  rcases h with h | h <;> simp [h]

variable (hr : r < 8) (hst : (s.world w).st = .running) (htdi : (s.world w).tdi ≠ .error) (hen : (ring (s.world w) r).enabled = true)
include hr hst htdi hen

/-- A ring that is ACTIVE in a RUNNING world takes the write, or reports it (R121). -/
theorem notifyPut_active : s.notifyPut w r v =
    if 2 ^ (ring (s.world w) r).log < (v - (ring (s.world w) r).head).toNat ∨
        2 ^ (ring (s.world w) r).log < (v - (ring (s.world w) r).tail).toNat then
      s.modWorld w fun x => withRing x r { ring (s.world w) r with badNotify := true }
    else
      let told := s.modWorld w fun x => withRing x r { ring (s.world w) r with tail := v }
      if v = (ring (s.world w) r).tail ∨ s.unreadNotify w r = true ∨ (ring (s.world w) r).head ≠ (ring (s.world w) r).tail then told
      else told.postEvent w { type := 6, world := w, aux := r } := by
  have htakes : ¬ ((8 ≤ r || (s.world w).st ≠ .running || !(ring (s.world w) r).enabled || (s.world w).tdi = .error : Bool) = true) := by
    simp [hr, hst, htdi, hen]
  refine (if_neg htakes).trans ?_
  simp only [unreadNotify, List.any_append, Bool.or_eq_true, decide_eq_true_eq, bne_iff_ne, or_assoc]
  rfl

theorem notifyPut_bad (hbad : 2 ^ (ring (s.world w) r).log < (v - (ring (s.world w) r).head).toNat ∨
      2 ^ (ring (s.world w) r).log < (v - (ring (s.world w) r).tail).toNat) :
    s.notifyPut w r v = s.modWorld w fun x => withRing x r { ring (s.world w) r with badNotify := true } := by
  rw [notifyPut_active hr hst htdi hen, if_pos hbad]

section
variable (hhead : (v - (ring (s.world w) r).head).toNat ≤ 2 ^ (ring (s.world w) r).log)
  (htail : (v - (ring (s.world w) r).tail).toNat ≤ 2 ^ (ring (s.world w) r).log)
include hhead htail

theorem notifyPut_quiet (h : v = (ring (s.world w) r).tail ∨ s.unreadNotify w r = true ∨ (ring (s.world w) r).head ≠ (ring (s.world w) r).tail) :
    s.notifyPut w r v = s.modWorld w fun x => withRing x r { ring (s.world w) r with tail := v } := by
  rw [notifyPut_active hr hst htdi hen, if_neg (by omega)]
  exact if_pos h

theorem notifyPut_posts (hv : v ≠ (ring (s.world w) r).tail) (hunread : s.unreadNotify w r = false)
    (hempty : (ring (s.world w) r).head = (ring (s.world w) r).tail) :
    s.notifyPut w r v = (s.modWorld w fun x => withRing x r { ring (s.world w) r with tail := v }).postEvent w
      { type := 6, world := w, aux := r } := by
  rw [notifyPut_active hr hst htdi hen, if_neg (by omega)]
  exact if_neg (by simp [hv, hunread, hempty])

end

end

end State

/-! The operations -/

theorem exec_wldRbaseWrite (w r : Nat) (v : BitVec 64) (s : State) : exec (.wldRbaseWrite w r v) s = .next (s.rbasePut w r v) := rfl
theorem exec_wldCprogWrite (w : Nat) (v : BitVec 64) (s : State) : exec (.wldCprogWrite w v) s = .next (s.cprogPut w v) := rfl
theorem exec_wldNotifyWrite (w r : Nat) (v : BitVec 32) (s : State) : exec (.wldNotifyWrite w r v) s = .next (s.notifyPut w r v) := rfl

/-- Settles O39: each clause is a branch of the register's write. -/
theorem ringRegisters : Obligations.RingRegisters := by
  unfold Obligations.RingRegisters
  refine ⟨fun s w r v h => ⟨?rbaseIgnored, ?cprogIgnored⟩, fun s w v h => ?cprog, fun s w r v h hr => ?rbase,
    fun s w r v h => ?idle, fun s w r v hr hst htdi hen hbad => ?bad,
    fun s w r v hr hst htdi hen hhead htail => ⟨fun h => ?quiet, fun hv hunread hempty => ?posts⟩⟩
  case rbaseIgnored => rw [exec_wldRbaseWrite, State.rbasePut_enabled h]
  case cprogIgnored => rw [exec_wldCprogWrite, State.cprogPut_enabled h]
  case cprog => rw [exec_wldCprogWrite, State.cprogPut_disabled h]
  case rbase =>
    refine ⟨_, (exec_wldRbaseWrite w r v s).trans (congrArg _ (State.rbasePut_disabled h hr v)), ?_, fun q hq => ?_, fun u hu => ?_⟩
    · rw [world_modWorld]
      exact State.ring_withRing _ _ _
    · rw [world_modWorld]
      exact State.ring_withRing_ne _ hq _
    · rw [State.modWorld_eq, State.world_setWorld_ne _ _ _ _ hu]
  case idle => rw [exec_wldNotifyWrite, State.notifyPut_idle h]
  case bad => exact (exec_wldNotifyWrite w r v s).trans (congrArg _ (State.notifyPut_bad hr hst htdi hen hbad))
  case quiet => exact (exec_wldNotifyWrite w r v s).trans (congrArg _ (State.notifyPut_quiet hr hst htdi hen hhead htail h))
  case posts => exact (exec_wldNotifyWrite w r v s).trans (congrArg _ (State.notifyPut_posts hr hst htdi hen hhead htail hv hunread hempty))

end Sys2Proof.Machine
end

section
/-! The end of a launch (R134), what a stopped team does (R441, R461), its rollback (R463), and the release of staged entries by
the Varnish (R427 to R429, R510). -/

namespace Sys2Proof.Machine

namespace State

/-! Completion -/

section
variable {s : State} {l : Nat}

theorem completeLaunch_unfinished (h : s.finished l = false) : s.completeLaunch l = s := if_pos (by simp [h])

/-- With a free entry, and none of its world held, the launch's event enters the queue. -/
theorem completeLaunch_enters (h : s.finished l = true) (hroom : s.eventRoom (s.launch l).world = true)
    (hheld : ∀ e ∈ (s.slice (s.launch l).ctl).heldEvents, e.world ≠ (s.launch l).world) :
    s.completeLaunch l = ((s.setLaunch l { s.launch l with
      st := .done, doneSeq := s.launches.foldl (fun n e => max n e.2.doneSeq) 0 + 1, raceHeld := false, raceWords := [],
      returning := [] }).enterEvent (s.launch l).world (launchEvent (s.launch l))).decide' (s.launch l).ctl := by
  have hnone : ((s.slice (s.launch l).ctl).heldEvents.any fun e => e.world == (s.launch l).world) = false := by simpa using hheld
  refine (if_neg (by simp [h])).trans ?_
  exact if_pos (by simp [hroom, hnone])

section
variable (h : s.finished l = true) (hroom : s.eventRoom (s.launch l).world = false)
include h hroom

theorem completeLaunch_full :
    s.completeLaunch l = if (s.launch l).st = .holding then s
      else (s.setLaunch l { s.launch l with st := .holding }).decide' (s.launch l).ctl := by
  refine (if_neg (by simp [h])).trans ?_
  exact if_neg (by simp [hroom])

/-- A full queue holds the launch. -/
theorem completeLaunch_holds (hst : (s.launch l).st ≠ .holding) :
    s.completeLaunch l = (s.setLaunch l { s.launch l with st := .holding }).decide' (s.launch l).ctl := by
  rw [completeLaunch_full h hroom, if_neg hst]

theorem completeLaunch_held (hst : (s.launch l).st = .holding) : s.completeLaunch l = s := by
  rw [completeLaunch_full h hroom, if_pos hst]

end

end

theorem launchEvent_complete {l : Launch} (h : l.fail = none) :
    launchEvent l = { type := 1, world := l.world, cookie := l.record.cookie, count := l.retired % 2 ^ 32 } := by
  unfold launchEvent
  rw [h]

theorem launchEvent_failed {l : Launch} {st code team : Nat} (h : l.fail = some (st, code, team)) :
    launchEvent l = { type := 2, status := st, world := l.world, aux := code, cookie := l.record.cookie, count := l.retired % 2 ^ 32,
                      team := team % 2 ^ 32 } := by
  unfold launchEvent
  rw [h]

/-! Rollback -/

section
variable {s : State} {t : Nat}

theorem rollbackTeam_unasked (h : (s.team t).rollback = none) : s.rollbackTeam t = s := by
  unfold rollbackTeam
  simp only [h]

/-- A resident team with no pass and no piece in flight rolls back, unless it can roll back no more. -/
theorem rollbackTeam_ready {code addr unit : Nat} {tier : Bool} (h : (s.team t).rollback = some (code, addr, unit, tier))
    (hst : (s.team t).st = .resident) (hready : s.rollbackReady t = true) : s.rollbackTeam t =
      if (s.team t).overflow = true ∨ (s.team t).rollbacks = 2 then
        (s.faultErrorRecord 0x05 t 1 code addr (if code = 0x0A then 3 else unit) tier).endTeam t code
      else s.rollBack t := by
  unfold rollbackTeam
  simp only [h, hst, hready, ne_eq, not_true_eq_false, decide_false, Bool.not_true, Bool.or_self, Bool.false_eq_true, if_false,
    Bool.or_eq_true, decide_eq_true_eq]

end

/-! The Varnish -/

/-- The team that the Varnish releases has retired; in an ordered launch it is the next one (R427, R429). -/
theorem varnishTeam_some {s : State} {l t : Nat} (h : s.varnishTeam l = some t) :
    ∃ x, (t, x) ∈ s.teams ∧ x.st = .retired ∧ x.launch = l ∧ ((s.launch l).ordered = true → x.index = (s.launch l).released) := by
  obtain ⟨⟨u, x⟩, hfind, rfl⟩ := Option.map_eq_some_iff.1 h
  have hx := List.find?_some hfind
  simp only [Bool.and_eq_true, Bool.or_eq_true, beq_iff_eq, Bool.not_eq_true'] at hx
  obtain ⟨⟨⟨hlaunch, hst⟩, -⟩, hnext⟩ := hx
  refine ⟨x, List.mem_of_find?_eq_some hfind, hst, hlaunch, fun hord => hnext.resolve_left ?_⟩
  simp [hord]

/-- Once every entry is written out, the team is gone and counts as released. -/
theorem releaseTeam_whole {s u : State} {l t : Nat} (h : s.performAll t (s.team t).staged = (u, [], none)) :
    s.releaseTeam l t = ((((u.modTeam t fun y => { y with st := .gone, staged := [], releasing := false }).modLaunch l
      fun y => { y with released := y.released + 1 }).pushOnce (.varnishRelease l)).pushOnce (.launchComplete l)).decide'
        (((u.modTeam t fun y => { y with st := .gone, staged := [], releasing := false }).modLaunch l
          fun y => { y with released := y.released + 1 }).launch l).ctl := by
  unfold releaseTeam
  simp only [h]
  rfl

section
variable {s u : State} {t : Nat} {e : Staged} (es : List Staged)

theorem performAll_done (h : s.perform t e = (u, .done)) : s.performAll t (e :: es) = u.performAll t es := by
  rw [performAll, h]
theorem performAll_full (h : s.perform t e = (u, .full)) : s.performAll t (e :: es) = (u, e :: es, none) := by
  rw [performAll, h]
theorem performAll_failed {c : Nat} (h : s.perform t e = (u, .failed c)) :
    s.performAll t (e :: es) = (u.releaseRecord t e c, es, some c) := by
  rw [performAll, h]

/-- A plain write lands in slice HBM, where no host line stands. -/
theorem perform_write {bs : List Byte} {a : Nat} (hop : e.op = .write bs) (htarget : e.target = .device a) (hsealed : e.sealed = false) :
    s.perform t e = (((s.l1DropRange (s.team t).core .hbm a bs.length).write .hbm a bs).poisonAt .hbm a e.poison, .done) := by
  have hperform : s.perform t e = (s.performAt t e .hbm a, .done) := by
    unfold perform
    simp only [hop, htarget, hsealed]
  rw [hperform]
  unfold performAt Staged.extent
  simp only [hop, holdHost_ne _ _ _ _ _ _ (by decide : Space.hbm ≠ .host)]

end

end State

/-! The operations -/

theorem exec_launchComplete (l : Nat) (s : State) : exec (.launchComplete l) s = .next (s.completeLaunch l) := rfl
theorem exec_rollback (t : Nat) (s : State) : exec (.rollback t) s = .next (s.rollbackTeam t) := rfl

theorem exec_varnishRelease_none {s : State} {l : Nat} (h : s.varnishTeam l = none) : exec (.varnishRelease l) s = .next s := by
  show execVarnishRelease l s = _
  unfold execVarnishRelease
  rw [h]
theorem exec_varnishRelease_some {s : State} {l t : Nat} (h : s.varnishTeam l = some t) :
    exec (.varnishRelease l) s = .next (s.releaseTeam l t) := by
  show execVarnishRelease l s = _
  unfold execVarnishRelease
  rw [h]

section
variable {s : State} {t : Nat} (hst : (s.team t).st = .resident) (hroll : (s.team t).rollback = none)
include hst hroll

/-- CONTEXT_SAVE of a resident team that no rollback waits for: the end comes first, then a save, then the snapshot. -/
theorem exec_contextSave : exec (.contextSave t) s =
    if (s.team t).ending then
      if s.teamStopped t then .next ((s.removeTeam t).pushOnce (.launchComplete (s.team t).launch)) else .next s
    else match (s.team t).savePending with
      | some k => if s.clusterStopped t then .next (s.saveTeam t k) else .next s
      | none => if (s.team t).snapshot && s.seqStopped t then .next (s.commitInterval t) else .next s :=
  if_neg (by simp [hst, hroll])

theorem exec_contextSave_ends (hend : (s.team t).ending = true) (hstop : s.teamStopped t = true) :
    exec (.contextSave t) s = .next ((s.removeTeam t).pushOnce (.launchComplete (s.team t).launch)) := by
  rw [exec_contextSave hst hroll, if_pos hend, if_pos hstop]

section
variable (hend : (s.team t).ending = false)
include hend

theorem exec_contextSave_saves {k : Nat} (hsave : (s.team t).savePending = some k) :
    exec (.contextSave t) s = .next (if s.clusterStopped t then s.saveTeam t k else s) := by
  rw [exec_contextSave hst hroll, if_neg (by simp [hend]), hsave]
  exact (apply_ite _ _ _ _).symm

theorem exec_contextSave_snapshot (hsave : (s.team t).savePending = none) : exec (.contextSave t) s =
    .next (if (s.team t).snapshot = true ∧ s.seqStopped t = true then s.commitInterval t else s) := by
  rw [exec_contextSave hst hroll, if_neg (by simp [hend]), hsave]
  simp only [Bool.and_eq_true]
  exact (apply_ite _ _ _ _).symm

end

end

/-- Settles O50: each clause is the branch of the operation, or the step of the release, that its premises choose. -/
theorem completionAndRelease : Obligations.CompletionAndRelease := by
  unfold Obligations.CompletionAndRelease
  refine ⟨fun s l h => ?unfinished, fun s l h hroom hheld => ?enters, fun s l h hroom => ⟨fun hst => ?holds, fun hst => ?held⟩,
    fun l h => ?complete, fun l st code team h => ?failed,
    fun s t hst hroll => ⟨fun hend hstop => exec_contextSave_ends hst hroll hend hstop,
      fun k hend hsave => exec_contextSave_saves hst hroll hend hsave, fun hend hsave hsnap hstop => ?commits,
      fun hend hsave hsnap => ?stays⟩,
    fun s t h => ?unasked, fun s t code addr unit tier h hst hready => ⟨fun hno => ?exhausted, fun hover hcount => ?rolls⟩,
    fun s l h => exec_varnishRelease_none h, fun s l t h => State.varnishTeam_some h, fun s u l t h hall => ?released,
    fun s t e es u => ⟨State.performAll_done es, State.performAll_full es, fun c => State.performAll_failed es⟩,
    fun s t e bs a hop htarget hsealed => State.perform_write hop htarget hsealed⟩
  case unfinished => rw [exec_launchComplete, State.completeLaunch_unfinished h]
  case enters => exact ⟨_, (exec_launchComplete l s).trans (congrArg _ (State.completeLaunch_enters h hroom hheld))⟩
  case holds => rw [exec_launchComplete, State.completeLaunch_holds h hroom hst]
  case held => rw [exec_launchComplete, State.completeLaunch_held h hroom hst]
  case complete =>
    rw [State.launchEvent_complete h]
    exact ⟨rfl, rfl, rfl⟩
  case failed =>
    rw [State.launchEvent_failed h]
    exact ⟨rfl, rfl, rfl, rfl, rfl⟩
  case commits => rw [exec_contextSave_snapshot hst hroll hend hsave, if_pos ⟨hsnap, hstop⟩]
  case stays => rw [exec_contextSave_snapshot hst hroll hend hsave, if_neg (by simp [hsnap])]
  case unasked => rw [exec_rollback, State.rollbackTeam_unasked h]
  case exhausted => rw [exec_rollback, State.rollbackTeam_ready h hst hready, if_pos hno]
  case rolls => rw [exec_rollback, State.rollbackTeam_ready h hst hready, if_neg (by simp [hover, hcount])]
  case released => rw [exec_varnishRelease_some h, State.releaseTeam_whole hall]

end Sys2Proof.Machine
end

section
/-! The step (R124, R205, R371): what the agenda, the due operations and the agents make of it, and the words that a fetch reads
(R155, R156). -/

namespace Sys2Proof.Machine

/-! The word that an agent executes -/

section
variable {s : State} {cls : Nat} {ws : List Word}

theorem issueWord_ok {i : Instr} (h : s.wordsAt = some (cls, ws)) (hd : decodeWords cls ws = .ok i) : issueWord s = exec i s := by
  unfold issueWord
  simp only [h, hd]

theorem issueWord_error {e : Reject} (h : s.wordsAt = some (cls, ws)) (hd : decodeWords cls ws = .error e) :
    issueWord s = exec (.unassignedOpcode ((ws.headD 0).extractLsb' 24 8)) s := by
  unfold issueWord
  simp only [h, hd]

end

/-! The moves of the agents -/

section
variable {s : State}

theorem wordsAt_gang {g : Nat} {x : Gang} (h : s.gang g = some x) :
    ({ s with cur := some (.gang g) } : State).wordsAt = some (x.clause.cls, x.clause.words.drop x.clause.pos) :=
  congrArg (Option.map _) h
theorem wordsAt_seq {t : Nat} {cl : Clause} (h : (s.seqOf t).clause = some cl) :
    ({ s with cur := some (.seq t) } : State).wordsAt = some (cl.cls, cl.words.drop cl.pos) := congrArg (Option.map _) h
theorem wordsAt_prog {w : Nat} {cl : Clause} (h : (s.prog w).clause = some cl) :
    ({ s with cur := some (.prog w) } : State).wordsAt = some (cl.cls, cl.words.drop cl.pos) := congrArg (Option.map _) h

/-- A core that picks a gang issues its next word, and counts the cycle (R210). -/
theorem coreMove_gang {c g : Nat} {x : Gang} (hpick : s.pick c = some (.gang g)) (hx : s.gang g = some x) :
    coreMove s c = counted s c g x (issueWord { s with cur := some (.gang g) }) := by
  unfold coreMove
  simp only [hpick, hx]

theorem seqMove_clause {t : Nat} {cl : Clause} (hst : (s.seqOf t).st = .running) (hstop : (s.seqOf t).stopped = false)
    (ht : (s.team t).st = .resident) (hroll : (s.team t).rollback = none) (hask : s.asking (.seq t) = false)
    (hcl : (s.seqOf t).clause = some cl) : seqMove s t = issueWord { s with cur := some (.seq t) } := by
  unfold seqMove
  refine (if_neg (by simp [hst, hstop, ht, hroll, hask])).trans ?_
  simp only [hcl]

theorem progMove_clause {w : Nat} {cl : Clause} (hturn : s.turnWorld (s.world w).ctl = some w) (hready : s.progReady w = true)
    (hstart : (s.prog w).starting = false) (hcustom : (s.prog w).custom = true) (hcl : (s.prog w).clause = some cl) :
    progMove s w = issueWord { s.takeTurn w with cur := some (.prog w) } := by
  unfold progMove
  refine (if_neg (by simp [hturn, hready])).trans ((if_neg (by simp [hstart])).trans ((if_neg (by simp [hcustom])).trans ?_))
  simp only [hcl]

end

/-- Taking the turn changes the slice only (R127). -/
theorem prog_takeTurn (s : State) (w v : Nat) : (s.takeTurn w).prog v = s.prog v := by
  unfold State.takeTurn
  dsimp only
  split <;> rfl

/-! The step -/

section
variable {s : State} {rest : List Move}

/-- An operation of the agenda is executed as it stands, frozen or not, if it is alive. -/
theorem step_event {i : Instr} (ha : s.agenda = .event i :: rest) :
    step s = if ({ s.begin with agenda := rest } : State).alive i then exec i { s.begin with agenda := rest }
      else .next { s.begin with agenda := rest } := by
  unfold step
  simp only [ha]
  rfl

section
variable (hm : s.moving = true)
include hm

theorem step_core {c : Nat} (ha : s.agenda = .core c :: rest) : step s = coreMove { s.begin with agenda := rest } c := by
  unfold step
  simp only [ha, hm, if_true]
  rfl
theorem step_seq {t : Nat} (ha : s.agenda = .seq t :: rest) : step s = seqMove { s.begin with agenda := rest } t := by
  unfold step
  simp only [ha, hm, if_true]
  rfl
theorem step_prog {w : Nat} (ha : s.agenda = .prog w :: rest) : step s = progMove { s.begin with agenda := rest } w := by
  unfold step
  simp only [ha, hm, if_true]
  rfl
theorem step_firm {c : Nat} {i : Instr} (ha : s.agenda = .firm c i :: rest) :
    step s = exec i { s.begin with agenda := rest, cur := some (.firm c) } := by
  unfold step
  simp only [ha, hm, if_true]
  rfl

theorem step_due {i : Instr} {is : List Instr} (ha : s.agenda = []) (hd : s.due = i :: is) :
    step s = exec i { s.begin with due := is } := by
  unfold step
  simp only [ha, hm, hd, Bool.not_true, Bool.false_eq_true, if_false]
theorem step_own (ha : s.agenda = []) (hd : s.due = []) : step s = ownMove s.begin := by
  unfold step
  simp only [ha, hm, hd, Bool.not_true, Bool.false_eq_true, if_false]

end

end

theorem ownMove_mover {s : State} {m : Move} (h : s.ownEvent = none) (hm : s.allMovers[s.turn % s.allMovers.length]? = some m) :
    ownMove s = runMove { s with turn := s.turn + 1 } m := by
  unfold ownMove
  simp only [h, hm]

theorem counted_issued {t : State} {g : Nat} (h : ((t.gang g).map (·.stalled)).getD false = false) (s : State) (c : Nat) (x : Gang) :
    counted s c g x (.next t) = .next (t.countProgress c (s.hasProgress x)) := by
  unfold counted
  simp only [h, Bool.false_eq_true, if_false]

/-! The words of a fetch -/

namespace State

/-- A word inside the agent's code whose place this device serves is its four little-endian bytes (R156). -/
theorem fetchWord_ok {s u v : State} {a : Agent} {va x : Nat} {p : Place} {lf : Bool} {sp : Space} {bs : List Byte} (hva : va % 4 = 0)
    (hlo : (s.codeOf a).1 ≤ va) (hhi : va + 4 ≤ (s.codeOf a).1 + (s.codeOf a).2)
    (htr : s.translate (s.worldOf a) (s.quadOf a) va .fetch false = (.ok (p, lf), u)) (hp : p.at? = some (sp, x))
    (hf : u.fetchLocal a sp x = (some bs, v)) : s.fetchWord a va = (.ok (BitVec.ofNat 32 (ofLe bs)), v) := by
  have hin : ¬ ((va < (s.codeOf a).1 || (s.codeOf a).1 + (s.codeOf a).2 < va + 4 : Bool) = true) := by
    simpa using And.intro hlo hhi
  unfold fetchWord
  refine (if_neg (by simp [hva])).trans ((if_neg hin).trans ?_)
  simp only [htr, hp, hf]

theorem fetchLocal_prog {s : State} {sp : Space} {x : Nat} (h : s.poisoned sp x 4 = false) (w : Nat) :
    s.fetchLocal (.prog w) sp x = (some (s.read sp x 4), s) := by
  unfold fetchLocal
  simp only [h, Bool.false_eq_true, if_false]

/-- Where no line of the core's instruction cache holds the place, the bytes are those of memory (R155). -/
theorem fetchBytes_miss {s : State} {core x : Nat} {sp : Space}
    (h : (s.icache.find? fun l => l.core == core && l.space == sp && l.line == x / 128) = none) :
    (s.fetchBytes core sp x).1 = s.read sp x 4 := by
  unfold fetchBytes
  simp only [h]
  split <;> rfl

/-- A team fetches from memory where no old value and no line of its core's instruction cache stands. -/
theorem fetchLocal_team {s : State} {a : Agent} {t lit x : Nat} {sp : Space} (ha : a = .lane t lit ∨ a = .seq t)
    (hold : s.oldWord t (s.team t).core sp x = none)
    (hline : (s.icache.find? fun l => l.core == (s.team t).core && l.space == sp && l.line == x / 128) = none)
    (hp : s.poisoned sp x 4 = false) : (s.fetchLocal a sp x).1 = some (s.read sp x 4) := by
  have hbytes := fetchBytes_miss hline
  rcases ha with rfl | rfl <;>
    simp only [fetchLocal, hold, hp, Bool.false_and, Bool.false_eq_true, if_false, hbytes]

/-- A word that was written reads back (R2). -/
theorem word_write (s : State) (sp : Space) (a : Nat) (w : BitVec 32) :
    BitVec.ofNat 32 (ofLe ((s.write sp a (leBytes 4 w.toNat)).read sp a 4)) = w := by
  have hread := read_write s sp a (leBytes 4 w.toNat)
  rw [leBytes_length] at hread
  rw [hread, ofLe_leBytes, Nat.mod_eq_of_lt (show w.toNat < 256 ^ 4 from w.isLt), BitVec.ofNat_toNat, BitVec.setWidth_eq]

end State

/-- Settles O3: each clause is the branch of the step that the agenda, the due operations or the turn choose, or of the fetch. -/
theorem stepRunsDecoded : Obligations.StepRunsDecoded := by
  unfold Obligations.StepRunsDecoded
  refine ⟨fun s rest c g x i ha hm hpick hx hd => ?core, fun s rest c g x e ha hm hpick hx hd => ?coreIllegal,
    fun s c g x t h => counted_issued h s c x, fun s rest t cl i ha hm hst hstop ht hroll hask hcl hd => ?seq,
    fun s rest w cl i ha hm hturn hready hstart hcustom hcl hd => ?prog, fun s rest c i ha hm => step_firm hm ha,
    fun s rest i ha halive => ?event, fun s rest i ha hm hd => step_due hm ha hd, fun s m ha hm hd hown hmove => ?own,
    fun s u v a va p lf sp x bs hva hlo hhi htr hp hf => State.fetchWord_ok hva hlo hhi htr hp hf,
    fun s w sp x h => State.fetchLocal_prog h w, fun s a t lit sp x ha hold hline hp => State.fetchLocal_team ha hold hline hp,
    State.word_write⟩
  case core =>
    exact (step_core hm ha).trans ((coreMove_gang hpick hx).trans (congrArg _ (issueWord_ok (wordsAt_gang hx) hd)))
  case coreIllegal =>
    exact (step_core hm ha).trans ((coreMove_gang hpick hx).trans (congrArg _ (issueWord_error (wordsAt_gang hx) hd)))
  case seq =>
    have hmove := seqMove_clause (s := { s.begin with agenda := rest }) hst hstop ht hroll hask hcl
    exact (step_seq hm ha).trans (hmove.trans (issueWord_ok (wordsAt_seq hcl) hd))
  case prog =>
    have hmove := progMove_clause (s := { s.begin with agenda := rest }) hturn hready hstart hcustom hcl
    have hplace := (congrArg Prog.clause (prog_takeTurn { s.begin with agenda := rest } w w)).trans hcl
    exact (step_prog hm ha).trans (hmove.trans (issueWord_ok (wordsAt_prog hplace) hd))
  case event => rw [step_event ha, if_pos halive]
  case own =>
    rw [step_own hm ha hd, ownMove_mover hown hmove]
    rfl

end Sys2Proof.Machine
end

section
/-! Decoding and encoding (R164 to R186): the words of every well-formed instruction read back, and the spec's example words. -/

namespace Sys2Proof.Laws.RoundTrip

/-- Every well-formed instruction reads back: the lemma of each constructor, in the order in which Instr declares them. -/
theorem statement_all (i : Instr) : Statement i :=
  Instr.rec (motive := Statement)
    create sliceReady templateTimeout destroy destroyingDone merge split splitTimeout attach detach quiesce resume reset
    worldReset resettingDone commandDone fatalSliceError functionLevelReset wldCtlEnSet wldCtlEnClear coldReset
    configurationRequest stage activate discard activationDone getVersion getCapabilities negotiateAlgorithms getDigests
    getCertificate challenge getMeasurements keyExchange finish endSession keyUpdate respondIfReady lockInterfaceRequest
    startInterfaceRequest stopInterfaceRequest chkey chstatus freezeReadout lifetimeCounterRead powerTelemetry
    firmwareStaging freeze freezeN counterCommit powerDown atsInvalidation prgResponse hdmRead hdmWrite hdmDecoderCommit
    hostSnoop ualinkInboundRead ualinkInboundWrite ualinkInboundAtomic ualinkResponse requestTimeout ualStationWrite
    routingEntryWrite segmentWrite wldTctxWrite wldRbaseWrite wldCprogWrite wldNotifyWrite slcAgeLimitWrite slcLendWrite
    slcQuantumWrite keyRotStart keyTagbaseWrite relStatWrite metPeriodWrite registerWrite track harvest exportWorld
    exportTimeout importWorld untrack decisionStep launchComplete turnEnd clauseFetch stallEnd groupSwap progressOverride
    joinTimeout mwaitTimeout quantumExpiry contextSave rollback varnishRelease replyRetry replyFail copyPieceComplete
    passGrant passComplete entryAge rotationStep correctedError uncorrectableError periodBoundary calendarSwitch haltGroup
    resumeGroup stepGroup haltTeam resumeTeam dbgReport dbgStatWrite dbgRdataRead dbgRdataWrite dbgWpWrite stageDone
    migrationCommandDone badcmd unassignedOpcode spdmUnsupportedRequest getDeviceInterfaceReport ideKm fqHeadWrite
    lineEviction powerLoss correctedMergeEnd sensorHour nop nopW2 rep mov movW2 movi moviW2 rget rgetW2 rput rputW2 iadd
    iaddW2 isub isubW2 iadd3 iaddco imul imulW2 imulhi imulhiW2 imad imadwide imin iminW2 imax imaxW2 iabs iabsW2 icmp icmpW2
    sel and andW2 or orW2 xor xorW2 andn andnW2 not notW2 lop3 shl shlW2 shr shrW2 sar sarW2 rotl rotlW2 funnel bfx bfxW2 bfi
    popc popcW2 clz clzW2 ctz ctzW2 brev brevW2 bzip2 bzip2W2 bzip3 bzip3W2 bunzip2 bunzip2W2 bunzip3 bunzip3W2 byteperm
    bytepermW2 iadd64 iadd64W2 shl64 shl64W2 shr64 shr64W2 lea leaW2 fadd faddW2 fsub fsubW2 fmul fmulW2 ffma fmin fminW2
    fmax fmaxW2 fcmp fcmpW2 fclass fclassW2 frnd frndW2 ffract ffractW2 fscale fscaleW2 fgetexp fgetexpW2 fgetman fgetmanW2
    hadd2 hadd2W2 hmul2 hmul2W2 hfma2 hmin2 hmin2W2 hmax2 hmax2W2 dot2 dot4 dadd daddW2 dmul dmulW2 dfma dcmp dcmpW2 cvt
    cvtpk cvtunpk draw drawW2 drawf drawfW2 drawn drawnW2 sample sampleW2 splitkey splitkeyW2 brk frcp frcpW2 frsq frsqW2
    fsqrt fsqrtW2 fexp2 fexp2W2 flog2 flog2W2 fsin fsinW2 fcos fcosW2 ftanh ftanhW2 reduce reduceW2 scan scanW2 vote voteW2
    ballot ballotW2 matchGroup matchW2 laneget lanegetW2 ld ldW2 st stW2 ldl ldlW2 stl stlW2 lds ldsW2 sts stsW2 ldc ldcW2
    stc stcW2 lda ldaW2 atom atomW2 cas atoms atomsW2 bankop redslot prefetch prefetchW2 fence fenceW2 tfence tfenceW2
    monitor monitorW2 tdset tdsetW2 copy copyW2 copyw copywW2 gather gatherW2 scatter scatterW2 combine combineW2 replay
    replayW2 chsend chsendW2 chrecv chrecvW2 beq bne blt bge bltn bgen bra braW2 brx call callW2 callx ret exit yield mwait
    mwaitW2 trap trapW2 trapfence tbar cbar arrive await mload mloadW2 mswap mswapW2 mstream mstreamW2 mvstream mvstreamW2
    mdist mdistW2 mtopk mtopkW2 mepi mepiW2 mdrain mdrainW2 mclear mclearW2 walk walkW2 endwalk endwalkW2 seqArrive seqAwait
    swait sqexit seqIadd seqIaddW2 seqIsub seqIsubW2 seqImul seqImulW2 seqImin seqIminW2 seqImax seqImaxW2 seqAnd seqAndW2
    seqOr seqOrW2 seqXor seqXorW2 seqShl seqShlW2 seqShr seqShrW2 seqMov seqMovW2 seqMovi seqMoviW2 seqBeq seqBne seqBlt
    seqBge seqBra seqBraW2 sread sreadW2 swrite swriteW2 launch launchW2 qread qreadW2 evread evreadW2 evwait signal signalW2
    tlbinv tlbinvW2 keyop keyopW2 i

/-- Well-formed instructions of one class with the same words are the same. -/
theorem encode_injective {i j : Instr} {cls : Nat} (hi : InClass cls i) (hj : InClass cls j) (hwi : i.wf = true) (hwj : j.wf = true)
    (h : encode i = encode j) : i = j := by
  have hdec := statement_all i cls hi hwi
  rw [h, statement_all j cls hj hwj] at hdec
  exact (Except.ok.inj hdec).symm

/-- An instruction stands in the class of its entry, and in every class if the entry's is that of BRK (R179). -/
theorem inClass_of_entry {i : Instr} {e : Entry} {cls : Nat} (he : entryOf i = some e) (hc : cls ≤ 6) (h : e.cls = cls ∨ e.cls = 7) :
    InClass cls i := by
  unfold InClass
  rw [he]
  exact ⟨hc, h⟩

/-- Settles O1: every constructor's round trip, and from it that the words of a class determine the instruction. -/
theorem decodeEncode : Obligations.DecodeEncode := by
  unfold Obligations.DecodeEncode
  refine ⟨fun i e cls he hc h hw => statement_all i cls (inClass_of_entry he hc h) hw, fun i j e f he hf hc hcls hwi hwj heq => ?_⟩
  exact encode_injective (inClass_of_entry he hc (.inl rfl)) (inClass_of_entry hf hc (.inl hcls.symm)) hwi hwj heq

/-- Settles O2: the decoder evaluates each example's words in their class. -/
theorem specWords : Obligations.SpecWords :=
  ⟨rfl, rfl, rfl, rfl, rfl, rfl, rfl, rfl, rfl, rfl, rfl, rfl⟩

end Sys2Proof.Laws.RoundTrip
end

section
/-! Transfers of control (R172, R275, R276): where branches, calls and returns go, and what a protected pair or a misaligned
register target makes of them. -/

namespace Sys2Proof.Machine

section
variable {i : Instr} {P : Env → State → Prop} {fn : LaneFn} (he : ∀ s, Machine.exec i s = runLanes (issueOp i) s fn)
include he

/-- An instruction that is never held back completes as its meaning answers. -/
theorem completes_of_lane {Q : Env → State → State × Res}
    (hq : ∀ E v s, P v s → fn E v s = Q v s ∧ (Q v s).2.retires = true) : Completes i P Q :=
  completes_of (ready := fun _ s => (s, true)) he (fun _ _ _ _ _ => rfl) fun _ _ _ _ => hq _ _ _

/-- And faults as its meaning answers. -/
theorem faults_of_lane {y : Env → State → Why} (hq : ∀ E v s, P v s → (fn E v s).2 = .fault (y v s)) : Faults i P y :=
  faults_of (ready := fun _ s => (s, true)) he (fun _ _ _ _ _ => rfl) fun _ _ _ _ => hq _ _ _

end

/-! Where a transfer goes -/

theorem codeAt_coe (hdr : Nat) (d : Int) : ((codeAt hdr d : Nat) : Int) = (hdr + d) % 2 ^ 52 :=
  wrapInt_coe 52 _

section
variable {v : Env} {s : State} {pc pc' : Nat}

/-- A transfer on which the copies of a protected pair agree (R275). -/
theorem transfer_agrees (h : v.prot = true → pc = pc') : transfer v s pc pc' = (s, .jump pc) := by
  refine if_neg fun hd => ?_
  rw [Bool.and_eq_true, bne_iff_ne] at hd
  exact hd.2 (h hd.1)

/-- One on which they disagree (R220). -/
theorem transfer_differs (hp : v.prot = true) (h : pc ≠ pc') : transfer v s pc pc' = (s, .fault { code := 0x0A, addr := v.pc }) :=
  if_pos (by rw [hp, Bool.true_and, bne_iff_ne]; exact h)

variable {k : Nat → State × Res} (hpair : v.prot = true → v.a % 2 ^ 52 = v.a' % 2 ^ 52)
include hpair

/-- The alignment of a register target is that of the register: its ignored bits are high ones. -/
theorem registerTarget_agrees :
    registerTarget v s k = if v.a % 4 ≠ 0 then (s, .fault { code := 0x07, addr := v.a % 2 ^ 52 }) else k (v.a % 2 ^ 52) := by
  have hdiff : ¬(v.prot && v.a % 2 ^ 52 != v.a' % 2 ^ 52) = true := by
    rw [Bool.and_eq_true, bne_iff_ne]
    exact fun hd => hd.2 (hpair hd.1)
  have halign : v.a % 2 ^ 52 % 4 = v.a % 4 := Nat.mod_mod_of_dvd _ (by decide)
  unfold registerTarget
  simp only [hdiff, halign, if_false, Bool.false_eq_true]

theorem registerTarget_aligned (h : v.a % 4 = 0) : registerTarget v s k = k (v.a % 2 ^ 52) :=
  (registerTarget_agrees hpair).trans (if_neg (not_not_intro h))

theorem registerTarget_misaligned (h : v.a % 4 ≠ 0) :
    registerTarget v s k = (s, .fault { code := 0x07, addr := v.a % 2 ^ 52 }) :=
  (registerTarget_agrees hpair).trans (if_pos h)

end

/-- A call whose push finds room and a place stores the return address and lowers SPTR (R77, R276). -/
theorem callTo_stores {v : Env} {s s1 : State} (hroom : 8 ≤ (s.laneOf v.who).sptr.toNat)
    (hstore : s.storePrivate v.who ((s.laneOf v.who).sptr.toNat - 8) (leBytes 8 v.next) = .ok s1) (pc : Nat) :
    callTo v s pc =
      (s1.modLaneOf v.who fun l => { l with sptr := BitVec.ofNat 32 ((s.laneOf v.who).sptr.toNat - 8) }, .jump pc) := by
  unfold callTo
  simp only [Nat.not_lt.2 hroom, if_false, hstore]

/-- A return whose load finds an aligned address goes there and raises SPTR (R77, R276). -/
theorem laneRet_loads {v : Env} {s s1 : State} {bs : List Byte}
    (hload : s.loadPrivate v.who (s.laneOf v.who).sptr.toNat 8 = (.ok bs, s1)) (halign : ofLe bs % 4 = 0) :
    laneRet v s =
      (s1.modLaneOf v.who fun l => { l with sptr := BitVec.ofNat 32 ((s.laneOf v.who).sptr.toNat + 8) }, .jump (ofLe bs % 2 ^ 52)) := by
  have hmod : ofLe bs % 2 ^ 52 % 4 = 0 := (Nat.mod_mod_of_dvd _ (by decide)).trans halign
  unfold laneRet
  simp only [hload, hmod, ne_eq, not_true_eq_false, if_false]

/-! The meanings of the class -/

/-- The meaning of a branch on the condition c of A and B. -/
def branchFn (c : Nat → Nat → Bool) (off : BitVec 32) : LaneFn := fun _ v s =>
  transfer v s (if c v.a v.b then codeAt v.hdr off.toInt else v.next) (if c v.a' v.b' then codeAt v.hdr off.toInt else v.next)

/-- A conditional branch runs the branch meaning of its own comparison. -/
theorem exec_branch {i : Opd → Opd → BitVec 32 → Instr} {c : Nat → Nat → Bool}
    (h : (i = .beq ∧ c = fun x y => x == y) ∨ (i = .bne ∧ c = fun x y => x != y) ∨ (i = .blt ∧ c = fun x y => decide (sext 32 x < sext 32 y)) ∨
      (i = .bge ∧ c = fun x y => decide (sext 32 y ≤ sext 32 x)) ∨ (i = .bltn ∧ c = fun x y => decide (x < y)) ∨
      (i = .bgen ∧ c = fun x y => decide (y ≤ x))) (a b : Opd) (off : BitVec 32) (s : State) :
    Machine.exec (i a b off) s = runLanes (issueOp (i a b off)) s (branchFn c off) := by
  rcases h with ⟨rfl, rfl⟩ | ⟨rfl, rfl⟩ | ⟨rfl, rfl⟩ | ⟨rfl, rfl⟩ | ⟨rfl, rfl⟩ | ⟨rfl, rfl⟩ <;> rfl

/-- The two copies of a pair that decide a branch differently go to different places, unless its target is the next header. -/
theorem branch_targets_differ {p q : Bool} {x y : Nat} (h : p ≠ q) (hxy : x ≠ y) : (if p then x else y) ≠ if q then x else y := by
  cases p <;> cases q
  · exact absurd rfl h
  · exact hxy.symm
  · exact hxy
  · exact absurd rfl h

/-- A call completes once its push finds room and a place. -/
theorem call_completes {i : Instr} {pc : Env → Nat} (he : ∀ s, Machine.exec i s = runLanes (issueOp i) s fun _ v s => callTo v s (pc v))
    (s1 : State) :
    Completes i (fun v s => 8 ≤ (s.laneOf v.who).sptr.toNat ∧
        s.storePrivate v.who ((s.laneOf v.who).sptr.toNat - 8) (leBytes 8 v.next) = .ok s1)
      fun v s => (s1.modLaneOf v.who fun l => { l with sptr := BitVec.ofNat 32 ((s.laneOf v.who).sptr.toNat - 8) }, .jump (pc v)) :=
  completes_of_lane he fun _ _ _ ⟨hroom, hstore⟩ => ⟨callTo_stores hroom hstore _, rfl⟩

/-- Settles O25: each instruction runs one of the meanings above, under the premises of its lemma. -/
theorem branches : Obligations.Branches := by
  unfold Obligations.Branches
  refine ⟨fun i c hi => ⟨fun a b off => ?taken, fun a b off => ?disagrees⟩, fun off => ?bra, fun off => ?braW2, fun f => ?brx,
    fun f => ?brxMisaligned, codeAt_coe, fun s1 i pc hi => ?call, fun s1 f => ?callx, fun s1 bs f => ?ret⟩
  case taken => exact completes_of_lane (exec_branch hi a b off) fun _ _ _ h => ⟨transfer_agrees fun hp => by rw [h hp], rfl⟩
  case disagrees =>
    refine faults_of_lane (exec_branch hi a b off) fun _ v s ⟨hp, hc, htarget⟩ => ?_
    exact congrArg Prod.snd (transfer_differs hp (branch_targets_differ hc htarget))
  case bra => exact completes_of_lane (fun _ => rfl) fun _ _ _ _ => ⟨rfl, rfl⟩
  case braW2 => exact completes_of_lane (fun _ => rfl) fun _ _ _ _ => ⟨rfl, rfl⟩
  case brx => exact completes_of_lane (fun _ => rfl) fun _ _ _ ⟨hpair, halign⟩ => ⟨registerTarget_aligned hpair halign, rfl⟩
  case brxMisaligned =>
    exact faults_of_lane (fun _ => rfl) fun _ _ _ ⟨hpair, halign⟩ => congrArg Prod.snd (registerTarget_misaligned hpair halign)
  case call => rcases hi with ⟨off, rfl, rfl⟩ | ⟨off, rfl, rfl⟩ <;> exact call_completes (fun _ => rfl) s1
  case callx =>
    refine completes_of_lane (fun _ => rfl) fun _ v s ⟨hpair, halign, hroom, hstore⟩ => ⟨?_, rfl⟩
    exact (registerTarget_aligned hpair halign).trans (callTo_stores hroom hstore _)
  case ret => exact completes_of_lane (fun _ => rfl) fun _ _ _ ⟨hload, halign⟩ => ⟨laneRet_loads hload halign, rfl⟩

end Sys2Proof.Machine
end

section
/-! Repeats (R173 to R175, R229): what REP opens, the breaches of R175, the place in the clause after a repeat, and the operands of
a repeat. -/

namespace Sys2Proof.Machine

/-- The repeats that a REP opens (R173). -/
def opened (count : BitVec 6) (sd sa sb sc : Bool) (stride : BitVec 2) : Rep :=
  { idx := 0, count := count.toNat + 1, sd := sd, sa := sa, sb := sb, sc := sc, stride := 2 ^ stride.toNat }

section
variable {count : BitVec 6} {sd sa sb sc : Bool} {stride : BitVec 2} {s : State} {a : Agent} {cl : Clause}
  (h : Alone (issueOp (.rep count sd sa sb sc stride)) s a cl)
include h

/-- REP in an agent that executes alone runs by the check of its own clause. -/
theorem exec_rep : exec (.rep count sd sa sb sc stride) s =
    runLanes (issueOp (.rep count sd sa sb sc stride)) s
      (fun _ _ s => (s, if repBreach cl [sd, sa, sb, sc] then .fault .illegal else .done))
      (opens := some (opened count sd sa sb sc stride)) := by
  have hexec : exec (.rep count sd sa sb sc stride) s = execRep count sd sa sb sc stride s := rfl
  rw [hexec, execRep, h.agents]
  rfl

theorem exec_rep_opens (hok : repBreach cl [sd, sa, sb, sc] = false) : exec (.rep count sd sa sb sc stride) s =
    .next (stepDone (issueOp (.rep count sd sa sb sc stride)) a cl s .done (some (opened count sd sa sb sc stride))) := by
  rw [exec_rep h, runLanes_step h _ _ rfl, hok]
  rfl

theorem exec_rep_refused (hbad : repBreach cl [sd, sa, sb, sc] = true) : exec (.rep count sd sa sb sc stride) s =
    .next (advance (countIssue (s.takeFault a .illegal) [a]) (cl.advance 1 (some (opened count sd sa sb sc stride))) []) := by
  rw [exec_rep h, runLanes_step h _ _ rfl, hbad]
  rfl

end

/-! The checks of R175 -/

section
variable {cl : Clause} {w : Word}

theorem repBreach_last (h : cl.words.length ≤ cl.pos + 1) (steps : List Bool) : repBreach cl steps = true := by
  unfold repBreach
  rw [List.getElem?_eq_none h]

theorem repBreach_rep (hw : cl.words[cl.pos + 1]? = some w) (hop : w.extractLsb' 24 8 = 0x01#8) (steps : List Bool) :
    repBreach cl steps = true := by
  unfold repBreach
  rw [hw]
  simp only [hop]
  rfl

/-- MOVI has D alone: its other bytes are the literal. -/
theorem repBreach_movi (hw : cl.words[cl.pos + 1]? = some w) (hop : w.extractLsb' 24 8 = 0x03#8 ∨ w.extractLsb' 24 8 = 0x83#8)
    (sd sa sb sc : Bool) :
    repBreach cl [sd, sa, sb, sc] = (sa || sb || sc || (sd && decide (0xF0 ≤ (w.extractLsb' 16 8).toNat))) := by
  have hany : [sa, sb, sc].any id = (sa || sb || sc) := by simp [Bool.or_assoc]
  unfold repBreach
  rw [hw, ← hany]
  rcases hop with hop | hop <;>
  · simp only [hop]
    rfl

end

/-! The place in the clause after a repeat (R174) -/

section
variable {cl : Clause} (len : Nat) (opens : Option Rep)

theorem Clause.advance_repeats {r : Rep} (h : cl.rep = some r) (hlt : r.idx + 1 < r.count) :
    cl.advance len opens = { cl with rep := some { r with idx := r.idx + 1 } } := by
  unfold Clause.advance
  rw [h]
  exact if_pos hlt

theorem Clause.advance_last {r : Rep} (h : cl.rep = some r) (hle : r.count ≤ r.idx + 1) :
    cl.advance len opens = { cl with rep := none, pos := cl.pos + len } := by
  unfold Clause.advance
  rw [h]
  exact if_neg (Nat.not_lt.2 hle)

theorem Clause.advance_single (h : cl.rep = none) : cl.advance len opens = { cl with rep := opens, pos := cl.pos + len } := by
  unfold Clause.advance
  rw [h]

end

/-! The operands of a repeat (R174) -/

/-- A register operand that steps stays a register, by so many further on. -/
theorem stepOpd_reg {n : Fin 240} {k : Nat} {o : Opd} (h : stepOpd (.reg n) k = some o) : ∃ m : Fin 240, o = .reg m ∧ m.val = n.val + k := by
  have h : (if hlt : n.val + k < 240 then some (Opd.reg ⟨n.val + k, hlt⟩) else none) = some o := h
  split at h
  · exact ⟨_, (Option.some.inj h).symm, rfl⟩
  · cases h

/-- And an index past v239 is no operand. -/
theorem stepOpd_past {n : Fin 240} {k : Nat} (h : 240 ≤ n.val + k) : stepOpd (.reg n) k = none := dif_neg (Nat.not_lt.2 h)

/-- How far a repeat moves an operand of w registers that it steps, or not. -/
def Rep.shift (r : Rep) (on : Bool) (w : Nat) : Nat := if on then r.idx * r.stride * w else 0

/-- The fields of a repeat are there when each operand is. -/
theorem stepFields_some {r : Rep} {e : Entry} {f f' : F2} (h : stepFields (some r) e f = some f') :
    stepOpd f.d (r.shift r.sd e.dw) = some f'.d ∧ stepOpd f.a (r.shift r.sa e.aw) = some f'.a ∧
      stepOpd f.b (r.shift r.sb e.bw) = some f'.b ∧ stepOpd f.c (r.shift r.sc e.cw) = some f'.c := by
  unfold stepFields at h
  dsimp only at h
  split at h
  · next hd ha hb hc =>
    cases h
    exact ⟨hd, ha, hb, hc⟩
  · cases h

/-- A destination past v239 leaves no fields. -/
theorem stepFields_past {r : Rep} {e : Entry} {f : F2} (h : stepOpd f.d (r.shift r.sd e.dw) = none) : stepFields (some r) e f = none := by
  cases hf : stepFields (some r) e f with
  | none => rfl
  | some f' => exact absurd (h.symm.trans (stepFields_some hf).1) nofun

/-- Settles O27: each clause is the lemma above about REP's step, its checks, the next place or the stepped operands. -/
theorem repeats : Obligations.Repeats := by
  unfold Obligations.Repeats
  refine ⟨fun _ _ _ _ _ _ _ _ _ h => exec_rep_opens h, fun _ _ _ _ _ _ _ _ _ h => exec_rep_refused h,
    fun _ steps h => repBreach_last h steps, fun _ steps _ hw hop => repBreach_rep hw hop steps,
    fun _ sd sa sb sc _ hw hop => repBreach_movi hw hop sd sa sb sc, fun _ len opens _ h => Clause.advance_repeats len opens h,
    fun _ len opens _ h => Clause.advance_last len opens h, fun _ len opens h => Clause.advance_single len opens h,
    fun r e f f' h => ?stepped, fun r e f n hd hon hpast => ?past⟩
  case stepped =>
    obtain ⟨hd, ha, hb, hc⟩ := stepFields_some h
    exact ⟨fun n hn => stepOpd_reg (hn ▸ hd), fun n hn => stepOpd_reg (hn ▸ ha), fun n hn => stepOpd_reg (hn ▸ hb),
      fun n hn => stepOpd_reg (hn ▸ hc)⟩
  case past =>
    refine stepFields_past ?_
    rw [hd, hon]
    exact stepOpd_past hpast

end Sys2Proof.Machine
end

section
/-! The operations and events of issue (R177, R178, R203, R204, R210, R213, R279): what a swap does to the slots, when the override
and the timeouts act, and the fault of a word that is no instruction. -/

namespace Sys2Proof.Machine

/-! Swaps -/

section
variable {s : State} {c slot : Nat} {p : Nat × Nat}

theorem exec_groupSwap (hp : s.oldestPending c = some p) (hslot : slot < 8) (hopen : s.slotOpen c slot = true) :
    exec (.groupSwap c slot) s = .next (s.swapIn c slot p) := by
  have hexec : exec (.groupSwap c slot) s = execGroupSwap c slot s := rfl
  have hgo : (decide (slot < 8) && s.slotOpen c slot) = true := by rw [hopen, decide_eq_true hslot, Bool.true_and]
  rw [hexec, execGroupSwap, hp]
  exact if_pos hgo

theorem exec_groupSwap_none (hp : s.oldestPending c = none) (slot : Nat) : exec (.groupSwap c slot) s = .next s := by
  have hexec : exec (.groupSwap c slot) s = execGroupSwap c slot s := rfl
  rw [hexec, execGroupSwap, hp]

namespace State

theorem swapIn_empty (h : s.slotGroup c slot = none) (p : Nat × Nat) : s.swapIn c slot p = s.setSlot p (some slot) := by
  unfold swapIn
  rw [h]

theorem swapIn_held {q : Nat × Nat} (h : s.slotGroup c slot = some q) (p : Nat × Nat) :
    s.swapIn c slot p = (s.setSlot q none).setSlot p (some slot) := by
  unfold swapIn
  rw [h]

/-- A group holds the slot that it was given, or none. -/
theorem slot_setSlot (h : p.2 < (s.team p.1).groups.length) (x : Option Nat) :
    (((s.setSlot p x).team p.1).groups.getD p.2 {}).slot = x := by
  unfold setSlot
  rw [modTeam_eq, team_setTeam]
  simp [h]

/-- Slots are no memory. -/
theorem sameMemory_setSlot (s : State) (p : Nat × Nat) (x : Option Nat) : SameMemory s (s.setSlot p x) :=
  sameMemory_of_bytesOf fun _ => bytesOf_setTeam _ _ _ _ rfl rfl

end State

end

/-! The progress override (R210) -/

section
variable {s : State} {c : Nat}

theorem exec_progressOverride_below (h : s.progress.get 0 c < 1024) : exec (.progressOverride c) s = .next s := if_pos h

/-- The state in which the override of a core is marked. -/
def State.overriding (s : State) (c : Nat) : State :=
  { s with override := if s.override.contains c then s.override else s.override ++ [c] }

theorem overriding_marked (h : s.override.contains c = true) : s.overriding c = s := by
  unfold State.overriding
  rw [if_pos h]

theorem overriding_new (h : s.override.contains c = false) : s.overriding c = { s with override := s.override ++ [c] } := by
  unfold State.overriding
  rw [if_neg (Bool.eq_false_iff.1 h)]

variable {t lit : Nat} (h : 1024 ≤ s.progress.get 0 c) (hlane : s.progressLane c = some (t, lit))
include h hlane

/-- From C = 1,024 on the override marks the core; a progress lane whose group holds a slot needs no more. -/
theorem exec_progressOverride_active (hactive : s.groupActive t lit = true) :
    exec (.progressOverride c) s = .next (s.overriding c) := by
  have hexec : exec (.progressOverride c) s = execProgressOverride c s := rfl
  have hlane : (s.overriding c).progressLane c = some (t, lit) := hlane
  have hactive : (s.overriding c).groupActive t lit = true := hactive
  unfold State.overriding at hlane hactive ⊢
  simp only [hexec, execProgressOverride, Nat.not_lt.2 h, hlane, hactive, if_true, if_false]

/-- Else its group takes the slot that may be displaced. -/
theorem exec_progressOverride_swaps {slot : Nat} (hactive : s.groupActive t lit = false) (hslot : s.displaceable c = some slot) :
    exec (.progressOverride c) s = .next ((s.overriding c).swapIn c slot (t, lit / (s.launchOf t).width)) := by
  have hexec : exec (.progressOverride c) s = execProgressOverride c s := rfl
  have hlane : (s.overriding c).progressLane c = some (t, lit) := hlane
  have hactive : (s.overriding c).groupActive t lit = false := hactive
  have hslot : (s.overriding c).displaceable c = some slot := hslot
  unfold State.overriding at hlane hactive hslot ⊢
  simp only [hexec, execProgressOverride, Nat.not_lt.2 h, hlane, hactive, hslot, if_false, Bool.false_eq_true]
  rfl

end

/-! Stalls and timeouts (R158, R213, R279) -/

section
variable {s : State}

theorem exec_stallEnd {c g : Nat} {x : Gang} (hg : s.gang g = some x) (hc : x.core = c) :
    exec (.stallEnd c g) s = .next { s with gangs := s.gangs.insert g { x with stalled := false } } := by
  have hexec : exec (.stallEnd c g) s = execStallEnd c g s := rfl
  rw [hexec, execStallEnd, hg]
  exact if_pos hc

variable {t lit : Nat}

theorem exec_joinTimeout (hst : (s.lane t lit).st = .join) (hdue : (s.lane t lit).since + 64 ≤ s.cycle) :
    exec (.joinTimeout t lit) s = .next (s.modLane t lit fun l => { l with st := .ready, readyAt := s.cycle, passJ := true }) :=
  if_pos (by rw [decide_eq_true hst, decide_eq_true hdue, Bool.true_and])

theorem exec_joinTimeout_early (h : s.cycle < (s.lane t lit).since + 64) : exec (.joinTimeout t lit) s = .next s :=
  if_neg (by rw [decide_eq_false (Nat.not_le.2 h), Bool.and_false]; exact Bool.false_ne_true)

theorem exec_mwaitTimeout (hst : (s.lane t lit).st = .mwait) (hlimit : (s.lane t lit).mwLimit ≠ 0)
    (hdue : (s.lane t lit).since + (s.lane t lit).mwLimit ≤ s.cycle) :
    exec (.mwaitTimeout t lit) s = .next (s.modLane t lit fun l => { l with st := .ready, readyAt := s.cycle, woken := some 1 }) :=
  if_pos (by rw [decide_eq_true hst, decide_eq_true hlimit, decide_eq_true hdue]; rfl)

theorem exec_mwaitTimeout_early
    (h : (s.lane t lit).mwLimit = 0 ∨ s.cycle < (s.lane t lit).since + (s.lane t lit).mwLimit) :
    exec (.mwaitTimeout t lit) s = .next s := by
  refine if_neg fun hgo => ?_
  simp only [Bool.and_eq_true, decide_eq_true_eq] at hgo
  obtain ⟨⟨-, hlimit⟩, hdue⟩ := hgo
  exact h.elim hlimit (Nat.not_lt.2 hdue)

end

/-! A word that is no instruction (R177, R178) -/

theorem exec_unassigned_alone {s : State} {a : Agent} {cl : Clause} (hag : agentsOf s = some ([a], cl)) (hact : acting s a = true)
    (hhalt : (s.laneOf a).haltReq = false) (op : BitVec 8) : exec (.unassignedOpcode op) s = .next (s.takeFault a .illegal) := by
  have hexec : exec (.unassignedOpcode op) s = execUnassignedOpcode op s := rfl
  have hcur : ∀ t, s.cur ≠ some (.seq t) := by
    intro t ht
    rw [agentsOf, ht] at hag
    cases hag
  rw [hexec]
  unfold execUnassignedOpcode
  split
  · next t ht => exact absurd ht (hcur t)
  · simp [hag, haltAtBoundary_of s a hhalt, hact]

theorem exec_unassigned_seq {s : State} {t : Nat} (h : s.cur = some (.seq t)) (op : BitVec 8) :
    exec (.unassignedOpcode op) s = .next (s.takeFault (.seq t) .illegal) := by
  have hexec : exec (.unassignedOpcode op) s = execUnassignedOpcode op s := rfl
  rw [hexec, execUnassignedOpcode, h]

/-- Settles O30: each clause is the lemma above about the operation in the state that it names. -/
theorem issueEvents : Obligations.IssueEvents := by
  unfold Obligations.IssueEvents
  refine ⟨fun _ _ _ _ hp hslot hopen => exec_groupSwap hp hslot hopen, fun s c slot p h hlen => ?slot,
    fun _ _ _ p _ h => State.swapIn_held h p, fun _ _ _ hlen => State.slot_setSlot hlen none,
    fun _ _ slot h => exec_groupSwap_none h slot, fun _ _ h => exec_progressOverride_below h,
    fun s c t lit h hnew hlane hactive => ?marks, fun s c t lit slot h hmarked hlane hactive hslot => ?swaps,
    fun _ _ _ _ hg hc => exec_stallEnd hg hc, fun _ _ _ hst hdue => exec_joinTimeout hst hdue,
    fun _ _ _ h => exec_joinTimeout_early h, fun _ _ _ hst hlimit hdue => exec_mwaitTimeout hst hlimit hdue,
    fun _ _ _ h => exec_mwaitTimeout_early h, fun _ op _ _ hag hact hhalt => exec_unassigned_alone hag hact hhalt op,
    fun _ op _ h => exec_unassigned_seq h op⟩
  case slot =>
    rw [State.swapIn_empty h]
    exact ⟨State.slot_setSlot hlen (some slot), State.sameMemory_setSlot s p (some slot)⟩
  case marks => rw [exec_progressOverride_active h hlane hactive, overriding_new hnew]
  case swaps => rw [exec_progressOverride_swaps h hlane hactive hslot, overriding_marked hmarked]

end Sys2Proof.Machine
end

section
/-! Fetching a clause (R155, R156, R158, R176, R205, R206, R371): the checks of its words, and where a sequencer, a control program or
the lanes at a header then stand. -/

namespace Sys2Proof.Machine

/-! Words and headers -/

section
variable {s : State} {a : Agent} {va : Nat}

theorem fetchWord_misaligned (h : va % 4 ≠ 0) : s.fetchWord a va = (.error (.fault { code := 0x07, flags := 4, addr := va }), s) := if_pos h

theorem fetchWord_outside (h4 : va % 4 = 0) (h : va < (s.codeOf a).1 ∨ (s.codeOf a).1 + (s.codeOf a).2 < va + 4) :
    s.fetchWord a va = (.error (.fault { code := 0x02, flags := 4, addr := va }), s) := by
  have hout : (decide (va < (s.codeOf a).1) || decide ((s.codeOf a).1 + (s.codeOf a).2 < va + 4)) = true := by
    rw [Bool.or_eq_true, decide_eq_true_eq, decide_eq_true_eq]
    exact h
  exact (if_neg (not_not_intro h4)).trans (if_pos hout)

end

/-- A header that breaks one check of R176 makes no clause. -/
theorem clauseOk_false {h : Nat} {stream : Bool} (hbad : bits h 3 0 = 0 ∨ bits h 6 4 = 7 ∨ bits h 31 20 ≠ 0 ∨
    (stream = true ∧ bits h 6 4 ≠ 5) ∨ (stream = false ∧ bits h 6 4 = 5)) (ws : List Word) : clauseOk h ws stream = false := by
  have hcheck : (bits h 3 0 != 0 && bits h 6 4 != 7 && bits h 31 20 == 0 && stream == (bits h 6 4 == 5)) = false := by
    rcases hbad with hn | hcls | hhigh | ⟨hs, hcls⟩ | ⟨hs, hcls⟩
    · simp [hn]
    · simp [hcls]
    · simp [hhigh]
    · simp [hs, hcls]
    · simp [hs, hcls]
  unfold clauseOk
  rw [hcheck, Bool.false_and]

/-- A field of zeros has no bit. -/
theorem bit_of_bits_zero {x hi lo j : Nat} (h : bits x hi lo = 0) (hlo : lo ≤ j) (hhi : j ≤ hi) : bit x j = false := by
  have hbit : (bits x hi lo).testBit (j - lo) = x.testBit j := by
    rw [bits, Nat.testBit_mod_two_pow, Nat.testBit_div_two_pow, decide_eq_true (by omega), Bool.true_and, Nat.sub_add_cancel hlo]
  rw [bit_eq_testBit, ← hbit, h, Nat.zero_testBit]

/-- A header without WAIT waits on no token. -/
theorem waitsOn_none {h : Nat} (hw : bits h 14 9 = 0) (l : Lane) (st : TokSt) : State.waitsOn l h st = false := by
  unfold State.waitsOn
  rw [List.any_eq_false]
  intro k hk
  have hk := List.mem_range.1 hk
  rw [bit_of_bits_zero hw (by omega) (by omega), Bool.false_and]
  exact Bool.false_ne_true

/-! The sequencer and the control program -/

section
variable {s u : State} {c x hdr h : Nat} {ws : List Word}

theorem exec_fetch_seq {t : Nat} (hcur : s.cur = some (.seq t)) : exec (.clauseFetch c x hdr) s = .next (s.fetchSeq t) := by
  have hexec : exec (.clauseFetch c x hdr) s = execClauseFetch c x hdr s := rfl
  rw [hexec, execClauseFetch, hcur]

theorem exec_fetch_prog {w : Nat} (hcur : s.cur = some (.prog w)) : exec (.clauseFetch c x hdr) s = .next (s.fetchProg w) := by
  have hexec : exec (.clauseFetch c x hdr) s = execClauseFetch c x hdr s := rfl
  rw [hexec, execClauseFetch, hcur]

/-- A sequencer between clauses that is not to stop holds the clause it fetched at its first word (R158, R371). -/
theorem fetchSeq_holds {t : Nat} (hhalt : (s.seqOf t).haltReq = false) (hin : (s.seqOf t).inClause = false)
    (hf : s.fetchClause (.seq t) (s.seqOf t).pc = (.ok (h, ws), u)) (hgo : bit h 7 = false ∨ u.pausing t = false) :
    s.fetchSeq t = u.modSeq t fun q =>
      { q with clause := some (State.clauseOf (s.seqOf t).pc h ws 0 none), hdr := (s.seqOf t).pc, pc := (s.seqOf t).pc + 4, inClause := true,
               dist := if bit h 7 then 0 else q.dist } := by
  have hstop : (bit h 7 && u.pausing t) = false := Bool.and_eq_false_iff.2 hgo
  unfold State.fetchSeq
  simp only [hhalt, hin, hf, hstop, Bool.false_eq_true, if_false]

/-- So does a control program that waits on no token (R160). -/
theorem fetchProg_holds {w : Nat} (hf : s.fetchClause (.prog w) (s.prog w).lane.pc = (.ok (h, ws), u))
    (hwait : State.waitsOn (u.prog w).lane h .pending = false) :
    s.fetchProg w = u.modProg w fun p =>
      { p with clause := some (State.clauseOf (s.prog w).lane.pc h ws 0 none),
               lane := { p.lane with hdr := (s.prog w).lane.pc, pc := (s.prog w).lane.pc + 4, latches := [] } } := by
  unfold State.fetchProg
  simp only [hf, hwait, Bool.false_eq_true, if_false]

theorem fetchProg_error {w : Nat} {r : Res} (hf : s.fetchClause (.prog w) (s.prog w).lane.pc = (.error r, u)) :
    s.fetchProg w = u.takeRes (.prog w) r := by
  unfold State.fetchProg
  simp only [hf]

end

/-! The lanes at a header -/

/-- The lanes that fit the quartets of a core are some of those that were offered. -/
theorem takeQuartets_subset (width : Nat) (lits : List Nat) : takeQuartets width lits ⊆ lits := by
  unfold takeQuartets
  refine List.foldlRecOn (motive := fun acc : List Nat × List Nat => acc.1 ⊆ lits) lits _ (List.nil_subset _) ?_
  intro acc hacc lit hlit
  dsimp only
  split
  · exact List.append_subset.2 ⟨hacc, List.cons_subset.2 ⟨hlit, List.nil_subset _⟩⟩
  · split
    · exact List.append_subset.2 ⟨hacc, List.cons_subset.2 ⟨hlit, List.nil_subset _⟩⟩
    · exact hacc

/-- One change of several lanes of a team. -/
theorem OnlyLanes.foldl_modLane (T : Nat) (f : Lane → Lane) (lits : List Nat) (s : State) :
    OnlyLanes T s (lits.foldl (fun s lit => s.modLane T lit f) s) := by
  induction lits generalizing s with
  | nil => exact .refl T s
  | cons lit lits ih => exact (OnlyLanes.modLane s T lit f).trans (ih _)

namespace State

/-- A gang that starts is listed under the number that was next. -/
theorem startGang_gang {s u : State} {t : Nat} (hu : OnlyLanes t u s) (core : Nat) (lits : List Nat) (cl : Clause) (age : Nat) :
    (s.startGang core t lits cl age).gangs.look u.nextGang =
      some { core := core, team := t, lanes := lits, clause := cl, age := age, began := u.cycle } := by
  obtain ⟨teams, worlds, gangs, h⟩ := (hu.trans (OnlyLanes.foldl_modLane t (fun l =>
    { l with st := .ready, hdr := cl.hdr, inClause := true, pc := cl.at cl.pos, rep := cl.rep }) lits s)).rest
  unfold startGang
  rw [h]
  exact SMap.look_insert_self _ _ _

/-- Lanes that act, at a header without S, J and WAIT whose clause is not convergent, all start their gang (R205). -/
theorem enterClause_plain {s : State} {t h : Nat} {lits : List Nat} {ws : List Word} (hact : ∀ lit ∈ lits, acting s (.lane t lit) = true)
    (h7 : bit h 7 = false) (h8 : bit h 8 = false) (hw : bits h 14 9 = 0) (hconv : isConvergent (bits h 6 4) ws = false) (hne : lits ≠ [])
    (core hdr age : Nat) : ∃ u, OnlyLanes t s u ∧
      s.enterClause core t lits hdr h ws age = u.startGang core t lits (clauseOf hdr h ws 0 none) age := by
  refine ⟨_, OnlyLanes.foldl_modLane t (fun l => { l with latches := [], slatches := [], passJ := false, displaced := false }) lits s, ?_⟩
  have hall : lits.filter (fun lit => acting s (.lane t lit)) = lits := List.filter_eq_self.2 hact
  have htrue : ∀ l : List Nat, l.filter (fun _ => true) = l := fun _ => List.filter_eq_self.2 fun _ _ => rfl
  have hfalse : ∀ l : List Nat, l.filter (fun _ => false) = [] := fun _ => List.filter_eq_nil_iff.2 fun _ _ => Bool.false_ne_true
  have hempty : lits.isEmpty = false := by rwa [List.isEmpty_eq_false_iff]
  unfold enterClause
  simp only [h7, h8, hconv, waitsOn_none hw, takeAll, joinGroups, hall, hempty, htrue, hfalse, Bool.false_and, List.foldl_nil,
    List.contains_nil, Bool.not_false, Bool.true_and, List.isEmpty_nil, if_true, if_false, Bool.false_eq_true,
    List.map_nil, List.eraseDups_nil, List.any_eq_true, and_false, exists_false]

/-- The lanes that a gang led by lane lead takes: the free ones at its spot, within the quartets of the core (R206, R207). -/
def gangLanes (s : State) (t lead : Nat) : List Nat :=
  takeQuartets (s.launchOf t).width ((s.freeLanes t).filter fun lit => (s.lane t lit).sameSpot (s.lane t lead))

/-- Only free lanes of a team are taken. -/
theorem gangLanes_free {s : State} {t lead lit : Nat} (h : lit ∈ s.gangLanes t lead) : lit ∈ s.freeLanes t :=
  (List.mem_filter.1 (takeQuartets_subset _ _ h)).1

section
variable {s u : State} {c t hdr lead : Nat} (hcore : (s.team t).core = c) (hst : (s.team t).st = .resident)
  (hroll : (s.team t).rollback = none) (hhalt : ∀ lit, (s.lane t lit).haltReq = false) (hlead : s.leaderAt c t hdr = some lead)

include hhalt in
/-- No lane halts at the boundary when none is to. -/
theorem haltAtBoundary_none (lits : List Nat) : lits.foldl (fun s lit => haltAtBoundary s (.lane t lit)) s = s := by
  induction lits with
  | nil => rfl
  | cons lit lits ih => rw [List.foldl_cons, haltAtBoundary_of s (.lane t lit) (hhalt lit), ih]

include hcore hst hroll in
/-- Nothing keeps a core from a resident team of its own that is not about to roll back. -/
theorem fetchGang_allowed :
    (decide ((s.team t).core ≠ c) || decide ((s.team t).st ≠ .resident) || (s.team t).rollback.isSome) = false := by
  simp [hcore, hst, hroll]

include hcore hst hroll hhalt hlead

theorem fetchGang_enters {h : Nat} {ws : List Word} (hin : (s.lane t lead).inClause = false)
    (hf : s.fetchClause (.lane t lead) hdr = (.ok (h, ws), u)) :
    s.fetchGang c t hdr = u.enterClause c t (s.gangLanes t lead) hdr h ws (s.spotAge t lead) := by
  unfold fetchGang
  simp only [fetchGang_allowed hcore hst hroll, haltAtBoundary_none hhalt, hlead, hf, hin, Bool.false_eq_true, if_false]
  rfl

theorem fetchGang_error {r : Res} (hf : s.fetchClause (.lane t lead) hdr = (.error r, u)) :
    s.fetchGang c t hdr = (u.takeAll t (s.gangLanes t lead) r).joinGroups t (s.gangLanes t lead) := by
  unfold fetchGang
  simp only [fetchGang_allowed hcore hst hroll, haltAtBoundary_none hhalt, hlead, hf, Bool.false_eq_true, if_false]
  rfl

end
end State

theorem exec_fetch_gang {s : State} (hseq : ∀ t, s.cur ≠ some (.seq t)) (hprog : ∀ w, s.cur ≠ some (.prog w)) (c t hdr : Nat) :
    exec (.clauseFetch c t hdr) s = .next (s.fetchGang c t hdr) := by
  have hexec : exec (.clauseFetch c t hdr) s = execClauseFetch c t hdr s := rfl
  rw [hexec, execClauseFetch]
  split
  · next u hu => exact absurd hu (hseq u)
  · next w hw => exact absurd hw (hprog w)
  · rfl

/-- Settles O29: each clause is the lemma above about the word, the header or the agent that fetches. -/
theorem clauseFetches : Obligations.ClauseFetches := by
  unfold Obligations.ClauseFetches
  refine ⟨fun _ _ _ h => fetchWord_misaligned h, fun _ _ _ h4 h => fetchWord_outside h4 h, fun _ ws _ h => clauseOk_false h ws,
    fun c x s u t hdr h ws hcur hhalt hin hf hgo => ?seq, fun c x s u w hdr h ws hcur hf hwait => ?prog,
    fun c x s u w hdr r hcur hf => ?progError,
    fun s u c t hdr lead h ws hseq hprog hcore hst hroll hhalt hlead hin hf hact h7 h8 hw hconv hne => ?gang,
    fun s u c t hdr lead r hseq hprog hcore hst hroll hhalt hlead hf => ?gangError⟩
  case seq => rw [exec_fetch_seq hcur, fetchSeq_holds hhalt hin hf hgo]
  case prog => rw [exec_fetch_prog hcur, fetchProg_holds hf hwait]
  case progError => rw [exec_fetch_prog hcur, fetchProg_error hf]
  case gang =>
    have hacts : ∀ lit ∈ s.gangLanes t lead, acting u (.lane t lit) = true := fun lit hlit => hact lit (State.gangLanes_free hlit)
    obtain ⟨v, hv, henter⟩ := State.enterClause_plain hacts h7 h8 hw hconv hne c hdr (s.spotAge t lead)
    refine ⟨_, exec_fetch_gang hseq hprog c t hdr, ?_⟩
    rw [State.fetchGang_enters hcore hst hroll hhalt hlead hin hf, henter]
    exact State.startGang_gang hv c _ _ _
  case gangError =>
    rw [exec_fetch_gang hseq hprog, State.fetchGang_error hcore hst hroll hhalt hlead hf]
    rfl

end Sys2Proof.Machine
end

section
/-! The integer family of R224: an integer instruction computes its function of the operands in every lane, and raises no flag. -/

namespace Sys2Proof.Machine

/-- A meaning that runs an integer function computes it, with no flag (R224). -/
theorem computes_of_int {i : Instr} {g : BitVec 8 → Nat → Nat → Nat → Nat} (he : ∀ s, Machine.exec i s = runInt (issueOp i) s g) :
    Computes i fun f a b c => (g f.m a b c, 0) :=
  computes_of he

/-- Both forms at once. -/
theorem computesBoth_of_int {i : F1 → Instr} {j : F2 → Instr} {g : BitVec 8 → Nat → Nat → Nat → Nat}
    (hi : ∀ f s, Machine.exec (i f) s = runInt (issueOp (i f)) s g) (hj : ∀ f s, Machine.exec (j f) s = runInt (issueOp (j f)) s g) :
    ComputesBoth i j fun f a b c => (g f.m a b c, 0) :=
  ⟨fun f => computes_of_int (hi f), fun f => computes_of_int (hj f)⟩

/-- The conditions of R236's table. -/
theorem condHolds_table (x y : Int) :
    condHolds 0 x y = decide (x = y) ∧ condHolds 1 x y = decide (x ≠ y) ∧ condHolds 2 x y = decide (x < y) ∧
      condHolds 3 x y = decide (x ≤ y) ∧ condHolds 4 x y = decide (y < x) ∧ condHolds 5 x y = decide (y ≤ x) :=
  ⟨rfl, (decide_not (p := x = y)).symm, rfl, rfl, rfl, rfl⟩

/-- Settles O8: each instruction runs its function of R233 to R236, and the conditions are R236's table. -/
theorem integerArithmetic : Obligations.IntegerArithmetic := by
  unfold Obligations.IntegerArithmetic
  refine ⟨?iadd, ?isub, ?iadd3, ?imul, ?imulhi, ?imad, ?imin, ?imax, ?iabs, ?sel, ?iaddco, ?imadwide, ?icmp, condHolds_table⟩
  case iadd => exact computesBoth_of_int (g := fun m a b _ => aluIadd m a b) (fun _ _ => rfl) fun _ _ => rfl
  case isub => exact computesBoth_of_int (g := fun m a b _ => aluIsub m a b) (fun _ _ => rfl) fun _ _ => rfl
  case iadd3 => exact fun f => computes_of_int (g := aluIadd3) fun _ => rfl
  case imul => exact computesBoth_of_int (g := fun m a b _ => aluImul m a b) (fun _ _ => rfl) fun _ _ => rfl
  case imulhi => exact computesBoth_of_int (g := fun m a b _ => aluImulhi m a b) (fun _ _ => rfl) fun _ _ => rfl
  case imad => exact fun f => computes_of_int (g := aluImad) fun _ => rfl
  case imin => exact computesBoth_of_int (g := fun m a b _ => aluImin m a b) (fun _ _ => rfl) fun _ _ => rfl
  case imax => exact computesBoth_of_int (g := fun m a b _ => aluImax m a b) (fun _ _ => rfl) fun _ _ => rfl
  case iabs => exact computesBoth_of_int (g := fun m a _ _ => aluIabs m a) (fun _ _ => rfl) fun _ _ => rfl
  case sel => exact fun f => computes_of_int (g := fun _ => aluSel) fun _ => rfl
  case iaddco => exact fun f => computes_of_int (g := fun _ => aluIaddco) fun _ => rfl
  case imadwide => exact fun f => computes_of_int (g := aluImadwide) fun _ => rfl
  case icmp => exact computesBoth_of_int (g := fun m a b _ => aluIcmp m a b) (fun _ _ => rfl) fun _ _ => rfl

end Sys2Proof.Machine
end

section
/-! Logic and shifts (R237 to R239): the logic functions bit by bit. -/

namespace Sys2Proof.Machine

theorem bit_aluNot (a : Nat) {j : Nat} (h : j < 32) : bit (aluNot a) j = !bit a j := by
  have hcomp : aluNot a = 2 ^ 32 - (a % 2 ^ 32 + 1) := by
    unfold aluNot allOnes
    rw [Nat.sub_sub, Nat.add_comm]
  have hlow : a % 2 ^ 32 < 2 ^ 32 := Nat.mod_lt a (Nat.two_pow_pos 32)
  rw [bit_eq_testBit, bit_eq_testBit, hcomp, Nat.testBit_two_pow_sub_succ hlow, Nat.testBit_mod_two_pow]
  simp [h]

theorem bit_aluAndn (a b : Nat) {j : Nat} (h : j < 32) : bit (aluAndn a b) j = (bit a j && !bit b j) := by
  have hand : aluAndn a b = a &&& aluNot b := rfl
  rw [← bit_aluNot b h, hand, bit_eq_testBit, Nat.testBit_and, bit_eq_testBit, bit_eq_testBit]

/-- Each bit of LOP3 is the entry of its truth table that the three source bits name. -/
theorem bit_aluLop3 (m : BitVec 8) (a b c : Nat) {j : Nat} (h : j < 32) :
    bit (aluLop3 m a b c) j = m.getLsbD ((bit a j).toNat + 2 * (bit b j).toNat + 4 * (bit c j).toNat) := by
  unfold aluLop3
  rw [bit_ofBits, getD_map_range _ 32 j h, bit_toNat]

/-- Settles O10: each instruction runs its function of R237 to R239, and the logic functions act bit by bit. -/
theorem integerLogic : Obligations.IntegerLogic := by
  unfold Obligations.IntegerLogic
  refine ⟨?and, ?or, ?xor, ?andn, fun a b _ => bit_aluAndn a b, ?not, fun a _ => bit_aluNot a, ?lop3,
    fun m a b c _ => bit_aluLop3 m a b c, ?shl, ?shr, ?sar, ?rotl, ?funnel⟩
  case and => exact computesBoth_of_int (g := fun _ a b _ => a &&& b) (fun _ _ => rfl) fun _ _ => rfl
  case or => exact computesBoth_of_int (g := fun _ a b _ => a ||| b) (fun _ _ => rfl) fun _ _ => rfl
  case xor => exact computesBoth_of_int (g := fun _ a b _ => a ^^^ b) (fun _ _ => rfl) fun _ _ => rfl
  case andn => exact computesBoth_of_int (g := fun _ a b _ => aluAndn a b) (fun _ _ => rfl) fun _ _ => rfl
  case not => exact computesBoth_of_int (g := fun _ a _ _ => aluNot a) (fun _ _ => rfl) fun _ _ => rfl
  case lop3 => exact fun f => computes_of_int (g := aluLop3) fun _ => rfl
  case shl => exact computesBoth_of_int (g := fun m a b _ => aluShl 32 (m.getLsbD 0) a b) (fun _ _ => rfl) fun _ _ => rfl
  case shr => exact computesBoth_of_int (g := fun m a b _ => aluShr 32 (m.getLsbD 0) a b) (fun _ _ => rfl) fun _ _ => rfl
  case sar => exact computesBoth_of_int (g := fun m a b _ => aluSar 32 (m.getLsbD 0) a b) (fun _ _ => rfl) fun _ _ => rfl
  case rotl => exact computesBoth_of_int (g := fun _ a b _ => aluRotl a b) (fun _ _ => rfl) fun _ _ => rfl
  case funnel => exact fun f => computes_of_int (g := aluFunnel) fun _ => rfl

end Sys2Proof.Machine
end

section
/-! Bit fields, counts and interleaving (R240 to R243): the field that an operand names, the counts by the bits that they count, and
where each bit or byte of a result comes from. -/

namespace Sys2Proof.Machine

/-! Fields -/

theorem aluBfx_empty {b : Nat} (h : fieldLen b = 0) (m : BitVec 8) (a : Nat) : aluBfx m a b = 0 := by
  unfold aluBfx
  exact if_pos h

/-- The bits from p on of a field of l bits. -/
theorem bits_of_field {l : Nat} (h : 0 < l) (a p : Nat) : bits a (p + l - 1) p = a / 2 ^ p % 2 ^ l := by
  unfold bits
  rw [show p + l - 1 + 1 - p = l by omega]

theorem aluBfx_unsigned {m : BitVec 8} {b : Nat} (h : 0 < fieldLen b) (hu : m.getLsbD 0 = true) (a : Nat) :
    aluBfx m a b = bits a (fieldPos b + fieldLen b - 1) (fieldPos b) := by
  unfold aluBfx
  rw [bits_of_field h]
  simp only [Nat.ne_of_gt h, hu, if_true, if_false]

theorem aluBfx_signed {m : BitVec 8} {b : Nat} (h : 0 < fieldLen b) (hu : m.getLsbD 0 = false) (a : Nat) :
    aluBfx m a b = wrapInt 32 (sext (fieldLen b) (bits a (fieldPos b + fieldLen b - 1) (fieldPos b))) := by
  unfold aluBfx
  rw [bits_of_field h]
  simp only [Nat.ne_of_gt h, hu, if_false, Bool.false_eq_true]

/-- BFI's result has the low bits of A in the field, and those of C elsewhere (R240). -/
theorem bit_aluBfi (a b c j : Nat) :
    bit (aluBfi a b c) j = if fieldPos b ≤ j ∧ j < fieldPos b + fieldLen b then bit a (j - fieldPos b) else bit c j := by
  unfold aluBfi
  generalize fieldPos b = p
  generalize fieldLen b = l
  have hsum : c % 2 ^ p + a % 2 ^ l * 2 ^ p + c / 2 ^ (p + l) * 2 ^ (p + l) =
      2 ^ p * (2 ^ l * (c / 2 ^ (p + l)) + a % 2 ^ l) + c % 2 ^ p := by
    rw [Nat.pow_add, Nat.mul_add]
    ac_rfl
  dsimp only
  simp only [bit_eq_testBit]
  rw [hsum, Nat.testBit_two_pow_mul_add _ (Nat.mod_lt c (Nat.two_pow_pos p)),
    Nat.testBit_two_pow_mul_add _ (Nat.mod_lt a (Nat.two_pow_pos l)), Nat.testBit_mod_two_pow, Nat.testBit_mod_two_pow,
    Nat.testBit_div_two_pow]
  by_cases hlow : j < p
  · simp [hlow, Nat.not_le.2 hlow]
  by_cases hin : j - p < l
  · have hlt : j < p + l := by omega
    simp [hlow, hin, Nat.not_lt.1 hlow, hlt]
  · have hge : ¬ j < p + l := by omega
    have hpos : j - p - l + (p + l) = j := by omega
    simp [hlow, hin, hge, hpos]

/-! Counts -/

theorem aluPopc_eq (a : Nat) : aluPopc a = ((List.range 32).filter fun j => bit a j).length := by
  unfold aluPopc bitsOf
  rw [List.filter_map, List.length_map]
  rfl

/-- CLZ leaves below it the highest 1 bit of A (R241). -/
theorem aluClz_highest {a : Nat} (h : a < 2 ^ 32) :
    aluClz a ≤ 32 ∧ a < 2 ^ (32 - aluClz a) ∧ (a ≠ 0 → 2 ^ (31 - aluClz a) ≤ a) := by
  unfold aluClz
  rw [Nat.mod_eq_of_lt h]
  by_cases hzero : a = 0
  · simp [hzero]
  · have hlog : Nat.log2 a < 32 := (Nat.log2_lt hzero).2 h
    rw [if_neg hzero, show 32 - (31 - Nat.log2 a) = Nat.log2 a + 1 by omega, show 31 - (31 - Nat.log2 a) = Nat.log2 a by omega]
    exact ⟨by omega, Nat.lt_log2_self, fun _ => Nat.log2_self_le hzero⟩

/-- CTZ is the place of the lowest 1 bit. -/
theorem aluCtz_eq (a : Nat) : aluCtz a = (bitsOf 32 a).findIdx id := by
  unfold aluCtz
  simp only [List.takeWhile_eq_take_findIdx_not, Bool.not_not, List.length_take]
  exact Nat.min_eq_left List.findIdx_le_length

theorem length_bitsOf (n x : Nat) : (bitsOf n x).length = n := by simp [bitsOf]

theorem getElem_bitsOf {n x j : Nat} (h : j < (bitsOf n x).length) : (bitsOf n x)[j] = bit x j := by simp [bitsOf]

/-- A number whose bits below its width are all 0 is 0. -/
theorem eq_zero_of_bits {w a : Nat} (h : a < 2 ^ w) (hbits : ∀ j, j < w → bit a j = false) : a = 0 := by
  refine Nat.eq_of_testBit_eq fun j => ?_
  rw [Nat.zero_testBit]
  by_cases hj : j < w
  · rw [← bit_eq_testBit]
    exact hbits j hj
  · exact Nat.testBit_lt_two_pow (Nat.lt_of_lt_of_le h (Nat.pow_le_pow_right (by decide) (Nat.not_lt.1 hj)))

theorem bit_below_aluCtz {a j : Nat} (h : j < aluCtz a) : bit a j = false := by
  rw [aluCtz_eq] at h
  have hbit := List.not_of_lt_findIdx h
  rw [getElem_bitsOf] at hbit
  simpa using hbit

theorem aluCtz_le (a : Nat) : aluCtz a ≤ 32 := by
  rw [aluCtz_eq]
  exact Nat.le_trans List.findIdx_le_length (Nat.le_of_eq (length_bitsOf 32 a))

theorem bit_at_aluCtz {a : Nat} (h : a < 2 ^ 32) (hne : a ≠ 0) : bit a (aluCtz a) = true := by
  have hlt : aluCtz a < 32 := by
    refine Nat.lt_of_le_of_ne (aluCtz_le a) fun hall => hne (eq_zero_of_bits h fun j hj => bit_below_aluCtz (hall ▸ hj))
  have hin : (bitsOf 32 a).findIdx id < (bitsOf 32 a).length := by rwa [length_bitsOf, ← aluCtz_eq]
  have hfound := List.findIdx_getElem (w := hin)
  rw [getElem_bitsOf, ← aluCtz_eq] at hfound
  exact hfound

/-! Where each bit comes from -/

theorem bit_aluBrev (a : Nat) {j : Nat} (h : j < 32) : bit (aluBrev a) j = bit a (31 - j) := by
  unfold aluBrev
  have hj : j < (bitsOf 32 a).reverse.length := by rwa [List.length_reverse, length_bitsOf]
  rw [bit_ofBits, List.getD_eq_getElem?_getD, List.getElem?_eq_getElem hj, Option.getD_some, List.getElem_reverse, getElem_bitsOf,
    length_bitsOf]

section
variable {k : Nat} {g : Nat → List Bool} (hg : ∀ i, (g i).length = k)
include hg

theorem length_flatMap_range (n : Nat) : ((List.range n).flatMap g).length = k * n := by
  simp only [List.length_flatMap, hg, List.map_const', List.sum_replicate_nat, List.length_range]
  exact Nat.mul_comm n k

/-- Entry r of group i, of groups of k entries each. -/
theorem getD_flatMap_range {n i r : Nat} (hi : i < n) (hr : r < k) :
    ((List.range n).flatMap g).getD (k * i + r) false = (g i).getD r false := by
  induction n with
  | zero => cases hi
  | succ n ih =>
    rw [List.range_succ, List.flatMap_append, List.flatMap_singleton]
    rcases Nat.lt_succ_iff_lt_or_eq.1 hi with hlt | rfl
    · have hin : k * i + r < ((List.range n).flatMap g).length := by
        rw [length_flatMap_range hg]
        calc k * i + r < k * (i + 1) := by rw [Nat.mul_succ]; omega
          _ ≤ k * n := Nat.mul_le_mul_left k hlt
      rw [List.getD_eq_getElem?_getD, List.getElem?_append_left hin, ← List.getD_eq_getElem?_getD, ih hlt]
    · have hlen := length_flatMap_range hg i
      rw [List.getD_eq_getElem?_getD, List.getElem?_append_right (by omega), hlen, Nat.add_sub_cancel_left,
        ← List.getD_eq_getElem?_getD]

end

theorem bit_aluBzip2 (a b : Nat) {i : Nat} (h : i < 16) :
    bit (aluBzip2 a b) (2 * i) = bit a i ∧ bit (aluBzip2 a b) (2 * i + 1) = bit b i := by
  unfold aluBzip2
  simp only [bit_ofBits]
  have hgroup := fun r => getD_flatMap_range (k := 2) (g := fun i => [bit a i, bit b i]) (fun _ => rfl) (r := r) h
  exact ⟨hgroup 0 (by decide), hgroup 1 (by decide)⟩

theorem bit_aluBzip3 (a b c : Nat) {i : Nat} (h : i < 10) :
    bit (aluBzip3 a b c) (3 * i) = bit a i ∧ bit (aluBzip3 a b c) (3 * i + 1) = bit b i ∧
      bit (aluBzip3 a b c) (3 * i + 2) = bit c i := by
  unfold aluBzip3
  simp only [bit_ofBits]
  have hgroup := fun r => getD_flatMap_range (k := 3) (g := fun i => [bit a i, bit b i, bit c i]) (fun _ => rfl) (r := r) h
  exact ⟨hgroup 0 (by decide), hgroup 1 (by decide), hgroup 2 (by decide)⟩

theorem aluBzip3_lt (a b c : Nat) : aluBzip3 a b c < 2 ^ 30 := by
  unfold aluBzip3
  have hlt := ofBits_lt ((List.range 10).flatMap fun i => [bit a i, bit b i, bit c i])
  rwa [length_flatMap_range (k := 3) fun _ => rfl] at hlt

/-- A number made of n bits of another lies below 2^n. -/
theorem ofBits_map_range_lt (f : Nat → Bool) (n : Nat) : ofBits ((List.range n).map f) < 2 ^ n := by
  simpa using ofBits_lt ((List.range n).map f)

theorem bit_ofBits_map_range (f : Nat → Bool) {n j : Nat} (h : j < n) : bit (ofBits ((List.range n).map f)) j = f j := by
  rw [bit_ofBits, getD_map_range f n j h]

/-! Bytes -/

/-- A number from its digits in base p, the lowest first. -/
def ofDigitsIn (p : Nat) (l : List Nat) : Nat := l.foldr (fun y d => y + p * d) 0

theorem ofDigitsIn_cons (p y : Nat) (l : List Nat) : ofDigitsIn p (y :: l) = y + p * ofDigitsIn p l := rfl

/-- Digit j of a number made of digits below its base. -/
theorem ofDigitsIn_digit {p : Nat} {l : List Nat} (hl : ∀ y ∈ l, y < p) {j : Nat} (hj : j < l.length) :
    ofDigitsIn p l / p ^ j % p = l[j] := by
  induction l generalizing j with
  | nil => cases hj
  | cons y l ih =>
    have hy := hl y List.mem_cons_self
    rw [ofDigitsIn_cons]
    cases j with
    | zero => rw [Nat.pow_zero, Nat.div_one, Nat.add_mul_mod_self_left, Nat.mod_eq_of_lt hy, List.getElem_cons_zero]
    | succ j =>
      rw [Nat.pow_succ', ← Nat.div_div_eq_div_mul, Nat.add_mul_div_left _ _ (Nat.zero_lt_of_lt hy), Nat.div_eq_of_lt hy,
        Nat.zero_add, List.getElem_cons_succ]
      exact ih (fun z hz => hl z (List.mem_cons_of_mem y hz)) (Nat.lt_of_succ_lt_succ hj)

/-- The byte that a selector nibble n picks from x: bytes 0 to 7, or from 8 on the sign of one (R243). -/
def pickedByte (x n : Nat) : Nat :=
  if n < 8 then x / 2 ^ (8 * (n % 8)) % 256 else if 128 ≤ x / 2 ^ (8 * (n % 8)) % 256 then 255 else 0

theorem pickedByte_lt (x n : Nat) : pickedByte x n < 256 := by
  unfold pickedByte
  split
  · exact Nat.mod_lt _ (by decide)
  · split <;> decide

/-- BYTEPERM's result is the number of its four picked bytes. -/
theorem aluByteperm_eq (a b c : Nat) :
    aluByteperm a b c = ofDigitsIn 256 ((List.range 4).map fun j => pickedByte (a + 2 ^ 32 * c) (b / 2 ^ (4 * j) % 16)) := by
  unfold ofDigitsIn
  rw [List.foldr_map]
  rfl

theorem aluByteperm_byte (a b c : Nat) {j : Nat} (h : j < 4) :
    aluByteperm a b c / 2 ^ (8 * j) % 256 = pickedByte (a + 2 ^ 32 * c) (b / 2 ^ (4 * j) % 16) := by
  have hbytes : ∀ y ∈ (List.range 4).map fun i => pickedByte (a + 2 ^ 32 * c) (b / 2 ^ (4 * i) % 16), y < 256 := fun y hy => by
    obtain ⟨i, _, rfl⟩ := List.mem_map.1 hy
    exact pickedByte_lt _ _
  have hj : j < ((List.range 4).map fun i => pickedByte (a + 2 ^ 32 * c) (b / 2 ^ (4 * i) % 16)).length := by
    rwa [List.length_map, List.length_range]
  rw [aluByteperm_eq, Nat.pow_mul]
  refine (ofDigitsIn_digit hbytes hj).trans ?_
  rw [List.getElem_map, List.getElem_range]

/-- Settles O11: each instruction runs its function of R240 to R243, and the lemmas above say what each of them places where. -/
theorem integerBits : Obligations.IntegerBits := by
  unfold Obligations.IntegerBits
  refine ⟨?bfx, fun _ a _ h hu => aluBfx_unsigned h hu a, fun _ a _ h hu => aluBfx_signed h hu a, fun m a _ h => aluBfx_empty h m a,
    fun _ => ⟨rfl, rfl⟩, ?bfi, fun a b c j _ => bit_aluBfi a b c j, ?popc, aluPopc_eq, ?clz, fun _ h => aluClz_highest h, ?ctz,
    fun a h => ⟨aluCtz_le a, fun _ => bit_below_aluCtz, bit_at_aluCtz h⟩, ?brev, fun a _ => bit_aluBrev a,
    ?bzip2, fun a b _ => bit_aluBzip2 a b, ?bzip3, fun a b c _ => bit_aluBzip3 a b c, aluBzip3_lt,
    ?bunzip2, fun _ _ _ => bit_ofBits_map_range _, fun _ _ => ofBits_map_range_lt _ 16,
    ?bunzip3, fun _ _ _ => bit_ofBits_map_range _, fun _ _ => ofBits_map_range_lt _ 10,
    ?byteperm, fun a b c _ _ hj => aluByteperm_byte a b c hj⟩
  case bfx => exact computesBoth_of_int (g := fun m a b _ => aluBfx m a b) (fun _ _ => rfl) fun _ _ => rfl
  case bfi => exact fun f => computes_of_int (g := fun _ => aluBfi) fun _ => rfl
  case popc => exact computesBoth_of_int (g := fun _ a _ _ => aluPopc a) (fun _ _ => rfl) fun _ _ => rfl
  case clz => exact computesBoth_of_int (g := fun _ a _ _ => aluClz a) (fun _ _ => rfl) fun _ _ => rfl
  case ctz => exact computesBoth_of_int (g := fun _ a _ _ => aluCtz a) (fun _ _ => rfl) fun _ _ => rfl
  case brev => exact computesBoth_of_int (g := fun _ a _ _ => aluBrev a) (fun _ _ => rfl) fun _ _ => rfl
  case bzip2 => exact computesBoth_of_int (g := fun _ a b _ => aluBzip2 a b) (fun _ _ => rfl) fun _ _ => rfl
  case bzip3 => exact computesBoth_of_int (g := fun _ => aluBzip3) (fun _ _ => rfl) fun _ _ => rfl
  case bunzip2 => exact computesBoth_of_int (g := fun m a _ _ => aluBunzip2 (mbits m 0 0) a) (fun _ _ => rfl) fun _ _ => rfl
  case bunzip3 => exact computesBoth_of_int (g := fun m a _ _ => aluBunzip3 (mbits m 1 0) a) (fun _ _ => rfl) fun _ _ => rfl
  case byteperm => exact computesBoth_of_int (g := fun _ => aluByteperm) (fun _ _ => rfl) fun _ _ => rfl

end Sys2Proof.Machine
end

section
/-! 64-bit integers, address arithmetic, moves and NOP (R228, R230, R231, R244, R245). -/

namespace Sys2Proof.Machine

/-- NOP delivers nothing in any lane, and retires (R228). -/
theorem combines_of_nop {i : Instr} (he : ∀ s, Machine.exec i s = opNop (issueOp i) s) : Combines i fun _ _ => ((0, 0), (0, 0)) :=
  combines_of he

/-- MOVI delivers its literal, whatever the operands hold (R231). -/
theorem computes_of_literal {i : Instr} {n : Nat} (he : ∀ s, Machine.exec i s = runAlu (issueOp i) s fun _ _ _ _ => (n, 0)) :
    Computes i fun _ _ _ _ => (n, 0) :=
  computes_of he

/-- Settles O12: each instruction runs its function of R244 or R245, a copy, a literal or nothing. -/
theorem integer64AndMoves : Obligations.Integer64AndMoves := by
  unfold Obligations.Integer64AndMoves
  refine ⟨?iadd64, ?shl64, ?shr64, ?lea, ?mov, fun d imm => computes_of_literal fun _ => rfl,
    fun d imm => computes_of_literal fun _ => rfl, fun d => ⟨rfl, rfl⟩, fun f => combines_of_nop fun _ => rfl,
    fun f => combines_of_nop fun _ => rfl⟩
  case iadd64 => exact computesBoth_of_int (g := fun m a b _ => aluIadd64 m a b) (fun _ _ => rfl) fun _ _ => rfl
  case shl64 => exact computesBoth_of_int (g := fun m a b _ => aluShl 64 (m.getLsbD 0) a b) (fun _ _ => rfl) fun _ _ => rfl
  case shr64 => exact computesBoth_of_int (g := fun m a b _ => aluShr64 m a b) (fun _ _ => rfl) fun _ _ => rfl
  case lea => exact computesBoth_of_int (g := fun m a b _ => aluLea m a b) (fun _ _ => rfl) fun _ _ => rfl
  case mov => exact computesBoth_of_int (g := fun _ a _ _ => a) (fun _ _ => rfl) fun _ _ => rfl

end Sys2Proof.Machine
end

section
/-! Conversions under a control word (R263 to R266) and registers by computed index (R232). -/

namespace Sys2Proof.Machine

/-- A completion's answer may be written in another way. -/
theorem Completes.congr {i : Instr} {P : Env → State → Prop} {Q R : Env → State → State × Res} (h : Completes i P Q)
    (hQ : ∀ v s, Q v s = R v s) : Completes i P R := by
  have heq : Q = R := funext fun v => funext (hQ v)
  rwa [heq] at h

/-! Conversions -/

/-- The state and the Mill block with which a conversion goes on: one is drawn under stochastic rounding alone (R263). -/
def rounding (v : Env) (s : State) : Nat × State :=
  if bits v.c 2 0 = 4 then s.millDraw v.who (bits v.c 31 16) else (0, s)

/-- What a conversion answers under legal control words: g of the mode, the saturation, the block, A, B and the old D, and in the
shadow of a protected pair g of the shadow's. -/
def converted (g : Nat → Bool → Nat → Nat → Nat → Nat → Nat × FlagSet) (v : Env) (s : State) : State × Res :=
  let old := fun sh => s.operand v.who (s.laneOf v.who) sh v.f.d v.e.dw
  let x := g (bits v.c 2 0) (bit v.c 3) (rounding v s).1 v.a v.b (old false)
  let y := if v.prot then g (bits v.c' 2 0) (bit v.c' 3) (rounding v s).1 v.a' v.b' (old true) else (0, 0)
  ((rounding v s).2, .ok x.1 y.1 x.2 y.2)

section
variable {i : Instr} {sr : Bool} {g : Nat → Bool → Nat → Nat → Nat → Nat → Nat × FlagSet}
  (he : ∀ s, Machine.exec i s = runCvt (issueOp i) s sr g)
include he

/-- A conversion checks its control words, and else answers its conversion. -/
theorem exec_conversion (s : State) :
    Machine.exec i s = runLanes (issueOp i) s fun _ v s =>
      if !rcOk v.c sr || (v.prot && !rcOk v.c' sr) then (s, .fault .illegal) else converted g v s :=
  he s

/-- Legal control words in both copies let it convert. -/
theorem conversion_completes :
    Completes i (fun v _ => rcOk v.c sr = true ∧ (v.prot = true → rcOk v.c' sr = true)) (converted g) := by
  refine completes_of_lane (exec_conversion he) fun E v s ⟨hc, hc'⟩ => ⟨if_neg ?_, rfl⟩
  cases hp : v.prot with
  | false => simp [hc]
  | true => simp [hc, hc' hp]

/-- An illegal one raises fault 0x06. -/
theorem conversion_faults : Faults i (fun v _ => rcOk v.c sr = false) fun _ _ => .illegal :=
  faults_of_lane (exec_conversion he) fun _ _ _ hc => congrArg Prod.snd (if_pos (by simp [hc]))

end

/-- CVT's value (R264). -/
def cvtValue (m : BitVec 8) (md : Nat) (st : Bool) (block a _b _old : Nat) : Nat × FlagSet :=
  convert (Fmt.ofSource (mbits m 3 0)) (Fmt.ofTarget (mbits m 7 4)) md st (srBits block 0) a

/-- CVTPK's value: two elements placed in what stays of the old D (R265). -/
def cvtpkValue (m : BitVec 8) (md : Nat) (st : Bool) (block a b old : Nat) : Nat × FlagSet :=
  let k := Fmt.ofTarget (mbits m 7 4)
  let lo := 2 * mbits m 3 2 * k.bits
  let y0 := toFloat k md st (srBits block 0) (decodeNum .f32 a)
  let y1 := toFloat k md st (srBits block 1) (decodeNum .f32 b)
  let keep := if k.bits = 16 then 0 else old % 2 ^ lo + old / 2 ^ (lo + 2 * k.bits) * 2 ^ (lo + 2 * k.bits)
  (keep + y0.1 * 2 ^ lo + y1.1 * 2 ^ (lo + k.bits), y0.2 ||| y1.2)

/-- One element that CVTUNPK widens, scaled when the modifier says so (R266). -/
def cvtunpkElem (m : BitVec 8) (md : Nat) (st : Bool) (block a b e : Nat) : Nat × FlagSet :=
  let x := decodeNum (Fmt.ofTarget (mbits m 7 4)) (elem (Fmt.ofTarget (mbits m 7 4)).bits (2 * mbits m 3 2 + e) a)
  let r := roundNum .f32 md st (srBits block e) (x.scale ((b % 256 : Nat) - 127))
  if !m.getLsbD 1 then (roundNe .f32 x, nanFlag x)
  else if b % 256 = 255 then (0x7FC00000, nanFlag x) else (r.1, nanFlag x ||| r.2)

/-- CVTUNPK's value: both elements (R266). -/
def cvtunpkValue (m : BitVec 8) (md : Nat) (st : Bool) (block a b _old : Nat) : Nat × FlagSet :=
  ((cvtunpkElem m md st block a b 0).1 + 2 ^ 32 * (cvtunpkElem m md st block a b 1).1,
    (cvtunpkElem m md st block a b 0).2 ||| (cvtunpkElem m md st block a b 1).2)

theorem exec_cvt (f : F2) (s : State) :
    Machine.exec (.cvt f) s = runCvt (issueOp (.cvt f)) s (Fmt.ofTarget (mbits f.m 7 4)).isFloat (cvtValue f.m) := rfl
theorem exec_cvtpk (f : F2) (s : State) : Machine.exec (.cvtpk f) s = runCvt (issueOp (.cvtpk f)) s true (cvtpkValue f.m) := rfl
theorem exec_cvtunpk (f : F2) (s : State) :
    Machine.exec (.cvtunpk f) s = runCvt (issueOp (.cvtunpk f)) s true (cvtunpkValue f.m) := rfl

/-! Registers by computed index -/

/-- The index that A names lies within NREGS, in both copies of a protected pair (R232). -/
theorem index_inside {v : Env} {n : Nat} (h : v.a < n ∧ (v.prot = true → v.a' < n)) :
    ¬ (n ≤ v.a || (v.prot && n ≤ v.a')) = true := by
  obtain ⟨ha, ha'⟩ := h
  rw [Bool.or_eq_true, Bool.and_eq_true, decide_eq_true_eq, decide_eq_true_eq]
  rintro (hout | ⟨hp, hout⟩)
  · exact Nat.not_lt.2 hout ha
  · exact Nat.not_lt.2 hout (ha' hp)

theorem index_outside {v : Env} {n : Nat} (h : n ≤ v.a) : (n ≤ v.a || (v.prot && n ≤ v.a')) = true := by
  rw [decide_eq_true h, Bool.true_or]

/-- Settles O16: a conversion answers its value under the check of its control words, and an indexed access under the check of its
index. -/
theorem conversionsAndIndexed : Obligations.ConversionsAndIndexed := by
  unfold Obligations.ConversionsAndIndexed
  refine ⟨fun f => ?cvt, fun f => ?cvtpk, fun f => ?cvtunpk, fun f => conversion_faults (exec_cvt f),
    fun f => conversion_faults (exec_cvtpk f), fun f => conversion_faults (exec_cvtunpk f), ?rget, ?rput, fun f => ?rgetOut,
    fun f => ?rputOut⟩
  case cvt => exact (conversion_completes (exec_cvt f)).congr fun v s => rfl
  case cvtpk =>
    refine (conversion_completes (exec_cvtpk f)).congr fun v s => ?_
    -- of a destination that two 16-bit elements fill, nothing stays
    by_cases hfill : (Fmt.ofTarget (mbits f.m 7 4)).bits = 16 <;> simp [converted, rounding, cvtpkValue, hfill]
  case cvtunpk => exact (conversion_completes (exec_cvtunpk f)).congr fun v s => rfl
  case rget => exact completesBoth_of (fun _ _ => rfl) (fun _ _ => rfl) (fun _ _ _ => rfl) fun _ _ _ h => ⟨if_neg (index_inside h), rfl⟩
  case rput => exact completesBoth_of (fun _ _ => rfl) (fun _ _ => rfl) (fun _ _ _ => rfl) fun _ _ _ h => ⟨if_neg (index_inside h), rfl⟩
  case rgetOut => exact faults_of_lane (fun _ => rfl) fun _ _ _ h => congrArg Prod.snd (if_pos (index_outside h))
  case rputOut => exact faults_of_lane (fun _ => rfl) fun _ _ _ h => congrArg Prod.snd (if_pos (index_outside h))

end Sys2Proof.Machine
end

section
/-! Floating-point arithmetic, minima, comparisons and classes (R251 to R255, R261): each instruction runs its function, and what the
minimum, the unordered comparison and the class mask are. -/

namespace Sys2Proof.Machine

/-- A meaning that computes from the operands alone, in both forms at once. -/
theorem computesBoth_of {i : F1 → Instr} {j : F2 → Instr} {g : F2 → Nat → Nat → Nat → Nat × FlagSet}
    (hi : ∀ f s, Machine.exec (i f) s = runAlu (issueOp (i f)) s g) (hj : ∀ f s, Machine.exec (j f) s = runAlu (issueOp (j f)) s g) :
    ComputesBoth i j g :=
  ⟨fun f => computes_of (hi f), fun f => computes_of (hj f)⟩

/-! Kinds of values -/

theorem Num.isNan_iff {x : Num} : x.isNan = true ↔ ∃ s, x = .nan s := by
  cases x <;> simp [Num.isNan]

theorem Num.isInf_iff {x : Num} : x.isInf = true ↔ ∃ s, x = .inf s := by
  cases x <;> simp [Num.isInf]

theorem Num.isZero_iff {x : Num} : x.isZero = true ↔ ∃ s e, x = .fin s 0 e := by
  cases x <;> simp [Num.isZero]

/-! Minimum and maximum (R253) -/

section
variable {k : Fmt} {a b : Nat}

theorem minMax_nans (ha : (decodeNum k a).isNan = true) (hb : (decodeNum k b).isNan = true) (isMax : Bool) :
    (minMax k isMax a b).1 = (shape k).nan := by
  simp [minMax, ha, hb]

theorem minMax_nan_left (ha : (decodeNum k a).isNan = true) (hb : (decodeNum k b).isNan = false) (isMax : Bool) :
    (minMax k isMax a b).1 = b := by
  simp [minMax, ha, hb]

theorem minMax_nan_right (ha : (decodeNum k a).isNan = false) (hb : (decodeNum k b).isNan = true) (isMax : Bool) :
    (minMax k isMax a b).1 = a := by
  simp [minMax, ha, hb]

theorem min_numbers (ha : (decodeNum k a).isNan = false) (hb : (decodeNum k b).isNan = false) :
    (minMax k false a b).1 = if orderKey k b < orderKey k a then b else a := by
  simp [minMax, ha, hb]

theorem max_numbers (ha : (decodeNum k a).isNan = false) (hb : (decodeNum k b).isNan = false) :
    (minMax k true a b).1 = if orderKey k a < orderKey k b then b else a := by
  simp [minMax, ha, hb]

/-- An operand comes back bit for bit, unless both are NaN. -/
theorem minMax_operand (k : Fmt) (isMax : Bool) (a b : Nat) : (minMax k isMax a b).1 = a ∨ (minMax k isMax a b).1 = b ∨
    ((minMax k isMax a b).1 = (shape k).nan ∧ (decodeNum k a).isNan = true ∧ (decodeNum k b).isNan = true) := by
  cases ha : (decodeNum k a).isNan <;> cases hb : (decodeNum k b).isNan
  case false.false =>
    cases isMax
    · rw [min_numbers ha hb]; split <;> simp
    · rw [max_numbers ha hb]; split <;> simp
  case false.true => exact .inl (minMax_nan_right ha hb isMax)
  case true.false => exact .inr (.inl (minMax_nan_left ha hb isMax))
  case true.true => exact .inr (.inr ⟨minMax_nans ha hb isMax, rfl, rfl⟩)

theorem orderKey_min (ha : (decodeNum k a).isNan = false) (hb : (decodeNum k b).isNan = false) :
    orderKey k (minMax k false a b).1 = min (orderKey k a) (orderKey k b) := by
  rw [min_numbers ha hb]; split <;> omega

theorem orderKey_max (ha : (decodeNum k a).isNan = false) (hb : (decodeNum k b).isNan = false) :
    orderKey k (minMax k true a b).1 = max (orderKey k a) (orderKey k b) := by
  rw [max_numbers ha hb]; split <;> omega

theorem orderKey_minMax_bounds (ha : (decodeNum k a).isNan = false) (hb : (decodeNum k b).isNan = false) :
    orderKey k (minMax k false a b).1 ≤ orderKey k a ∧ orderKey k (minMax k false a b).1 ≤ orderKey k b ∧
      orderKey k a ≤ orderKey k (minMax k true a b).1 ∧ orderKey k b ≤ orderKey k (minMax k true a b).1 := by
  rw [orderKey_min ha hb, orderKey_max ha hb]
  exact ⟨Int.min_le_left .., Int.min_le_right .., Int.le_max_left .., Int.le_max_right ..⟩

/-! Comparison and class (R254, R255) -/

/-- Of two operands that are unordered, only .ne and .un hold. -/
theorem floatCmp_unordered (h : ((decodeNum k a).isNan || (decodeNum k b).isNan) = true) (c : Nat) :
    (floatCmp k c a b).1 = decide (c = 1 ∨ c = 6) := by
  match c with
  | 0 | 1 | 2 | 3 | 4 | 5 | 6 | _ + 7 => simp [floatCmp, h]

end

/-- The bit of FCLASS's mask for a value, by the table of R255. -/
def classBit : Num → Nat
  | .nan signalling => if signalling then 8 else 9
  | .inf neg => if neg then 0 else 7
  | .fin neg m _ =>
    if m = 0 then (if neg then 3 else 4)
    else if m < 2 ^ 23 then (if neg then 2 else 5)
    else if neg then 1 else 6

theorem classBit_le (x : Num) : classBit x ≤ 9 := by
  cases x with
  | nan s => cases s <;> decide
  | inf s => cases s <;> decide
  | fin s m e => simp only [classBit]; (repeat' split) <;> decide

theorem fpClass_eq (a : Nat) : fpClass a = 2 ^ classBit (decodeNum .f32 a) := by
  unfold fpClass
  cases decodeNum .f32 a with
  | nan s => cases s <;> rfl
  | inf s => cases s <;> rfl
  | fin s m e => simp only [classBit, apply_ite (2 ^ ·)]

/-- Settles O13: each instruction runs its function of R251 to R255 or R261, and the lemmas above say what the minimum, the unordered
comparison and the class mask are. -/
theorem floatArithmetic : Obligations.FloatArithmetic := by
  unfold Obligations.FloatArithmetic
  refine ⟨?fadd, ?fsub, ?fmul, ?ffma, ?dadd, ?dmul, ?dfma, ?fmin, ?fmax, minMax_operand, fun _ _ _ => orderKey_minMax_bounds,
    ?fcmp, ?dcmp, fun k a b h => ?unordered, ?fclass, fun a => ⟨_, classBit_le _, fpClass_eq a⟩⟩
  case fadd => exact computesBoth_of (fun _ _ => rfl) fun _ _ => rfl
  case fsub => exact computesBoth_of (fun _ _ => rfl) fun _ _ => rfl
  case fmul => exact computesBoth_of (fun _ _ => rfl) fun _ _ => rfl
  case ffma => exact fun f => computes_of fun _ => rfl
  case dadd => exact computesBoth_of (fun _ _ => rfl) fun _ _ => rfl
  case dmul => exact computesBoth_of (fun _ _ => rfl) fun _ _ => rfl
  case dfma => exact fun f => computes_of fun _ => rfl
  case fmin => exact computesBoth_of (fun _ _ => rfl) fun _ _ => rfl
  case fmax => exact computesBoth_of (fun _ _ => rfl) fun _ _ => rfl
  case fcmp => exact computesBoth_of (fun _ _ => rfl) fun _ _ => rfl
  case dcmp => exact computesBoth_of (fun _ _ => rfl) fun _ _ => rfl
  case unordered => rw [List.map_congr_left fun c _ => floatCmp_unordered h c]; rfl
  case fclass => exact computesBoth_of (fun _ _ => rfl) fun _ _ => rfl

end Sys2Proof.Machine
end

section
/-! Packed pairs, dot products, rounding to an integer, exponent and mantissa (R256 to R260): each function by the kind of its operand. -/

namespace Sys2Proof.Machine

/-! What each function gives for a NaN, an infinity or a zero (R256, R257) -/

section
variable {a : Nat} {s : Bool} {e : Int}

theorem fpRnd_nan (h : decodeNum .f32 a = .nan s) (m : BitVec 8) : fpRnd m a = (0x7FC00000, FlagSet.when s FlagSet.invalid) := by
  simp only [fpRnd, h]

theorem fpRnd_inf (h : decodeNum .f32 a = .inf s) (m : BitVec 8) : fpRnd m a = (a, 0) := by
  simp only [fpRnd, h]

theorem fpFract_nan (h : decodeNum .f32 a = .nan s) : fpFract a = (0x7FC00000, FlagSet.when s FlagSet.invalid) := by
  simp only [fpFract, h]

theorem fpFract_inf (h : decodeNum .f32 a = .inf s) : fpFract a = (0x7FC00000, FlagSet.invalid) := by
  simp only [fpFract, h]

theorem fpScale_inf (h : decodeNum .f32 a = .inf s) (m : BitVec 8) (b : Nat) : fpScale m a b = (a, 0) := by
  simp only [fpScale, h]

theorem fpScale_zero (h : decodeNum .f32 a = .fin s 0 e) (m : BitVec 8) (b : Nat) : fpScale m a b = (a, 0) := by
  simp only [fpScale, h, if_true]

theorem fpGetexp_inf (h : decodeNum .f32 a = .inf s) : fpGetexp a = (0x7F800000, 0) := by
  simp only [fpGetexp, h]

theorem fpGetexp_zero (h : decodeNum .f32 a = .fin s 0 e) : fpGetexp a = (0xFF800000, FlagSet.divZero) := by
  simp only [fpGetexp, h, if_true]

theorem fpGetman_inf (h : decodeNum .f32 a = .inf s) : fpGetman a = (0x7FC00000, FlagSet.invalid) := by
  simp only [fpGetman, h]

theorem fpGetman_zero (h : decodeNum .f32 a = .fin s 0 e) : fpGetman a = (a, 0) := by
  simp only [fpGetman, h, if_true]

end

/-- With integer elements DOT4 adds four exact products to C, and saturates or wraps their sum once (R260). -/
theorem fpDot4_integers {m : BitVec 8} (h : 2 ≤ mbits m 3 2) (a b c : Nat) : fpDot4 m a b c =
    let x := (List.range 4).foldl (fun n e => n + ext 8 (mbits m 3 2 == 3) (elem 8 e a) * ext 8 (mbits m 1 0 == 3) (elem 8 e b)) (sext 32 c)
    (if m.getLsbD 6 then satInt 32 false x else wrapInt 32 x, 0) :=
  if_neg (Nat.not_lt.2 h)

/-- Settles O14: each instruction runs its function of R256 to R260, and the lemmas above say what these give for the operands named. -/
theorem floatPackedAndParts : Obligations.FloatPackedAndParts := by
  unfold Obligations.FloatPackedAndParts
  refine ⟨?hadd2, ?hmul2, ?hfma2, ?hmin2, ?hmax2, fun _ _ _ _ => ⟨rfl, rfl⟩, ?dot2, ?dot4, fun _ a b c h => fpDot4_integers h a b c,
    ?frnd, ?ffract, fun m a h => ?nanParts, fun m a h => ?infParts, ?fscale, ?fgetexp, ?fgetman, fun m a b h => ?zeroScaled,
    fun m a b h => ?infScaled⟩
  case hadd2 => exact computesBoth_of (fun _ _ => rfl) fun _ _ => rfl
  case hmul2 => exact computesBoth_of (fun _ _ => rfl) fun _ _ => rfl
  case hfma2 => exact fun f => computes_of fun _ => rfl
  case hmin2 => exact computesBoth_of (fun _ _ => rfl) fun _ _ => rfl
  case hmax2 => exact computesBoth_of (fun _ _ => rfl) fun _ _ => rfl
  case dot2 => exact fun f => computes_of fun _ => rfl
  case dot4 => exact fun f => computes_of fun _ => rfl
  case frnd => exact computesBoth_of (fun _ _ => rfl) fun _ _ => rfl
  case ffract => exact computesBoth_of (fun _ _ => rfl) fun _ _ => rfl
  case fscale => exact computesBoth_of (fun _ _ => rfl) fun _ _ => rfl
  case fgetexp => exact computesBoth_of (fun _ _ => rfl) fun _ _ => rfl
  case fgetman => exact computesBoth_of (fun _ _ => rfl) fun _ _ => rfl
  case nanParts =>
    obtain ⟨s, hs⟩ := Num.isNan_iff.1 h
    exact ⟨congrArg Prod.fst (fpRnd_nan hs m), congrArg Prod.fst (fpFract_nan hs)⟩
  case infParts =>
    obtain ⟨s, hs⟩ := Num.isInf_iff.1 h
    exact ⟨fpRnd_inf hs m, fpFract_inf hs⟩
  case zeroScaled =>
    obtain ⟨s, e, hz⟩ := Num.isZero_iff.1 h
    exact ⟨fpScale_zero hz m b, fpGetexp_zero hz, fpGetman_zero hz⟩
  case infScaled =>
    obtain ⟨s, hs⟩ := Num.isInf_iff.1 h
    exact ⟨fpScale_inf hs m b, fpGetexp_inf hs, fpGetman_inf hs⟩

end Sys2Proof.Machine
end

section
/-! The special functions (R267): each instruction runs its function, and the rows of the table by the kind of the operand. -/

namespace Sys2Proof.Machine

section
variable {a : Nat} {s : Bool} {m : Nat} {e : Int}

theorem specialFn_nan (h : decodeNum .f32 a = .nan s) (fn md : Nat) (st : Bool) :
    specialFn fn md st a = (0x7FC00000, FlagSet.when s FlagSet.invalid) := by
  simp only [specialFn, h]

/-- A number below zero has no root and no logarithm. -/
theorem specialFn_negative (h : decodeNum .f32 a = .fin true m e) (hm : m ≠ 0) {fn : Nat} (hfn : fn ∈ [1, 2, 4]) (md : Nat) (st : Bool) :
    specialFn fn md st a = (0x7FC00000, FlagSet.invalid) := by
  simp only [List.mem_cons, List.not_mem_nil, or_false] at hfn
  rcases hfn with rfl | rfl | rfl <;> simp only [specialFn, h, if_neg hm, if_true]

/-- The table's column for an infinity, one function after the other. -/
theorem specialFn_inf (h : decodeNum .f32 a = .inf s) (md : Nat) :
    specialFn 0 md false a = (signCode .f32 s 0, 0) ∧
    specialFn 1 md false a = (if s then (0x7FC00000, FlagSet.invalid) else (0, 0)) ∧
    specialFn 2 md false a = (if s then (0x7FC00000, FlagSet.invalid) else (0x7F800000, 0)) ∧
    specialFn 3 md false a = (if s then (0, 0) else (0x7F800000, 0)) ∧
    specialFn 4 md false a = (if s then (0x7FC00000, FlagSet.invalid) else (0x7F800000, 0)) ∧
    specialFn 5 md false a = (0x7FC00000, FlagSet.invalid) ∧ specialFn 6 md false a = (0x7FC00000, FlagSet.invalid) ∧
    specialFn 7 md false a = (signCode .f32 s 0x3F800000, 0) := by
  unfold specialFn
  rw [h]
  exact ⟨rfl, rfl, rfl, rfl, rfl, rfl, rfl, rfl⟩

/-- The table's column for a zero. -/
theorem specialFn_zero (h : decodeNum .f32 a = .fin s 0 e) (md : Nat) :
    specialFn 0 md false a = (signCode .f32 s 0x7F800000, FlagSet.divZero) ∧
    specialFn 1 md false a = (signCode .f32 s 0x7F800000, FlagSet.divZero) ∧
    specialFn 2 md false a = (signCode .f32 s 0, 0) ∧ specialFn 3 md false a = (0x3F800000, 0) ∧
    specialFn 4 md false a = (0xFF800000, FlagSet.divZero) ∧ specialFn 5 md false a = (signCode .f32 s 0, 0) ∧
    specialFn 6 md false a = (0x3F800000, 0) ∧ specialFn 7 md false a = (signCode .f32 s 0, 0) := by
  unfold specialFn
  rw [h]
  exact ⟨rfl, rfl, rfl, rfl, rfl, rfl, rfl, rfl⟩

end

/-- The logarithm of a power of two is exact. -/
theorem log2Approx_two_pow (n : Nat) (e : Int) : log2Approx (2 ^ n) e = ⟨decide ((n : Int) + e < 0), ((n : Int) + e).natAbs, 0, false⟩ := by
  simp only [log2Approx, Nat.log2_two_pow, if_true]

/-- 1 has the logarithm +0, with no flag. -/
theorem specialFn_log2_one (md : Nat) (st : Bool) : specialFn 4 md st 0x3F800000 = (0, 0) := by
  have hone : decodeNum .f32 0x3F800000 = .fin false (2 ^ 23) (-23) := by decide
  have hlog : log2Approx (2 ^ 23) (-23) = ⟨false, 0, 0, false⟩ := log2Approx_two_pow 23 (-23)
  simp only [specialFn, hone, hlog]
  rfl

/-- The entries of R267's table that the statement names. -/
theorem specialFn_table (md : Nat) :
    specialFn 0 md false 0x00000000 = (0x7F800000, FlagSet.divZero) ∧ specialFn 0 md false 0x80000000 = (0xFF800000, FlagSet.divZero) ∧
    specialFn 0 md false 0xFF800000 = (0x80000000, 0) ∧ specialFn 1 md false 0x7F800000 = (0, 0) ∧
    specialFn 1 md false 0xBF800000 = (0x7FC00000, FlagSet.invalid) ∧ specialFn 2 md false 0x80000000 = (0x80000000, 0) ∧
    specialFn 2 md false 0xBF800000 = (0x7FC00000, FlagSet.invalid) ∧ specialFn 3 md false 0xFF800000 = (0, 0) ∧
    specialFn 4 md false 0x00000000 = (0xFF800000, FlagSet.divZero) ∧ specialFn 4 md false 0x3F800000 = (0, 0) ∧
    specialFn 5 md false 0x80000000 = (0x80000000, 0) ∧ specialFn 5 md false 0x7F800000 = (0x7FC00000, FlagSet.invalid) ∧
    specialFn 6 md false 0xFF800000 = (0x7FC00000, FlagSet.invalid) ∧ specialFn 7 md false 0xFF800000 = (0xBF800000, 0) := by
  have hposZero : decodeNum .f32 0x00000000 = .fin false 0 (-149) := by decide
  have hnegZero : decodeNum .f32 0x80000000 = .fin true 0 (-149) := by decide
  have hposInf : decodeNum .f32 0x7F800000 = .inf false := by decide
  have hnegInf : decodeNum .f32 0xFF800000 = .inf true := by decide
  have hnegOne : decodeNum .f32 0xBF800000 = .fin true (2 ^ 23) (-23) := by decide
  obtain ⟨rcpPosZero, -, -, -, logPosZero, -⟩ := specialFn_zero hposZero md
  obtain ⟨rcpNegZero, -, sqrtNegZero, -, -, sinNegZero, -⟩ := specialFn_zero hnegZero md
  obtain ⟨-, rsqPosInf, -, -, -, sinPosInf, -⟩ := specialFn_inf hposInf md
  obtain ⟨rcpNegInf, -, -, exp2NegInf, -, -, cosNegInf, tanhNegInf⟩ := specialFn_inf hnegInf md
  have negative : ∀ fn ∈ [1, 2, 4], specialFn fn md false 0xBF800000 = (0x7FC00000, FlagSet.invalid) :=
    fun fn hfn => specialFn_negative hnegOne (by decide) hfn md false
  exact ⟨rcpPosZero, rcpNegZero, rcpNegInf, rsqPosInf, negative 1 (by decide), sqrtNegZero, negative 2 (by decide), exp2NegInf,
    logPosZero, specialFn_log2_one md false, sinNegZero, sinPosInf, cosNegInf, tanhNegInf⟩

/-- Settles O15: each instruction runs its slot of specialFn, and its special cases are R267's table. -/
theorem specialFunctions : Obligations.SpecialFunctions := by
  unfold Obligations.SpecialFunctions
  refine ⟨?frcp, ?frsq, ?fsqrt, ?fexp2, ?flog2, ?fsin, ?fcos, ?ftanh, specialFn_table, fun md st a fn _ h => ?nan⟩
  case frcp => exact computesBoth_of (fun _ _ => rfl) fun _ _ => rfl
  case frsq => exact computesBoth_of (fun _ _ => rfl) fun _ _ => rfl
  case fsqrt => exact computesBoth_of (fun _ _ => rfl) fun _ _ => rfl
  case fexp2 => exact computesBoth_of (fun _ _ => rfl) fun _ _ => rfl
  case flog2 => exact computesBoth_of (fun _ _ => rfl) fun _ _ => rfl
  case fsin => exact computesBoth_of (fun _ _ => rfl) fun _ _ => rfl
  case fcos => exact computesBoth_of (fun _ _ => rfl) fun _ _ => rfl
  case ftanh => exact computesBoth_of (fun _ _ => rfl) fun _ _ => rfl
  case nan =>
    obtain ⟨s, hs⟩ := Num.isNan_iff.1 h
    exact congrArg Prod.fst (specialFn_nan hs fn md st)

end Sys2Proof.Machine
end

section
/-! Leaving code (R277, R278, R280 to R282): EXIT and what it waits for, YIELD, the flags that TRAPFENCE looks at, and the faults of
TRAP and BRK. -/

namespace Sys2Proof.Machine

/-! EXIT (R277) -/

section
variable {v : Env} {s : State}

/-- Without a faulted token a lane exits. -/
theorem laneExit_lane {t lit : Nat} (hfaulted : anyToken (s.laneOf v.who) .faulted = false) (hw : v.who = .lane t lit) :
    laneExit v s = (s.exitLane t lit, .done) := by
  unfold laneExit
  rw [hfaulted, hw]
  rfl

/-- And a control program stops. -/
theorem laneExit_prog {w : Nat} (hfaulted : anyToken (s.laneOf v.who) .faulted = false) (hw : v.who = .prog w) :
    laneExit v s = (s.modProg w fun p => { p with st := .stopped, clause := none }, .done) := by
  unfold laneExit
  rw [hfaulted, hw]
  rfl

theorem laneExit_faulted (h : anyToken (s.laneOf v.who) .faulted = true) : laneExit v s = (s, .fault .illegal) := if_pos h

end

/-- EXIT starts once no token is PENDING. -/
def exitReady (v : Env) (s : State) : State × Bool :=
  if anyToken (s.laneOf v.who) .pending then tokenStall s v.who else (s, true)

theorem exitReady_pending {v : Env} {s : State} (h : anyToken (s.laneOf v.who) .pending = true) :
    exitReady v s = tokenStall s v.who := if_pos h

theorem exitReady_clear {v : Env} {s : State} (h : anyToken (s.laneOf v.who) .pending = false) : exitReady v s = (s, true) :=
  if_neg (Bool.eq_false_iff.1 h)

theorem exec_exit (f : F1) (s : State) : Machine.exec (.exit f) s = runLanes (issueOp (.exit f)) s (fun _ => laneExit) exitReady := rfl

/-- A lane that leaves its gang stays in its team, where only what is set of it changes. -/
theorem lane_modLane_leaveGang {s : State} {t lit : Nat} (h : lit < (s.team t).lanes.length) (f : Lane → Lane) :
    ((s.leaveGang t lit).modLane t lit f).lane t lit = f (s.lane t lit) :=
  State.lane_modLane_self (s.leaveGang t lit) t lit f h

/-! BRK (R179, R282) -/

section
variable {s : State} (code : BitVec 16) (skip : Bool)

/-- BRK outside the sequencers runs as an instruction of every class. -/
theorem exec_brk_lanes (h : ∀ t, s.cur ≠ some (.seq t)) :
    Machine.exec (.brk code skip) s =
      runLanes (issueOp (.brk code skip)) s fun _ _ s => (s, .fault { code := 0x0E, info := code.toNat }) := by
  have hexec : Machine.exec (.brk code skip) s = execBrk code skip s := rfl
  rw [hexec, execBrk]
  split
  · next t ht => exact absurd ht (h t)
  · rfl

theorem exec_brk_seq {t : Nat} (h : s.cur = some (.seq t)) :
    Machine.exec (.brk code skip) s =
      runSeq (issueOp (.brk code skip)) s fun _ s => (s, .fault { code := 0x0E, info := code.toNat }) := by
  have hexec : Machine.exec (.brk code skip) s = execBrk code skip s := rfl
  rw [hexec, execBrk, h]
  rfl

end

/-- Settles O26: each clause is the lemma above about EXIT's meaning or BRK's agent, or a branch of YIELD or TRAPFENCE. -/
theorem exitsAndTraps : Obligations.ExitsAndTraps := by
  unfold Obligations.ExitsAndTraps
  refine ⟨fun f t lit => ?exitLane, fun f w => ?exitProg, fun s t lit h => lane_modLane_leaveGang h _, fun f => ?exitPending,
    fun f => ?exitFaulted, fun f g => ?yieldGang, fun f w => ?yieldProg, fun f => ?flagsClear, fun f => ?flagsEnabled, ?trap, fun _ => rfl,
    fun code skip => ?brkLanes, fun code skip => ?brkSeq⟩
  case exitLane =>
    exact completes_of (exec_exit f) (fun _ _ _ _ ⟨hpending, _⟩ => exitReady_clear hpending)
      fun _ _ _ _ ⟨_, hfaulted, hw⟩ => ⟨laneExit_lane hfaulted hw, rfl⟩
  case exitProg =>
    exact completes_of (exec_exit f) (fun _ _ _ _ ⟨hpending, _⟩ => exitReady_clear hpending)
      fun _ _ _ _ ⟨_, hfaulted, hw⟩ => ⟨laneExit_prog hfaulted hw, rfl⟩
  case exitPending => exact stalls_of (exec_exit f) fun _ _ _ _ hpending => exitReady_pending hpending
  case exitFaulted =>
    exact faults_of (exec_exit f) (fun _ _ _ _ ⟨hpending, _⟩ => exitReady_clear hpending)
      fun _ _ _ _ ⟨_, hfaulted⟩ => congrArg Prod.snd (laneExit_faulted hfaulted)
  case yieldGang =>
    refine completes_of_lane (fun _ => rfl) fun _ _ s hcur => ⟨?_, rfl⟩
    simp only [hcur]
  case yieldProg =>
    refine completes_of_lane (fun _ => rfl) fun _ _ s hcur => ⟨?_, rfl⟩
    simp only [hcur]
  case flagsClear => exact completes_of_lane (fun _ => rfl) fun _ _ _ hclear => ⟨if_neg (not_not_intro hclear), rfl⟩
  case flagsEnabled => exact faults_of_lane (fun _ => rfl) fun _ _ _ hset => congrArg Prod.snd (if_pos hset)
  case trap => exact faultsBoth_of (fun _ _ => rfl) (fun _ _ => rfl) (fun _ _ _ => rfl) fun _ _ _ _ => rfl
  case brkLanes =>
    intro s a cl h hcur
    rw [exec_brk_lanes code skip hcur, runLanes_step h _ _ rfl]
    rfl
  case brkSeq => exact seqFaults_of (fun _ _ hcur => exec_brk_seq code skip hcur) fun _ _ _ _ _ => rfl

end Sys2Proof.Machine
end

section
/-! Barriers and waits (R279, R283 to R286, R398): what TBAR, CBAR, AWAIT, ARRIVE and MWAIT answer, what leaving a barrier does to the
L1, and when a phase completes. -/

namespace Sys2Proof.Machine

/-- An instruction that is never held back waits where its meaning does. -/
theorem waits_of_lane {i : Instr} {P : Env → State → Prop} {W : Env → State → State} {fn : LaneFn}
    (he : ∀ s, Machine.exec i s = runLanes (issueOp i) s fn) (hq : ∀ E v s, P v s → fn E v s = (W v s, .wait)) : Waits i P W :=
  waits_of (ready := fun _ s => (s, true)) he (fun _ _ _ _ _ => rfl) fun _ _ _ _ => hq _ _ _

/-- Both forms of an instruction that is never held back complete as their meaning answers. -/
theorem completesBoth_of_lane {i : F1 → Instr} {j : F2 → Instr} {P : Env → State → Prop}
    {Q : Env → State → State × Res} {fn : LaneFn} (he : ∀ f s, Machine.exec (i f) s = runLanes (issueOp (i f)) s fn)
    (he' : ∀ f s, Machine.exec (j f) s = runLanes (issueOp (j f)) s fn)
    (hq : ∀ E v s, P v s → fn E v s = Q v s ∧ (Q v s).2.retires = true) : CompletesBoth i j P Q :=
  ⟨fun f => completes_of_lane (he f) hq, fun f => completes_of_lane (he' f) hq⟩

/-! Waiting at a barrier (R284, R286) -/

section
variable {v : Env} {s : State} {t lit : Nat} (hw : v.who = .lane t lit) (x : Nat)
include hw

/-- A woken lane goes on, and so does one whose arrival a restore has kept and whose phase is over. -/
theorem laneBar_leaves {p : Nat}
    (h : (s.lane t lit).woken = some p ∨ ((s.lane t lit).waits = true ∧ (s.lane t lit).arrived.get 0 x = s.phase t x)) :
    laneBar v x s =
      ((s.modLane t lit fun l => { l with waits := false }).leaveBar v.who t x, .value ((s.lane t lit).arrived.get 0 x)) := by
  have hgo : ((s.lane t lit).woken.isSome || ((s.lane t lit).waits && (s.lane t lit).arrived.get 0 x == s.phase t x)) = true := by
    rcases h with h | ⟨hwaits, hphase⟩
    · rw [h]; rfl
    · rw [hwaits, hphase, beq_self_eq_true]; exact Bool.or_true _
  unfold laneBar
  simp only [hw, hgo, if_true]

/-- Any other lane arrives, unless it has, and stands in BARRIER. -/
theorem laneBar_stands (hnew : (s.lane t lit).woken = none)
    (hopen : (s.lane t lit).waits = true → (s.lane t lit).arrived.get 0 x ≠ s.phase t x) :
    laneBar v x s =
      ((((if (s.lane t lit).waits = false ∧ (s.lane t lit).arrived.get 0 x = s.phase t x then s.arrive t lit x else s).leaveGang t
        lit).modLane t lit fun l => { l with st := .barrier, bar := x, rep := none, waits := false }).checkBar t x, .wait) := by
  have hstay : ((s.lane t lit).woken.isSome || ((s.lane t lit).waits && (s.lane t lit).arrived.get 0 x == s.phase t x)) = false := by
    rw [hnew, Option.isSome_none, Bool.false_or, Bool.and_eq_false_iff, beq_eq_false_iff_ne]
    exact (Bool.eq_false_or_eq_true _).symm.imp_right hopen
  unfold laneBar
  simp only [hw, hstay, Bool.and_eq_true, Bool.not_eq_true', decide_eq_true_eq, if_false, Bool.false_eq_true]

end

/-- The three barrier instructions wait at the barrier that they name. -/
theorem exec_barrier {i : F1 → Instr} {x : Env → Nat}
    (h : (i = .tbar ∧ x = fun _ => 0) ∨ (i = .cbar ∧ x = fun _ => 1) ∨ (i = .await ∧ x = fun v => 2 + v.a)) :
    ∃ fn : LaneFn, (∀ f s, Machine.exec (i f) s = runLanes (issueOp (i f)) s fn) ∧
      ∀ E v s, (i = .await → v.a < 16) → fn E v s = laneBar v (x v) s := by
  rcases h with ⟨rfl, rfl⟩ | ⟨rfl, rfl⟩ | ⟨rfl, rfl⟩
  · exact ⟨_, fun _ _ => rfl, fun _ _ _ _ => rfl⟩
  · exact ⟨_, fun _ _ => rfl, fun _ _ _ _ => rfl⟩
  · exact ⟨_, fun _ _ => rfl, fun _ _ _ hnumber => if_neg (Nat.not_le.2 (hnumber rfl))⟩

/-! Leaving a barrier (R285, R302) -/

/-- The acquire is that of the barrier's scope. -/
theorem leaveBar_acquires {s : State} {t x : Nat} (h : x < 2 ∨ (s.team t).drained = false) (a : Agent) :
    s.leaveBar a t x = s.acquire a (if x = 1 then 1 else 0) := by
  refine if_neg fun hflush => ?_
  obtain ⟨hle, hdrained⟩ := Bool.and_eq_true_iff.1 hflush
  rcases h with h | h
  · exact Nat.not_le.2 h (of_decide_eq_true hle)
  · exact Bool.false_ne_true (h.symm.trans hdrained)

/-- After a drain to global memory an NBk empties the L1 of the core. -/
theorem leaveBar_flushes {s : State} {t x : Nat} (hx : 2 ≤ x) (hdrained : (s.team t).drained = true) (a : Agent) :
    ∀ l ∈ (s.leaveBar a t x).l1, l.core ≠ (s.team t).core := by
  have hflush : s.leaveBar a t x = s.l1Flush (s.team t).core := if_pos (by rw [hdrained, decide_eq_true hx]; rfl)
  rw [hflush]
  exact fun l hl => bne_iff_ne.1 (List.mem_filter.1 hl).2

/-! ARRIVE (R284) -/

section
variable {v : Env} {s : State} {t lit : Nat} (hw : v.who = .lane t lit)
include hw

theorem laneArrive_arrives (hnumber : v.a < 16) (hfirst : (s.lane t lit).arrived.get 0 (2 + v.a) ≠ s.phase t (2 + v.a) + 1) :
    laneArrive v s = ((s.arrive t lit (2 + v.a)).checkBar t (2 + v.a), .done) := by
  unfold laneArrive
  simp only [hw, barNb, Nat.not_le.2 hnumber, hfirst, decide_false, Bool.or_self, if_false, Bool.false_eq_true]

theorem laneArrive_refused (h : 16 ≤ v.a ∨ (s.lane t lit).arrived.get 0 (2 + v.a) = s.phase t (2 + v.a) + 1) :
    laneArrive v s = (s, .fault .illegal) := by
  unfold laneArrive
  simp only [hw]
  exact if_pos (Bool.or_eq_true_iff.2 (h.imp decide_eq_true decide_eq_true))

end

/-! The end of a phase (R283, R461) -/

section
variable {s : State} {t x : Nat}

theorem checkBar_open (h : s.barFull t x = false) : s.checkBar t x = s := if_pos (by rw [h]; rfl)

/-- A full phase completes, where no snapshot of a guarded launch comes before it. -/
theorem checkBar_full (h : s.barFull t x = true) (hplain : ¬(x = 0 ∧ (s.launchOf t).guarded = true)) :
    s.checkBar t x = s.completePhase t x := by
  unfold State.checkBar
  rw [h, Bool.not_true, if_neg Bool.false_ne_true]
  refine if_neg fun hsnapshot => hplain ?_
  exact (Bool.and_eq_true_iff.1 hsnapshot).imp_left of_decide_eq_true

/-- A full TB has its team's lanes, all of which have arrived. -/
theorem arrived_of_barFull (h : s.barFull t 0 = true) :
    (∀ lit ∈ s.liveLanes t, (s.lane t lit).arrived.get 0 0 = s.phase t 0 + 1) ∧ s.liveLanes t ≠ [] := by
  have hteams : s.barTeams t 0 = [t] := rfl
  simp only [State.barFull, hteams, State.teamArrived, List.all_cons, List.all_nil, List.any_cons, List.any_nil, Bool.and_true,
    Bool.or_false, Bool.and_eq_true, List.all_eq_true, beq_iff_eq] at h
  obtain ⟨⟨-, harrived, -⟩, hany⟩ := h
  refine ⟨harrived, fun hempty => ?_⟩
  rw [hempty] at hany
  cases hany

end

/-! MWAIT (R279) -/

section
variable {v : Env} {s : State}

/-- A woken lane goes on with what woke it, after the acquire that its modifier names. -/
theorem laneMwait_woken {d : Nat} (h : (s.laneOf v.who).woken = some d) :
    laneMwait v s =
      (if mbits v.f.m 2 0 = 0 then s.modLaneOf v.who fun l => { l with st := .ready }
        else (s.modLaneOf v.who fun l => { l with st := .ready }).acquire v.who (mbits v.f.m 2 0 - 1), .value d) := by
  unfold laneMwait
  simp only [h]

variable (hnew : (s.laneOf v.who).woken = none) (hst : (s.laneOf v.who).st ≠ .mwait)
include hnew hst

theorem laneMwait_unarmed (h : (s.laneOf v.who).armed = none) : laneMwait v s = (s, .value 3) := by
  unfold laneMwait
  simp only [hnew, hst, h, if_false]

variable {r : Armed} (harmed : (s.laneOf v.who).armed = some r)
include harmed

theorem laneMwait_written (h : r.written = true) : laneMwait v s = (s, .value 0) := by
  unfold laneMwait
  simp only [hnew, hst, harmed, h, if_false, if_true]

theorem laneMwait_stands (h : r.written = false) {t lit : Nat} (hw : v.who = .lane t lit) :
    laneMwait v s =
      ((s.leaveGang t lit).modLane t lit fun l => { l with st := .mwait, since := s.cycle, mwLimit := v.a, rep := none }, .wait) := by
  unfold laneMwait
  simp only [hnew, hst, harmed, h, if_false, Bool.false_eq_true]
  rw [hw]

end

/-- Settles O28: each clause is the lemma above about the meaning of the instruction, the leaving of a barrier or the end of a phase. -/
theorem barriers : Obligations.Barriers := by
  unfold Obligations.Barriers
  refine ⟨fun i x hi => ?barrier, fun _ a _ _ h => leaveBar_acquires h a, fun _ a _ _ hx hdrained => leaveBar_flushes hx hdrained a,
    fun f => ?awaitNumber, fun f t lit => ?arrives, fun f t lit => ?arriveRefused, fun _ _ _ _ => rfl, fun _ _ _ h => checkBar_open h,
    fun _ _ _ h hplain => checkBar_full h hplain, fun _ _ h => arrived_of_barFull h, ?unarmed, fun r => ?written, fun d => ?woken,
    fun f t lit r => ?stands⟩
  case barrier =>
    obtain ⟨fn, hexec, hfn⟩ := exec_barrier hi
    refine ⟨fun f t lit p => completes_of_lane (hexec f) fun E v s ⟨hnumber, hw, h⟩ => ?_, fun f t lit => ?_⟩
    · exact ⟨(hfn E v s hnumber).trans (laneBar_leaves hw (x v) h), rfl⟩
    · refine waits_of_lane (hexec f) fun E v s ⟨hnumber, hw, hnew, hopen⟩ => ?_
      exact (hfn E v s hnumber).trans (laneBar_stands hw (x v) hnew hopen)
  case awaitNumber => exact faults_of_lane (fun _ => rfl) fun _ _ _ h => congrArg Prod.snd (if_pos h)
  case arrives =>
    exact completes_of_lane (fun _ => rfl) fun _ _ _ ⟨hw, hnumber, hfirst⟩ => ⟨laneArrive_arrives hw hnumber hfirst, rfl⟩
  case arriveRefused => exact faults_of_lane (fun _ => rfl) fun _ _ _ ⟨hw, h⟩ => congrArg Prod.snd (laneArrive_refused hw h)
  case unarmed =>
    exact completesBoth_of_lane (fun _ _ => rfl) (fun _ _ => rfl)
      fun _ _ _ ⟨hnew, hst, harmed⟩ => ⟨laneMwait_unarmed hnew hst harmed, rfl⟩
  case written =>
    exact completesBoth_of_lane (fun _ _ => rfl) (fun _ _ => rfl)
      fun _ _ _ ⟨hnew, hst, harmed, hwritten⟩ => ⟨laneMwait_written hnew hst harmed hwritten, rfl⟩
  case woken =>
    exact completesBoth_of_lane (fun _ _ => rfl) (fun _ _ => rfl) fun _ _ _ hwoken => ⟨laneMwait_woken hwoken, rfl⟩
  case stands =>
    refine waits_of_lane (fun _ => rfl) fun _ v s ⟨hw, hnew, hst, harmed, hwritten⟩ => ?_
    have hlane : s.laneOf v.who = s.lane t lit := by rw [hw]; rfl
    exact laneMwait_stands (hlane ▸ hnew) (hlane ▸ hst) (hlane ▸ harmed) hwritten hw

end Sys2Proof.Machine
end

section
/-! The system instructions (R291 to R298): the registers behind the selectors, launches from a record, rings, events, signals,
invalidations and key operations. -/

namespace Sys2Proof.Machine

/-- What is never held back. -/
def alwaysReady (_ : Env) (s : State) : State × Bool := (s, true)

/-! SREAD and SWRITE (R292) -/

section
variable {v : Env} {s : State}

/-- A selector that its agent may not use raises what its privilege names. -/
theorem laneSread_refused {y : Why} (h : selectorFault v.who v.a = some y) : laneSread v s = (s, .fault y) := by
  unfold laneSread
  rw [h]

/-- The debug block and the firmware's selectors are not a lane's. -/
theorem selectorFault_lane {sel : Nat} (hlo : 0x400 ≤ sel) (hhi : sel < 0x1000) (h : sel ≤ 0x4FF ∨ 0x800 ≤ sel) (t lit : Nat) :
    selectorFault (.lane t lit) sel = some { code := 0x13 } := by
  unfold selectorFault
  rw [if_neg (Nat.not_le.2 hhi)]
  rcases h with h | h
  · rw [if_neg (by omega), if_pos (by simp [hlo, h])]
  · rw [if_pos h]

variable (hfree : selectorFault v.who v.a = none) {x : Nat}
include hfree

/-- Below 0x400 SREAD delivers the register of the table. -/
theorem laneSread_table (ha : v.a < 0x400) (h : selectorGet s v.who v.a = some x) : laneSread v s = (s, .value x) := by
  have hdata : v.a ≠ 0x407 := by omega
  unfold laneSread
  simp only [hfree, hdata, Nat.not_le.2 ha, h, if_false]

/-- From there on that of the debug block. -/
theorem laneSread_debug (ha : 0x400 ≤ v.a) (hdata : v.a ≠ 0x407) (h : s.dbgGet v.w v.a = some x) : laneSread v s = (s, .value x) := by
  unfold laneSread
  simp only [hfree, hdata, ha, h, if_false, if_true]

theorem laneSwrite_flags (ha : v.a = 0) :
    laneSwrite v s = (s.modLaneOf v.who fun l =>
      { l with flags := BitVec.ofNat 5 v.b, sflags := BitVec.ofNat 5 (if v.prot then v.b' else 0) }, .done) := by
  unfold laneSwrite
  rw [hfree, ha]
  rfl

theorem laneSwrite_sptr (ha : v.a = 3) :
    laneSwrite v s = (s.modLaneOf v.who fun l => { l with sptr := BitVec.ofNat 32 v.b }, .done) := by
  unfold laneSwrite
  rw [hfree, ha]
  rfl

end

/-! LAUNCH (R293, R129) -/

section
variable {v : Env} {s : State}

/-- A lane's LAUNCH starts outside an activation, after its release, where the record is no peer's. -/
theorem launchReady_local {t lit : Nat} {p : Place} {s1 : State} (hidle : s.activating = false)
    (hrelease : releaseReady v s (v.f.m.getLsbD 0) 3 = true) (hpair : v.mismatch = false) (hfree : s.awaitedReq v.who = none)
    (hw : v.who = .lane t lit) (hplace : s.globalPlace v.who v.a 128 .read 0 = (.ok p, s1)) (hlocal : p.isLocal = true) :
    launchReady v s = (s, true) := by
  have hpeer : peerReady v s v.a 128 .read false 32 (zeros 128) none = (s, true) := peerReady_local _ _ _ _ hfree hplace hlocal
  unfold launchReady
  rw [hpeer, hw]
  simp only [hidle, hrelease, hpair, Bool.not_true, Bool.or_self, Bool.false_eq_true, if_false]

/-- The record that it reads goes, after the release, into its world's queue as that of its child. -/
theorem laneLaunch_enqueues {t lit x : Nat} {p : Place} {sp : Space} {s1 s2 u : State} {raw : List Byte} (hpair : v.mismatch = false)
    (hw : v.who = .lane t lit) (hplace : s.globalPlace v.who v.a 128 .read 0 = (.ok p, s1)) (hat : p.at? = some (sp, x))
    (hload : s1.loadAt v.who sp x 128 .weak = (some raw, s2)) (hclean : s1.stagedPoison v.who p.target.key 128 = false)
    (hrelease : s2.release v.who (if v.f.m.getLsbD 0 then 3 else 2) = u) (hstages : u.stages v.who = false) :
    laneLaunch v s =
      ((u.enqueue v.w (s2.childRecord t lit (s2.ownView v.who p.target.key raw))).2.modLane t lit fun l => { l with spawn := l.spawn + 1 },
        .value (u.enqueue v.w (s2.childRecord t lit (s2.ownView v.who p.target.key raw))).1) := by
  unfold laneLaunch
  simp only [hpair, hplace, hat, hload, hclean, hrelease, hstages, Bool.false_eq_true, if_false]
  rw [hw]

end

namespace State

section
variable {s : State} {w : Nat} {bs : List Byte}

theorem enqueue_full (h : 1024 ≤ s.queueLength (s.world w).ctl (bits (parseRecord bs).lflags.toNat 1 0)) : s.enqueue w bs = (1, s) :=
  if_pos h

/-- A decision point changes no launch. -/
@[simp] theorem launches_decide' (s : State) (c : Nat) : (s.decide' c).launches = s.launches := by
  obtain ⟨d, hd⟩ := pushOnce_due s (.decisionStep c)
  rw [decide', hd]

/-- With room in the queue the record becomes the next launch. -/
theorem enqueue_room (h : s.queueLength (s.world w).ctl (bits (parseRecord bs).lflags.toNat 1 0) < 1024) :
    (s.enqueue w bs).1 = 0 ∧ ((s.enqueue w bs).2.launches.look s.nextLaunch).map (·.recBytes) = some bs := by
  unfold enqueue
  simp only [Nat.not_le.2 h, if_false, launches_decide', SMap.look_insert_self, Option.map_some, and_self]

end

end State

/-! QREAD (R294) -/

section
variable {v : Env} {s : State} {r : Ring} (hr : State.ring (s.world v.w) v.a = r)
include hr

/-- QREAD of an empty ring asks for nothing. -/
theorem qreadReady_empty (hempty : r.head = r.tail) : qreadReady v s = (s, true) := by
  refine if_pos ?_
  rw [hr, decide_eq_true hempty, Bool.or_true]

variable (hring : v.a < 8) (henabled : r.enabled = true) (halign : v.b % 128 = 0) (hfit : v.b + 128 ≤ (s.prog v.w).privSize)
include hring henabled halign hfit

/-- QREAD of an enabled ring into an aligned place that its program has raises nothing. -/
theorem qreadFault_none : qreadFault v s = none := by
  unfold qreadFault
  simp only [hr, Nat.not_le.2 hring, Nat.not_lt.2 hfit, henabled, halign, decide_false, Bool.not_true, Bool.or_self, ne_eq,
    not_true_eq_false, if_false, Bool.false_eq_true]

theorem laneQread_empty (hempty : r.head = r.tail) :
    laneQread v s = (s, .value (s.operand v.who (s.laneOf v.who) false v.f.d 2 / 2 ^ 32 * 2 ^ 32 + 1)) := by
  unfold laneQread
  simp only [hr, qreadFault_none hr hring henabled halign hfit, hempty, if_true]

variable {p : Place} {s1 : State} (hsome : r.head ≠ r.tail)
  (hplace : s.globalPlace v.who (r.recordVa r.head.toNat) 128 .read 0 = (.ok p, s1))
include hsome hplace

theorem qreadReady_local (hfree : s.awaitedReq v.who = none) (hlocal : p.isLocal = true) : qreadReady v s = (s, true) := by
  unfold qreadReady
  simp only [hr, qreadFault_none hr hring henabled halign hfit, hsome, Option.isSome_none, decide_false, Bool.or_self, if_false,
    Bool.false_eq_true]
  exact peerReady_local _ _ _ _ hfree hplace hlocal

/-- The record at the head goes to the place that B names, and the head moves past it. -/
theorem laneQread_takes {sp : Space} {x : Nat} {s2 : State} {bs : List Byte} (hat : p.at? = some (sp, x))
    (hload : s1.loadAt v.who sp x 128 .home = (some bs, s2)) :
    laneQread v s =
      ((s2.write (.priv v.w) v.b bs).modWorld v.w fun y => { y with rings := y.rings.insert v.a { r with head := r.head + 1 } },
        .value (r.head.toNat * 2 ^ 32)) := by
  unfold laneQread
  simp only [hr, qreadFault_none hr hring henabled halign hfit, hsome, hplace, hat, hload, if_false]

end

/-! Events and signals (R295, R296) -/

section
variable {v : Env} {s s1 : State} (halign : v.a % 32 = 0) (hfit : v.a + 32 ≤ (s.prog v.w).privSize)
include halign hfit

/-- The oldest event goes to the place that A names. -/
theorem laneEvent_takes {e : Event} (h : s.takeEvent v.w = (some e, s1)) (wait : Bool) :
    laneEvent wait v s = (s1.write (.priv v.w) v.a e.bytes, .value 0) := by
  unfold laneEvent
  simp only [halign, Nat.not_lt.2 hfit, h, ne_eq, not_true_eq_false, if_false]

/-- Without one EVREAD answers 1. -/
theorem laneEvent_none (h : s.takeEvent v.w = (none, s1)) : laneEvent false v s = (s1, .value 1) := by
  unfold laneEvent
  simp only [halign, Nat.not_lt.2 hfit, h, ne_eq, not_true_eq_false, if_false, Bool.false_eq_true]

end

/-- SIGNAL starts once its release at system scope is complete. -/
def signalReady (v : Env) (s : State) : State × Bool := (s, releaseReady v s true 3)

theorem laneSignal_sends {v : Env} (h : v.a < 64) (s : State) : laneSignal v s = (s.signal v.w v.a, .done) := if_neg (Nat.not_le.2 h)

/-! TLBINV and KEYOP (R297, R298) -/

/-- TLBINV retires once no pass and no walk of the world uses a translation. -/
theorem tlbinvReady_of {v : Env} {s : State} (hpasses : ∀ e ∈ s.passes, (s.launchOf e.2.team).world ≠ v.w)
    (hwalks : ∀ r ∈ s.reqs, r.inner.isSome = true → r.world = v.w → r.st ≠ .waiting) : tlbinvReady v s = (s, true) := by
  have hpass : (s.passes.any fun e => (s.launchOf e.2.team).world == v.w) = false :=
    List.any_eq_false.2 fun e he => by simpa using hpasses e he
  have hwalk : (s.reqs.any fun r => r.inner.isSome && r.world == v.w && r.st == ReqSt.waiting) = false := by
    refine List.any_eq_false.2 fun r hr hd => ?_
    simp only [Bool.and_eq_true, beq_iff_eq] at hd
    obtain ⟨⟨hinner, hworld⟩, hst⟩ := hd
    exact hwalks r hr hinner hworld hst
  unfold tlbinvReady
  simp only [hpass, hwalk, Bool.not_false, Bool.and_self]

theorem laneKeyop_firm {v : Env} {c : Nat} (hw : v.who = .firm c) (s : State) :
    laneKeyop v s = ((s.keyOp c v.a v.b).2, .value (s.keyOp c v.a v.b).1) := by
  unfold laneKeyop
  rw [hw]

/-! What a check of R177 refuses -/

/-- An instruction that opens no repeats takes the fault of the check that refuses it. -/
theorem traps_of_meaning {i : Instr} (m : Env → State → State × Res) (ready : Env → State → State × Bool)
    (hc : (issueOp i).e.cls ≠ 5) (he : ∀ s, Machine.exec i s = runLanes (issueOp i) s (fun _ => m) ready) : Traps i :=
  traps_of hc he fun _ => rfl

/-- Settles O34: each clause is the lemma above about the meaning of the instruction, or about when it starts. -/
theorem systemInstructions : Obligations.SystemInstructions := by
  unfold Obligations.SystemInstructions
  refine ⟨fun x => ?readTable, fun x => ?readDebug, fun s t lit => ⟨rfl, rfl, rfl, rfl, rfl⟩, ?writeFlags, ?writeSptr, ?readRefused,
    fun t lit p sp x s1 s2 raw => ?launch, fun _ _ _ h => State.enqueue_room h, fun _ _ _ h => State.enqueue_full h, ?ringEmpty,
    fun p sp x s1 s2 bs => ?ringRecord, fun e s1 => ?eventRead, fun e s1 f => ?eventWait, fun s1 => ?eventNone, ?signal, ?tlbinv,
    fun c => ?keyop, fun f g => ?privileged⟩
  case readTable =>
    exact completesBoth_of_lane (fun _ _ => rfl) (fun _ _ => rfl) fun _ _ _ ⟨hfree, ha, h⟩ => ⟨laneSread_table hfree ha h, rfl⟩
  case readDebug =>
    exact completesBoth_of_lane (fun _ _ => rfl) (fun _ _ => rfl)
      fun _ _ _ ⟨hfree, ha, hdata, h⟩ => ⟨laneSread_debug hfree ha hdata h, rfl⟩
  case writeFlags =>
    exact completesBoth_of_lane (fun _ _ => rfl) (fun _ _ => rfl) fun _ _ _ ⟨hfree, ha⟩ => ⟨laneSwrite_flags hfree ha, rfl⟩
  case writeSptr =>
    exact completesBoth_of_lane (fun _ _ => rfl) (fun _ _ => rfl) fun _ _ _ ⟨hfree, ha⟩ => ⟨laneSwrite_sptr hfree ha, rfl⟩
  case readRefused =>
    refine faultsBoth_of (fn := fun _ => laneSread) (ready := alwaysReady) (fun _ _ => rfl) (fun _ _ => rfl) (fun _ _ _ => rfl)
      fun _ v s ⟨hlo, hhi, t, lit, hw, h⟩ => ?_
    exact congrArg Prod.snd (laneSread_refused (hw ▸ selectorFault_lane hlo hhi h t lit))
  case launch =>
    exact completesBoth_of (fn := fun _ => laneLaunch) (ready := launchReady) (fun _ _ => rfl) (fun _ _ => rfl)
      (fun _ _ ⟨hidle, hrelease, hpair, hfree, hw, hplace, hlocal, _⟩ => launchReady_local hidle hrelease hpair hfree hw hplace hlocal)
      fun _ _ _ ⟨_, _, hpair, _, hw, hplace, _, hat, hload, hclean, hstages⟩ =>
        ⟨laneLaunch_enqueues hpair hw hplace hat hload hclean rfl hstages, rfl⟩
  case ringEmpty =>
    exact completesBoth_of (fn := fun _ => laneQread) (ready := qreadReady) (fun _ _ => rfl) (fun _ _ => rfl)
      (fun _ _ ⟨_, _, _, _, hempty⟩ => qreadReady_empty rfl hempty)
      fun _ _ _ ⟨hring, henabled, halign, hfit, hempty⟩ => ⟨laneQread_empty rfl hring henabled halign hfit hempty, rfl⟩
  case ringRecord =>
    exact completesBoth_of (fn := fun _ => laneQread) (ready := qreadReady) (fun _ _ => rfl) (fun _ _ => rfl)
      (fun _ _ ⟨hfree, hring, henabled, halign, hfit, hsome, hplace, hlocal, _⟩ =>
        qreadReady_local rfl hring henabled halign hfit hsome hplace hfree hlocal)
      fun _ _ _ ⟨_, hring, henabled, halign, hfit, hsome, hplace, _, hat, hload⟩ =>
        ⟨laneQread_takes rfl hring henabled halign hfit hsome hplace hat hload, rfl⟩
  case eventRead =>
    exact completesBoth_of_lane (fun _ _ => rfl) (fun _ _ => rfl) fun _ _ _ ⟨halign, hfit, h⟩ => ⟨laneEvent_takes halign hfit h false, rfl⟩
  case eventWait => exact completes_of_lane (fun _ => rfl) fun _ _ _ ⟨halign, hfit, h⟩ => ⟨laneEvent_takes halign hfit h true, rfl⟩
  case eventNone =>
    exact completesBoth_of_lane (fun _ _ => rfl) (fun _ _ => rfl) fun _ _ _ ⟨halign, hfit, h⟩ => ⟨laneEvent_none halign hfit h, rfl⟩
  case signal =>
    exact completesBoth_of (fn := fun _ => laneSignal) (ready := signalReady) (fun _ _ => rfl) (fun _ _ => rfl)
      (fun _ s ⟨hrelease, _⟩ => congrArg (Prod.mk s) hrelease) fun _ _ s ⟨_, ha⟩ => ⟨laneSignal_sends ha s, rfl⟩
  case tlbinv =>
    exact completesBoth_of (fn := fun _ => laneTlbinv) (ready := tlbinvReady) (fun _ _ => rfl) (fun _ _ => rfl)
      (fun _ _ ⟨hpasses, hwalks⟩ => tlbinvReady_of hpasses hwalks) fun _ _ _ _ => ⟨rfl, rfl⟩
  case keyop => exact completesBoth_of_lane (fun _ _ => rfl) (fun _ _ => rfl) fun _ _ s hw => ⟨laneKeyop_firm hw s, rfl⟩
  case privileged =>
    exact ⟨traps_of_meaning laneQread qreadReady nofun fun _ => rfl, traps_of_meaning laneQread qreadReady nofun fun _ => rfl,
      traps_of_meaning (laneEvent false) alwaysReady nofun fun _ => rfl, traps_of_meaning (laneEvent false) alwaysReady nofun fun _ => rfl,
      traps_of_meaning (laneEvent true) alwaysReady nofun fun _ => rfl, traps_of_meaning laneSignal signalReady nofun fun _ => rfl,
      traps_of_meaning laneSignal signalReady nofun fun _ => rfl, traps_of_meaning laneKeyop alwaysReady nofun fun _ => rfl,
      traps_of_meaning laneKeyop alwaysReady nofun fun _ => rfl⟩

end Sys2Proof.Machine
end

section
/-! The freeze (R469): what a step of a frozen package can do is change what stands outside it, and the fields that the management
port and the loss of power may change; everything in the package stands still. -/

namespace Sys2Proof.Machine

/-- Nothing that a freeze stops differs between s and t: the freeze itself, the bytes, the work and the core cycle. -/
structure Still (s t : State) : Prop where
  frozen : t.frozen = s.frozen
  bytes : ∀ sp, t.bytesOf sp = s.bytesOf sp
  teams : t.teams = s.teams
  launches : t.launches = s.launches
  copies : t.copies = s.copies
  passes : t.passes = s.passes
  gangs : t.gangs = s.gangs
  slices : t.slices = s.slices
  cycle : t.cycle = s.cycle
  command : t.command = s.command
  progs : ∀ w, (t.world w).prog = (s.world w).prog

theorem Still.refl (s : State) : Still s s := ⟨rfl, fun _ => rfl, rfl, rfl, rfl, rfl, rfl, rfl, rfl, rfl, fun _ => rfl⟩

theorem Still.trans {s t u : State} (h : Still s t) (k : Still t u) : Still s u :=
  ⟨k.frozen.trans h.frozen, fun sp => (k.bytes sp).trans (h.bytes sp), k.teams.trans h.teams, k.launches.trans h.launches,
    k.copies.trans h.copies, k.passes.trans h.passes, k.gangs.trans h.gangs, k.slices.trans h.slices, k.cycle.trans h.cycle,
    k.command.trans h.command, fun w => (k.progs w).trans (h.progs w)⟩

/-- The fields that may change while the package is frozen. -/
theorem Still.of_outer (s : State) (agenda : List Move) (out : List Output) (cur : Option Cur) (meets meetsNext : List (Space × Nat))
    (clock : Nat) (up : Bool) (upAt : Option Nat) (atsTable : List ((Nat × Nat) × Nat × Nat)) (banks : SMap Bank) (fuses : SMap Nat)
    (tlb : List TlbEntry) (lifePending : SMap Nat) :
    Still s { s with agenda := agenda, out := out, cur := cur, meets := meets, meetsNext := meetsNext, clock := clock, up := up,
                     upAt := upAt, atsTable := atsTable, banks := banks, fuses := fuses, tlb := tlb, lifePending := lifePending } :=
  ⟨rfl, fun sp => by cases sp <;> rfl, rfl, rfl, rfl, rfl, rfl, rfl, rfl, rfl, fun _ => rfl⟩

theorem Still.send (s : State) (o : Output) : Still s (s.send o) := .of_outer s _ _ _ _ _ _ _ _ _ _ _ _ _

/-- A change of a world that leaves its program and its bank window. -/
theorem Still.modWorld (s : State) (w : Nat) (f : World → World) (hwin : (f (s.world w)).window = (s.world w).window)
    (hprog : (f (s.world w)).prog = (s.world w).prog) : Still s (s.modWorld w f) := by
  refine ⟨rfl, fun sp => bytesOf_modWorld s w f sp hwin (congrArg Prog.priv hprog), rfl, rfl, rfl, rfl, rfl, rfl, rfl, rfl, fun v => ?_⟩
  by_cases hv : v = w
  · rw [hv, world_modWorld, hprog]
  · rw [State.modWorld_eq, State.world_setWorld_ne _ _ _ _ hv]

section
variable {s : State} {f : Freeze} (h : s.frozen = some f)
include h

theorem moving_frozen : s.moving = false := by simp [State.moving, h]

/-- A frozen package counts no cycle at the beginning of a step. -/
theorem still_begin (rest : List Move) : Still s { s.begin with agenda := rest } := by
  have hcycle : (if s.frozen.isNone then s.cycle + 1 else s.cycle) = s.cycle := by simp [h]
  unfold State.begin
  rw [hcycle]
  exact .of_outer s _ _ _ _ _ _ _ _ _ _ _ _ _

/-- Time, tables, flash, fuses, translations and masks change nothing that a freeze stops. -/
theorem still_outside (m : Move) : Still s (s.outside m) := by
  cases m with
  | time ns cycles =>
    have hcycle : (if s.frozen.isSome then s.cycle else s.cycle + cycles) = s.cycle := by simp [h]
    simp only [State.outside, hcycle]
    exact .of_outer s _ _ _ _ _ _ _ _ _ _ _ _ _
  | ats w pasid page host => exact .of_outer s _ _ _ _ _ _ _ _ _ _ _ _ _
  | flash image bank signed version => exact .of_outer s _ _ _ _ _ _ _ _ _ _ _ _ _
  | fuse image version =>
    simp only [State.outside]
    split
    · exact .refl s
    · exact .of_outer s _ _ _ _ _ _ _ _ _ _ _ _ _
  | tlbEvict q w vpage => exact .of_outer s _ _ _ _ _ _ _ _ _ _ _ _ _
  | mask w v on =>
    simp only [State.outside]
    split
    · exact .modWorld s w _ rfl rfl
    · split
      · exact (Still.modWorld s w _ rfl rfl).trans (.send _ _)
      · exact .modWorld s w _ rfl rfl
  | _ => exact .refl s

/-- What still happens while frozen (R469): the management port reads out, and power is lost or comes back. -/
theorem alive_frozen {i : Instr} (halive : s.alive i = true) : (∃ link, i = .coldReset link) ∨ i = .powerLoss ∨ i = .freezeReadout ∨
    (∃ k, i = .lifetimeCounterRead k) ∨ i = .powerTelemetry := by
  have hclosed : ¬ s.frozen.isNone = true := by simp [h]
  have hstopped : ¬ (s.frozen.isNone && s.up) = true := by simp [h]
  cases i with
  | coldReset link => exact .inl ⟨link, rfl⟩
  | powerLoss => exact .inr (.inl rfl)
  | freezeReadout => exact .inr (.inr (.inl rfl))
  | lifetimeCounterRead k => exact .inr (.inr (.inr (.inl ⟨k, rfl⟩)))
  | powerTelemetry => exact .inr (.inr (.inr (.inr rfl)))
  | firmwareStaging | stageDone | configurationRequest | powerDown => exact absurd halive hclosed
  | _ => exact absurd halive hstopped

/-- An operation that still happens, a cold reset apart. -/
theorem still_exec {i : Instr} {t : State} (halive : s.alive i = true) (hcold : ∀ link, i ≠ .coldReset link) (he : exec i s = .next t) :
    Still s t := by
  obtain ⟨link, rfl⟩ | rfl | rfl | ⟨k, rfl⟩ | rfl := alive_frozen h halive
  · exact absurd rfl (hcold link)
  · cases he
    exact .of_outer s _ _ _ _ _ _ _ _ _ _ _ _ _
  · rw [exec_freezeReadout, State.readout_frozen h] at he
    cases he
    exact .send _ _
  · cases he; exact .send _ _
  · cases he; exact .send _ _

/-- A request with the TEE bit that stays alive while frozen concerns no world, and is refused. -/
theorem still_tee {i : Instr} {stream : Nat} {t : State} (halive : s.alive i = true) (he : teeMove s stream i = .next t) : Still s t := by
  have htarget : hostTarget s i = none := by
    obtain ⟨link, rfl⟩ | rfl | rfl | ⟨k, rfl⟩ | rfl := alive_frozen h halive <;> rfl
  simp only [teeMove, htarget] at he
  cases he
  exact .send _ _

/-- A move of the kinds that a step makes while frozen. -/
theorem still_runMove {m : Move} {t : State} (hkind : match m with
      | .event _ | .time _ _ | .ats _ _ _ _ | .tee _ _ | .flash _ _ _ _ | .fuse _ _ | .mask _ _ _ => True
      | _ => False)
    (hcold : ∀ link, m ≠ .event (.coldReset link)) (he : runMove s m = .next t) : Still s t := by
  cases m with
  | event i =>
    simp only [runMove] at he
    split at he
    · next halive => exact still_exec h halive (fun link hi => hcold link (hi ▸ rfl)) he
    · cases he; exact .refl s
  | tee stream i =>
    simp only [runMove] at he
    split at he
    · next halive => exact still_tee h halive he
    · cases he; exact .refl s
  | time | ats | flash | fuse | mask => cases he; exact still_outside h _
  | _ => exact hkind.elim

/-- A step of a frozen package that is no cold reset. -/
theorem still_step {t : State} (hcold : ∀ link rest, s.agenda ≠ .event (.coldReset link) :: rest) (he : step s = .next t) : Still s t := by
  have hm := moving_frozen h
  unfold step at he
  cases ha : s.agenda with
  | nil =>
    simp only [ha, hm] at he
    cases he
    have hb := still_begin h s.agenda
    exact hb
  | cons m rest =>
    have hb := still_begin h rest
    have hf : ({ s.begin with agenda := rest } : State).frozen = some f := hb.frozen.trans h
    have hc : ∀ link, m ≠ .event (.coldReset link) := fun link hl => hcold link rest (hl ▸ ha)
    simp only [ha, hm] at he
    cases m with
    | event | time | ats | tee | flash | fuse | mask => exact hb.trans (still_runMove hf trivial hc he)
    | _ => cases he; exact hb

end

/-- Settles O7: a step of a frozen package leaves everything still that the freeze stops. -/
theorem frozen : Obligations.Frozen := by
  unfold Obligations.Frozen
  intro s t f h hcold he
  have hs := still_step h hcold he
  exact ⟨hs.frozen.trans h, sameMemory_of_bytesOf hs.bytes, hs.teams, hs.launches, hs.copies, hs.passes, hs.gangs, hs.slices, hs.cycle,
    hs.command, hs.progs⟩

end Sys2Proof.Machine
end

section
/-! LD (R318, R320, R324): where it reads, what it delivers, and what stops it. -/

namespace Sys2Proof.Machine

/-! The place of an access (R320) -/

theorem globalAddr_coe (a off : Nat) : ((globalAddr a off : Nat) : Int) = (a + sext 32 off) % 2 ^ 64 :=
  Int.toNat_of_nonneg (Int.emod_nonneg _ (by decide))

/-- A place that this device serves lies in slice HBM or in host memory. -/
theorem Place.target_of_local {p : Place} (h : p.isLocal = true) : (∃ a, p.target = .device a) ∨ ∃ io, p.target = .hostIo io := by
  obtain ⟨tg, at'⟩ := p
  cases tg with
  | device a => exact .inl ⟨a, rfl⟩
  | hostIo io => exact .inr ⟨io, rfl⟩
  | peer accel wpa => cases h

/-! The value of a load (R318, R321) -/

theorem loadValue_plain {m : BitVec 8} (h2 : mbits m 2 0 ≠ 2) (h4 : mbits m 2 0 ≠ 4) (bs : List Byte) : loadValue m bs = ofLe bs := by
  simp [loadValue, h2, h4]

theorem loadValue_i8 {m : BitVec 8} (h : mbits m 2 0 = 2) (bs : List Byte) : loadValue m bs = wrapInt 32 (sext 8 (ofLe bs)) := if_pos h

theorem loadValue_i16 {m : BitVec 8} (h : mbits m 2 0 = 4) (bs : List Byte) : loadValue m bs = wrapInt 32 (sext 16 (ofLe bs)) := by
  simp [loadValue, h]

namespace State

/-! Reading a store (R302, R324) -/

section
variable {s : State} {who : Agent} {sp : Space} {a n : Nat}

/-- A strong or uncached load reads the home bank, whatever the L1 holds. -/
theorem loadAt_home (hp : s.poisoned sp a n = false) :
    s.loadAt who sp a n .home = (some (s.read sp a n), s.holdHost (s.worldOf who) sp a n false) := by
  unfold loadAt
  cases s.coreOf who <;> simp [hp]

variable {c : Nat}

theorem l1Read_miss (hl : s.l1Find c sp (a / 128) = none) (alloc : Bool) : (s.l1Read c sp a n alloc).1 = s.read sp a n := by
  simp only [l1Read, hl]
  split <;> rfl

variable (hc : s.coreOf who = some c)
include hc

/-- A weak load reads the line that the core's L1 holds. -/
theorem loadAt_weak_held {l : L1Line} (hl : s.l1Find c sp (a / 128) = some l) :
    s.loadAt who sp a n .weak = (some ((l.bytes.drop (a % 128)).take n), s) := by
  simp [loadAt, hc, hl]

/-- A weak load that misses reads memory. -/
theorem loadAt_weak_miss (hl : s.l1Find c sp (a / 128) = none) (hp : s.poisoned sp a n = false) :
    (s.loadAt who sp a n .weak).1 = some (s.read sp a n) := by
  simp only [loadAt, hc, hl, hp, reduceCtorEq, if_false, Bool.false_eq_true]
  split
  · exact congrArg some (l1Read_miss hl true)
  · rfl

end

end State

/-! The meaning of LD -/

/-- LD's readiness: it has asked a peer where it must. -/
def loadReady (v : Env) (s : State) : State × Bool :=
  peerReady v s (globalAddr v.a v.b) (accessBytes v.f.m) .read false 32 (zeros (accessBytes v.f.m)) none

theorem exec_ld (f : F1) (s : State) : Machine.exec (.ld f) s = runLanes (issueOp (.ld f)) s (fun _ => laneLoad) loadReady := rfl
theorem exec_ldW2 (f : F2) (s : State) : Machine.exec (.ldW2 f) s = runLanes (issueOp (.ldW2 f)) s (fun _ => laneLoad) loadReady := rfl

section
variable {v : Env} {s s1 s2 s3 : State} {p : Place} {sp : Space} {x : Nat}

/-- The state after the acquire that SEM names (R324). -/
def acquired (v : Env) (s : State) : State := if semAcquires v.f.m then s.acquire v.who (scopeOf v.f.m) else s

theorem laneLoad_misaligned (h : globalAddr v.a v.b % accessBytes v.f.m ≠ 0) :
    laneLoad v s = (s, .fault { code := 0x07, addr := globalAddr v.a v.b % 2 ^ 52 }) := by
  simp only [laneLoad, globalPlace_misaligned .read 0 h]

variable (hplace : s.globalPlace v.who (globalAddr v.a v.b) (accessBytes v.f.m) .read 0 = (.ok p, s1)) (hlocal : p.isLocal = true)
  (hat : p.at? = some (sp, x))
  (hrace : (if plainLoad v.f.m then s1.raceCheck v.who p (globalAddr v.a v.b) false else .ok s1) = .ok s2)
include hplace hlocal hat hrace

theorem laneLoad_reads {bs : List Byte} (hload : s2.loadAt v.who sp x (accessBytes v.f.m) (readingOf v.f.m) = (some bs, s3)) :
    laneLoad v s = (acquired v s3, loadedValue v (acquired v s3) p.target (accessBytes v.f.m) bs) := by
  obtain ⟨a, ha⟩ | ⟨io, ha⟩ := Place.target_of_local hlocal <;> simp only [laneLoad, hplace, ha, hat, hrace, hload] <;> rfl

theorem laneLoad_poisoned (hload : s2.loadAt v.who sp x (accessBytes v.f.m) (readingOf v.f.m) = (none, s3)) :
    laneLoad v s = (s3, .fault { code := 0x0B, addr := globalAddr v.a v.b % 2 ^ 52 }) := by
  obtain ⟨a, ha⟩ | ⟨io, ha⟩ := Place.target_of_local hlocal <;> simp only [laneLoad, hplace, ha, hat, hrace, hload]

end

/-- The team's own view of the bytes is delivered, or is poisoned (R332, R342). -/
theorem loadedValue_clean {v : Env} {s : State} {t : Target} {n : Nat} (h : s.stagedPoison v.who t.key n = false) (bs : List Byte) :
    loadedValue v s t n bs = .value (loadValue v.f.m (s.ownView v.who t.key bs)) := by
  simp [loadedValue, h]

theorem loadedValue_poisoned {v : Env} {s : State} {t : Target} {n : Nat} (h : s.stagedPoison v.who t.key n = true) (bs : List Byte) :
    loadedValue v s t n bs = .fault { code := 0x0B, addr := globalAddr v.a v.b % 2 ^ 52 } := if_pos h

/-- A load of a peer's memory sends its request, unless the step would go too far (R115, R205, R440). -/
theorem loadReady_peer {v : Env} {s s1 : State} {accel wpa : Nat} {x : Option (Space × Nat)} (hnear : tooFar s v.who = false)
    (hfree : s.awaitedReq v.who = none)
    (hplace : s.globalPlace v.who (globalAddr v.a v.b) (accessBytes v.f.m) .read 0 = (.ok ⟨.peer accel wpa, x⟩, s1)) :
    loadReady v s = (s1.askPeer v.who accel (s1.peerUnit v.who wpa (accessBytes v.f.m)).1 false 32
      (zeros (s1.peerUnit v.who wpa (accessBytes v.f.m)).2) none true, false) := by
  simp [loadReady, peerReady, hnear, hfree, hplace]

/-- Settles O19: each clause is the lemma above about the meaning of LD, the reading of a store, or the value of a load. -/
theorem globalLoad : Obligations.GlobalLoad := by
  unfold Obligations.GlobalLoad
  refine ⟨fun p sp x s1 s2 s3 bs => ?loads, fun s who sp a n hp => State.loadAt_home hp, fun s w sp a n d h => holdHost_ne s w sp a n d h,
    fun s who sp a c n l hc hl => ?held, fun s who c sp a n hc hl hp => State.loadAt_weak_miss hc hl hp, fun accel wpa x s1 f => ?peer,
    ?misaligned, fun p sp x s1 s2 s3 => ?poison, fun p sp x s1 s2 s3 bs => ?stagedPoison, globalAddr_coe, fun m bs => ?plain,
    fun m bs h => loadValue_i8 h bs, fun m bs h => loadValue_i16 h bs⟩
  case loads =>
    exact completesBoth_of exec_ld exec_ldW2 (fun _ _ ⟨hfree, hplace, hlocal, _⟩ => peerReady_local _ _ _ _ hfree hplace hlocal)
      fun _ _ _ ⟨_, hplace, hlocal, hat, hrace, hload, hclean⟩ =>
        ⟨(laneLoad_reads hplace hlocal hat hrace hload).trans (congrArg (Prod.mk _) (loadedValue_clean hclean bs)), rfl⟩
  case held => exact State.loadAt_weak_held (by assumption) (by assumption)
  case peer =>
    exact stalls_of (exec_ld f) fun _ _ _ h ⟨hfree, hplace⟩ => loadReady_peer h.near hfree hplace
  case misaligned =>
    exact faultsBoth_of exec_ld exec_ldW2
      (fun _ _ ⟨hfree, h⟩ => peerReady_fault _ _ _ _ hfree (globalPlace_misaligned _ _ h))
      fun _ _ _ ⟨_, h⟩ => congrArg Prod.snd (laneLoad_misaligned h)
  case poison =>
    exact faultsBoth_of exec_ld exec_ldW2 (fun _ _ ⟨hfree, hplace, hlocal, _⟩ => peerReady_local _ _ _ _ hfree hplace hlocal)
      fun _ _ _ ⟨_, hplace, hlocal, hat, hrace, hload⟩ => congrArg Prod.snd (laneLoad_poisoned hplace hlocal hat hrace hload)
  case stagedPoison =>
    exact faultsBoth_of exec_ld exec_ldW2 (fun _ _ ⟨hfree, hplace, hlocal, _⟩ => peerReady_local _ _ _ _ hfree hplace hlocal)
      fun _ _ _ ⟨_, hplace, hlocal, hat, hrace, hload, hbad⟩ =>
        (congrArg Prod.snd (laneLoad_reads hplace hlocal hat hrace hload)).trans (loadedValue_poisoned hbad bs)
  case plain =>
    by_cases h2 : mbits m 2 0 = 2
    · exact .inl (.inl h2)
    · by_cases h4 : mbits m 2 0 = 4
      · exact .inl (.inr h4)
      · exact .inr (loadValue_plain h2 h4 bs)

end Sys2Proof.Machine
end

section
/-! ST (R318, R320, R324, R332): the write at its point of coherence, the entry that a staging launch keeps, the request to a peer. -/

namespace Sys2Proof.Machine

/-! The bytes of a store (R318) -/

@[simp] theorem storeBytes_length (m : BitVec 8) (v : Nat) : (storeBytes m v).length = accessBytes m := leBytes_length _ _

theorem ofLe_storeBytes (m : BitVec 8) (v : Nat) : ofLe (storeBytes m v) = v % 256 ^ accessBytes m := ofLe_leBytes _ _

namespace State

/-! Staging (R332, R423, R424) -/

/-- A change of a team that leaves its tiers alone leaves every byte alone. -/
theorem bytesOf_modTeam (s : State) (t : Nat) (f : Team → Team) (sp : Space) (h1 : (f (s.team t)).scratch = (s.team t).scratch)
    (h2 : (f (s.team t)).acc = (s.team t).acc) : (s.modTeam t f).bytesOf sp = s.bytesOf sp := bytesOf_setTeam _ _ _ sp h1 h2

theorem charge_some {s s' : State} {t n : Nat} (h : s.charge t n = some s') :
    s' = s.modTeam t fun x => { x with account := x.account + n } := by
  unfold charge at h
  split at h
  · cases h
  · exact (Option.some.inj h).symm

theorem stage_ok {s s' : State} {t n : Nat} {e : Staged} (h : s.stage t n e = .ok s') :
    ∃ u, s.charge t n = some u ∧ s' = u.modTeam t fun x => { x with staged := x.staged ++ [e] } := by
  unfold stage at h
  split at h
  · cases h
  · next u hu => exact ⟨u, hu, (Except.ok.inj h).symm⟩

/-- A staged entry changes no byte of memory. -/
theorem bytesOf_stage {s s' : State} {t n : Nat} {e : Staged} (h : s.stage t n e = .ok s') (sp : Space) : s'.bytesOf sp = s.bytesOf sp := by
  obtain ⟨u, hu, rfl⟩ := stage_ok h
  have hcharge : u.bytesOf sp = s.bytesOf sp := by
    rw [charge_some hu]
    exact bytesOf_modTeam s t _ sp rfl rfl
  exact (bytesOf_modTeam u t _ sp rfl rfl).trans hcharge

end State

/-! The meaning of ST -/

/-- What a store of SEM waits for: an earlier request of its agent, where it releases at system scope. -/
def storeReady (v : Env) (s : State) : State × Bool := (s, releaseReady v s (semReleases v.f.m) (scopeOf v.f.m))

theorem storeReady_of {v : Env} {s : State} (h : releaseReady v s (semReleases v.f.m) (scopeOf v.f.m) = true) :
    storeReady v s = (s, true) := congrArg (Prod.mk s) h

theorem exec_st (f : F1) (s : State) : Machine.exec (.st f) s = runLanes (issueOp (.st f)) s (fun _ => laneStore) storeReady := rfl
theorem exec_stW2 (f : F2) (s : State) : Machine.exec (.stW2 f) s = runLanes (issueOp (.stW2 f)) s (fun _ => laneStore) storeReady := rfl

section
variable {v : Env} {s s1 s2 : State}

/-- The state after the release that SEM names (R324). -/
def released (v : Env) (s : State) : State := if semReleases v.f.m then s.release v.who (scopeOf v.f.m) else s

theorem laneStore_differs (h : v.mismatch = true) : laneStore v s = (s, .fault (Why.pair (globalAddr v.a v.c))) := if_pos h

variable (hpair : v.mismatch = false)
include hpair

theorem laneStore_misaligned (h : globalAddr v.a v.c % accessBytes v.f.m ≠ 0) :
    laneStore v s = (s, .fault { code := 0x07, flags := 2, addr := globalAddr v.a v.c % 2 ^ 52 }) := by
  simp [laneStore, hpair, globalPlace_misaligned .write 2 h]

variable {p : Place} (hplace : s.globalPlace v.who (globalAddr v.a v.c) (accessBytes v.f.m) .write 2 = (.ok p, s1))
  (hrace : (if plainStore v.f.m then s1.raceCheck v.who p (globalAddr v.a v.c) true else .ok s1) = .ok s2)
include hplace hrace

theorem laneStore_stages {s4 : State} (hstages : (released v s2).stages v.who = true)
    (h : (released v s2).stage v.t (State.storeCharge (accessBytes v.f.m))
      { op := .write (storeBytes v.f.m v.b), target := p.target, va := globalAddr v.a v.c % 2 ^ 52 } = .ok s4) :
    laneStore v s = (s4, .done) := by
  unfold released at hstages h
  simp only [laneStore, hpair, hplace, hrace, hstages, storeBytes_length, h, if_true, Bool.false_eq_true, if_false]

variable (hplain : (released v s2).stages v.who = false)
include hplain

theorem laneStore_writes {sp : Space} {x : Nat} (hlocal : p.isLocal = true) (hat : p.at? = some (sp, x)) :
    laneStore v s = ((released v s2).storeAt v.who sp x (storeBytes v.f.m v.b), .done) := by
  unfold released at hplain
  obtain ⟨a, ha⟩ | ⟨io, ha⟩ := Place.target_of_local hlocal <;>
    simp only [laneStore, hpair, hplace, hrace, hplain, ha, hat, Bool.false_eq_true, if_false] <;> rfl

theorem laneStore_asks {accel wpa : Nat} (hpeer : p.target = .peer accel wpa) :
    laneStore v s = ((released v s2).askPeer v.who accel wpa true 32 (storeBytes v.f.m v.b) none false, .done) := by
  unfold released at hplain
  simp only [laneStore, hpair, hplace, hrace, hplain, hpeer, Bool.false_eq_true, if_false]
  rfl

end

/-- Settles O20: each clause is the lemma above about the meaning of ST, or about the bytes beside and in a write. -/
theorem globalStore : Obligations.GlobalStore := by
  unfold Obligations.GlobalStore
  refine ⟨fun p sp x s1 s2 => ?writes, fun p s1 s2 s4 => ?stages, fun s s' t n e sp k h => ?kept, fun accel wpa x s1 s2 f => ?asks,
    fun n => rfl, fun s who sp a bs sq k h => byte_storeAt_out s who sp sq a k bs h,
    fun s who sp a bs k h => byte_storeAt_in s who sp a k bs h, fun m v => ⟨storeBytes_length m v, ofLe_storeBytes m v⟩, ?misaligned, ?differs⟩
  case writes =>
    exact completesBoth_of exec_st exec_stW2 (fun _ _ ⟨hready, _⟩ => storeReady_of hready)
      fun _ _ _ ⟨_, hpair, hplace, hlocal, hat, hrace, hplain⟩ => ⟨laneStore_writes hpair hplace hrace hplain hlocal hat, rfl⟩
  case stages =>
    exact completesBoth_of exec_st exec_stW2 (fun _ _ ⟨hready, _⟩ => storeReady_of hready)
      fun _ _ _ ⟨_, hpair, hplace, hrace, hstages, h⟩ => ⟨laneStore_stages hpair hplace hrace hstages h, rfl⟩
  case kept => exact congrArg (fun m => SMap.get unlisted m k) (State.bytesOf_stage h sp)
  case asks =>
    exact completes_of (exec_stW2 f) (fun _ _ _ _ ⟨hready, _⟩ => storeReady_of hready)
      fun _ _ _ _ ⟨_, hpair, hplace, hrace, hplain⟩ => ⟨laneStore_asks hpair hplace hrace hplain rfl, rfl⟩
  case misaligned =>
    exact faultsBoth_of exec_st exec_stW2 (fun _ _ ⟨hready, _⟩ => storeReady_of hready)
      fun _ _ _ ⟨_, hpair, h⟩ => congrArg Prod.snd (laneStore_misaligned hpair h)
  case differs =>
    exact faultsBoth_of exec_st exec_stW2 (fun _ _ ⟨hready, _⟩ => storeReady_of hready)
      fun _ _ _ ⟨_, h⟩ => congrArg Prod.snd (laneStore_differs h)

end Sys2Proof.Machine
end

section
/-! LDL, LDS, LDC and LDA (R299 to R301, R320, R325, R326): the address of a tier access, its checks, and what is delivered. -/

namespace Sys2Proof.Machine

/-- Both forms of an instruction that is always ready fault alike. -/
theorem faultsBoth_of_lane {i : F1 → Instr} {j : F2 → Instr} {P : Env → State → Prop} {y : Env → State → Why} {fn : LaneFn}
    (he : ∀ f s, Machine.exec (i f) s = runLanes (issueOp (i f)) s fn) (he' : ∀ f s, Machine.exec (j f) s = runLanes (issueOp (j f)) s fn)
    (hq : ∀ E v s, P v s → (fn E v s).2 = .fault (y v s)) : FaultsBoth i j P y :=
  faultsBoth_of he he' (fun _ _ _ => rfl) hq

/-! The address of a tier access (R320) -/

section
variable {a off flags o : Nat} {k : Nat → State × Res} {s : State}

theorem tierAddr_in (h : (a : Int) + sext 32 off = o) (ho : o < 2 ^ 32) : tierAddr a off flags k s = k o := by
  have hin : ¬ ((o : Int) < 0 ∨ ((2 ^ 32 : Nat) : Int) ≤ o) := by omega
  simp only [tierAddr, h, Bool.or_eq_true, decide_eq_true_eq, if_neg hin, Int.toNat_natCast]

theorem tierAddr_negative (h : (a : Int) + sext 32 off < 0) :
    tierAddr a off flags k s = (s, .fault { code := 0x02, flags := flags, addr := wrapInt 32 (a + sext 32 off), info := 3 }) :=
  if_pos (by simp [h])

end

namespace State

section
variable {o n bound flags : Nat}

theorem tierCheck_none (halign : o % n = 0) (hfit : o + n ≤ bound) : tierCheck o n bound flags = none := by
  simp [tierCheck, halign, Nat.not_lt.2 hfit]

theorem tierCheck_misaligned (h : o % n ≠ 0) : tierCheck o n bound flags = some (.fault { code := 0x07, flags := flags, addr := o }) :=
  if_pos h

theorem tierCheck_outside (halign : o % n = 0) (h : bound < o + n) :
    tierCheck o n bound flags = some (.fault { code := 0x02, flags := flags, addr := o, info := 3 }) := by
  simp [tierCheck, halign, h]

end

/-- A control program's memory below its PRIV size lies in the control core's own store (R301). -/
theorem privatePlace_prog {s : State} {w o n : Nat} (halign : o % n = 0) (hfit : o + n ≤ (s.prog w).privSize) (need : Need) (flags : Nat) :
    s.privatePlace (.prog w) o n need flags = (.ok (.priv w, o), s) := by
  simp only [privatePlace, tierCheck_none halign hfit]

theorem privVa_zero (s : State) (t lit : Nat) : s.privVa t lit 0 = s.slotVa t + (s.launchOf t).desc.priv * lit := rfl

end State

section
variable {v : Env} {s : State} {o n flags : Nat}

/-! The team's own scratchpad and the cluster's (R299, R320) -/

theorem scratchPlace_ok (halign : o % n = 0) (hfit : o + n ≤ (s.launchOf v.t).desc.scratch) : scratchPlace v s o n flags = .ok (v.t, o) := by
  simp only [scratchPlace, State.tierCheck_none halign hfit]

theorem scratchPlace_error {r : Res} (h : State.tierCheck o n (s.launchOf v.t).desc.scratch flags = some r) :
    scratchPlace v s o n flags = .error r := by
  simp only [scratchPlace, h]

/-- A cluster-scratchpad address names its rank in [26:23] and the byte below. -/
theorem clusterPlace_ok {u : Nat} (ho : o < 2 ^ 27) (halign : o % n = 0) (hrank : o / 2 ^ 23 < (s.launchOf v.t).clusterSize)
    (hfit : o % 2 ^ 23 + n ≤ (s.launchOf v.t).desc.scratch) (hteam : s.clusterTeam v.t (o / 2 ^ 23) = some u) :
    clusterPlace v s o n flags = .ok (u, o % 2 ^ 23) := by
  have htop : bits o 31 27 = 0 := by simp only [bits]; omega
  have hfield : bits o 26 23 = o / 2 ^ 23 := by simp only [bits]; omega
  have hbyte : bits o 22 0 = o % 2 ^ 23 := by simp only [bits]; omega
  simp [clusterPlace, htop, hfield, hbyte, halign, hteam, Nat.not_le.2 hrank, Nat.not_lt.2 hfit, -Nat.reducePow]

/-! The meanings of the loads -/

/-- A load of a scratchpad whose byte x of team t is free of watchpoints and poison. -/
theorem laneLoadScratch_reads {place : Env → State → Nat → Nat → Nat → Except Res (Nat × Nat)} {t x : Nat}
    (haddr : (v.a : Int) + sext 32 v.b = o) (ho : o < 2 ^ 32) (hplace : place v s o (accessBytes v.f.m) 0 = .ok (t, x))
    (hwatch : s.watchData v.t v.lit x (accessBytes v.f.m) false = none) (hclean : s.poisoned (.scratch t) x (accessBytes v.f.m) = false) :
    laneLoadScratch place v s = (acquired v s, .value (loadValue v.f.m (s.read (.scratch t) x (accessBytes v.f.m)))) := by
  simp only [laneLoadScratch, tierAddr_in haddr ho, hplace, hwatch, hclean, Bool.false_eq_true, if_false]
  rfl

theorem laneLoadScratch_refused {place : Env → State → Nat → Nat → Nat → Except Res (Nat × Nat)} {r : Res}
    (haddr : (v.a : Int) + sext 32 v.b = o) (ho : o < 2 ^ 32) (hplace : place v s o (accessBytes v.f.m) 0 = .error r) :
    laneLoadScratch place v s = (s, r) := by
  simp only [laneLoadScratch, tierAddr_in haddr ho, hplace]

/-! A sum below 0 is outside every tier. -/

theorem laneLoadScratch_negative (h : (v.a : Int) + sext 32 v.b < 0) (place : Env → State → Nat → Nat → Nat → Except Res (Nat × Nat)) :
    laneLoadScratch place v s = (s, .fault { code := 0x02, addr := wrapInt 32 (v.a + sext 32 v.b), info := 3 }) := by
  simp only [laneLoadScratch, tierAddr_negative h]

theorem laneLoadPrivate_negative (h : (v.a : Int) + sext 32 v.b < 0) :
    laneLoadPrivate v s = (s, .fault { code := 0x02, addr := wrapInt 32 (v.a + sext 32 v.b), info := 3 }) := tierAddr_negative h

theorem laneLoadAcc_negative (h : (v.a : Int) + sext 32 v.b < 0) :
    laneLoadAcc v s = (s, .fault { code := 0x02, addr := wrapInt 32 (v.a + sext 32 v.b), info := 3 }) := by
  simp only [laneLoadAcc, tierAddr_negative h]

theorem laneLoadAcc_reads (haddr : (v.a : Int) + sext 32 v.b = o) (ho : o < 2 ^ 32) (halign : o % accessBytes v.f.m = 0)
    (hfit : o + accessBytes v.f.m ≤ (s.launchOf v.t).desc.accum * 65536) (hclean : s.poisoned (.acc v.t) o (accessBytes v.f.m) = false) :
    laneLoadAcc v s = (s, .value (loadValue v.f.m (s.read (.acc v.t) o (accessBytes v.f.m)))) := by
  simp [laneLoadAcc, tierAddr_in haddr ho, State.tierCheck_none halign hfit, hclean]

theorem laneLoadPrivate_reads {sp : Space} {x : Nat} {s1 s2 : State} {bs : List Byte} (haddr : (v.a : Int) + sext 32 v.b = o)
    (ho : o < 2 ^ 32) (hplace : s.privatePlace v.who o (accessBytes v.f.m) .read 0 = (.ok (sp, x), s1))
    (hload : s1.loadAt v.who sp x (accessBytes v.f.m) .weak = (some bs, s2)) :
    laneLoadPrivate v s = (s2, .value (loadValue v.f.m bs)) := by
  simp only [laneLoadPrivate, tierAddr_in haddr ho, State.loadPrivate, hplace, hload]

end

/-- Settles O21: each clause is the lemma above about the load's meaning, or about the address that it checks. -/
theorem tierLoads : Obligations.TierLoads := by
  unfold Obligations.TierLoads
  refine ⟨fun o => ?scratch, fun o u => ?cluster, fun o => ?accumulators, fun o x sp s1 s2 bs => ?privates,
    fun s w o n need flags halign hfit => State.privatePlace_prog halign hfit need flags,
    fun s t lit => ⟨State.privVa_zero s t lit, fun _ => rfl⟩,
    fun i j h => ?negative, fun o => ?misaligned, fun o => ?outside⟩
  case scratch =>
    exact completesBoth_of_lane (fun _ _ => rfl) (fun _ _ => rfl) fun _ _ _ ⟨haddr, ho, halign, hfit, hwatch, hclean⟩ =>
      ⟨laneLoadScratch_reads haddr ho (scratchPlace_ok halign hfit) hwatch hclean, rfl⟩
  case cluster =>
    exact completesBoth_of_lane (fun _ _ => rfl) (fun _ _ => rfl) fun _ _ _ ⟨haddr, ho, halign, hrank, hfit, hteam, hwatch, hclean⟩ =>
      ⟨laneLoadScratch_reads haddr (by omega) (clusterPlace_ok ho halign hrank hfit hteam) hwatch hclean, rfl⟩
  case accumulators =>
    exact completesBoth_of_lane (fun _ _ => rfl) (fun _ _ => rfl) fun _ _ _ ⟨haddr, ho, halign, hfit, hclean⟩ =>
      ⟨laneLoadAcc_reads haddr ho halign hfit hclean, rfl⟩
  case privates =>
    exact completesBoth_of_lane (fun _ _ => rfl) (fun _ _ => rfl) fun _ _ _ ⟨haddr, ho, hplace, hload⟩ =>
      ⟨laneLoadPrivate_reads haddr ho hplace hload, rfl⟩
  case negative =>
    obtain ⟨rfl, rfl⟩ | ⟨rfl, rfl⟩ | ⟨rfl, rfl⟩ | ⟨rfl, rfl⟩ := h
    · exact faultsBoth_of_lane (fun _ _ => rfl) (fun _ _ => rfl) fun _ _ _ hneg => congrArg Prod.snd (laneLoadScratch_negative hneg _)
    · exact faultsBoth_of_lane (fun _ _ => rfl) (fun _ _ => rfl) fun _ _ _ hneg => congrArg Prod.snd (laneLoadPrivate_negative hneg)
    · exact faultsBoth_of_lane (fun _ _ => rfl) (fun _ _ => rfl) fun _ _ _ hneg => congrArg Prod.snd (laneLoadAcc_negative hneg)
    · exact faultsBoth_of_lane (fun _ _ => rfl) (fun _ _ => rfl) fun _ _ _ hneg => congrArg Prod.snd (laneLoadScratch_negative hneg _)
  case misaligned =>
    exact faultsBoth_of_lane (fun _ _ => rfl) (fun _ _ => rfl) fun _ _ _ ⟨haddr, ho, h⟩ =>
      congrArg Prod.snd (laneLoadScratch_refused haddr ho (scratchPlace_error (State.tierCheck_misaligned h)))
  case outside =>
    exact faultsBoth_of_lane (fun _ _ => rfl) (fun _ _ => rfl) fun _ _ _ ⟨haddr, ho, halign, h⟩ =>
      congrArg Prod.snd (laneLoadScratch_refused haddr ho (scratchPlace_error (State.tierCheck_outside halign h)))

end Sys2Proof.Machine
end

section
/-! STL, STS and STC (R299 to R301, R320, R325): what a store to a tier writes, and what stops it. -/

namespace Sys2Proof.Machine

section
variable {v : Env} {s : State} {o : Nat} {place : Env → State → Nat → Nat → Nat → Except Res (Nat × Nat)}

theorem laneStoreScratch_differs (h : v.mismatch = true) : laneStoreScratch place v s = (s, .fault (Why.pair v.a)) := if_pos h

variable (hpair : v.mismatch = false) (haddr : (v.a : Int) + sext 32 v.c = o) (ho : o < 2 ^ 32)
include hpair haddr ho

/-- A store to a scratchpad whose bytes no watchpoint names. -/
theorem laneStoreScratch_writes {t x : Nat} (hplace : place v s o (accessBytes v.f.m) 2 = .ok (t, x))
    (hwatch : s.watchData v.t v.lit x (accessBytes v.f.m) true = none) :
    laneStoreScratch place v s = ((released v s).write (.scratch t) x (storeBytes v.f.m v.b), .done) := by
  simp only [laneStoreScratch, hpair, tierAddr_in haddr ho, storeBytes_length, hplace, hwatch, Bool.false_eq_true, if_false]
  rfl

theorem laneStoreScratch_refused {r : Res} (hplace : place v s o (accessBytes v.f.m) 2 = .error r) :
    laneStoreScratch place v s = (s, r) := by
  simp only [laneStoreScratch, hpair, tierAddr_in haddr ho, storeBytes_length, hplace, Bool.false_eq_true, if_false]

theorem laneStorePrivate_writes {sp : Space} {x : Nat} {s1 : State}
    (hplace : s.privatePlace v.who o (accessBytes v.f.m) .write 2 = (.ok (sp, x), s1)) :
    laneStorePrivate v s = ((s1.beforePrivate v.who sp x (accessBytes v.f.m)).storeAt v.who sp x (storeBytes v.f.m v.b), .done) := by
  simp only [laneStorePrivate, hpair, tierAddr_in haddr ho, State.storePrivate, storeBytes_length, hplace, Bool.false_eq_true, if_false]

end

theorem exec_sts (f : F1) (s : State) :
    Machine.exec (.sts f) s = runLanes (issueOp (.sts f)) s (fun _ => laneStoreScratch scratchPlace) storeReady := rfl
theorem exec_stsW2 (f : F2) (s : State) :
    Machine.exec (.stsW2 f) s = runLanes (issueOp (.stsW2 f)) s (fun _ => laneStoreScratch scratchPlace) storeReady := rfl
theorem exec_stc (f : F1) (s : State) :
    Machine.exec (.stc f) s = runLanes (issueOp (.stc f)) s (fun _ => laneStoreScratch clusterPlace) storeReady := rfl
theorem exec_stcW2 (f : F2) (s : State) :
    Machine.exec (.stcW2 f) s = runLanes (issueOp (.stcW2 f)) s (fun _ => laneStoreScratch clusterPlace) storeReady := rfl

/-- Settles O22: each clause is the lemma above about the store's meaning, or about the bytes beside and in a write. -/
theorem tierStores : Obligations.TierStores := by
  unfold Obligations.TierStores
  refine ⟨fun o => ?scratch, fun o u => ?cluster, fun o x sp s1 => ?privates,
    fun s who sp x n sq k => congrArg (fun m => SMap.get unlisted m k) (bytesOf_beforePrivate s who sp sq x n),
    fun s sp a bs sq k h => State.byte_write_out s sp sq a k bs h, fun s sp a bs k h => State.byte_write_in s sp a k bs h,
    fun s sp a bs h sq => State.write_wf s sp sq a bs (h sq), ?differs, fun o => ?misaligned, fun o => ?outside⟩
  case scratch =>
    exact completesBoth_of exec_sts exec_stsW2 (fun _ _ ⟨hready, _⟩ => storeReady_of hready)
      fun _ _ _ ⟨_, hpair, haddr, ho, halign, hfit, hwatch⟩ =>
        ⟨laneStoreScratch_writes hpair haddr ho (scratchPlace_ok halign hfit) hwatch, rfl⟩
  case cluster =>
    exact completesBoth_of exec_stc exec_stcW2 (fun _ _ ⟨hready, _⟩ => storeReady_of hready)
      fun _ _ _ ⟨_, hpair, haddr, ho, halign, hrank, hfit, hteam, hwatch⟩ =>
        ⟨laneStoreScratch_writes hpair haddr (by omega) (clusterPlace_ok ho halign hrank hfit hteam) hwatch, rfl⟩
  case privates =>
    exact completesBoth_of_lane (fun _ _ => rfl) (fun _ _ => rfl) fun _ _ _ ⟨hpair, haddr, ho, hplace⟩ =>
      ⟨laneStorePrivate_writes hpair haddr ho hplace, rfl⟩
  case differs =>
    exact faultsBoth_of exec_sts exec_stsW2 (fun _ _ ⟨hready, _⟩ => storeReady_of hready)
      fun _ _ _ ⟨_, h⟩ => congrArg Prod.snd (laneStoreScratch_differs h)
  case misaligned =>
    exact faultsBoth_of exec_sts exec_stsW2 (fun _ _ ⟨hready, _⟩ => storeReady_of hready) fun _ _ _ ⟨_, hpair, haddr, ho, h⟩ =>
      congrArg Prod.snd (laneStoreScratch_refused hpair haddr ho (scratchPlace_error (State.tierCheck_misaligned h)))
  case outside =>
    exact faultsBoth_of exec_sts exec_stsW2 (fun _ _ ⟨hready, _⟩ => storeReady_of hready) fun _ _ _ ⟨_, hpair, haddr, ho, halign, h⟩ =>
      congrArg Prod.snd (laneStoreScratch_refused hpair haddr ho (scratchPlace_error (State.tierCheck_outside halign h)))

end Sys2Proof.Machine
end

section
/-! Replies to fault records (R315, R316, R437): which record a reply finds, and what its outcome does to the agents parked on it. -/

namespace Sys2Proof.Machine

namespace State

section
variable {s : State} {w seq : Nat} {r : FaultRec}

/-- The device finds a record that it watches, that stands in the queue, and that is none of a copy. -/
theorem recordOf_some (h : s.recordOf w seq = some r) : r ∈ (s.world w).records ∧ r.seq = seq ∧ r.queued = false ∧ r.src ≠ 2 := by
  have hp := List.find?_some h
  simp only [Bool.and_eq_true, beq_iff_eq, Bool.not_eq_true', bne_iff_ne] at hp
  obtain ⟨⟨hseq, hqueued⟩, hsrc⟩ := hp
  exact ⟨List.mem_of_find?_eq_some h, hseq, hqueued, hsrc⟩

theorem reply_watched (h : s.recordOf w seq = some r) (retry : Bool) : s.reply w seq retry = s.settleRecord w r retry := by
  simp only [reply, h]

theorem reply_unwatched (h : s.recordOf w seq = none) (retry : Bool) : s.reply w seq retry = s := by
  simp only [reply, h]

end

/-! The replay of a step -/

theorem lane_replay_self {s : State} {t lit : Nat} (hlit : lit < (s.team t).lanes.length) (h : (s.lane t lit).st = .parked) (src : Nat) :
    (s.replay src (.lane t lit)).lane t lit = { s.lane t lit with st := .ready, readyAt := s.cycle } :=
  (lane_modLane_self s t lit _ hlit).trans (if_pos h)

theorem lane_replay_ne (s : State) (src t : Nat) {lit j : Nat} (h : j ≠ lit) :
    (s.replay src (.lane t lit)).lane t j = s.lane t j := lane_modLane_ne s t lit j _ h

theorem prog_modProg (s : State) (w : Nat) (f : Prog → Prog) : (s.modProg w f).prog w = f (s.prog w) :=
  congrArg World.prog (world_modWorld s w _)

theorem prog_replay {s : State} {w : Nat} (h : (s.prog w).st = .parked) (src : Nat) : ((s.replay src (.prog w)).prog w).st = .running := by
  rw [replay, prog_modProg, if_pos h]

end State

/-! The operations -/

theorem exec_replyRetry (w : Nat) (seq : BitVec 32) (s : State) : exec (.replyRetry w seq) s = .next (s.reply w seq.toNat true) := rfl
theorem exec_replyFail (w : Nat) (seq : BitVec 32) (s : State) : exec (.replyFail w seq) s = .next (s.reply w seq.toNat false) := rfl

/-- Settles O46: each clause is the lemma above about the reply, the record that it finds or the agent that replays. -/
theorem faultReplies : Obligations.FaultReplies := by
  unfold Obligations.FaultReplies
  refine ⟨fun s w seq r h => ⟨?retry, ?fail⟩, fun s w seq h => ⟨?noRetry, ?noFail⟩, fun s w r retry => rfl,
    fun s src t lit hlit h => State.lane_replay_self hlit h src, fun s src t lit j h => State.lane_replay_ne s src t h,
    fun s src w h => State.prog_replay h src, fun s w seq r h => State.recordOf_some h⟩
  case retry => rw [exec_replyRetry, State.reply_watched h]
  case fail => rw [exec_replyFail, State.reply_watched h]
  case noRetry => rw [exec_replyRetry, State.reply_unwatched h]
  case noFail => rw [exec_replyFail, State.reply_unwatched h]

end Sys2Proof.Machine
end

section
/-! ATOM, CAS, ATOMS and BANKOP (R319, R327 to R330, R332, R333): when they start, the value that they leave, the value that they deliver. -/

namespace Sys2Proof.Machine

/-! When an atomic starts -/

/-- The flags of a fault do not bear on an access that finds its place. -/
theorem globalPlace_ok_flags {s s1 : State} {a : Agent} {va n : Nat} {need : Need} {p : Place} {flags : Nat}
    (h : s.globalPlace a va n need flags = (.ok p, s1)) (flags' : Nat) : s.globalPlace a va n need flags' = (.ok p, s1) := by
  unfold State.globalPlace at h ⊢
  split at h
  · cases h
  · next halign =>
    rw [if_neg halign]
    split at h
    · cases h
    · next htr =>
      split at h
      · split at h
        · next hroute => rw [if_pos hroute]; exact h
        · cases h
      · exact h

section
variable {op : Nat} {v : Env} {s s1 : State} (hready : releaseReady v s (semReleases v.f.m) (scopeOf v.f.m) = true)
include hready

/-- An atomic whose step sends nothing before it starts at once: it goes on, or asks no peer. -/
theorem atomReady_of (h : peerReady v s v.a (atomBytes op) .both true op (atomRequest v op)
      (if isTagged v then some (v.c % 2 ^ 16) else none) = (s, true)) : atomReady op v s = (s, true) := by
  simp only [atomReady, hready, Bool.not_true, Bool.false_eq_true, if_false, h]
  split <;> rfl

theorem atomReady_local {p : Place} (hfree : s.awaitedReq v.who = none)
    (hplace : s.globalPlace v.who v.a (atomBytes op) .both 10 = (.ok p, s1)) (hlocal : p.isLocal = true) : atomReady op v s = (s, true) :=
  atomReady_of hready (peerReady_local _ _ _ _ hfree (globalPlace_ok_flags hplace 0) hlocal)

theorem atomReady_misaligned (hfree : s.awaitedReq v.who = none) (h : v.a % atomBytes op ≠ 0) : atomReady op v s = (s, true) :=
  atomReady_of hready (peerReady_fault _ _ _ _ hfree (globalPlace_misaligned _ _ h))

/-- A staging launch sends no atomic (R332). -/
theorem atomReady_stages (h : s.stages v.who = true) : atomReady op v s = (s, true) := by
  simp [atomReady, hready, h]

end

/-! ATOM and CAS -/

section
variable {op : Nat} {v : Env} {s s1 : State} (hpair : v.mismatch = false)
include hpair

theorem laneAtomic_misaligned (h : v.a % atomBytes op ≠ 0) :
    laneAtomic v op s = (s, .fault { code := 0x07, flags := 10, addr := v.a % 2 ^ 52 }) := by
  simp [laneAtomic, hpair, globalPlace_misaligned .both 10 h]

variable {p : Place} (hplace : s.globalPlace v.who v.a (atomBytes op) .both 10 = (.ok p, s1))
include hplace

/-- The atomic at a place of this device: the old value between the release and the acquire, the new one stored and counted. -/
theorem laneAtomic_performs {sp : Space} {x : Nat} (hlocal : p.isLocal = true) (hat : p.at? = some (sp, x))
    (htag : ¬(isTagged v = true ∧ 2 ^ 15 ≤ v.c)) (hplain : s1.stages v.who = false) (hclean : s1.poisoned sp x (atomBytes op) = false) :
    laneAtomic v op s =
      (let old := ofLe ((released v s1).read sp x (atomBytes op))
       (acquired v (((released v s1).storeAt v.who sp x (leBytes (atomBytes op) (atomNew op old v.b v.c))).meter v.w 12 1),
        atomResult v (atomBytes op) old 0)) := by
  have htag' : (isTagged v && decide (2 ^ 15 ≤ v.c)) = false := by simpa using htag
  obtain ⟨a, ha⟩ | ⟨io, ha⟩ := Place.target_of_local hlocal <;>
    simp only [laneAtomic, hpair, hplace, htag', hplain, ha, hat, hclean, Bool.false_eq_true, if_false] <;> rfl

/-- A staging launch keeps an atomic that delivers nothing. -/
theorem laneAtomic_stages {s2 : State} (hd : v.f.d = .z) (htag : isTagged v = false) (hstages : s1.stages v.who = true)
    (h : (released v s1).stage v.t 32 { op := .atom op v.b v.c, target := p.target, va := v.a % 2 ^ 52 } = .ok s2) :
    laneAtomic v op s = (acquired v s2, .done) := by
  unfold released at h
  simp only [laneAtomic, hpair, hplace, htag, hstages, hd, h, Bool.false_eq_true, if_false, if_true, Bool.false_and, Bool.or_false,
    bne_self_eq_false]
  rfl

end

theorem atomResult_retires (v : Env) (n old status : Nat) : (atomResult v n old status).retires = true := rfl

/-- ATOM and CAS run one meaning, each with its operation of R319. -/
theorem exec_atomic {i : F2 → Instr} {j : Env → Nat}
    (h : (i = .atomW2 ∧ j = (fun v => mbits v.f.m 3 0)) ∨ (i = .cas ∧ j = (fun v => 16 + mbits v.f.m 0 0)) ∨
      (i = (fun f => .atom ⟨f.d, f.a, f.b⟩) ∧ j = (fun v => mbits v.f.m 3 0))) (f : F2) (s : State) :
    Machine.exec (i f) s = runLanes (issueOp (i f)) s (fun _ v => laneAtomic v (j v)) fun v => atomReady (j v) v := by
  obtain ⟨rfl, rfl⟩ | ⟨rfl, rfl⟩ | ⟨rfl, rfl⟩ := h <;> rfl

theorem exec_atomW2 (f : F2) (s : State) : Machine.exec (.atomW2 f) s =
    runLanes (issueOp (.atomW2 f)) s (fun _ v => laneAtomic v (mbits v.f.m 3 0)) fun v => atomReady (mbits v.f.m 3 0) v := rfl

/-! ATOMS (R327) -/

theorem laneAtomScratch_performs {v : Env} {op : Nat} {s : State} (hpair : v.mismatch = false) (halign : v.a % atomBytes op = 0)
    (hfit : v.a + atomBytes op ≤ (s.launchOf v.t).desc.scratch) (hwatch : s.watchData v.t v.lit v.a (atomBytes op) true = none)
    (hclean : s.poisoned (.scratch v.t) v.a (atomBytes op) = false) :
    laneAtomScratch v op s =
      (let old := ofLe ((released v s).read (.scratch v.t) v.a (atomBytes op))
       (acquired v ((released v s).write (.scratch v.t) v.a (leBytes (atomBytes op) (atomNew op old v.b 0))), .value old)) := by
  simp only [laneAtomScratch, hpair, scratchPlace_ok halign hfit, hwatch, hclean, Bool.false_eq_true, if_false]
  rfl

theorem exec_atoms (f : F1) (s : State) : Machine.exec (.atoms f) s =
    runLanes (issueOp (.atoms f)) s (fun _ v => laneAtomScratch v (mbits v.f.m 3 0)) storeReady := rfl
theorem exec_atomsW2 (f : F2) (s : State) : Machine.exec (.atomsW2 f) s =
    runLanes (issueOp (.atomsW2 f)) s (fun _ v => laneAtomScratch v (mbits v.f.m 3 0)) storeReady := rfl

/-! BANKOP (R333) -/

section
variable {v : Env} {s : State} (hpair : v.mismatch = false)
include hpair

theorem laneBankop_misaligned (h : v.a % 16 ≠ 0) :
    laneBankop v s = (s, .fault { code := 0x07, flags := if mbits v.f.m 7 5 = 0 then 0 else 2, addr := v.a }) := by
  simp [laneBankop, hpair, h]

theorem laneBankop_performs (halign : v.a % 16 = 0) (hfit : v.a + 16 ≤ s.windowSize v.w) (hplain : s.stages v.who = false)
    (hclean : s.poisoned (.window v.w) v.a 16 = false) :
    laneBankop v s =
      (let old := ofLe (s.ownView v.who (windowKey v.a) (s.read (.window v.w) v.a 16))
       ((if mbits v.f.m 7 5 = 0 then s
        else s.write (.window v.w) v.a (leBytes 16 (bankNew (mbits v.f.m 7 5) (mbits v.f.m 4 3) old v.b v.c))).meter v.w 12 1, .value old)) := by
  simp [laneBankop, hpair, halign, Nat.not_lt.2 hfit, hplain, hclean]

end

/-- Settles O23: each clause is the lemma above about the atomic's meaning, or a row of R319's table. -/
theorem atomics : Obligations.Atomics := by
  unfold Obligations.Atomics
  refine ⟨fun p sp x s1 i j hi f => ?performs, fun p s1 s2 f => ?stages, ?scratch, fun f => ?bank,
    fun old b c => ⟨rfl, rfl, rfl, rfl, rfl, rfl, rfl, rfl, rfl, rfl, rfl⟩, ofLe_leBytes, fun f => ?misaligned, fun f => ?bankMisaligned⟩
  case performs =>
    exact completes_of (exec_atomic hi f)
      (fun _ _ _ _ ⟨hready, _, hfree, hplace, hlocal, _⟩ => atomReady_local hready hfree hplace hlocal)
      fun _ _ _ _ ⟨_, hpair, _, hplace, hlocal, hat, htag, hplain, hclean⟩ =>
        ⟨laneAtomic_performs hpair hplace hlocal hat htag hplain hclean, rfl⟩
  case stages =>
    exact completes_of (exec_atomW2 f) (fun _ _ _ _ ⟨hready, _, _, _, _, hstages, _⟩ => atomReady_stages hready hstages)
      fun _ _ _ _ ⟨_, hpair, hplace, hd, htag, _, hstages, h⟩ => ⟨laneAtomic_stages hpair hplace hd htag hstages h, rfl⟩
  case scratch =>
    exact completesBoth_of exec_atoms exec_atomsW2 (fun _ _ ⟨hready, _⟩ => storeReady_of hready)
      fun _ _ _ ⟨_, hpair, halign, hfit, hwatch, hclean⟩ => ⟨laneAtomScratch_performs hpair halign hfit hwatch hclean, rfl⟩
  case bank =>
    exact completes_of_lane (fun _ => rfl) fun _ _ _ ⟨hpair, halign, hfit, hplain, hclean⟩ =>
      ⟨laneBankop_performs hpair halign hfit hplain hclean, rfl⟩
  case misaligned =>
    exact faults_of (exec_atomW2 f) (fun _ _ _ _ ⟨hready, _, hfree, h⟩ => atomReady_misaligned hready hfree h)
      fun _ _ _ _ ⟨_, hpair, _, h⟩ => congrArg Prod.snd (laneAtomic_misaligned hpair h)
  case bankMisaligned => exact faults_of_lane (fun _ => rfl) fun _ _ _ ⟨hpair, h⟩ => congrArg Prod.snd (laneBankop_misaligned hpair h)

end Sys2Proof.Machine
end

section
/-! REDSLOT, FENCE, TFENCE, PREFETCH and MONITOR (R334 to R338): the slot that takes a contribution, the order that a fence
makes, the translation and the line that a prefetch leaves, and the line that a monitor arms. -/

namespace Sys2Proof.Machine

namespace State

/-! The L1 (R302) -/

theorem l1_acquire_lane {s : State} {t lit scope : Nat} (h : scope ≠ 0) {l : L1Line} (hl : l ∈ (s.acquire (.lane t lit) scope).l1) :
    l.core ≠ (s.team t).core := by
  rw [show s.acquire (.lane t lit) scope = s.l1Flush (s.team t).core from if_neg h] at hl
  simpa using (List.mem_filter.mp hl).2

theorem acquire_team (s : State) (a : Agent) : s.acquire a 0 = s := by
  cases a <;> rfl

/-- A line that a core's L1 does not hold is brought in by a load that allocates. -/
theorem l1Read_allocates {s : State} {c a n : Nat} (h : s.l1Find c .hbm (a / 128) = none) :
    (s.l1Read c .hbm a n true).2 =
      { s with l1 := addLine s.l1 l1Lines ⟨c, .hbm, a / 128, s.read .hbm (a / 128 * 128) 128⟩ } := by
  simp only [l1Read, h]
  rfl

theorem addLine_room {ls : List L1Line} {k : Nat} {l : L1Line} (h : (ls.filter (·.core == l.core)).length < k) :
    addLine ls k l = ls ++ [l] := by
  simp only [addLine, if_pos h]

end State

section
variable {v : Env} {s s1 s2 : State}

/-! REDSLOT (R334, R423) -/

section
variable {lit a : Nat} {y : Option (Space × Nat)} (hpair : v.mismatch = false) (hwho : v.who = .lane v.t lit)
  (hplace : s.globalPlace v.who v.a (slotBytes (mbits v.f.m 2 0)) .write 2 = (.ok ⟨.device a, y⟩, s1))
  (hordered : (s1.launchOf v.t).ordered = true)
include hpair hwho hplace hordered

theorem laneRedslot_adds {e : SlotEntry} (hslot : (s1.team v.t).slots.find? (fun e => e.va == v.a % 2 ^ 52) = some e)
    (hop : e.op = mbits v.f.m 2 0) :
    laneRedslot v s =
      (s1.modTeam v.t fun x => { x with slots := x.slots.map fun q => if q = e then { q with xs := q.xs ++ [v.b] } else q }, .done) := by
  rw [hwho] at hplace
  simp only [laneRedslot, hpair, hwho, hplace, hordered, hslot, hop, Bool.not_true, Bool.false_eq_true, if_false, ne_eq, not_true_eq_false]
  rfl

theorem laneRedslot_opens (hslot : (s1.team v.t).slots.find? (fun e => e.va == v.a % 2 ^ 52) = none) (hcharge : s1.charge v.t 64 = some s2) :
    laneRedslot v s =
      (s2.modTeam v.t fun x => { x with slots := x.slots ++ [⟨v.a % 2 ^ 52, .device a, mbits v.f.m 2 0, [v.b]⟩] }, .done) := by
  rw [hwho] at hplace
  simp only [laneRedslot, hpair, hwho, hplace, hordered, hslot, hcharge, Bool.not_true, Bool.false_eq_true, if_false]

end

/-! PREFETCH (R337) -/

/-- PREFETCH completes, whatever it finds. -/
theorem lanePrefetch_done (v : Env) (s : State) : (lanePrefetch v s).2 = .done := by
  unfold lanePrefetch
  split
  · rfl
  · split
    · split <;> rfl
    · rfl
    · rfl

/-- An address that does not translate is dropped. -/
theorem lanePrefetch_drops {e : Trouble} (h : (s.translate v.w (s.quadOf v.who) (globalAddr v.a v.b) .read false).1 = .error e) :
    lanePrefetch v s = (s, .done) := by
  rcases htr : s.translate v.w (s.quadOf v.who) (globalAddr v.a v.b) .read false with ⟨x, s1⟩
  obtain rfl : x = .error e := by rwa [htr] at h
  simp only [lanePrefetch, htr]

section
variable {p : Place} {q : Bool} (htr : s.translate v.w (s.quadOf v.who) (globalAddr v.a v.b) .read false = (.ok (p, q), s1))
include htr

/-- An address of a peer is dropped, and its translation with it. -/
theorem lanePrefetch_peer (hat : p.at? = none) : lanePrefetch v s = (s, .done) := by
  simp only [lanePrefetch, htr, hat]

section
variable {c x : Nat} {sp : Space} (hat : p.at? = some (sp, x)) (hcore : s.coreOf v.who = some c)
include hat hcore

/-- A line that the core's L1 lacks is brought in, where the hint asks for it and the line is clean. -/
theorem lanePrefetch_line (hhint : v.f.m.getLsbD 0 = true) (hmiss : s1.l1Find c sp (x / 128) = none)
    (hclean : s1.poisoned sp (x / 128 * 128) 128 = false) : lanePrefetch v s = ((s1.l1Read c sp x 1 true).2, .done) := by
  simp [lanePrefetch, htr, hat, hcore, hhint, hmiss, hclean]

/-- A line that is held or poisoned already is not brought in. -/
theorem lanePrefetch_kept (h : (s1.l1Find c sp (x / 128)).isSome = true ∨ s1.poisoned sp (x / 128 * 128) 128 = true) :
    lanePrefetch v s = (s1, .done) := by
  have hno : (v.f.m.getLsbD 0 && (s1.l1Find c sp (x / 128)).isNone && !s1.poisoned sp (x / 128 * 128) 128) = false := by
    rcases h with h | h <;> simp only [Option.isNone_eq_false_iff.mpr, h, Bool.and_false, Bool.false_and, Bool.not_true]
  simp only [lanePrefetch, htr, hat, hcore, hno, Bool.false_eq_true, if_false]

end

/-- Without the hint, or outside a core, PREFETCH leaves the translation alone. -/
theorem lanePrefetch_translates (hat : p.at?.isSome = true) (h : v.f.m.getLsbD 0 = false ∨ s.coreOf v.who = none) :
    lanePrefetch v s = (s1, .done) := by
  obtain ⟨⟨sp, x⟩, hat⟩ := Option.isSome_iff_exists.mp hat
  cases hcore : s.coreOf v.who with
  | none => simp only [lanePrefetch, htr, hat, hcore]
  | some c =>
    have hhint : v.f.m.getLsbD 0 = false := h.resolve_right (by simp [hcore])
    simp only [lanePrefetch, htr, hat, hcore, hhint, Bool.false_and, Bool.false_eq_true, if_false]

end

/-! MONITOR (R338) -/

theorem laneMonitor_global {p : Place} {sp : Space} {x : Nat} (htier : v.f.m.getLsbD 0 = false)
    (hplace : s.globalPlace v.who (globalAddr v.a v.b) 1 .read 0 = (.ok p, s1)) (hat : p.at? = some (sp, x)) :
    laneMonitor v s = (s1.modLaneOf v.who fun l => { l with armed := some ⟨sp, x / 128, false⟩ }, .done) := by
  simp only [laneMonitor, htier, hplace, hat, Bool.false_eq_true, if_false]

theorem laneMonitor_scratch {o t lit : Nat} (htier : v.f.m.getLsbD 0 = true) (hwho : v.who = .lane t lit)
    (haddr : (v.a : Int) + sext 32 v.b = o) (hin : o < (s.launchOf t).desc.scratch) (ho : o < 2 ^ 32) :
    laneMonitor v s = (s.modLaneOf v.who fun l => { l with armed := some ⟨.scratch t, o / 128, false⟩ }, .done) := by
  simp only [laneMonitor, htier, hwho, tierAddr_in haddr ho, if_true, if_neg (Nat.not_le.mpr hin)]

end

/-! The meanings of the instructions -/

/-- What a FENCE waits for: an earlier request of its agent, where it releases at system scope. -/
def fenceReady (v : Env) (s : State) : State × Bool := (s, releaseReady v s (mbits v.f.m 7 6 != 1) (scopeOf v.f.m))

theorem exec_redslot (f : F2) (s : State) : Machine.exec (.redslot f) s = runLanes (issueOp (.redslot f)) s fun _ => laneRedslot := rfl
theorem exec_fence (f : F1) (s : State) : Machine.exec (.fence f) s = runLanes (issueOp (.fence f)) s (fun _ => laneFence) fenceReady := rfl
theorem exec_fenceW2 (f : F2) (s : State) :
    Machine.exec (.fenceW2 f) s = runLanes (issueOp (.fenceW2 f)) s (fun _ => laneFence) fenceReady := rfl

theorem prefetch_completes {P : Env → State → Prop} {Q : Env → State → State} (h : ∀ v s, P v s → lanePrefetch v s = (Q v s, .done)) :
    CompletesBoth .prefetch .prefetchW2 P fun v s => (Q v s, .done) :=
  completesBoth_of (fn := fun _ => lanePrefetch) (fun _ _ => rfl) (fun _ _ => rfl) (fun _ _ _ => rfl) fun _ v s hp => ⟨h v s hp, rfl⟩

theorem monitor_completes {P : Env → State → Prop} {Q : Env → State → State} (h : ∀ v s, P v s → laneMonitor v s = (Q v s, .done)) :
    CompletesBoth .monitor .monitorW2 P fun v s => (Q v s, .done) :=
  completesBoth_of (fn := fun _ => laneMonitor) (fun _ _ => rfl) (fun _ _ => rfl) (fun _ _ _ => rfl) fun _ v s hp => ⟨h v s hp, rfl⟩

/-- Settles O24: each clause is the lemma above about the meaning of its instruction. -/
theorem slotsFencesMonitors : Obligations.SlotsFencesMonitors := by
  unfold Obligations.SlotsFencesMonitors
  refine ⟨fun f e a y s1 => ?adds, fun f a y s1 s2 => ?opens, ?fence, fun s t lit scope h l => State.l1_acquire_lane h,
    State.acquire_team, ?tfence, ?prefetch, fun p q s1 => ?translates, fun p q s1 => ?peer, fun e => ?drops,
    fun p q c sp x s1 => ?line, fun s c x => State.l1Read_allocates, fun ls k l => State.addLine_room,
    fun p sp x s1 => ?global, fun o t lit => ?scratch⟩
  case adds =>
    exact completes_of_lane (exec_redslot f) fun _ _ _ ⟨hpair, ⟨_, hwho⟩, hplace, hordered, hslot, hop⟩ =>
      ⟨laneRedslot_adds hpair hwho hplace hordered hslot hop, rfl⟩
  case opens =>
    exact completes_of_lane (exec_redslot f) fun _ _ _ ⟨hpair, ⟨_, hwho⟩, hplace, hordered, hslot, hcharge⟩ =>
      ⟨laneRedslot_opens hpair hwho hplace hordered hslot hcharge, rfl⟩
  case fence =>
    exact completesBoth_of exec_fence exec_fenceW2 (fun _ s hready => congrArg (Prod.mk s) hready) fun _ _ _ _ => ⟨rfl, rfl⟩
  case tfence =>
    exact completesBoth_of (fn := fun _ _ s => (s, .done)) (fun _ _ => rfl) (fun _ _ => rfl) (fun _ _ _ => rfl)
      fun _ _ _ _ => ⟨rfl, rfl⟩
  case prefetch => exact prefetch_completes fun v s _ => congrArg (Prod.mk _) (lanePrefetch_done v s)
  case translates =>
    refine prefetch_completes fun v s ⟨htr, hat, h⟩ => ?_
    obtain h | h | ⟨c, sp, x, hcore, hat, h⟩ := h
    · exact lanePrefetch_translates htr hat (.inl h)
    · exact lanePrefetch_translates htr hat (.inr h)
    · exact lanePrefetch_kept htr hat hcore h
  case peer => exact prefetch_completes fun _ _ ⟨htr, hat⟩ => lanePrefetch_peer htr hat
  case drops => exact prefetch_completes fun _ _ h => lanePrefetch_drops h
  case line =>
    exact prefetch_completes fun _ _ ⟨hhint, htr, hat, hcore, hmiss, hclean⟩ => lanePrefetch_line htr hat hcore hhint hmiss hclean
  case global => exact monitor_completes fun _ _ ⟨htier, hplace, hat⟩ => laneMonitor_global htier hplace hat
  case scratch => exact monitor_completes fun _ _ ⟨htier, hwho, haddr, hin, ho⟩ => laneMonitor_scratch htier hwho haddr hin ho

end Sys2Proof.Machine
end

section
/-! Errors of storage (R458, R459, R467), the hours of the sensors (R468) and evicted lines (R302): the merge window of a corrected
error, the error record, the poison that an uncorrectable error leaves, and the caches that let a line go. -/

namespace Sys2Proof.Machine

namespace State

/-! Lifetime counters (R468) -/

theorem get_countLife_self (s : State) (k : Nat) : (s.countLife k).lifePending.get 0 k = s.lifePending.get 0 k + 1  := by
  simp only [countLife, SMap.get_put_self]

theorem get_countLife_ne (s : State) {k j : Nat} (h : j ≠ k) : (s.countLife k).lifePending.get 0 j = s.lifePending.get 0 j  := by
  simp only [countLife, SMap.get_put_ne _ _ _ _ _ h]

@[simp] theorem bytesOf_countLife (s : State) (k : Nat) (sp : Space) : (s.countLife k).bytesOf sp = s.bytesOf sp := by cases sp <;> rfl

/-! Corrected errors (R458, R467) -/

/-- The state of a corrected error before its merge window: the channel is drawn and the lifetime counter of its unit counts. -/
def correctedCounted (s : State) (unit loc : Nat) : State :=
  if unit = 1 && loc < 256 then s.free.2.countLife loc
  else if unit = 0 && loc < 16 then s.free.2.countLife (0x100 + 32 * loc + s.free.1 % 32) else s.free.2

theorem correctedCounted_fields (s : State) (unit loc : Nat) :
    (s.correctedCounted unit loc).merges = s.merges ∧ (s.correctedCounted unit loc).poison = s.poison ∧
      (s.correctedCounted unit loc).clock = s.clock ∧ SameMemory s (s.correctedCounted unit loc) := by
  have hfree : ∀ sp, s.free.2.bytesOf sp = s.bytesOf sp := fun sp => by cases sp <;> rfl
  unfold correctedCounted
  split
  · exact ⟨rfl, rfl, rfl, sameMemory_of_bytesOf fun sp => (bytesOf_countLife _ _ sp).trans (hfree sp)⟩
  · split
    · exact ⟨rfl, rfl, rfl, sameMemory_of_bytesOf fun sp => (bytesOf_countLife _ _ sp).trans (hfree sp)⟩
    · exact ⟨rfl, rfl, rfl, sameMemory_of_bytesOf hfree⟩

theorem corrected_eq (s : State) (unit loc addr syn : Nat) : s.corrected unit loc addr syn =
    match (s.correctedCounted unit loc).merges.find? fun m => m.unit == unit && m.loc == loc with
    | some m => { s.correctedCounted unit loc with
        merges := (s.correctedCounted unit loc).merges.map fun n => if n = m then { m with count := m.count + 1 } else n }
    | none => { s.correctedCounted unit loc with
        merges := (s.correctedCounted unit loc).merges ++ [⟨unit, loc, addr, syn, 1, (s.correctedCounted unit loc).clock⟩] } := rfl

theorem corrected_opens {s : State} {unit loc : Nat} (h : s.merges.find? (fun m => m.unit == unit && m.loc == loc) = none) (addr syn : Nat) :
    s.corrected unit loc addr syn =
      { s.correctedCounted unit loc with merges := s.merges ++ [⟨unit, loc, addr, syn, 1, s.clock⟩] } := by
  obtain ⟨hmerges, -, hclock, -⟩ := s.correctedCounted_fields unit loc
  rw [corrected_eq, hmerges, hclock, h]

theorem corrected_counts {s : State} {unit loc : Nat} {m : MergeWin}
    (h : s.merges.find? (fun m => m.unit == unit && m.loc == loc) = some m) (addr syn : Nat) :
    s.corrected unit loc addr syn =
      { s.correctedCounted unit loc with merges := s.merges.map fun n => if n = m then { m with count := m.count + 1 } else n } := by
  obtain ⟨hmerges, -⟩ := s.correctedCounted_fields unit loc
  rw [corrected_eq, hmerges, h]

/-- No window stands for the unit and the location. -/
theorem find?_merges_none {s : State} {unit loc : Nat} (h : ∀ m ∈ s.merges, ¬(m.unit = unit ∧ m.loc = loc)) :
    s.merges.find? (fun m => m.unit == unit && m.loc == loc) = none :=
  List.find?_eq_none.mpr fun m hm => by simpa using h m hm

section
variable {s : State} {unit loc : Nat} {m : MergeWin} (h : s.merges.find? (fun m => m.unit == unit && m.loc == loc) = some m)
include h

theorem mergeEnds_early (hclock : s.clock < m.opened + 1000000) : s.mergeEnds unit loc = s := by
  simp only [mergeEnds, h, if_pos hclock]

/-- After 1 ms the window of a unit that is no HBM and no L2 closes with its record. -/
theorem mergeEnds_records (hclock : m.opened + 1000000 ≤ s.clock) (hunit : unit = 2 ∨ unit = 3) : s.mergeEnds unit loc =
    ({ s with merges := s.merges.filter (· != m) } : State).errorRecordAt 0 1 m.unit 0 m.addr m.loc 0 0 0xFFFFFFFF 0 m.count m.syn := by
  have hm : m.unit = unit ∧ m.loc = loc := by simpa using List.find?_some h
  have hu : ¬ m.unit ≤ 1 := by omega
  simp only [mergeEnds, h, if_neg (Nat.not_lt.mpr hclock), if_neg hu]

end

/-! The error record (R466, R467) -/

/-- A record that no ring takes stands first in the hub, 64 bytes that begin with class, unit, world and node, and counts as lost. -/
theorem errorRecordAt_lost {s : State} (h : bits s.relBase.toNat 3 0 < 6 ∨ 2 ^ bits s.relBase.toNat 3 0 ≤ (s.relTail - s.relHead).toNat)
    (node cls unit w addr loc code flags team : Nat) (cookie : BitVec 64) (count syn : Nat) : ∃ b,
    s.errorRecordAt node cls unit w addr loc code flags team cookie count syn =
      { s with errors := (ErrRec.mk b :: s.errors).take 64, relOvf := true, relLost := min 0xFFFF (s.relLost + 1) } ∧ b.length = 64 ∧
    b.take 4 = [BitVec.ofNat 8 cls, BitVec.ofNat 8 unit, BitVec.ofNat 8 w, BitVec.ofNat 8 node] := by
  unfold errorRecordAt
  dsimp only
  exact ⟨_, if_pos (by simpa using h), by simp [zeros], rfl⟩

/-! Poison (R458) -/

theorem granules_byte {sp : Space} (hsp : granule sp = 64) (a : Nat) : granules sp a 1 = [a / 64] := by
  have hone : (a + 1 - 1) / 64 + 1 - a / 64 = 1 := by omega
  simp only [granules, hsp, hone]
  rfl

/-- What is marked poisoned reads as poisoned. -/
theorem poisoned_poisonRange {sp : Space} (hsp : granule sp = 64) (s : State) (a : Nat) :
    (s.poisonRange sp a 1).poisoned sp a 1 = true := by
  have hin : (sp, a / 64) ∈ (s.poisonRange sp a 1).poison := by
    by_cases h : (sp, a / 64) ∈ s.poison <;> simp [poisonRange, granules_byte hsp, h]
  simp [poisoned, granules_byte hsp, hin]

/-! Uncorrectable errors (R458) -/

/-- An error of HBM, or of a line that the L2 holds written, poisons the sector. -/
theorem uncorrectable_poisons {kind addr : Nat} (h : kind = 0 ∨ (kind = 2 ∧ addr < 2 ^ 48)) (s : State) (loc syn : Nat) :
    ∃ node unit w off, s.uncorrectable kind loc addr syn =
      (s.poisonRange .hbm addr 1).uncorrectedRecord node unit w off loc 0 0xFFFFFFFF 0 syn := by
  obtain rfl | ⟨rfl, haddr⟩ := h
  · exact ⟨_, 0, _, _, rfl⟩
  · exact ⟨_, 1, _, _, if_pos haddr⟩

/-- The state of an error of a clean copy before its record: of an L1 or instruction cache the copy is gone, and the accesses of
the next step meet the error (log entry 48). -/
def cleanCopyError (s : State) (kind loc addr : Nat) : State :=
  if kind = 1 then { s with meetsNext := s.meetsNext ++ (granules .hbm addr 1).map fun g => (.hbm, g) }
  else { s.l1Drop loc .hbm addr with
    icache := s.icache.filter fun l => !(l.core == loc && l.space == Space.hbm && l.line == addr / 128)
    meetsNext := s.meetsNext ++ (granules .hbm (addr / 128 * 128) 128).map fun g => (.hbm, g) }

theorem uncorrectable_cleanCopy {kind : Nat} (h : kind = 1 ∨ kind = 5) (s : State) (loc addr syn : Nat) :
    ∃ node unit w off, s.uncorrectable kind loc addr syn =
      (s.cleanCopyError kind loc addr).uncorrectedRecord node unit w off loc 2 0xFFFFFFFF 0 syn := by
  obtain rfl | rfl := h
  · exact ⟨_, 1, _, _, rfl⟩
  · exact ⟨_, 8, _, _, rfl⟩

theorem poison_cleanCopyError (s : State) (kind loc addr : Nat) : (s.cleanCopyError kind loc addr).poison = s.poison := by
  unfold cleanCopyError
  split <;> rfl

theorem sameMemory_cleanCopyError (s : State) (kind loc addr : Nat) : SameMemory s (s.cleanCopyError kind loc addr) := by
  refine sameMemory_of_bytesOf fun sp => ?_
  unfold cleanCopyError
  split <;> cases sp <;> rfl

/-- The state of an error of a host line before its record: the line leaves the L2; a written one poisons the host memory's
sector, the accesses of the next step meet the error of another. -/
def hostLineLost (s : State) (l : HostLine) (addr : Nat) : State :=
  let s := { s with hostLines := s.hostLines.filter fun m => m.line != addr / 64 }
  if l.dirty then s.poisonRange .host addr 1 else { s with meetsNext := s.meetsNext ++ (granules .host addr 1).map fun g => (.host, g) }

theorem uncorrectable_hostLine {s : State} {addr : Nat} {l : HostLine} (h : s.hostLines.find? (fun l => l.line == addr / 64) = some l)
    (loc syn : Nat) : s.uncorrectable 6 loc addr syn = (s.hostLineLost l addr).uncorrectedRecord ((s.hostLineLost l addr).nodeOf l.world) 1
      l.world addr loc (if l.dirty then 0 else 2) 0xFFFFFFFF 0 syn := by
  change s.hostLineError loc addr syn = _
  simp only [hostLineError, h]
  rfl

theorem hostLines_hostLineLost (s : State) (l : HostLine) (addr : Nat) :
    ∀ m ∈ (s.hostLineLost l addr).hostLines, m.line ≠ addr / 64 := by
  have hfilter : (s.hostLineLost l addr).hostLines = s.hostLines.filter fun m => m.line != addr / 64 := by
    unfold hostLineLost
    dsimp only
    split <;> rfl
  intro m hm
  rw [hfilter] at hm
  simpa using (List.mem_filter.mp hm).2

theorem sameMemory_hostLineLost (s : State) (l : HostLine) (addr : Nat) : SameMemory s (s.hostLineLost l addr) := by
  refine sameMemory_of_bytesOf fun sp => ?_
  unfold hostLineLost
  dsimp only
  split <;> cases sp <;> rfl

theorem poison_hostLineLost (s : State) (l : HostLine) (addr : Nat) :
    if l.dirty then (s.hostLineLost l addr).poisoned .host addr 1 = true else (s.hostLineLost l addr).poison = s.poison := by
  unfold hostLineLost
  dsimp only
  split
  · exact poisoned_poisonRange rfl _ _
  · rfl

/-! Evicted lines (R302) -/

/-- A line has left the L1 and the instruction cache of a core. -/
def evictLine (s : State) (core line : Nat) : State :=
  { s.l1Drop core .hbm (line * 128) with icache := s.icache.filter fun l => !(l.core == core && l.line == line) }

/-- The L2 has let the host lines of a place go. -/
def evictHost (s : State) (line : Nat) : State := { s with hostLines := s.hostLines.filter fun l => l.line / 2 != line }

section
variable (s : State) (core line : Nat)

theorem mem_l1_evictLine (l : L1Line) :
    l ∈ (s.evictLine core line).l1 ↔ l ∈ s.l1 ∧ (l.core ≠ core ∨ l.space ≠ .hbm ∨ l.line ≠ line) := by
  simp only [evictLine, l1Drop, List.mem_filter, Nat.mul_div_cancel line (by decide : 0 < 128), Bool.not_eq_true', Bool.and_eq_false_iff,
    beq_eq_false_iff_ne, or_assoc]

theorem mem_icache_evictLine (l : L1Line) : l ∈ (s.evictLine core line).icache ↔ l ∈ s.icache ∧ (l.core ≠ core ∨ l.line ≠ line) := by
  simp only [evictLine, List.mem_filter, Bool.not_eq_true', Bool.and_eq_false_iff, beq_eq_false_iff_ne]

theorem mem_evictHost (l : HostLine) : l ∈ (s.evictHost line).hostLines ↔ l ∈ s.hostLines ∧ l.line / 2 ≠ line := by
  simp only [evictHost, List.mem_filter, bne_iff_ne]

theorem sameMemory_evictLine : SameMemory s (s.evictLine core line) := sameMemory_of_bytesOf fun sp => by cases sp <;> rfl

theorem sameMemory_evictHost : SameMemory s (s.evictHost line) := sameMemory_of_bytesOf fun sp => by cases sp <;> rfl

end

end State

/-! The operations -/

section
variable (s : State)

theorem exec_correctedError (unit loc : Nat) (addr : BitVec 64) (syn : BitVec 32) :
    exec (.correctedError unit loc addr syn) s = .next (s.corrected unit loc addr.toNat syn.toNat) := rfl

theorem exec_correctedMergeEnd (unit loc : Nat) : exec (.correctedMergeEnd unit loc) s = .next (s.mergeEnds unit loc) := rfl

theorem exec_uncorrectableError (kind loc : Nat) (addr : BitVec 64) (syn : BitVec 32) :
    exec (.uncorrectableError kind loc addr syn) s = .next (s.uncorrectable kind loc addr.toNat syn.toNat) := rfl

theorem exec_sensorHour {tbin vbin : Nat} (ht : tbin < 16) (hv : vbin < 16) :
    exec (.sensorHour tbin vbin) s = .next ((s.countLife (0x310 + tbin)).countLife (0x320 + vbin)) :=
  congrArg Host.Outcome.next (if_pos (by simp [ht, hv]))

theorem exec_lineEviction_core {core : Nat} (line : Nat) (h : core < 128) :
    exec (.lineEviction core line) s = .next (s.evictLine core line) := if_pos h

theorem exec_lineEviction_host {core : Nat} (line : Nat) (h : 128 ≤ core) :
    exec (.lineEviction core line) s = .next (s.evictHost line) := if_neg (Nat.not_lt.mpr h)

end

/-- Settles O51: each clause is the lemma above about the merge window, the record, the poison or the caches. -/
theorem errors : Obligations.Errors := by
  unfold Obligations.Errors
  refine ⟨fun s unit loc addr syn h => ?opens, fun s unit loc addr syn m h => ?counts, fun s unit loc m h hclock => ?early,
    fun s unit loc m h hclock hunit => ?ends, fun s node cls unit w addr loc code flags team cookie count syn h =>
      State.errorRecordAt_lost h node cls unit w addr loc code flags team cookie count syn,
    fun s kind loc addr syn h => ?poisons, fun s kind loc addr syn h => ?cleanCopy, fun s loc addr syn l h => ?hostLine,
    fun s a n => rfl, State.granules_byte rfl, fun s tb vb ht hv => ?hour, fun s core line h => ?evicted, fun s core line h => ?hostEvicted⟩
  case opens =>
    obtain ⟨-, hpoison, -, hmem⟩ := s.correctedCounted_fields unit loc
    refine ⟨_, exec_correctedError s unit loc addr syn, ?_⟩
    rw [State.corrected_opens (State.find?_merges_none h)]
    exact ⟨rfl, hpoison, hmem⟩
  case counts =>
    obtain ⟨-, hpoison, -, hmem⟩ := s.correctedCounted_fields unit loc
    refine ⟨_, exec_correctedError s unit loc addr syn, ?_⟩
    rw [State.corrected_counts h]
    exact ⟨List.mem_map.mpr ⟨m, List.mem_of_find?_eq_some h, if_pos rfl⟩, List.length_map _, hpoison, hmem⟩
  case early => rw [exec_correctedMergeEnd, State.mergeEnds_early h hclock]
  case ends => rw [exec_correctedMergeEnd, State.mergeEnds_records h hclock hunit]
  case poisons =>
    obtain ⟨node, unit, w, off, heq⟩ := State.uncorrectable_poisons h s loc syn.toNat
    exact ⟨_, exec_uncorrectableError s kind loc addr syn, _, node, unit, w, off, State.poisoned_poisonRange rfl s _,
      sameMemory_of_bytesOf fun sp => State.bytesOf_poisonRange s _ sp _ _, heq⟩
  case cleanCopy =>
    obtain ⟨node, unit, w, off, heq⟩ := State.uncorrectable_cleanCopy h s loc addr.toNat syn.toNat
    exact ⟨_, exec_uncorrectableError s kind loc addr syn, _, node, unit, w, off, State.poison_cleanCopyError _ _ _ _,
      State.sameMemory_cleanCopyError _ _ _ _, heq⟩
  case hostLine =>
    exact ⟨_, exec_uncorrectableError s 6 loc addr syn, _, State.sameMemory_hostLineLost s l _, State.hostLines_hostLineLost s l _,
      State.poison_hostLineLost s l _, State.uncorrectable_hostLine h loc syn.toNat⟩
  case hour =>
    refine ⟨_, exec_sensorHour s ht hv, ?_, ?_, rfl, sameMemory_of_bytesOf fun sp => by simp⟩
    · rw [State.get_countLife_ne _ (by omega), State.get_countLife_self]
    · rw [State.get_countLife_self, State.get_countLife_ne _ (by omega)]
  case evicted =>
    refine ⟨_, exec_lineEviction_core s line h, fun l hl => ?_, fun l hl hne => (s.mem_l1_evictLine core line l).mpr ⟨hl, hne⟩,
      fun l hl => ?_, fun l hl hne => (s.mem_icache_evictLine core line l).mpr ⟨hl, hne⟩, s.sameMemory_evictLine core line⟩
    · have hne := ((s.mem_l1_evictLine core line l).mp hl).2
      tauto
    · have hne := ((s.mem_icache_evictLine core line l).mp hl).2
      tauto
  case hostEvicted =>
    exact ⟨_, exec_lineEviction_host s line h, fun l hl => ((s.mem_evictHost line l).mp hl).2,
      fun l hl hne => (s.mem_evictHost line l).mpr ⟨hl, hne⟩, rfl, rfl, s.sameMemory_evictHost line⟩

end Sys2Proof.Machine
end

section
/-! Metering (R491 to R497): the period boundary, the cut of a world's block, and the record and its flags. -/

namespace Sys2Proof.Machine

/-! The record (R497) -/

namespace HeldRec

variable (h : HeldRec)

theorem length_body (w n : Nat) : (h.body w n).length = 416 := by
  simp [body, zeros]

/-- A record begins with the letters of its magic. -/
theorem take_bytes (w key n : Nat) : (h.bytes w key n).take 4 = [0x44#8, 0x46#8, 0x54#8, 0x4B#8] := rfl

theorem length_bytes (w key n : Nat) : (h.bytes w key n).length = 512 := by
  simp [bytes, length_body]

/-- The flags as a word of five bits. -/
def flagWord (first last changed imported again : Bool) : Nat :=
  (if first then 1 else 0) + (if last then 2 else 0) + (if changed then 4 else 0) + (if imported then 8 else 0) + if again then 16 else 0

theorem flags_eq : h.flags = flagWord (h.at'.seq == 0) h.last h.at'.changed h.at'.imported h.again := by
  simp [flags, flagWord]

/-- Each of the first four bits of the word is its flag. -/
theorem bit_flagWord (first last changed imported again : Bool) :
    bit (flagWord first last changed imported again) 0 = first ∧ bit (flagWord first last changed imported again) 1 = last ∧
      bit (flagWord first last changed imported again) 2 = changed ∧ bit (flagWord first last changed imported again) 3 = imported := by
  revert first last changed imported again
  decide

/-- The increase, added to what stood at START, is what the counter reads. -/
theorem add_delta {k : Nat} (hk : h.at'.totals.get 0 k < 2 ^ 64) :
    (h.at'.totals.get 0 k + h.delta k) % 2 ^ 64 = h.totals.get 0 k % 2 ^ 64 := by
  unfold delta
  omega

theorem delta_lt (k : Nat) : h.delta k < 2 ^ 64 := Nat.mod_lt _ (by decide)

end HeldRec

namespace State

/-! Counters, cuts and period boundaries -/

theorem counter_reserved (s : State) (w : Nat) {k : Nat} (h : 14 ≤ k) : s.counter w k = 0 := by
  simp only [counter, if_neg (show k ≠ 13 by omega), if_pos h]

theorem cutWorld_noChain {s : State} {w : Nat} (h : (s.world w).usage.chain = none) (last : Bool) : s.cutWorld w last = s := by
  simp only [cutWorld, h]

theorem periodCut_early {s : State} (h : s.clock < s.metNext * 1000000) : s.periodCut = s := if_pos h

/-- Every world in use has been cut. -/
def cutAll (s : State) : State :=
  (s.worlds.map (·.1)).foldl (fun s w => if w ≠ 0 && (s.world w).st ≠ .free then s.cutWorld w false else s) s

theorem periodCut_due {s : State} (h : s.metNext * 1000000 ≤ s.clock) :
    s.periodCut = { s.cutAll with metNext := (s.cutAll.clock / 1000000 / s.cutAll.metPeriod + 1) * s.cutAll.metPeriod } :=
  if_neg (Nat.not_lt.mpr h)

end State

theorem exec_periodBoundary (s : State) : exec .periodBoundary s = .next s.periodCut := rfl

/-- Settles O53: each clause is the lemma above about the period boundary, the cut, the counter or the record. -/
theorem metering : Obligations.Metering := by
  unfold Obligations.Metering
  refine ⟨fun s h => ?early, fun s h => ⟨s.cutAll, rfl, ?due⟩, fun s w last h => State.cutWorld_noChain h last,
    fun s w k h => s.counter_reserved w h, fun h w key n => ⟨h.length_bytes w key n, h.take_bytes w key n, rfl⟩, fun h => ?flags,
    fun h k hk => ⟨h.delta_lt k, h.add_delta hk⟩, fun s v h h' => ?period⟩
  case early => rw [exec_periodBoundary, State.periodCut_early h]
  case due => rw [exec_periodBoundary, State.periodCut_due h]
  case period =>
    rw [bits_toNat] at h h' ⊢
    rw [exec_metPeriodWrite, State.periodPut_admitted s h h']
  case flags =>
    obtain ⟨hfirst, hlast, hchanged, himported⟩ :=
      HeldRec.bit_flagWord (h.at'.seq == 0) h.last h.at'.changed h.at'.imported h.again
    rw [h.flags_eq, hfirst, hlast, hchanged, himported]
    simp

end Sys2Proof.Machine
end

section
/-! Migration (R471 to R473) and the rotation of a key (R358): the write that starts a command and the completion that ends it, dirty
tracking, and the boundary of a rotation. -/

namespace Sys2Proof.Machine

namespace State

/-! Starting and ending a command (R471) -/

/-- The time of the write of WLD_MIGCMD: now, or that of the write that was held, while GO reads 1 already (R63). -/
def migWritten (s : State) (w : Nat) : Nat := if (s.world w).migCmd.getLsbD 0 then s.cmdWritten else s.clock

/-- The state in which a migration command begins: the register shows it, and the command runs. -/
def migAccepting (s : State) (w op : Nat) : State :=
  { { s with cmdWritten := s.migWritten w }.modWorld w fun x => { x with migCmd := BitVec.ofNat 32 (op * 2 ^ 24 + 1) } with
    command := some { op := 0x80 + op % 128, world := w, node := 0, owner := 0, arg := 0, start := s.migWritten w, bound := s.clock } }

theorem migWrite_starts {s : State} {w : Nat} (hpos : 0 < w) (hle : w ≤ 96) (hidle : s.command = none)
    (hheld : s.held.any isCommand = false) (hact : s.activating = false) (op : Nat) (i : Instr) (run : State → State) :
    s.migWrite w op i run = run (s.migAccepting w op) := by
  have hok : ¬ ((decide (w = 0) || decide (96 < w) || s.command.isSome || s.held.any isCommand) = true) := by
    simp [hidle, hheld]
    omega
  have hact' : ¬ (({ s with cmdWritten := s.migWritten w } : State).modWorld w fun x =>
      { x with migCmd := BitVec.ofNat 32 (op * 2 ^ 24 + 1) }).activating = true := by
    change ¬ s.activating = true
    simp [hact]
  exact (if_neg hok).trans (if_neg hact')

theorem endMigration_some {s : State} {c : Command} (h : s.command = some c) (st : Nat) :
    s.endMigration st = ({ s with command := some { c with ended := some st } } : State).pushOnce (.migrationCommandDone c.world) := by
  simp only [endMigration, h]

/-- The registers of an ended command: GO clears, the status and the time stand. -/
def migEnded (s : State) (c : Command) (st : Nat) : State :=
  ({ s with command := none } : State).modWorld c.world fun x => { x with
    migStatus := st, migElapsed := min 0x3FFFFF (s.microsSince c.start), migCmd := x.migCmd &&& ~~~1#32 }

theorem bytesOf_migEnded (s : State) (c : Command) (st : Nat) (sp : Space) : (s.migEnded c st).bytesOf sp = s.bytesOf sp :=
  (bytesOf_modWorld _ _ _ sp rfl rfl).trans (by cases sp <;> rfl)

/-- The end of a command that opens no usage chain. -/
theorem finishMigration_eq {s : State} {c : Command} (h : c.op ≠ 0x84) (st : Nat) :
    s.finishMigration c st =
      (s.slices.map (·.1)).foldl (fun s k => s.decide' k) (((s.migEnded c st).signal 0 0).releaseHeldOps) := by
  have hne : ¬ (decide (c.op = 0x84) && decide (st = 0)) = true := by simp [h]
  unfold finishMigration
  dsimp only
  rw [if_neg hne]
  have hslices : ∀ u : State, u.releaseHeldOps.slices = u.slices := fun u => by
    unfold releaseHeldOps
    split <;> rfl
  rw [hslices, (signal_fields _ 0 0).2.2.2.2.2.2.1]
  rfl

section
variable {s : State} (hact : s.activating = false)
include hact

theorem wrapUp_command (cs : List Nat) : (cs.foldl (fun s k => s.decide' k) ((s.signal 0 0).releaseHeldOps)).command = s.command := by
  obtain ⟨hcommand, -, -, -, -, hfw, -⟩ := signal_fields s 0 0
  have ha : (s.signal 0 0).activating = false := by simpa [activating, hfw] using hact
  obtain ⟨d, hd⟩ := decideAll_due cs (s.signal 0 0).releaseHeldOps
  rw [hd, releaseHeldOps_idle ha]
  exact hcommand

theorem bytesOf_wrapUp (cs : List Nat) (sp : Space) :
    (cs.foldl (fun s k => s.decide' k) ((s.signal 0 0).releaseHeldOps)).bytesOf sp = s.bytesOf sp := by
  obtain ⟨-, -, -, -, -, hfw, -, -, hbytes⟩ := signal_fields s 0 0
  have ha : (s.signal 0 0).activating = false := by simpa [activating, hfw] using hact
  obtain ⟨d, hd⟩ := decideAll_due cs (s.signal 0 0).releaseHeldOps
  rw [hd, releaseHeldOps_idle ha, ← hbytes sp]
  cases sp <;> rfl

theorem finishMigration_ended {c : Command} (hop : c.op ≠ 0x84) (st : Nat) :
    (s.finishMigration c st).command = none ∧ ((s.finishMigration c st).world c.world).migStatus = st ∧
      ((s.finishMigration c st).world c.world).migElapsed = min 0x3FFFFF ((s.clock - c.start) / 1000) ∧
      ((s.finishMigration c st).world c.world).migCmd = (s.world c.world).migCmd &&& ~~~1#32 ∧ SameMemory s (s.finishMigration c st) := by
  rw [finishMigration_eq hop]
  have hact' : (s.migEnded c st).activating = false := hact
  obtain ⟨p, hp⟩ := wrapUp_world (s.migEnded c st) (s.slices.map (·.1)) hact' c.world
  have hworld : (s.migEnded c st).world c.world = { s.world c.world with
      migStatus := st, migElapsed := min 0x3FFFFF (s.microsSince c.start), migCmd := (s.world c.world).migCmd &&& ~~~1#32 } :=
    world_modWorld _ _ _
  refine ⟨wrapUp_command hact' _, ?_, ?_, ?_,
    sameMemory_of_bytesOf fun sp => (bytesOf_wrapUp hact' _ sp).trans (bytesOf_migEnded s c st sp)⟩
  · rw [hp, hworld]
  · rw [hp, hworld]; rfl
  · rw [hp, hworld]

end

section
variable {s : State} {c : Command} (hrun : s.command = some c)
include hrun

theorem migrationDone_ended (hop : 0x80 ≤ c.op) {st : Nat} (h : c.ended = some st) : s.migrationDone c.world = s.finishMigration c st := by
  have hmine : ¬ (decide (c.op < 0x80) || decide (c.world ≠ c.world)) = true := by simp [hop]
  simp only [migrationDone, hrun, if_neg hmine, h]

end

/-! Dirty tracking (R472, R473) -/

/-- The pages of a world's region that were ever written, counted from its base. -/
def writtenPages (s : State) (w : Nat) : SMap Bool :=
  (keepRange s.written ((regionRange (s.world w)).1 / 65536) ((s.world w).size * 16384)).map fun e =>
    (e.1 - (regionRange (s.world w)).1 / 65536, true)

section
variable {s : State} {w : Nat}

theorem trackWorld_refused (h : (s.world w).st = .free ∨ (s.world w).tdi ≠ .unlocked) : s.trackWorld w = s.endMigration 4 := by
  refine if_pos ?_
  rcases h with h | h <;> simp [h]

section
variable (hst : (s.world w).st = .attached ∨ (s.world w).st = .running ∨ (s.world w).st = .quiesced) (htdi : (s.world w).tdi = .unlocked)
include hst htdi

theorem trackWorld_sealed (h : (s.world w).tagBase.getLsbD 0 = true ∨ (s.world w).rotation ≠ none) :
    s.trackWorld w = s.endMigration 0x0C := by
  refine (if_neg ?_).trans (if_pos ?_)
  · obtain hst | hst | hst := hst <;> simp [hst, htdi]
  · obtain h | h := h
    · simp only [h, Bool.true_or]
    · simp only [Option.isSome_iff_ne_none.mpr h, Bool.or_true]

theorem trackWorld_tracks (htag : (s.world w).tagBase.getLsbD 0 = false) (hrot : (s.world w).rotation = none) :
    s.trackWorld w = (s.setWorld w { s.world w with tracking := true, dirty := s.writtenPages w }).endMigration 0 := by
  refine (if_neg ?_).trans (if_neg ?_)
  · obtain hst | hst | hst := hst <;> simp [hst, htdi]
  · simp only [htag, hrot, Option.isSome_none, Bool.or_false, Bool.false_eq_true, not_false_eq_true]

end

theorem harvestWorld_refused (h : (s.world w).tdi ≠ .unlocked) : s.harvestWorld w = s.endMigration 4 := if_pos (by simp [h])

section
variable (hst : (s.world w).st ≠ .free) (htdi : (s.world w).tdi = .unlocked)
include hst htdi

theorem harvestWorld_eq : s.harvestWorld w =
    match s.migPut w (s.dirtyMap w) with
    | none => s.endMigration 6
    | some s => (s.modWorld w fun x => { x with dirty := [] }).endMigration 0 := if_neg (by simp [hst, htdi])

theorem harvestWorld_puts {u : State} (h : s.migPut w (s.dirtyMap w) = some u) :
    s.harvestWorld w = (u.modWorld w fun x => { x with dirty := [] }).endMigration 0 := by
  rw [harvestWorld_eq hst htdi, h]

theorem harvestWorld_noBuffer (h : s.migPut w (s.dirtyMap w) = none) : s.harvestWorld w = s.endMigration 6 := by
  rw [harvestWorld_eq hst htdi, h]

end

/-! Key rotation (R358) -/

section
variable {p : Nat} (h : (s.world w).rotation = some p)
include h

/-- The traffic that the unit at the boundary costs, where it was written ever, counts for the slice. -/
def rotationMetered (s : State) (w p : Nat) : State :=
  if s.fresh ((regionRange (s.world w)).1 / 65536 + p) then s
  else (s.meterSlice (s.world w).ctl 5 65536).meterSlice (s.world w).ctl 6 65536

omit h in
theorem rotationMetered_fields (s : State) (w p : Nat) :
    (s.rotationMetered w p).world w = s.world w ∧ ∀ sp, (s.rotationMetered w p).bytesOf sp = s.bytesOf sp := by
  unfold rotationMetered
  split
  · exact ⟨rfl, fun _ => rfl⟩
  · exact ⟨rfl, fun sp => by cases sp <;> rfl⟩

theorem rotateStep_unit (hp : p < units (s.world w)) :
    s.rotateStep w = (s.rotationMetered w p).modWorld w fun x => { x with rotation := some (p + 1) } := by
  simp only [rotateStep, h, if_pos hp]
  rfl

theorem rotateStep_last (hp : units (s.world w) ≤ p) :
    s.rotateStep w = s.modWorld w fun x => { x with rotation := none, key := x.secondKey, secondKey := none } := by
  simp only [rotateStep, h, if_neg (Nat.not_lt.mpr hp)]

end

end

end State

theorem exec_migrationCommandDone (w : Nat) (s : State) : exec (.migrationCommandDone w) s = .next (s.migrationDone w) := rfl
theorem exec_rotationStep (w : Nat) (s : State) : exec (.rotationStep w) s = .next (s.rotateStep w) := rfl

/-- Settles O47: each clause is the lemma above about the start or the end of a command, the tracking or the rotation. -/
theorem trackAndHarvest : Obligations.TrackAndHarvest := by
  unfold Obligations.TrackAndHarvest
  refine ⟨fun s w hpos hle hidle hheld hact => ?starts, fun s w i h hi => ?busy, fun s c st h => State.endMigration_some h st,
    fun s w hst htdi htag hrot => ?tracks, fun s w h => State.trackWorld_refused h,
    fun s w hst htdi h => State.trackWorld_sealed (.inr (.inl hst)) htdi h, fun s w => rfl,
    fun s u w hst htdi h => State.harvestWorld_puts hst htdi h, fun s w hst htdi h => State.harvestWorld_noBuffer hst htdi h,
    fun s w h => State.harvestWorld_refused h, fun s c st hrun hop himport hended hact => ?ended, fun s w p h hp => ?unit,
    fun s w p h hp => ?last⟩
  case starts =>
    have hstart := State.migWrite_starts hpos hle hidle hheld hact
    exact ⟨congrArg _ (hstart 1 _ _), congrArg _ (hstart 2 _ _), congrArg _ (hstart 3 _ _), congrArg _ (hstart 4 _ _),
      congrArg _ (hstart 5 _ _)⟩
  case busy =>
    simp only [List.mem_cons, List.not_mem_nil, or_false] at hi
    obtain rfl | rfl | rfl | rfl | rfl := hi <;> exact congrArg _ (migWrite_busy h _ _ _ _)
  case tracks =>
    refine ⟨_, State.trackWorld_tracks hst htdi htag hrot, ?_, fun p => ?_, sameMemory_of_bytesOf fun sp => ?_⟩
    · rw [State.world_setWorld]
    · rw [State.world_setWorld, State.writtenPages, List.map_map]
      exact Iff.rfl
    · exact State.bytesOf_setWorld _ _ _ sp rfl rfl
  case ended =>
    exact ⟨_, (exec_migrationCommandDone _ _).trans (congrArg _ (State.migrationDone_ended hrun hop hended)),
      State.finishMigration_ended hact himport st⟩
  case unit =>
    obtain ⟨hworld, hbytes⟩ := s.rotationMetered_fields w p
    refine ⟨_, exec_rotationStep w s, ?_⟩
    rw [State.rotateStep_unit h hp]
    dsimp only
    rw [world_modWorld, hworld]
    exact ⟨rfl, rfl, sameMemory_of_bytesOf fun sp => (bytesOf_modWorld _ _ _ sp rfl rfl).trans (hbytes sp)⟩
  case last =>
    refine ⟨_, exec_rotationStep w s, ?_⟩
    rw [State.rotateStep_last h hp]
    dsimp only
    rw [world_modWorld]
    exact ⟨rfl, rfl, rfl, sameMemory_of_bytesOf fun sp => bytesOf_modWorld _ _ _ sp rfl rfl⟩

end Sys2Proof.Machine
end

section
/-! EXPORT and IMPORT (R474 to R477): the start, the completion with the image and the time limit of an EXPORT; the checks of an
IMPORT, the wait for its program's code, and the world that it leaves. -/

namespace Sys2Proof.Machine

namespace State

/-! EXPORT (R474) -/

section
variable {s : State} {w : Nat}

theorem exportStart_refused (h : (s.world w).tracking = false ∨ (s.world w).tdi ≠ .unlocked) : s.exportStart w = s.endMigration 4 := by
  refine if_pos ?_
  rcases h with h | h <;> simp [h]

variable (htrack : (s.world w).tracking = true) (htdi : (s.world w).tdi = .unlocked)
include htrack htdi

theorem exportStart_eq : s.exportStart w =
    ((if (s.world w).st = .running || (s.world w).st = .attached then s.quiesceWorld w 4 else s).modWorld w fun x =>
      { x with dropWrites := true }).pushOnce (.migrationCommandDone w) := if_neg (by simp [htrack, htdi])

/-- A world that does not run is only marked. -/
theorem exportStart_marks (hrun : (s.world w).st ≠ .running) (hatt : (s.world w).st ≠ .attached) :
    s.exportStart w = (s.modWorld w fun x => { x with dropWrites := true }).pushOnce (.migrationCommandDone w) := by
  rw [exportStart_eq htrack htdi, if_neg (by simp [hrun, hatt])]

theorem exportStart_quiesces (hrun : (s.world w).st = .running) :
    s.exportStart w = ((s.quiesceWorld w 4).modWorld w fun x => { x with dropWrites := true }).pushOnce (.migrationCommandDone w) := by
  rw [exportStart_eq htrack htdi, if_pos (by simp [hrun])]

end

/-! The completion of a command that has not ended -/

section
variable {s : State} {c : Command} (hrun : s.command = some c)
include hrun

theorem migrationDone_running (hop : 0x80 ≤ c.op) (hended : c.ended = none) : s.migrationDone c.world =
    if c.op = 0x83 && s.exportReady c.world then (s.exportWrite c.world).1.finishMigration c (s.exportWrite c.world).2
    else if c.op = 0x84 && !s.asking (.prog c.world) then s.importStart c.world else s := by
  have hmine : ¬ (decide (c.op < 0x80) || decide (c.world ≠ c.world)) = true := by simp [hop]
  simp only [migrationDone, hrun, if_neg hmine, hended]

section
variable (hop : c.op = 0x83) (hended : c.ended = none) (hready : s.exportReady c.world = true)
include hop hended hready

theorem migrationDone_export : s.migrationDone c.world = (s.exportWrite c.world).1.finishMigration c (s.exportWrite c.world).2 := by
  rw [migrationDone_running hrun (by omega) hended, if_pos (by simp [hop, hready])]

theorem migrationDone_exported {u : State} (h : s.migPut c.world (s.exportImage c.world) = some u) :
    s.migrationDone c.world = (u.modWorld c.world fun x => { x with dirty := [], exported := true }).finishMigration c 0 := by
  rw [migrationDone_export hrun hop hended hready]
  simp only [exportWrite, h]

theorem migrationDone_noBuffer (h : s.migPut c.world (s.exportImage c.world) = none) : s.migrationDone c.world = s.finishMigration c 6 := by
  rw [migrationDone_export hrun hop hended hready]
  simp only [exportWrite, h]

end

/-- While the saves of an EXPORT go on, nothing happens. -/
theorem migrationDone_saving (hop : c.op ≠ 0x84) (hended : c.ended = none) (hready : s.exportReady c.world = false) :
    s.migrationDone c.world = s := by
  by_cases hlow : c.op < 0x80
  · simp [migrationDone, hrun, hlow]
  · rw [migrationDone_running hrun (Nat.not_lt.mp hlow) hended, if_neg (by simp [hready]), if_neg (by simp [hop])]

theorem migrationDone_import (hop : c.op = 0x84) (hended : c.ended = none) (hasking : s.asking (.prog c.world) = false) :
    s.migrationDone c.world = s.importStart c.world := by
  rw [migrationDone_running hrun (by omega) hended, if_neg (by simp [hop]), if_pos (by simp [hop, hasking])]

theorem exportLate_running : s.exportLate c.world =
    if c.op = 0x83 && c.world = c.world && c.ended.isNone && s.late c 40000000 && !s.quiesceDone c.world then s.endMigration 0x0B
    else s := by
  simp only [exportLate, hrun]

theorem exportLate_ends (hop : c.op = 0x83) (hended : c.ended = none) (hact : s.activating = false)
    (hclock : c.bound + 40000000 ≤ s.clock) (hsaving : s.quiesceDone c.world = false) : s.exportLate c.world = s.endMigration 0x0B := by
  rw [exportLate_running hrun, if_pos (by simp [hop, hended, late, hact, hclock, hsaving])]

theorem exportLate_early (h : s.activating = true ∨ s.clock < c.bound + 40000000) : s.exportLate c.world = s := by
  have hlate : s.late c 40000000 = false := by
    rcases h with h | h
    · simp only [late, h, Bool.not_true, Bool.false_and]
    · simp only [late, decide_eq_false (Nat.not_le.mpr h), Bool.and_false]
  rw [exportLate_running hrun, if_neg (by simp [hlate])]

end

/-! IMPORT (R476, R477) -/

section
variable {s : State} {w : Nat}

theorem importStart_refused (h : (s.world w).st ≠ .attached ∨ (s.world w).en = true ∨ (s.world w).tdi ≠ .unlocked) :
    s.importStart w = s.endMigration 4 := by
  have hrefused : (decide ((s.world w).st ≠ .attached) || (s.world w).en || decide ((s.world w).tdi ≠ .unlocked)) = true := by
    rcases h with h | h | h <;> simp [h]
  simp only [importStart, if_pos hrefused]

section
variable (hst : (s.world w).st = .attached) (hen : (s.world w).en = false) (htdi : (s.world w).tdi = .unlocked)
include hst hen htdi

theorem importStart_unread (h : s.hostRead 0 ((s.world w).migBuf.toNat / 4096 * 4096) 256 = none) :
    s.importStart w = s.endMigration 5 := by
  have hok : ¬ (decide ((s.world w).st ≠ .attached) || (s.world w).en || decide ((s.world w).tdi ≠ .unlocked)) = true := by
    simp [hst, hen, htdi]
  simp only [importStart, migBuffer, if_neg hok, h]

variable {h im : List Byte} (hhead : s.hostRead 0 ((s.world w).migBuf.toNat / 4096 * 4096) 256 = some h)
  (hfit : field h 8 4 ≤ (s.world w).migSize.toNat / 4096 * 4096)
  (himage : s.hostRead 0 ((s.world w).migBuf.toNat / 4096 * 4096) (field h 8 4) = some im)
include hhead hfit himage

/-- An image that can be read is checked, and its program's code fetched, before it is taken. -/
theorem importStart_reads : s.importStart w =
    if !s.importOk w im then s.endMigration 5
    else match s.importAsk w im with
      | some q => s.askInner (.prog w) w q
      | none => (s.importImage w im).endMigration 0 := by
  have hok : ¬ (decide ((s.world w).st ≠ .attached) || (s.world w).en || decide ((s.world w).tdi ≠ .unlocked)) = true := by
    simp [hst, hen, htdi]
  simp only [importStart, migBuffer, if_neg hok, hhead, if_neg (Nat.not_lt.mpr hfit), himage] <;> rfl

theorem importStart_bad (hbad : s.importOk w im = false) : s.importStart w = s.endMigration 5 := by
  rw [importStart_reads hst hen htdi hhead hfit himage, if_pos (by simp [hbad])]

variable (hgood : s.importOk w im = true)
include hgood

theorem importStart_takes (hask : s.importAsk w im = none) : s.importStart w = (s.importImage w im).endMigration 0 := by
  rw [importStart_reads hst hen htdi hhead hfit himage, if_neg (by simp [hgood]), hask]

theorem importStart_asks {q : Nat × Nat × Nat} (hask : s.importAsk w im = some q) : s.importStart w = s.askInner (.prog w) w q := by
  rw [importStart_reads hst hen htdi hhead hfit himage, if_neg (by simp [hgood]), hask]

end

end

end State

theorem exec_exportTimeout (w : Nat) (s : State) : exec (.exportTimeout w) s = .next (s.exportLate w) := rfl

/-- Settles O48: each clause is the lemma above about the start, the completion or the time limit of the command. -/
theorem exportAndImport : Obligations.ExportAndImport := by
  unfold Obligations.ExportAndImport
  refine ⟨fun s w => State.exportStart_refused, fun s w => State.exportStart_marks, fun s w => State.exportStart_quiesces,
    fun s u c hrun hop hended hready h => ?exported, fun s c hrun hop hended hready h => ?noBuffer,
    fun s c hrun hop hended hready => ?saving, fun s c hrun hop hended hact hclock hsaving => ?late, fun s c hrun h => ?early,
    fun s w => State.importStart_refused, fun s w h im hst hen htdi hhead hfit himage => ⟨?bad, ?takes, fun q hgood hask => ?asks⟩,
    fun s c hrun hop hended hasking => ?starts, fun s w => State.importStart_unread, fun s w im => ⟨_, rfl⟩⟩
  case exported => rw [exec_migrationCommandDone, State.migrationDone_exported hrun hop hended hready h]
  case noBuffer => rw [exec_migrationCommandDone, State.migrationDone_noBuffer hrun hop hended hready h]
  case saving => rw [exec_migrationCommandDone, State.migrationDone_saving hrun hop hended hready]
  case late => rw [exec_exportTimeout, State.exportLate_ends hrun hop hended hact hclock hsaving]
  case early => rw [exec_exportTimeout, State.exportLate_early hrun h]
  case bad => exact State.importStart_bad hst hen htdi hhead hfit himage
  case takes => exact State.importStart_takes hst hen htdi hhead hfit himage
  case asks => exact State.importStart_asks hst hen htdi hhead hfit himage hgood hask
  case starts => rw [exec_migrationCommandDone, State.migrationDone_import hrun hop hended hasking]

end Sys2Proof.Machine
end

section
/-! HALT, RESUME and STEP (R480 to R484): the target of a command, what a halt and a resume do to a lane, and the reports that
fall due. -/

namespace Sys2Proof.Machine

namespace State

/-! The debug block of a world -/

theorem dbg_modDebug (s : State) (w : Nat) (f : Debug → Debug) : ((s.modDebug w f).world w).dbg = f (s.world w).dbg := by
  rw [modDebug, world_modWorld]

theorem bytesOf_modDebug (s : State) (w : Nat) (f : Debug → Debug) (sp : Space) : (s.modDebug w f).bytesOf sp = s.bytesOf sp :=
  bytesOf_modWorld s w _ sp rfl rfl

theorem dbg_dbgErr (s : State) (w : Nat) : ((s.dbgErr w).world w).dbg = { (s.world w).dbg with err := true } := dbg_modDebug _ _ _

theorem sameMemory_dbgErr (s : State) (w : Nat) : SameMemory s (s.dbgErr w) :=
  sameMemory_of_bytesOf fun sp => bytesOf_modDebug s w _ sp

theorem world_pushOnce (s : State) (i : Instr) (w : Nat) : (s.pushOnce i).world w = s.world w := by
  obtain ⟨d, hd⟩ := pushOnce_due s i
  rw [hd]
  rfl

theorem bytesOf_pushOnce (s : State) (i : Instr) (sp : Space) : (s.pushOnce i).bytesOf sp = s.bytesOf sp := by
  obtain ⟨d, hd⟩ := pushOnce_due s i
  rw [hd]
  cases sp <;> rfl

theorem held_dbgDue (s : State) (w : Nat) (rs : List Report) : ((s.dbgDue w rs).world w).dbg.held = (s.world w).dbg.held ++ rs := by
  rw [dbgDue, world_pushOnce, dbg_modDebug]

theorem due_dbgDue (s : State) (w : Nat) (rs : List Report) : Instr.dbgReport w ∈ (s.dbgDue w rs).due := mem_pushOnce _ _

/-! The target of a command (R480) -/

section
variable {s : State} {w : Nat}

theorem dbgTarget_refused (h : s.dbgTeam w = none ∨ (s.world w).dbg.busy = true) (whole : Bool) (k : State → Nat → Nat → State) :
    s.dbgTarget w whole k = s.dbgErr w := by
  cases hteam : s.dbgTeam w with
  | none => simp only [dbgTarget, hteam]
  | some t =>
    have hbusy : (s.world w).dbg.busy = true := h.resolve_left (by simp [hteam])
    simp only [dbgTarget, hteam, hbusy, Bool.true_or, if_true]

variable {t : Nat} (hteam : s.dbgTeam w = some t) (hbusy : (s.world w).dbg.busy = false)
include hteam hbusy

theorem dbgTarget_team (k : State → Nat → Nat → State) : s.dbgTarget w true k = k s t (s.dbgGroup w) := by
  simp only [dbgTarget, hteam, hbusy, Bool.not_true, Bool.false_and, Bool.or_self, Bool.false_eq_true, if_false]

theorem dbgTarget_group (hgroup : s.dbgGroup w < (s.launchOf t).desc.groups) (k : State → Nat → Nat → State) :
    s.dbgTarget w false k = k s t (s.dbgGroup w) := by
  have hok : ¬ ((s.world w).dbg.busy || (!false && decide ((s.launchOf t).desc.groups ≤ s.dbgGroup w))) = true := by
    simpa [hbusy] using hgroup
  simp only [dbgTarget, hteam, if_neg hok]

theorem dbgHalt_team : s.dbgHalt w true = (s.haltTarget t (s.dbgGroup w) true).dbgDue w
    ((((s.haltTarget t (s.dbgGroup w) true).liveGroups t).map fun k => ⟨t, k, false, 2, 0, 0⟩) ++
      if (s.haltTarget t (s.dbgGroup w) true).seqLiveOrSaved t then [⟨t, 0, true, 2, 0, 0⟩] else []) :=
  dbgTarget_team hteam hbusy _

theorem dbgResume_team (hst : (s.team t).st = .resident) : s.dbgResume w true = s.resumeTarget t (s.dbgGroup w) true :=
  (dbgTarget_team hteam hbusy _).trans (if_neg (not_not_intro hst))

section
variable (hgroup : s.dbgGroup w < (s.launchOf t).desc.groups)
include hgroup

theorem dbgHalt_group : s.dbgHalt w false = (s.haltTarget t (s.dbgGroup w) false).dbgDue w [⟨t, s.dbgGroup w, false, 2, 0, 0⟩] :=
  dbgTarget_group hteam hbusy hgroup _

variable (hst : (s.team t).st = .resident)
include hst

theorem dbgResume_group : s.dbgResume w false = s.resumeTarget t (s.dbgGroup w) false :=
  (dbgTarget_group hteam hbusy hgroup _).trans (if_neg (not_not_intro hst))

/-- A group of which a lane runs takes no step. -/
theorem dbgStep_runs (h : ((s.liveOf t (s.dbgGroup w)).all fun lit => haltedOrWaiting (s.lane t lit)) = false) :
    s.dbgStep w = s.dbgErr w :=
  (dbgTarget_group hteam hbusy hgroup _).trans (if_pos (by simp only [hst, h, decide_true, Bool.not_false, Bool.and_self]))

theorem dbgStep_starts (h : ((s.liveOf t (s.dbgGroup w)).all fun lit => haltedOrWaiting (s.lane t lit)) = true) :
    s.dbgStep w = ((s.liveOf t (s.dbgGroup w)).foldl (fun s lit => s.resumeLane t lit true)
      (s.modDebug w fun d => { d with busy := true, running := some ⟨3, t, s.dbgGroup w, 3, 0, 0⟩ })).wakeGangs :=
  (dbgTarget_group hteam hbusy hgroup _).trans
    ((if_neg (by simp only [h, Bool.not_true, Bool.and_false, Bool.false_eq_true, not_false_eq_true])).trans (if_pos hst))

end

end

/-! A halt of a lane (R218, R481) -/

section
variable {s : State} {t lit : Nat} (hlit : lit < (s.team t).lanes.length)
include hlit

/-- A lane that can be halted at once is HALTED where it stands. -/
theorem lane_debugHalt_boundary (hst : (s.lane t lit).st = .ready ∨ (s.lane t lit).st = .token ∨ (s.lane t lit).st = .join ∨
    (s.lane t lit).st = .converge) (hissued : (s.lane t lit).issued = false) : ∃ rep passJ, (s.debugHalt t lit).lane t lit =
      { s.lane t lit with st := .halted, haltFrom := (s.lane t lit).st, haltReq := false, stepReq := false, byDebug := true, code := 0,
                          rep := rep, passJ := passJ } := by
  have hboundary : ∃ rep, s.debugHalt t lit = ((s.leaveGang t lit).modLane t lit fun l =>
      { l with st := .halted, haltFrom := l.st, haltReq := false, stepReq := false, byDebug := true, code := 0, rep := rep }).checkJoin
        t (lit / (s.launchOf t).width) := by
    obtain h | h | h | h := hst <;> exact ⟨_, by simp only [debugHalt, h, hissued, Bool.false_eq_true, if_false]; rfl⟩
  obtain ⟨rep, heq⟩ := hboundary
  have hlane := lane_modLane_leaveGang hlit fun l =>
    { l with st := .halted, haltFrom := l.st, haltReq := false, stepReq := false, byDebug := true, code := 0, rep := rep }
  obtain ⟨p, hp⟩ := checkJoin_lane _ t (lit / (s.launchOf t).width) lit (show (State.lane _ t lit).st ≠ .join by rw [hlane]; simp)
  exact ⟨rep, p, by rw [heq, hp, hlane]⟩

theorem lane_debugHalt_waiting (hst : (s.lane t lit).st = .barrier ∨ (s.lane t lit).st = .mwait ∨ (s.lane t lit).st = .parked) :
    (s.debugHalt t lit).lane t lit = { s.lane t lit with haltReq := true } := by
  rw [← lane_modLane_self s t lit (fun l => { l with haltReq := true }) hlit]
  obtain h | h | h := hst <;> simp only [debugHalt, h]

/-- A lane whose step has been issued halts after it. -/
theorem lane_debugHalt_issued (hst : (s.lane t lit).st = .ready) (hissued : (s.lane t lit).issued = true) :
    (s.debugHalt t lit).lane t lit = { s.lane t lit with haltReq := true } := by
  rw [← lane_modLane_self s t lit (fun l => { l with haltReq := true }) hlit]
  simp only [debugHalt, hst, hissued, if_true]

end

/-! A resume of a lane (R482) -/

/-- A HALTED lane that goes on at once: READY, and with a step to run where a STEP resumes it. -/
def resumedLane (s : State) (l : Lane) (step : Bool) : Lane :=
  { l with st := if l.haltFrom = .join then .join else .ready, readyAt := s.cycle, byDebug := false, haltReq := step, stepReq := step,
           code := 0 }

section
variable {s : State} {t lit : Nat} (step : Bool) (hst : (s.lane t lit).st = .halted)
include hst

theorem resumeLane_elsewhere (hcode : (s.lane t lit).code = 0x0E)
    (hpc : (s.world (s.launchOf t).world).dbg.dispPc.toNat ≠ (s.lane t lit).pc) :
    s.resumeLane t lit step = s.dbgErr (s.launchOf t).world := by
  unfold resumeLane
  dsimp only
  rw [if_neg (not_not_intro hst), if_pos (by simp [hcode, hpc])]

variable (hlit : lit < (s.team t).lanes.length)
include hlit

/-- A lane that no BRK halted goes on from where it stood, a TRAP's from the next clause header. -/
theorem lane_resumeLane (hcode : (s.lane t lit).code ≠ 0x0E) (hfrom : (s.lane t lit).haltFrom = .ready) :
    (s.resumeLane t lit step).lane t lit =
      match (s.lane t lit).code with
      | 0x0C => { s.resumedLane (s.lane t lit) step with
          pc := s.clauseEnd t (s.lane t lit), inClause := false, rep := none, tcode := 0, after := none, since := s.cycle }
      | 0x0E => { s.resumedLane (s.lane t lit) step with displaced := true }
      | 0x0F => { s.resumedLane (s.lane t lit) step with skipWatch := true }
      | _ => s.resumedLane (s.lane t lit) step := by
  have hready : (s.resumedLane (s.lane t lit) step).st = .ready := by simp [resumedLane, hfrom]
  unfold resumeLane
  dsimp only
  rw [if_neg (not_not_intro hst), if_neg (by simp [hcode]), lane_modLane_self _ _ _ _ hlit]
  exact if_neg (not_not_intro hready)

theorem lane_resumeLane_stood (hcode : (s.lane t lit).code = 0) (hfrom : (s.lane t lit).haltFrom = .ready) :
    (s.resumeLane t lit step).lane t lit =
      { s.lane t lit with st := .ready, readyAt := s.cycle, byDebug := false, haltReq := step, stepReq := step, code := 0 } := by
  rw [lane_resumeLane step hst hlit (by simp [hcode]) hfrom, hcode]
  simp [resumedLane, hfrom]

theorem lane_resumeLane_trap (hcode : (s.lane t lit).code = 0x0C) (hfrom : (s.lane t lit).haltFrom = .ready) :
    ((s.resumeLane t lit step).lane t lit).st = .ready ∧
      ((s.resumeLane t lit step).lane t lit).pc = s.clauseEnd t (s.lane t lit) := by
  rw [lane_resumeLane step hst hlit (by simp [hcode]) hfrom, hcode]
  simp [resumedLane, hfrom]

end

theorem clauseEnd_after {l : Lane} {pc : Nat} (h : l.after = some pc) (s : State) (t : Nat) : s.clauseEnd t l = pc := by
  simp only [clauseEnd, h]

end State

section
variable (w : Nat) (s : State)

theorem exec_haltGroup : exec (.haltGroup w) s = .next (s.dbgHalt w false) := rfl
theorem exec_resumeGroup : exec (.resumeGroup w) s = .next (s.dbgResume w false) := rfl
theorem exec_stepGroup : exec (.stepGroup w) s = .next (s.dbgStep w) := rfl
theorem exec_haltTeam : exec (.haltTeam w) s = .next (s.dbgHalt w true) := rfl
theorem exec_resumeTeam : exec (.resumeTeam w) s = .next (s.dbgResume w true) := rfl

end

/-- Settles O54: each clause is the lemma above about the command's target or about the lane that halts or goes on. -/
theorem debugCommands : Obligations.DebugCommands := by
  unfold Obligations.DebugCommands
  refine ⟨fun s w h => ?refused, fun s w => ⟨s.dbg_dbgErr w, s.sameMemory_dbgErr w⟩, fun s w t hteam hbusy hgroup => ?group,
    fun s w t hteam hbusy hst => ?team, fun s w rs => ⟨s.held_dbgDue w rs, s.due_dbgDue w rs⟩,
    fun s t lit hlit hst hissued => ?halted, fun s t lit hlit hst => State.lane_debugHalt_waiting hlit hst,
    fun s t lit step hlit hst hcode hfrom => State.lane_resumeLane_stood step hst hlit hcode hfrom,
    fun s t lit step hlit hst hcode hfrom => State.lane_resumeLane_trap step hst hlit hcode hfrom,
    fun s t l pc h => State.clauseEnd_after h s t, fun s t lit hlit hst hissued => State.lane_debugHalt_issued hlit hst hissued,
    fun s t lit step hst hcode hpc => State.resumeLane_elsewhere step hst hcode hpc⟩
  case refused =>
    have hrefused := State.dbgTarget_refused h
    exact ⟨congrArg _ (hrefused _ _), congrArg _ (hrefused _ _), congrArg _ (hrefused _ _), congrArg _ (hrefused _ _),
      congrArg _ (hrefused _ _)⟩
  case group =>
    exact ⟨congrArg _ (State.dbgHalt_group hteam hbusy hgroup), fun hst => congrArg _ (State.dbgResume_group hteam hbusy hgroup hst),
      fun hst h => congrArg _ (State.dbgStep_starts hteam hbusy hgroup hst h),
      fun hst h => congrArg _ (State.dbgStep_runs hteam hbusy hgroup hst h)⟩
  case team =>
    exact ⟨congrArg _ (State.dbgHalt_team hteam hbusy), congrArg _ (State.dbgResume_team hteam hbusy hst)⟩
  case halted =>
    obtain ⟨rep, passJ, hlane⟩ := State.lane_debugHalt_boundary hlit hst hissued
    rw [hlane]
    exact ⟨rfl, rfl, rfl, rfl⟩

end Sys2Proof.Machine
end

section
/-! The debug block's registers (R480, R481, R485, R486): the mailbox and its report, DBG_STAT, DBG_RDATA, the watchpoints and
DBG_CMD. -/

namespace Sys2Proof.Machine

namespace State

/-! The mailbox (R481) -/

section
variable {s : State} {w : Nat} (hstops : (s.world w).dbg.stops = []) (hrunning : (s.world w).dbg.running = none)
include hstops hrunning

/-- Where no stop waits and no STEP runs, only what is held can be reported. -/
theorem dbgReportNow_eq : s.dbgReportNow w =
    match (s.world w).dbg.held with
    | r :: rest => if (s.world w).dbg.new then s else (s.modDebug w fun d => { d with held := rest }).fillMailbox w r
    | [] => s := by
  have hsettled : (s.settleStops w).settleStep w = s := by
    have hnone : s.settleStops w = s := by simp only [settleStops, hstops, List.filter_nil, List.foldl_nil]
    rw [hnone]
    simp only [settleStep, hrunning]
  simp only [dbgReportNow, hsettled] <;> rfl

theorem dbgReportNow_waits (h : (s.world w).dbg.held = [] ∨ (s.world w).dbg.new = true) : s.dbgReportNow w = s := by
  rw [dbgReportNow_eq hstops hrunning]
  cases hheld : (s.world w).dbg.held with
  | nil => rfl
  | cons r rest => exact if_pos (h.resolve_left (by simp [hheld]))

theorem dbgReportNow_writes {r : Report} {rest : List Report} (hheld : (s.world w).dbg.held = r :: rest)
    (hnew : (s.world w).dbg.new = false) : s.dbgReportNow w = (s.modDebug w fun d => { d with held := rest }).fillMailbox w r := by
  rw [dbgReportNow_eq hstops hrunning, hheld]
  exact if_neg (by simp [hnew])

end

/-- A filled mailbox shows NEW and the next MSEQ; nothing else of the block but the mailbox differs. -/
theorem fillMailbox_eq (s : State) (w : Nat) (r : Report) :
    ∃ box : Debug → SMap (BitVec 64), s.fillMailbox w r = s.modDebug w fun d => { d with mbox := box d, mseq := d.mseq + 1, new := true } := by
  unfold fillMailbox
  exact ⟨_, rfl⟩

theorem fillMailbox_fields (s : State) (w : Nat) (r : Report) :
    ((s.fillMailbox w r).world w).dbg.new = true ∧ ((s.fillMailbox w r).world w).dbg.mseq = (s.world w).dbg.mseq + 1 ∧
      ((s.fillMailbox w r).world w).dbg.held = (s.world w).dbg.held ∧ SameMemory s (s.fillMailbox w r) := by
  obtain ⟨box, h⟩ := s.fillMailbox_eq w r
  rw [h, dbg_modDebug]
  exact ⟨rfl, rfl, rfl, sameMemory_of_bytesOf fun sp => bytesOf_modDebug s w _ sp⟩

/-! DBG_STAT (R480) -/

theorem dbg_dbgStatPut (s : State) (w : Nat) (v : BitVec 64) : ((s.dbgStatPut w v).world w).dbg =
    { (s.world w).dbg with new := (s.world w).dbg.new && !v.getLsbD 0, err := (s.world w).dbg.err && !v.getLsbD 2 } := by
  rw [dbgStatPut, world_pushOnce, dbg_modDebug]

theorem sameMemory_dbgStatPut (s : State) (w : Nat) (v : BitVec 64) : SameMemory s (s.dbgStatPut w v) :=
  sameMemory_of_bytesOf fun sp => (bytesOf_pushOnce _ _ sp).trans (bytesOf_modDebug s w _ sp)

/-! DBG_RDATA (R486) -/

/-- The operand that DBG_RSEL names is of a HALTED lane of its team. -/
theorem dbgOperand_halted {s : State} {w t lit : Nat} {o : Opd} (h : s.dbgOperand w = some (t, lit, o)) :
    (s.lane t lit).st = .halted ∧ lit < (s.team t).lanes.length := by
  unfold dbgOperand at h
  dsimp only at h
  split at h
  · cases h
  · next t' _ =>
    split at h
    · cases h
    · next hlane =>
      have hnamed : t' = t ∧ bits (s.world w).dbg.rsel.toNat 47 32 = lit := by
        split at h
        · split at h
          · cases h; exact ⟨rfl, rfl⟩
          · cases h
        · split at h
          · cases h; exact ⟨rfl, rfl⟩
          · cases h
      obtain ⟨rfl, rfl⟩ := hnamed
      simpa using hlane

section
variable {s : State} {w t lit : Nat} {o : Opd} (h : s.dbgOperand w = some (t, lit, o))
include h

theorem dbgDataGet_operand : s.dbgDataGet w = (s.operand (.lane t lit) (s.lane t lit) false o 1, s) := by
  simp only [dbgDataGet, h]

omit h in
/-- A team without bad registers has none to clean. -/
theorem cleanRegs_clean (hbad : (s.team t).bad = []) (n : Nat) : cleanRegs s (.lane t lit) o n = s := by
  cases o with
  | reg k => exact if_pos (by simp [hbad])
  | special k => rfl
  | latch k => rfl

theorem dbgDataPut_operand (hprot : (s.launchOf t).prot = false) (hbad : (s.team t).bad = []) (v : Nat) :
    s.dbgDataPut w v = s.modLane t lit fun l => l.writeOpd false o 1 (v % 2 ^ 32) := by
  simp only [dbgDataPut, h, cleanRegs_clean hbad, hprot, Bool.false_eq_true, if_false]

end

section
variable {s : State} {w : Nat} (h : s.dbgOperand w = none)
include h

theorem dbgDataGet_refused : s.dbgDataGet w = (0, s.dbgErr w) := by
  simp only [dbgDataGet, h]

theorem dbgDataPut_refused (v : Nat) : s.dbgDataPut w v = s.dbgErr w := by
  simp only [dbgDataPut, h]

end

/-! Watchpoints (R485) -/

/-- A watchpoint's word as it is stored: its reserved bit reads 0. -/
def wpWord (v : BitVec 64) : BitVec 64 := v &&& ~~~(1#64 <<< 52)

theorem kind_wpWord (v : BitVec 64) : (wpWord v).extractLsb' 61 2 = v.extractLsb' 61 2 := by
  ext i hi
  obtain rfl | rfl : i = 0 ∨ i = 1 := by omega
  · simp [wpWord]
  · simp [wpWord]

theorem wpWord_of_clear {v : BitVec 64} (h : v.getLsbD 52 = false) : wpWord v = v := by
  refine BitVec.eq_of_getLsbD_eq fun i hi => ?_
  rw [wpWord, BitVec.getLsbD_and, BitVec.getLsbD_not, BitVec.getLsbD_shiftLeft, BitVec.getLsbD_one]
  obtain hlow | rfl | hhigh := Nat.lt_trichotomy i 52
  · simp only [hi, hlow, decide_true, Bool.not_true, Bool.and_false, Bool.false_and, Bool.not_false, Bool.and_true]
  · simp only [h, Bool.false_and]
  · have hne : i - 52 ≠ 0 := by omega
    simp only [hi, hne, decide_true, decide_false, Bool.and_false, Bool.not_false, Bool.and_true]

section
variable (s : State) (w n : Nat) {v : BitVec 64}

theorem dbgWpPut_kind3 (h : v.extractLsb' 61 2 = 3#2) :
    s.dbgWpPut w n v = (s.dbgErr w).modDebug w fun d => { d with wp := d.wp.put 0 n (wpWord v &&& ~~~(1#64 <<< 63)) } :=
  if_pos ((kind_wpWord v).trans h)

theorem dbgWpPut_stores (h : v.extractLsb' 61 2 ≠ 3#2) :
    s.dbgWpPut w n v = s.modDebug w fun d => { d with wp := d.wp.put 0 n (wpWord v) } :=
  if_neg fun hk => h ((kind_wpWord v).symm.trans hk)

end

/-! DBG_CMD (R480) -/

/-- An operation that is none of the five sets ERR. -/
theorem dbgCommand_unknown {v : BitVec 64} (h : 5 < bits v.toNat 7 0 ∨ bits v.toNat 7 0 = 0) (s : State) (w : Nat) :
    s.dbgCommand w v = (s.modDebug w fun d => { d with cmd := v &&& 0xFF }).dbgErr w := by
  unfold dbgCommand
  dsimp only
  split
  · omega
  · omega
  · omega
  · omega
  · omega
  · rfl

end State

section
variable (w : Nat) (s : State)

theorem exec_dbgReport : exec (.dbgReport w) s = .next (s.dbgReportNow w) := rfl
theorem exec_dbgStatWrite (v : BitVec 64) : exec (.dbgStatWrite w v) s = .next (s.dbgStatPut w v) := rfl
theorem exec_dbgRdataRead :
    exec (.dbgRdataRead w) s = .next ((s.dbgDataGet w).2.send (.reply 0 (leBytes 8 (s.dbgDataGet w).1))) := rfl
theorem exec_dbgRdataWrite (v : BitVec 64) : exec (.dbgRdataWrite w v) s = .next (s.dbgDataPut w v.toNat) := rfl
theorem exec_dbgWpWrite {n : Nat} (h : n < 4) (v : BitVec 64) : exec (.dbgWpWrite w n v) s = .next (s.dbgWpPut w n v) := if_pos h

end

/-- Settles O55: each clause is the lemma above about its register. -/
theorem debugRegisters : Obligations.DebugRegisters := by
  unfold Obligations.DebugRegisters
  refine ⟨fun s w r rest hstops hrunning hheld hnew => ?reports, fun s w hstops hrunning h => ?waits, fun s w v => ?stat,
    fun s w t lit o h => ⟨?read, (State.dbgOperand_halted h).1⟩, fun s w v t lit o h hprot hbad => ?written,
    fun s w v h => ⟨?refusedRead, ?refusedWrite⟩,
    fun s w n v hn hkind => ?kind3, fun s w n v hn hkind hreserved => ?stores, fun s w v h => ?unknown⟩
  case reports =>
    obtain ⟨hnew', hseq, hheld', hmem⟩ := (s.modDebug w fun d => { d with held := rest }).fillMailbox_fields w r
    rw [State.dbg_modDebug] at hseq hheld'
    refine ⟨_, (exec_dbgReport w s).trans (congrArg _ (State.dbgReportNow_writes hstops hrunning hheld hnew)), hnew', hseq, hheld', ?_⟩
    exact fun sp k => (hmem sp k).trans (sameMemory_of_bytesOf (fun sp => State.bytesOf_modDebug s w _ sp) sp k)
  case waits => rw [exec_dbgReport, State.dbgReportNow_waits hstops hrunning h]
  case stat =>
    refine ⟨_, exec_dbgStatWrite w s v, ?_⟩
    dsimp only
    rw [State.dbg_dbgStatPut]
    exact ⟨rfl, rfl, rfl, s.sameMemory_dbgStatPut w v⟩
  case read => rw [exec_dbgRdataRead, State.dbgDataGet_operand h]
  case written =>
    obtain ⟨-, hlit⟩ := State.dbgOperand_halted h
    refine ⟨_, (exec_dbgRdataWrite w s v).trans (congrArg _ (State.dbgDataPut_operand h hprot hbad _)), ?_⟩
    exact ⟨State.lane_modLane_self s t lit _ hlit, fun j hj => State.lane_modLane_ne s t lit j _ hj,
      sameMemory_of_bytesOf fun sp => State.bytesOf_modLaneOf s (.lane t lit) _ sp⟩
  case refusedRead => rw [exec_dbgRdataRead, State.dbgDataGet_refused h]
  case refusedWrite => rw [exec_dbgRdataWrite, State.dbgDataPut_refused h]
  case kind3 =>
    refine ⟨_, (exec_dbgWpWrite w s hn v).trans (congrArg _ (s.dbgWpPut_kind3 w n hkind)), ?_⟩
    dsimp only
    rw [State.dbg_modDebug, State.dbg_dbgErr, SMap.get_put_self]
    exact ⟨rfl, by simp⟩
  case stores =>
    refine ⟨_, (exec_dbgWpWrite w s hn v).trans (congrArg _ (s.dbgWpPut_stores w n hkind)), ?_⟩
    dsimp only
    rw [State.dbg_modDebug, SMap.get_put_self]
    exact ⟨State.wpWord_of_clear hreserved, rfl⟩
  case unknown => rw [State.dbgCommand_unknown h, State.dbg_dbgErr, State.dbg_modDebug]

end Sys2Proof.Machine
end

section
/-! The sequencer's control (R380, R396 to R400): its integer instructions and branches, walks, arrivals and waits, and its exit. -/

namespace Sys2Proof.Machine

/-! One-word and two-word forms -/

section
variable {i : F1 → Instr} {j : F2 → Instr} {P : SeqEnv → State → Prop} {Q : SeqEnv → State → State × Res}
  {fn : SeqEnv → State → State × Res} (he : ∀ f s, Machine.exec (i f) s = runSeq (issueOp (i f)) s fn)
  (he' : ∀ f s, Machine.exec (j f) s = runSeq (issueOp (j f)) s fn)
include he he'

theorem seqCompletesBoth_of (hq : ∀ v s, P v s → fn v s = Q v s ∧ (Q v s).2.retires = true) : SeqCompletesBoth i j P Q :=
  ⟨fun f => seqCompletes_of (fun s _ _ => he f s) fun _ _ _ _ hp => hq _ _ hp,
   fun f => seqCompletes_of (fun s _ _ => he' f s) fun _ _ _ _ hp => hq _ _ hp⟩

end

/-! The integer subset and the branches (R399, R400) -/

/-- What an integer instruction of the sequencer does: it puts a value of its operands into D. -/
def seqAlu (g : BitVec 8 → Nat → Nat → Nat) (v : SeqEnv) (s : State) : State × Res := (s, .value (g v.f.m v.a v.b))

/-- The integer instructions of the sequencer and their values are those of R227 and R399. -/
theorem exec_seqAlu {i : F1 → Instr} {j : F2 → Instr} {g : BitVec 8 → Nat → Nat → Nat}
    (h : (i = .seqIadd ∧ j = .seqIaddW2 ∧ g = aluIadd) ∨ (i = .seqIsub ∧ j = .seqIsubW2 ∧ g = aluIsub) ∨
      (i = .seqImul ∧ j = .seqImulW2 ∧ g = aluImul) ∨ (i = .seqImin ∧ j = .seqIminW2 ∧ g = aluImin) ∨
      (i = .seqImax ∧ j = .seqImaxW2 ∧ g = aluImax) ∨
      (i = .seqAnd ∧ j = .seqAndW2 ∧ g = fun _ a b => a &&& b) ∨ (i = .seqOr ∧ j = .seqOrW2 ∧ g = fun _ a b => a ||| b) ∨
      (i = .seqXor ∧ j = .seqXorW2 ∧ g = fun _ a b => a ^^^ b) ∨
      (i = .seqShl ∧ j = .seqShlW2 ∧ g = fun m a b => aluShl 32 (m.getLsbD 0) a b) ∨
      (i = .seqShr ∧ j = .seqShrW2 ∧ g = fun m a b => aluShr 32 (m.getLsbD 0) a b) ∨
      (i = .seqMov ∧ j = .seqMovW2 ∧ g = fun _ a _ => a)) :
    (∀ f s, Machine.exec (i f) s = runSeq (issueOp (i f)) s (seqAlu g)) ∧
      ∀ f s, Machine.exec (j f) s = runSeq (issueOp (j f)) s (seqAlu g) := by
  obtain ⟨rfl, rfl, rfl⟩ | ⟨rfl, rfl, rfl⟩ | ⟨rfl, rfl, rfl⟩ | ⟨rfl, rfl, rfl⟩ | ⟨rfl, rfl, rfl⟩ | ⟨rfl, rfl, rfl⟩ | ⟨rfl, rfl, rfl⟩ |
    ⟨rfl, rfl, rfl⟩ | ⟨rfl, rfl, rfl⟩ | ⟨rfl, rfl, rfl⟩ | ⟨rfl, rfl, rfl⟩ := h <;>
  exact ⟨fun _ _ => rfl, fun _ _ => rfl⟩

/-- What a branch of the sequencer does: it goes to header plus byte offset where its condition holds. -/
def seqBranch (c : Nat → Nat → Bool) (off : BitVec 32) (v : SeqEnv) (s : State) : State × Res :=
  (s, .jump (if c v.a v.b then target32 v.hdr off else v.next))

theorem exec_seqBranch {i : Opd → Opd → BitVec 32 → Instr} {c : Nat → Nat → Bool}
    (h : (i = .seqBeq ∧ c = fun x y => x == y) ∨ (i = .seqBne ∧ c = fun x y => x != y) ∨
      (i = .seqBlt ∧ c = fun x y => decide (sext 32 x < sext 32 y)) ∨ (i = .seqBge ∧ c = fun x y => decide (sext 32 y ≤ sext 32 x)))
    (a b : Opd) (off : BitVec 32) (s : State) :
    Machine.exec (i a b off) s = runSeq (issueOp (i a b off)) s (seqBranch c off) := by
  obtain ⟨rfl, rfl⟩ | ⟨rfl, rfl⟩ | ⟨rfl, rfl⟩ | ⟨rfl, rfl⟩ := h <;> rfl

/-! Walks (R380, R396) -/

/-- The walk that WALK opens with the extents of A and B, its tuples in the registers from n on. -/
def SeqEnv.walkFrom (v : SeqEnv) (s : State) (n : Nat) : Walk :=
  { e0 := bits v.a 27 16 + 1, e1 := bits v.a 11 0 + 1, e2 := bits v.b 11 0 + 1, d := n,
    order := v.f.m.getLsbD 0 || (s.launchOf v.t).ordered, body := v.next, visited := [], current := 0 }

theorem seqWalk_opens {v : SeqEnv} {s : State} {n : Fin 240} (hd : v.f.d = .reg n) (hn : n.val ≤ 29) (ha : v.a < 2 ^ 28)
    (hgap : bits v.a 15 12 = 0) (hb : v.b < 2 ^ 12) (hnone : (s.seqOf v.t).walk = none)
    (hsize : (bits v.a 27 16 + 1) * (bits v.a 11 0 + 1) * (bits v.b 11 0 + 1) ≤ 4096) :
    seqWalk v s = ((s.nextTuple (v.walkFrom s n.val)).2.modSeq v.t fun q =>
        q.setTuple (v.walkFrom s n.val) (s.nextTuple (v.walkFrom s n.val)).1,
      .value ((v.walkFrom s n.val).tuple (s.nextTuple (v.walkFrom s n.val)).1).1) := by
  have hok : ¬ (decide (2 ^ 28 ≤ v.a) || decide (bits v.a 15 12 ≠ 0) || decide (2 ^ 12 ≤ v.b) || (s.seqOf v.t).walk.isSome ||
      decide (29 < n.val) || decide (4096 < (v.walkFrom s n.val).size)) = true := by
    have hsize' : ¬ 4096 < (v.walkFrom s n.val).size := Nat.not_lt.mpr hsize
    simp only [decide_eq_false (Nat.not_le.mpr ha), hgap, decide_eq_false (Nat.not_le.mpr hb), hnone,
      decide_eq_false (Nat.not_lt.mpr hn), decide_eq_false hsize', ne_eq, not_true_eq_false, decide_false, Option.isSome_none,
      Bool.or_false, Bool.false_eq_true, not_false_eq_true]
  unfold seqWalk
  rw [hd]
  exact if_neg hok

/-- In row-major order the walker chooses nothing. -/
theorem nextTuple_ordered {w : Walk} (h : w.order = true) (s : State) : (s.nextTuple w).2 = s := by
  simp only [State.nextTuple, h, if_true]

/-- The tuple of a row-major index. -/
theorem tuple_rowMajor {w : Walk} {y z : Nat} (hy : y < w.e1) (hz : z < w.e2) (x : Nat) :
    w.tuple (x * (w.e1 * w.e2) + y * w.e2 + z) = (x, y, z) := by
  have hpos : 0 < w.e2 := Nat.zero_lt_of_lt hz
  have hrow : x * (w.e1 * w.e2) + y * w.e2 + z = w.e2 * (w.e1 * x + y) + z := by ring
  have hx : (w.e2 * (w.e1 * x + y) + z) / w.e2 = w.e1 * x + y := by
    rw [Nat.mul_add_div hpos, Nat.div_eq_of_lt hz, Nat.add_zero]
  unfold Walk.tuple
  rw [hrow, Nat.mul_comm w.e1 w.e2, ← Nat.div_div_eq_div_mul, hx, Nat.mul_add_div (Nat.zero_lt_of_lt hy), Nat.div_eq_of_lt hy,
    Nat.mul_add_mod, Nat.mod_eq_of_lt hy, Nat.mul_add_mod, Nat.mod_eq_of_lt hz, Nat.add_zero]

section
variable {v : SeqEnv} {s : State} {w : Walk} (hwalk : (s.seqOf v.t).walk = some w) (hnew : w.current ∉ w.visited)
include hwalk hnew

theorem seqEndwalk_ends (hlast : w.visited.length + 1 = w.size) :
    seqEndwalk v s = (s.modSeq v.t fun q => { q with walk := none }, .done) := by
  have hlen : (w.visited ++ [w.current]).length = w.size := by simpa using hlast
  simp only [seqEndwalk, hwalk, List.contains_eq_mem, hnew, decide_false, Bool.false_eq_true, if_false]
  exact if_pos hlen

theorem seqEndwalk_goesOn (hmore : w.visited.length + 1 ≠ w.size) :
    seqEndwalk v s =
      ((s.nextTuple { w with visited := w.visited ++ [w.current] }).2.modSeq v.t fun q =>
        q.setTuple { w with visited := w.visited ++ [w.current] } (s.nextTuple { w with visited := w.visited ++ [w.current] }).1,
       .jump w.body) := by
  have hlen : ¬ (w.visited ++ [w.current]).length = w.size := by simpa using hmore
  simp only [seqEndwalk, hwalk, List.contains_eq_mem, hnew, decide_false, Bool.false_eq_true, if_false]
  exact if_neg hlen

end

/-! Barriers, waits and exit (R398) -/

section
variable {v : SeqEnv} {s : State}

section
variable (ha : v.a < 16)
include ha

theorem seqArrive_arrives (hnew : (s.seqOf v.t).arrived.get 0 (2 + v.a) ≠ s.phase v.t (2 + v.a) + 1) :
    seqArrive v s = ((s.seqArrival v.t (2 + v.a)).checkBar v.t (2 + v.a), .done) := by
  refine if_neg ?_
  change ¬ (decide (16 ≤ v.a) || decide ((s.seqOf v.t).arrived.get 0 (2 + v.a) = s.phase v.t (2 + v.a) + 1)) = true
  simpa [ha] using hnew

/-- An AWAIT that has nothing to find complete waits in BARRIER, after its arrival unless it is recorded already. -/
theorem seqAwait_waits
    (h : (s.seqOf v.t).waits = true → (s.seqOf v.t).arrived.get 0 (2 + v.a) ≠ s.phase v.t (2 + v.a)) :
    seqAwait v s =
      (((if (s.seqOf v.t).waits = false ∧ (s.seqOf v.t).arrived.get 0 (2 + v.a) = s.phase v.t (2 + v.a)
          then s.seqArrival v.t (2 + v.a) else s).modSeq v.t fun q =>
        { q with st := .barrier, bar := 2 + v.a, barD := v.f.d, waits := false }).checkBar v.t (2 + v.a), .wait) := by
  have hwait : ¬ ((s.seqOf v.t).waits && (s.seqOf v.t).arrived.get 0 (2 + v.a) == s.phase v.t (2 + v.a)) = true := by
    simpa using h
  unfold seqAwait
  rw [show barNb v.a = 2 + v.a from rfl]
  dsimp only
  rw [if_neg (Nat.not_le.mpr ha), if_neg hwait]
  simp only [Bool.and_eq_true, Bool.not_eq_true', decide_eq_true_eq]

theorem seqAwait_complete (hwaits : (s.seqOf v.t).waits = true)
    (h : (s.seqOf v.t).arrived.get 0 (2 + v.a) = s.phase v.t (2 + v.a)) :
    seqAwait v s = (s.modSeq v.t fun q => { q with waits := false }, .value (s.phase v.t (2 + v.a))) := by
  unfold seqAwait
  simp only [barNb, if_neg (Nat.not_le.mpr ha), hwaits, h, beq_self_eq_true, Bool.and_self, if_true]

end

theorem wakeSeq_waiting {t x p : Nat} {cl : Clause} (hst : (s.seqOf t).st = .barrier) (hbar : (s.seqOf t).bar = x)
    (hclause : (s.seqOf t).clause = some cl) : s.wakeSeq t x p =
      seqAdvance (s.modSeq t fun q => { q.writeOpd q.barD 1 p with st := .running, dist := q.dist + 1 }) t (cl.advance 1 none) none := by
  simp only [State.wakeSeq, hst, hbar, hclause, decide_true, Bool.and_self, if_true]

theorem seqSwait_done (h : s.passesOf v.t = []) : seqSwait v s = (s, .done) := if_pos (List.isEmpty_iff.mpr h)

theorem seqSwait_waits (h : s.passesOf v.t ≠ []) : seqSwait v s = (s.modSeq v.t fun q => { q with st := .swait }, .wait) :=
  if_neg fun he => h (List.isEmpty_iff.mp he)

theorem seqExit_inWalk (h : (s.seqOf v.t).walk ≠ none) : seqExit v s = (s, .fault .illegal) := if_pos (Option.isSome_iff_ne_none.mpr h)

section
variable (hwalk : (s.seqOf v.t).walk = none)
include hwalk

theorem seqExit_exits (h : s.passesOf v.t = []) : seqExit v s =
    ((((s.modSeq v.t fun q => { q with st := .exited, held := [] }).checkBars v.t).checkRetire v.t).wakeGangs, .done) := by
  simp only [seqExit, hwalk, h, Option.isSome_none, List.isEmpty_nil, Bool.not_true, Bool.false_eq_true, if_false]

theorem seqExit_waits (h : s.passesOf v.t ≠ []) :
    seqExit v s = (s.modSeq v.t fun q => { q with st := .swait, exiting := true }, .wait) := by
  have hleft : (s.passesOf v.t).isEmpty = false := by simpa using h
  simp only [seqExit, hwalk, hleft, Option.isSome_none, Bool.not_false, Bool.false_eq_true, if_false, if_true]

end

end

/-- Settles O32: each clause is the lemma above about the meaning of its instruction. -/
theorem sequencerControl : Obligations.SequencerControl := by
  unfold Obligations.SequencerControl
  refine ⟨fun i j g h => ?alu, fun d imm => ?movi, fun d imm => ?moviWide, fun i c h a b off => ?branch, fun off => ?bra,
    fun off => ?braWide, fun n => ?walk, fun s w horder _ => nextTuple_ordered horder s, fun w x y z _ hy hz => tuple_rowMajor hy hz x,
    fun w => ?walkEnds, fun w => ?walkGoesOn, fun f => ?arrive, fun f => ?awaitWaits, fun f => ?awaitComplete,
    fun s t x p cl hst hbar hclause => wakeSeq_waiting hst hbar hclause, fun f => ?swait, fun f => ?swaitWaits, fun f => ?exit,
    fun f => ?exitWaits, fun f => ?exitInWalk⟩
  case alu =>
    obtain ⟨he, he'⟩ := exec_seqAlu h
    exact seqCompletesBoth_of he he' fun _ _ _ => ⟨rfl, rfl⟩
  case movi => exact seqCompletes_of (fn := fun _ s => (s, _)) (fun _ _ _ => rfl) fun _ _ _ _ _ => ⟨rfl, rfl⟩
  case moviWide => exact seqCompletes_of (fn := fun _ s => (s, _)) (fun _ _ _ => rfl) fun _ _ _ _ _ => ⟨rfl, rfl⟩
  case branch =>
    exact seqCompletes_of (fun s _ _ => exec_seqBranch h a b off s) fun _ _ _ _ _ => ⟨rfl, rfl⟩
  case bra => exact seqCompletes_of (fn := fun v s => (s, .jump (target24 v.hdr off))) (fun _ _ _ => rfl) fun _ _ _ _ _ => ⟨rfl, rfl⟩
  case braWide => exact seqCompletes_of (fn := fun v s => (s, .jump (target32 v.hdr off))) (fun _ _ _ => rfl) fun _ _ _ _ _ => ⟨rfl, rfl⟩
  case walk =>
    exact seqCompletesBoth_of (fn := seqWalk) (fun _ _ => rfl) (fun _ _ => rfl) fun _ _ ⟨hd, hn, ha, hgap, hb, hnone, hsize⟩ =>
      ⟨seqWalk_opens hd hn ha hgap hb hnone hsize, rfl⟩
  case walkEnds =>
    exact seqCompletesBoth_of (fn := seqEndwalk) (fun _ _ => rfl) (fun _ _ => rfl) fun _ _ ⟨hwalk, hnew, hlast⟩ =>
      ⟨seqEndwalk_ends hwalk hnew hlast, rfl⟩
  case walkGoesOn =>
    exact seqCompletesBoth_of (fn := seqEndwalk) (fun _ _ => rfl) (fun _ _ => rfl) fun _ _ ⟨hwalk, hnew, hmore⟩ =>
      ⟨seqEndwalk_goesOn hwalk hnew hmore, rfl⟩
  case arrive => exact seqCompletes_of (fn := seqArrive) (fun _ _ _ => rfl) fun _ _ _ _ ⟨ha, hnew⟩ => ⟨seqArrive_arrives ha hnew, rfl⟩
  case awaitWaits => exact seqWaits_of (fn := seqAwait) (fun _ _ _ => rfl) fun _ _ _ _ ⟨ha, h⟩ => seqAwait_waits ha h
  case awaitComplete =>
    exact seqCompletes_of (fn := seqAwait) (fun _ _ _ => rfl) fun _ _ _ _ ⟨ha, hwaits, h⟩ => ⟨seqAwait_complete ha hwaits h, rfl⟩
  case swait => exact seqCompletes_of (fn := seqSwait) (fun _ _ _ => rfl) fun _ _ _ _ h => ⟨seqSwait_done h, rfl⟩
  case swaitWaits => exact seqWaits_of (fn := seqSwait) (fun _ _ _ => rfl) fun _ _ _ _ h => seqSwait_waits h
  case exit => exact seqCompletes_of (fn := seqExit) (fun _ _ _ => rfl) fun _ _ _ _ ⟨h, hwalk⟩ => ⟨seqExit_exits hwalk h, rfl⟩
  case exitWaits => exact seqWaits_of (fn := seqExit) (fun _ _ _ => rfl) fun _ _ _ _ ⟨h, hwalk⟩ => seqExit_waits hwalk h
  case exitInWalk => exact seqFaults_of (fn := seqExit) (fun _ _ _ => rfl) fun _ _ _ _ h => congrArg Prod.snd (seqExit_inWalk h)

end Sys2Proof.Machine
end

section
/-! The tensor copy unit (R339 to R351, R360, R361): the issue of a command, TDSET, REPLAY, and the pieces that the unit carries
out. -/

namespace Sys2Proof.Machine

namespace State

/-! Tokens, and what a change of one leaves -/

theorem copies_setToken (s : State) (a : Agent) (k : Nat) (t : Token) : (s.setToken a k t).copies = s.copies := by
  cases a <;> rfl

theorem copies_pushOnce (s : State) (i : Instr) : (s.pushOnce i).copies = s.copies := by
  obtain ⟨d, hd⟩ := pushOnce_due s i
  rw [hd]

/-- A started command stands in the unit's table. -/
theorem look_startCopy (s : State) (x : Copy) : (s.startCopy x).copies.look s.nextCopy = some x := by
  simp only [startCopy, copies_pushOnce, copies_setToken, SMap.look_insert_self]

theorem sameMemory_startCopy (s : State) (x : Copy) : SameMemory s (s.startCopy x) := by
  refine sameMemory_of_bytesOf fun sp => (bytesOf_pushOnce _ _ sp).trans ((bytesOf_modLaneOf _ _ _ sp).trans ?_)
  cases sp <;> rfl

end State

/-! The issue of a command (R75, R339, R361) -/

/-- The command that an instruction names, before its descriptors are checked. -/
def copyNamed (op : Nat) (v : Env) (s : State) : Copy :=
  { quad := s.quadOf v.who, who := v.who, world := v.w, op := op, m := v.f.m, a := v.a, b := v.b, c := v.c,
    ds := s.dsOf v.who, token := mbits v.f.m 2 0, pieces := [], bytes := [] }

/-- A channel command takes the counter of its direction and the number of the channel's key (R360). -/
def copyNumbered (op : Nat) (ch : Channel) (x : Copy) : Copy :=
  { x with ctr := if op = 7 then ch.send else if op = 8 then ch.recv else 0, keyed := if op = 7 ∨ op = 8 then ch.keyCount else 0 }

/-- The issue of a command whose token was DONE acquires: the core's L1 goes (R75). -/
def copyAcquired (v : Env) (s : State) : State :=
  if (s.tokenOf v.who (mbits v.f.m 2 0)).st = .done then (match s.coreOf v.who with | some c => s.l1Flush c | none => s) else s

/-- The lane of a channel command has issued: of its gang the next one waits for the channel (R361). -/
def copyIssued (op : Nat) (v : Env) (s : State) : State :=
  match v.who with
  | .lane t lit => if op = 7 ∨ op = 8 then s.modLane t lit fun l => { l with issued := true } else s
  | _ => s

section
variable {op : Nat} {v : Env} {s s1 : State}

section
variable (hfaulted : (s.tokenOf v.who (mbits v.f.m 2 0)).st = .faulted)
include hfaulted

theorem copyReady_faulted : copyReady op v s = (s, true) := by
  simp [copyReady, hfaulted]

theorem laneCopy_faulted (hpair : v.mismatch = false) : laneCopy op v s = (s, .fault .illegal) := by
  simp only [laneCopy, hpair, hfaulted, Bool.false_eq_true, if_false, if_true]

end

theorem copyReady_pending (h : (s.tokenOf v.who (mbits v.f.m 2 0)).st = .pending) :
    copyReady op v s = (s.modLaneOf v.who fun l => { l with st := .token }, false) := by
  simp only [copyReady, h, if_true]
  rfl

section
variable (hfaulted : (s.tokenOf v.who (mbits v.f.m 2 0)).st ≠ .faulted)
include hfaulted

theorem copyReady_room (hpending : (s.tokenOf v.who (mbits v.f.m 2 0)).st ≠ .pending)
    (hload : s.unitLoad (s.quadOf v.who) + gangSize s ≤ 512) (hfree : op = 7 ∨ op = 8 → s.channelBusy v.w (bits v.c 25 24) op = false) :
    copyReady op v s = (s, true) := by
  have hchannel : ¬ ((op == 7 || op == 8) && s.channelBusy v.w (bits v.c 25 24) op) = true := by
    simpa using hfree
  simp only [copyReady, if_neg hpending, if_neg hfaulted, if_neg hchannel, decide_eq_true hload]

theorem laneCopy_issues {x : Copy} (hpair : v.mismatch = false) (hcheck : s.checkCopy (copyNamed op v s) = .ok x)
    (hfree : op = 7 ∨ op = 8 → s.channelBusy v.w x.channel op = false) (hplain : s.stages v.who = false)
    (htile : (if x.ro then s.addTile x else .ok s) = .ok s1) (hplain' : s1.stages v.who = false) :
    laneCopy op v s =
      (copyIssued op v ((copyAcquired v s1).startCopy (copyNumbered op ((s1.world v.w).channels.get {} x.channel) x)), .done) := by
  have hchannel : ¬ ((decide (op = 7) || decide (op = 8)) && s.channelBusy v.w x.channel op) = true := by
    simpa using hfree
  unfold copyNamed at hcheck
  simp only [laneCopy, hpair, if_neg hfaulted, hcheck, if_neg hchannel, hplain, htile, hplain', Bool.false_eq_true, if_false,
    copyIssued, copyNumbered, copyAcquired, Bool.or_eq_true, decide_eq_true_eq] <;> rfl

end

end

/-- The instructions that issue a command, by its number. -/
theorem exec_copyCommand {op : Nat} {i : F1 → Instr} {j : F2 → Instr}
    (h : (op = 1 ∧ i = .copy ∧ j = .copyW2) ∨ (op = 2 ∧ i = .copyw ∧ j = .copywW2) ∨ (op = 3 ∧ i = .gather ∧ j = .gatherW2) ∨
      (op = 4 ∧ i = .scatter ∧ j = .scatterW2) ∨ (op = 5 ∧ i = .combine ∧ j = .combineW2) ∨
      (op = 7 ∧ i = .chsend ∧ j = .chsendW2) ∨ (op = 8 ∧ i = .chrecv ∧ j = .chrecvW2)) :
    (∀ f s, Machine.exec (i f) s = runLanes (issueOp (i f)) s (fun _ => laneCopy op) (copyReady op)) ∧
      ∀ f s, Machine.exec (j f) s = runLanes (issueOp (j f)) s (fun _ => laneCopy op) (copyReady op) := by
  obtain ⟨rfl, rfl, rfl⟩ | ⟨rfl, rfl, rfl⟩ | ⟨rfl, rfl, rfl⟩ | ⟨rfl, rfl, rfl⟩ | ⟨rfl, rfl, rfl⟩ | ⟨rfl, rfl, rfl⟩ | ⟨rfl, rfl, rfl⟩ := h <;>
  exact ⟨fun _ _ => rfl, fun _ _ => rfl⟩

/-! TDSET and REPLAY (R348, R351) -/

theorem laneTdset_lane {v : Env} {t lit : Nat} (hpair : v.mismatch = false) (hb : v.b < 8) (hwho : v.who = .lane t lit) (s : State) :
    laneTdset v s = (s.modTeam t fun y => { y with groups := y.groups.mapIdx fun k g =>
      if k = lit / v.width then { g with ds := g.ds.put 0 v.b (BitVec.ofNat 64 v.a) } else g }, .done) := by
  simp only [laneTdset, hpair, if_neg (Nat.not_le.mpr hb), hwho, Bool.false_eq_true, if_false]

/-- A REPLAY waits for room in the unit, unless it abandons the command. -/
def replayReady (v : Env) (s : State) : State × Bool := (s, v.f.m.getLsbD 6 || s.unitLoad (s.quadOf v.who) + gangSize s ≤ 512)

theorem exec_replay (f : F1) (s : State) : Machine.exec (.replay f) s = runLanes (issueOp (.replay f)) s (fun _ => laneReplay) replayReady := rfl
theorem exec_replayW2 (f : F2) (s : State) :
    Machine.exec (.replayW2 f) s = runLanes (issueOp (.replayW2 f)) s (fun _ => laneReplay) replayReady := rfl

section
variable {v : Env} {s : State} {c : Nat} {x : Copy} (hfaulted : (s.tokenOf v.who (mbits v.f.m 2 0)).st = .faulted)
  (hfound : s.copies.find? (fun (_, x) => x.who == v.who && x.token == mbits v.f.m 2 0 && !x.pending) = some (c, x))
include hfaulted hfound

theorem laneReplay_reissues (hmode : v.f.m.getLsbD 6 = false) :
    laneReplay v s =
      (((s.setToken v.who (mbits v.f.m 2 0) { s.tokenOf v.who (mbits v.f.m 2 0) with st := .pending }).modCopy c fun x =>
        { x with pending := true, reported := [], pieces := x.pieces.map fun p => if p = .missing then .todo else p }).nextPiece c, .done) := by
  simp only [laneReplay, hfaulted, hfound, hmode, ne_eq, not_true_eq_false, Bool.false_eq_true, if_false, Option.map_some]

theorem laneReplay_abandons (hmode : v.f.m.getLsbD 6 = true) (hlook : s.copies.look c = some x) (hop : x.op ≠ 7) :
    laneReplay v s =
      (let s1 := s.setToken v.who (mbits v.f.m 2 0) { s.tokenOf v.who (mbits v.f.m 2 0) with st := .idle }
       let s2 := ({ s1 with copies := s1.copies.erase c }).wakeGangs
       (if x.op = 8 then s2.wakeStalled x.world else s2, .done)) := by
  simp only [laneReplay, hfaulted, hfound, hmode, ne_eq, not_true_eq_false, if_false, if_true, Option.map_some, Option.bind_some,
    State.copies_setToken, hlook, hop, decide_false, Bool.false_or, Bool.false_and, Bool.false_eq_true, decide_eq_true_eq]

end

namespace State

/-! The pieces (R340, R341) -/

section
variable {s : State} {c i : Nat} {x : Copy} (hlook : s.copies.look c = some x)
include hlook

theorem pieceDone_eq : s.pieceDone c i =
    ((((s.dropWalks c i).setToken x.who x.token { (s.dropWalks c i).tokenOf x.who x.token with
      count := (((s.dropWalks c i).tokenOf x.who x.token).count + x.bytes.getD i 0) % 2 ^ 32 }).meter x.world 7
        (if x.op = 5 then 0 else x.bytes.getD i 0)).modCopy c fun x => { x with pieces := x.pieces.set i .done }).nextPiece c := by
  have hlook' : (s.dropWalks c i).copies.look c = some x := hlook
  simp only [pieceDone, hlook']

variable (hpending : x.pending = true) (hfirst : x.pieces.findIdx? (· == .todo) = some i) (htodo : x.pieces[i]? = some .todo)
  (hheld : s.copyHeld x = false) (hside : progSide x = false) (hop : x.op = 1 ∨ x.op = 2 ∨ x.op = 3 ∨ x.op = 4)
include hpending hfirst htodo hheld hside hop

/-- The unit issues the first piece of a transfer that is due. -/
theorem pieceEvent_issues : s.pieceEvent c i = s.issueRuns c i x := by
  have hgoes : ¬ (decide (x.pieces.findIdx? (· == .todo) ≠ some i) || s.copyHeld x) = true := by
    simp [hfirst, hheld]
  obtain hop | hop | hop | hop := hop <;>
    simp only [pieceEvent, hlook, hpending, htodo, if_neg hgoes, hside, hop, Bool.not_true, Bool.false_eq_true, if_false]

end

/-- A piece that reads no peer moves at once. -/
theorem issueRuns_moves {s s1 : State} {c i : Nat} {x : Copy} {src dst : List Spot}
    (hspots : s.pieceSpots x (x.runs.getD i []) = (.ok (src, dst), s1))
    (hreads : s1.pieceReads x src dst = []) : s.issueRuns c i x = s1.movePiece c i x (x.runs.getD i []) src dst [] := by
  simp only [issueRuns, hspots, hreads, List.isEmpty_nil, if_true]

theorem issueRuns_faults {s s1 : State} {c i : Nat} {x : Copy} {f : PieceFault}
    (hspots : s.pieceSpots x (x.runs.getD i []) = (.error f, s1)) :
    s.issueRuns c i x = s1.pieceFault c i f.e f.flags f.va := by
  simp only [issueRuns, hspots]

/-- A fault 0x01 that waits for no peer's bytes marks its piece missing, and no other (R341). -/
theorem pieceFault_unmapped {e : Trouble} (hcode : e.code = 1) (hask : e.ask = none) (s : State) (c i flags va : Nat) :
    s.pieceFault c i e flags va =
      (((s.dropWalks c i).copyRecord c e flags va).modCopy c fun x => { x with pieces := x.pieces.set i .missing }).nextPiece c := by
  simp [pieceFault, hask, hcode]

end State

theorem exec_copyPieceComplete (c i : Nat) (s : State) : Machine.exec (.copyPieceComplete c i) s = .next (s.pieceEvent c i) := rfl

/-- Settles O31: each clause is the lemma above about the issue, the replay or the piece. -/
theorem copyCommands : Obligations.CopyCommands := by
  unfold Obligations.CopyCommands
  refine ⟨fun op i j h => ⟨fun x s1 => ?issues, ?faulted, fun f => ?pending, fun f => ?pendingWide⟩,
    fun s x => ⟨s.look_startCopy x, s.sameMemory_startCopy x⟩, fun t lit => ?tdset, fun c x => ?reissues, fun c x => ?abandons,
    fun s c i x src dst s1 hlook hpending hfirst htodo hheld hside hop hspots hreads => ?moves,
    fun s c i x hlook => State.pieceDone_eq hlook,
    fun s c i x e flags va s1 hlook hpending hfirst htodo hheld hside hop hspots hcode hask => ?missing⟩
  case issues =>
    obtain ⟨he, he'⟩ := exec_copyCommand h
    exact completesBoth_of he he'
      (fun _ _ ⟨_, hfaulted, hpending, hload, hfree, _⟩ => copyReady_room hfaulted hpending hload fun hop => (hfree hop).1)
      fun _ _ _ ⟨hpair, hfaulted, _, _, hfree, hplain, hcheck, htile, hplain'⟩ =>
        ⟨laneCopy_issues hfaulted hpair hcheck (fun hop => (hfree hop).2) hplain htile hplain', rfl⟩
  case faulted =>
    obtain ⟨he, he'⟩ := exec_copyCommand h
    exact faultsBoth_of he he' (fun _ _ ⟨_, hfaulted⟩ => copyReady_faulted hfaulted)
      fun _ _ _ ⟨hpair, hfaulted⟩ => congrArg Prod.snd (laneCopy_faulted hfaulted hpair)
  case pending => exact stalls_of ((exec_copyCommand h).1 f) fun _ _ _ _ hpending => copyReady_pending hpending
  case pendingWide => exact stalls_of ((exec_copyCommand h).2 f) fun _ _ _ _ hpending => copyReady_pending hpending
  case tdset =>
    exact completesBoth_of (fn := fun _ => laneTdset) (fun _ _ => rfl) (fun _ _ => rfl) (fun _ _ _ => rfl)
      fun _ _ s ⟨hpair, hb, hwho⟩ => ⟨laneTdset_lane hpair hb hwho s, rfl⟩
  case reissues =>
    exact completesBoth_of exec_replay exec_replayW2
      (fun _ s ⟨_, hload, _⟩ => congrArg (Prod.mk s) (by simp only [hload, decide_true, Bool.or_true]))
      fun _ _ _ ⟨hmode, _, hfaulted, hfound⟩ => ⟨laneReplay_reissues hfaulted hfound hmode, rfl⟩
  case abandons =>
    exact completesBoth_of exec_replay exec_replayW2
      (fun _ s ⟨hmode, _⟩ => congrArg (Prod.mk s) (by simp only [hmode, Bool.true_or]))
      fun _ _ _ ⟨hmode, hfaulted, hlook, hop, hfound⟩ => ⟨laneReplay_abandons hfaulted hfound hmode hlook hop, rfl⟩
  case moves =>
    rw [exec_copyPieceComplete, State.pieceEvent_issues hlook hpending hfirst htodo hheld hside hop, State.issueRuns_moves hspots hreads]
  case missing =>
    rw [exec_copyPieceComplete, State.pieceEvent_issues hlook hpending hfirst htodo hheld hside hop, State.issueRuns_faults hspots,
      State.pieceFault_unmapped hcode hask]

end Sys2Proof.Machine
end

section
/-! Matrix passes (R366, R372 to R376, R387 to R395): the posting of a pass and the records that it changes, the grant with the
effect, the completion, and a chunk of an .i8 cell. -/

namespace Sys2Proof.Machine

/-! The posting (R372, R387) -/

/-- The pass that an instruction names, with the sequencer's active record and epilogue. -/
def passNamed (op : Nat) (v : SeqEnv) (s : State) : Pass :=
  { team := v.t, op := op, m := v.f.m, a := v.a, b := v.b, c := v.c, plane := (s.seqOf v.t).active, epi := (s.seqOf v.t).epi,
    epiScale := (s.seqOf v.t).epiScale, epiBias := (s.seqOf v.t).epiBias, draw := (s.seqOf v.t).draw, va := 0, pages := [],
    posted := s.cycle, prio := (s.launchOf v.t).prio }

section
variable {op : Nat} {v : SeqEnv} {s s1 : State}

theorem postPass_refused {y : Why}
    (hcheck : (passNamed op v s).check (s.launchOf v.t).desc.scratch ((s.launchOf v.t).desc.accum * 65536) = some y) :
    postPass op v s = (s, .fault y) := by
  unfold passNamed at hcheck
  simp only [postPass, hcheck]

section
variable {pages : List (Target × Option (Space × Nat))}
  (hcheck : (passNamed op v s).check (s.launchOf v.t).desc.scratch ((s.launchOf v.t).desc.accum * 65536) = none)
  (hpages : s.passPages v.t (passNamed op v s) = (.ok pages, s1)) (hplain : s1.stages (.seq v.t) = false)
include hcheck hpages hplain

theorem postPass_posts (hroom : s1.tableFull v.t = false) :
    postPass op v s =
      ((s1.dropAnswers (.seq v.t)).insertPass v.t { passNamed op v s with va := (passNamed op v s).globalVa, pages := pages }, .done) := by
  unfold passNamed at hcheck hpages ⊢
  simp only [postPass, hcheck, hpages, hplain, hroom, Bool.false_and, Bool.false_eq_true, if_false]

theorem postPass_waits (hfull : s1.tableFull v.t = true) :
    postPass op v s = (s1.modSeq v.t fun q => { q with st := .posting }, .wait) := by
  unfold passNamed at hcheck hpages
  simp only [postPass, hcheck, hpages, hplain, hfull, Bool.false_and, Bool.false_eq_true, if_false, if_true]

end

end

/-- The pass instructions by their number. -/
theorem exec_pass {op : Nat} {i : F1 → Instr} {j : F2 → Instr}
    (h : (op = 0 ∧ i = .mload ∧ j = .mloadW2) ∨ (op = 1 ∧ i = .mswap ∧ j = .mswapW2) ∨ (op = 2 ∧ i = .mstream ∧ j = .mstreamW2) ∨
      (op = 3 ∧ i = .mvstream ∧ j = .mvstreamW2) ∨ (op = 4 ∧ i = .mdist ∧ j = .mdistW2) ∨ (op = 5 ∧ i = .mtopk ∧ j = .mtopkW2) ∨
      (op = 7 ∧ i = .mdrain ∧ j = .mdrainW2) ∨ (op = 8 ∧ i = .mclear ∧ j = .mclearW2)) :
    (∀ f s, Machine.exec (i f) s = runSeq (issueOp (i f)) s (postPass op)) ∧
      ∀ f s, Machine.exec (j f) s = runSeq (issueOp (j f)) s (postPass op) := by
  obtain ⟨rfl, rfl, rfl⟩ | ⟨rfl, rfl, rfl⟩ | ⟨rfl, rfl, rfl⟩ | ⟨rfl, rfl, rfl⟩ | ⟨rfl, rfl, rfl⟩ | ⟨rfl, rfl, rfl⟩ | ⟨rfl, rfl, rfl⟩ |
    ⟨rfl, rfl, rfl⟩ := h <;>
  exact ⟨fun _ _ => rfl, fun _ _ => rfl⟩

/-- MEPI sets the epilogue (R393). -/
theorem seqMepi_sets {v : SeqEnv} (he : epiOk (BitVec.ofNat 64 v.a) = true) (hb : v.b % 4 = 0) (hc : v.c % 4 = 0) (s : State) :
    seqMepi v s = (s.modSeq v.t fun q => { q with epi := BitVec.ofNat 64 v.a, epiScale := v.b, epiBias := v.c }, .done) := by
  simp only [seqMepi, he, hb, hc, ne_eq, not_true_eq_false, Bool.not_true, Bool.false_eq_true, if_false]

namespace State

/-- A due grant changes only what is due. -/
theorem grantNext_due (s : State) (q : Nat) : ∃ d, s.grantNext q = { s with due := d } := by
  unfold grantNext
  dsimp only
  split
  · exact ⟨s.due, rfl⟩
  · exact pushOnce_due s _

theorem seqOf_modSeq {s : State} {t : Nat} {q : Seq} (h : (s.team t).seq = some q) (f : Seq → Seq) : (s.modSeq t f).seqOf t = f q := by
  simp only [seqOf, modSeq_eq, modTeam_eq, team_setTeam, h, Option.map_some, Option.getD_some]

/-- What a posted pass does to the records of its sequencer (R366, R389). -/
def postedSeq (s : State) (p : Pass) (q : Seq) : Seq :=
  let q := { q with draw := p.drawAfter }
  if p.op = opMload then { q with shadow := some { p.loaded with load := s.nextPass + 1 } }
  else if p.op = opMswap then { q with active := q.shadow, shadow := q.active }
  else q

/-- A posted pass stands in the table, and its sequencer has the records that it leaves. -/
theorem insertPass_due (s : State) (t : Nat) (p : Pass) : ∃ d, s.insertPass t p =
    { s.modSeq t (s.postedSeq p) with passes := s.passes.insert s.nextPass p, nextPass := s.nextPass + 1, due := d } := by
  obtain ⟨d, hd⟩ := grantNext_due
    { s.modSeq t (s.postedSeq p) with passes := s.passes.insert s.nextPass p, nextPass := s.nextPass + 1 }
    (coreQuad ((s.modSeq t (s.postedSeq p)).team t).core)
  exact ⟨d, hd⟩

theorem look_insertPass (s : State) (t : Nat) (p : Pass) : (s.insertPass t p).passes.look s.nextPass = some p := by
  obtain ⟨d, hd⟩ := s.insertPass_due t p
  rw [hd]
  exact SMap.look_insert_self _ _ _

theorem seqOf_insertPass {s : State} {t : Nat} {q : Seq} (h : (s.team t).seq = some q) (p : Pass) :
    (s.insertPass t p).seqOf t = s.postedSeq p q := by
  obtain ⟨d, hd⟩ := s.insertPass_due t p
  rw [hd]
  exact seqOf_modSeq h _

theorem active_postedSeq (s : State) (p : Pass) (q : Seq) : (s.postedSeq p q).active = if p.op = 1 then q.shadow else q.active := by
  by_cases hload : p.op = 0
  · simp [postedSeq, opMload, hload]
  · by_cases hswap : p.op = 1 <;> simp [postedSeq, opMload, opMswap, hload, hswap]

theorem shadow_postedSeq (s : State) (p : Pass) (q : Seq) : (s.postedSeq p q).shadow =
    if p.op = 0 then some { p.loaded with load := s.nextPass + 1 } else if p.op = 1 then q.active else q.shadow := by
  by_cases hload : p.op = 0
  · simp [postedSeq, opMload, hload]
  · by_cases hswap : p.op = 1 <;> simp [postedSeq, opMload, opMswap, hload, hswap]

/-! The grant and its effect (R374, R376) -/

/-- The chosen pass is granted, and counts (R374, R491). -/
def passGranted (s : State) (i : Nat) (p : Pass) : State :=
  ({ s with passes := s.passes.insert i { p with granted := true } } : State).meterPass p

section
variable {s : State} {q i : Nat} {p : Pass} (hidle : ∀ e ∈ s.quadPasses q, e.2.granted = false)
include hidle

theorem quadPasses_idle : (s.quadPasses q).any (fun (_, p) => p.granted) = false :=
  List.any_eq_false.mpr fun e he => by simp [hidle e he]

theorem completePass_idle : s.completePass q = s := by
  have hnone : (s.quadPasses q).find? (fun (_, p) => p.granted) = none :=
    List.find?_eq_none.mpr fun e he => by simp [hidle e he]
  simp only [completePass, hnone]

variable (hchoice : s.arbiter q = some (i, p))
include hchoice

theorem grantPass_choice : s.grantPass q =
    if (passReads p).isEmpty then
      ((if p.op = opMload then (s.passGranted i p).markLoad p.team i else s.passGranted i p).runPass p []).pushOnce (.passComplete q)
    else (s.passGranted i p).askPass i p := by
  have hany : ¬ (s.quadPasses q).any (fun (_, p) => p.granted) = true := by
    rw [quadPasses_idle hidle]
    exact Bool.false_ne_true
  unfold grantPass
  rw [if_neg hany, hchoice]
  rfl

/-- A pass that reads no peer has its effect at the grant. -/
theorem grantPass_runs (hreads : passReads p = []) : s.grantPass q =
    ((if p.op = opMload then (s.passGranted i p).markLoad p.team i else s.passGranted i p).runPass p []).pushOnce (.passComplete q) :=
  (grantPass_choice hidle hchoice).trans (if_pos (List.isEmpty_iff.mpr hreads))

/-- Another one asks for its operand first. -/
theorem grantPass_asks (hreads : passReads p ≠ []) : s.grantPass q = (s.passGranted i p).askPass i p :=
  (grantPass_choice hidle hchoice).trans (if_neg fun he => hreads (List.isEmpty_iff.mp he))

end

/-! MCLEAR zeroes its cells (R395) -/

section
variable {p : Pass} (hop : p.op = 8)
include hop

theorem runPass_clears (s : State) (rs : List Req) : s.runPass p rs = s.write (.acc p.team) p.a (zeros (4 * p.b)) := by
  simp only [runPass, hop, opMload, opMswap, opMtopk, opMdrain, opMclear]
  rfl

theorem byte_runPass_clear_out {k : Nat} (h : k < p.a ∨ p.a + 4 * p.b ≤ k) (s : State) (rs : List Req) :
    (s.runPass p rs).byte (.acc p.team) k = s.byte (.acc p.team) k := by
  rw [runPass_clears hop]
  exact byte_write_out s _ _ _ k _ (.inr (by simpa [zeros] using h))

theorem byte_runPass_clear_in {k : Nat} (hlo : p.a ≤ k) (hhi : k < p.a + 4 * p.b) (s : State) (rs : List Req) :
    (s.runPass p rs).byte (.acc p.team) k = 0 := by
  have hlen : k - p.a < (zeros (4 * p.b)).length := by simp [zeros]; omega
  rw [runPass_clears hop, ← Nat.add_sub_cancel' hlo, byte_write_in s _ _ _ _ hlen]
  simp [zeros]

end

/-! The completion (R374, R375) -/

section
variable {s : State} {q i : Nat} {p : Pass} (hgranted : (s.quadPasses q).find? (fun e => e.2.granted) = some (i, p))
  (hlive : (s.team p.team).st ≠ .gone)
include hgranted hlive

/-- While an answer is missing, a granted pass does not complete. -/
theorem completePass_waits {r : Req} (hr : r ∈ s.passReqs i) (hst : r.st = .waiting) : s.completePass q = s := by
  have hwaits : ((s.team p.team).st != .gone && (s.passReqs i).any (·.st == .waiting)) = true := by
    have hany : (s.passReqs i).any (·.st == .waiting) = true := List.any_eq_true.mpr ⟨r, hr, by simp [hst]⟩
    simp [hlive, hany]
  unfold completePass
  rw [hgranted]
  exact if_pos hwaits

/-- A pass that was carried out at its grant frees its entry. -/
theorem completePass_frees (hreads : passReads p = []) (hdone : ∀ r ∈ s.passReqs i, r.st ≠ .waiting) : s.completePass q =
    ((((({ s with passes := s.passes.erase i, reqs := s.reqs.filter fun r => r.pass != some i } : State).releaseHeld p.team i).trimPast
      p.team).wakePosters q).grantNext q).wakeGangs := by
  have hlive' : ((s.team p.team).st != .gone) = true := by simp [hlive]
  have hanswered : ((s.passReqs i).any (·.st == .waiting)) = false := List.any_eq_false.mpr fun r hr => by simp [hdone r hr]
  unfold completePass
  rw [hgranted]
  simp only [hlive', hanswered, hreads, List.isEmpty_nil, Bool.true_and, Bool.not_true, Bool.false_eq_true, if_false, if_true]

end

end State

/-! A chunk of a cell (R98) -/

/-- A chunk of an .i8 cell is the exact sum, saturated. -/
theorem accChunk_int {a w : Run} (h : a.f = 3) (K acc k0 : Nat) : accChunk false a w K acc k0 =
    satInt 32 false (sext 32 acc + ((List.range (min 16 (K - k0))).map fun k => a.int (k0 + k) * w.int (k0 + k)).sum) := by
  simp only [accChunk, if_pos h, Bool.false_eq_true, if_false, List.sum_eq_foldl, List.foldl_map]

/-! The operations -/

theorem exec_passGrant (q : Nat) (s : State) : Machine.exec (.passGrant q) s = .next (s.grantPass q) := rfl
theorem exec_passComplete (q : Nat) (s : State) : Machine.exec (.passComplete q) s = .next (s.completePass q) := rfl

theorem exec_entryAge {s : State} {q e : Nat} {p : Pass}
    (h : (s.quadPasses q).find? (fun (i, p) => i == e && !p.granted && decide (p.posted + 65536 ≤ s.cycle)) = some (e, p)) :
    Machine.exec (.entryAge q e) s = .next { s with passes := s.passes.insert e { p with prio := 0 } } := by
  change execEntryAge q e s = _
  simp only [execEntryAge, h]

/-- Settles O33: each clause is the lemma above about the posting, the grant, the completion or the chunk. -/
theorem matrixPasses : Obligations.MatrixPasses := by
  unfold Obligations.MatrixPasses
  refine ⟨fun op i j h => ⟨fun pages s1 => ?posts, fun f pages s1 => ?waits, fun f y => ?refused⟩, State.look_insertPass,
    fun s t p q hseq => ⟨?active, ?shadow⟩, ?mepi, fun s q i p hidle hchoice hreads => ?granted,
    fun s q i p hidle hchoice hreads => ?asks,
    fun s p rs k hop => ⟨fun hout => State.byte_runPass_clear_out hop hout s rs,
      fun hlo hhi => State.byte_runPass_clear_in hop hlo hhi s rs⟩,
    fun s q hidle => ?idle, fun s q i p hgranted hlive hreads hdone => ?frees, fun s q i p r hgranted hlive hr hst => ?unanswered,
    fun s q e p h => exec_entryAge h, fun a w K acc k0 h => accChunk_int h K acc k0⟩
  case posts =>
    obtain ⟨he, he'⟩ := exec_pass h
    exact seqCompletesBoth_of he he' fun _ _ ⟨hcheck, hpages, hplain, hroom⟩ => ⟨postPass_posts hcheck hpages hplain hroom, rfl⟩
  case waits =>
    exact seqWaits_of (fun s _ _ => (exec_pass h).2 f s) fun _ _ _ _ ⟨hcheck, hpages, hplain, hfull⟩ =>
      postPass_waits hcheck hpages hplain hfull
  case refused =>
    exact seqFaults_of (fun s _ _ => (exec_pass h).2 f s) fun _ _ _ _ hcheck => congrArg Prod.snd (postPass_refused hcheck)
  case active => rw [State.seqOf_insertPass hseq, State.active_postedSeq]
  case shadow =>
    rw [State.seqOf_insertPass hseq, State.shadow_postedSeq]
    rfl
  case mepi =>
    exact seqCompletesBoth_of (fn := seqMepi) (fun _ _ => rfl) (fun _ _ => rfl) fun _ s ⟨he, hb, hc⟩ => ⟨seqMepi_sets he hb hc s, rfl⟩
  case granted =>
    rw [exec_passGrant, State.grantPass_runs hidle hchoice hreads]
    rfl
  case asks =>
    rw [exec_passGrant, State.grantPass_asks hidle hchoice hreads]
    rfl
  case idle => rw [exec_passComplete, State.completePass_idle hidle]
  case frees => rw [exec_passComplete, State.completePass_frees hgranted hlive hreads hdone]
  case unanswered => rw [exec_passComplete, State.completePass_waits hgranted hlive hr hst]

end Sys2Proof.Machine
end
